-- ==== Sys2Proof/Word.lean ====
section
/-! DEFINITION. The machine word and byte of the part (00 R4, R6). -/
namespace Sys2Proof

/-- A 64-bit register value. -/
abbrev Word := BitVec 64

/-- One byte of memory. -/
abbrev Byte := BitVec 8

/-- A canonical instruction word, [63:0] (02 R31). -/
abbrev Code := BitVec 64

/-- One 128-bit record: an event, a queue token, a message. -/
abbrev Wide := BitVec 128

end Sys2Proof
end

