-- ==== Sys2Proof/Syntax.lean ====
section
/-! DEFINITION. The syntax of the part: operand types and Instr, the one inductive of its steps. A constructor is one row of spec/opcode_table.json: a sequencer or display instruction, an element action, a policy instruction, or an event of one of the other agents (95_what_each_step_holds.md). -/
namespace Sys2Proof

/-- A register specifier of the sequencer map, x0 to x31 (02 R45). -/
abbrev Reg := Fin 32
/-- A predicate specifier, p0 to p7 (02 R45). -/
abbrev Pred := Fin 8
/-- A register of a policy program, v0 to v7 (10 R229, R234). -/
abbrev PReg := Fin 8

/-- How imm32 becomes an operand (02 R40). -/
inductive Ti | s | z | w2 | h4 | b8
  deriving DecidableEq, Repr, Inhabited

/-- The conditions of BR, CMP and CMPI (02 R43, 04 R74). -/
inductive Cond | eq | ne | lt | ge | ltu | geu
  deriving DecidableEq, Repr, Inhabited

/-- Access sizes (02 R41). -/
inductive Sz | b | h | w | d | bu | hu | wu
  deriving DecidableEq, Repr, Inhabited

/-- Scopes (02 R41). -/
inductive Scope | el | co | ga | cl | di | pk | sy | pe
  deriving DecidableEq, Repr, Inhabited

/-- Orders of an access (02 R41). -/
inductive Ord | rlx | acq | rel | ar
  deriving DecidableEq, Repr, Inhabited

/-- Type codes of the T field (02 R38). -/
inductive Ty | i8 | u8 | i16 | u16 | i32 | u32 | i64 | u64 | f16 | bf16 | f32 | f64 | e4m3 | e5m2 | e2m1
  deriving DecidableEq, Repr, Inhabited

/-- Rounding modes of the RM field (02 R39). -/
inductive Rm | rne | rtz | rdn | rup | rna | sr | dyn
  deriving DecidableEq, Repr, Inhabited

/-- A source of the element map (02 R46). -/
inductive ESrc
  | d (n : Fin 8)
  | i (n : Fin 4)
  | zero | coord | plyn | tag0
  deriving DecidableEq, Repr, Inhabited

/-- A destination of the element map (02 R46). -/
inductive EDst
  | d (n : Fin 8)
  | null
  deriving DecidableEq, Repr, Inhabited

/-- Matrix operand types (08 R186). -/
inductive MTy | bf16 | f16 | e4m3 | e5m2 | e2m1 | i8 | i4
  deriving DecidableEq, Repr, Inhabited

/-- Destination types of MX.DRAIN (08 R199). -/
inductive DrainTy | bf16 | f16 | e4m3 | e5m2 | e2m1 | i8 | raw
  deriving DecidableEq, Repr, Inhabited

/-- Blend modes of TS.BLEND (12 R287). -/
inductive BlendMode | rep | srcOver | add
  deriving DecidableEq, Repr, Inhabited

/-- The fields of MM, MMZ and MMR beyond their registers (08 R188). -/
structure MmOpts where
  apx : Bool
  pres : Bool
  gang : Bool
  s : Fin 2
  bank : Fin 2
  at_ : MTy
  deriving DecidableEq, Repr, Inhabited

/-- The condition of STEER: a predicate, or bit 0 of a register (07 R171). -/
inductive SteerSel
  | pred (p : Pred)
  | reg (b : ESrc)
  deriving DecidableEq, Repr, Inhabited

/-- The fields of STEER beyond D and A (07 R171). -/
structure SteerOpts where
  sel : SteerSel
  dmask : BitVec 4
  tmask : BitVec 4
  fmask : BitVec 4
  deriving DecidableEq, Repr, Inhabited

/-- Bits [24:0] of an engine command but PUB (17 R324). -/
structure EngOpts where
  ord : Ord
  sc : Scope
  sh : Bool
  ev : Bool
  ct : Bool
  cf : BitVec 3
  tag : BitVec 14
  deriving DecidableEq, Repr, Inhabited

/-- Bits [24:0] of a PUB but OPF (17 R324). -/
structure PubOpts where
  w : Fin 4
  sc : Scope
  ev : Bool
  ct : Bool
  tag : BitVec 14
  deriving DecidableEq, Repr, Inhabited

/-- What an access is made for (11 R253). -/
inductive Acc | read | write | fetch | amo
  deriving DecidableEq, Repr, Inhabited

/-- The cause codes of 21 R373. `none` is code 0x00, never raised; in REGION_DONE it marks an abort (R124). -/
inductive Cause
  | none | breakpoint | softwareTrap | external | illegalOpcode | reservedField
  | dictUndefined | dictShortFill | illegalParcel | wrongExecutor | dictMismatch | dictFormat
  | pageFaultRead | pageFaultWrite | permission | localBounds | misaligned | bufferBounds
  | bufferAccess | tableFormat | chunkReserveEmpty | memUncorrectable | cfgFormat | plyState
  | regionState | queueUnreserved | unboundOverflow | streamError | loaderLost | streamState
  | streamFormat | engineFormat | engineState | collMismatch | rayParkFull | budgetExhausted
  | policyIllegal | policyState | matrixMismatch | matrixFormat | approxBound | matrixBounds
  | matrixState | amplifyOverflow | tileSeq | tileParkFull | displayFormat | displayState
  | doubleTrap | restoreFormat | linkDown | hostLinkDown | ideIntegrity
  deriving DecidableEq, Repr, Inhabited

/-- The code of a cause (21 R373). -/
def Cause.code : Cause → Nat
  | .none => 0x00
  | .breakpoint => 0x01
  | .softwareTrap => 0x02
  | .external => 0x03
  | .illegalOpcode => 0x04
  | .reservedField => 0x05
  | .dictUndefined => 0x06
  | .dictShortFill => 0x07
  | .illegalParcel => 0x08
  | .wrongExecutor => 0x09
  | .dictMismatch => 0x0a
  | .dictFormat => 0x0b
  | .pageFaultRead => 0x20
  | .pageFaultWrite => 0x21
  | .permission => 0x22
  | .localBounds => 0x23
  | .misaligned => 0x24
  | .bufferBounds => 0x25
  | .bufferAccess => 0x26
  | .tableFormat => 0x27
  | .chunkReserveEmpty => 0x28
  | .memUncorrectable => 0x2f
  | .cfgFormat => 0x30
  | .plyState => 0x31
  | .regionState => 0x32
  | .queueUnreserved => 0x33
  | .unboundOverflow => 0x34
  | .streamError => 0x35
  | .loaderLost => 0x36
  | .streamState => 0x37
  | .streamFormat => 0x38
  | .engineFormat => 0x39
  | .engineState => 0x3a
  | .collMismatch => 0x3b
  | .rayParkFull => 0x3c
  | .budgetExhausted => 0x40
  | .policyIllegal => 0x41
  | .policyState => 0x42
  | .matrixMismatch => 0x50
  | .matrixFormat => 0x51
  | .approxBound => 0x52
  | .matrixBounds => 0x53
  | .matrixState => 0x54
  | .amplifyOverflow => 0x60
  | .tileSeq => 0x61
  | .tileParkFull => 0x62
  | .displayFormat => 0x63
  | .displayState => 0x64
  | .doubleTrap => 0x70
  | .restoreFormat => 0x71
  | .linkDown => 0x72
  | .hostLinkDown => 0x73
  | .ideIntegrity => 0x74

/-- The steps of the part, one constructor for each row of the opcode table. -/
inductive Instr
  -- Element integer actions (R158 to R161).
  | vadd (d : EDst) (a b : ESrc) (t : Ty)
  | vsub (d : EDst) (a b : ESrc) (t : Ty)
  | vadds (d : EDst) (a b : ESrc) (t : Ty)
  | vsubs (d : EDst) (a b : ESrc) (t : Ty)
  | vmul (d : EDst) (a b : ESrc) (t : Ty)
  | vmulh (d : EDst) (a b : ESrc) (t : Ty)
  | vmad (d : EDst) (a b c : ESrc) (t : Ty)
  | vabs (d : EDst) (a : ESrc) (t : Ty)
  | vneg (d : EDst) (a : ESrc) (t : Ty)
  | vmin (d : EDst) (a b : ESrc) (t : Ty)
  | vmax (d : EDst) (a b : ESrc) (t : Ty)
  | vand (d : EDst) (a b : ESrc)
  | vor (d : EDst) (a b : ESrc)
  | vxor (d : EDst) (a b : ESrc)
  | vandn (d : EDst) (a b : ESrc)
  | vnot (d : EDst) (a : ESrc)
  | vshl (d : EDst) (a b : ESrc) (t : Ty)
  | vshr (d : EDst) (a b : ESrc) (t : Ty)
  | vsra (d : EDst) (a b : ESrc) (t : Ty)
  | vpopc (d : EDst) (a : ESrc) (t : Ty)
  | vclz (d : EDst) (a : ESrc) (t : Ty)
  | vcmpEq (d : EDst) (a b : ESrc) (t : Ty) (p : Pred)
  | vcmpNe (d : EDst) (a b : ESrc) (t : Ty) (p : Pred)
  | vcmpLt (d : EDst) (a b : ESrc) (t : Ty) (p : Pred)
  | vcmpLe (d : EDst) (a b : ESrc) (t : Ty) (p : Pred)
  | vcmpGt (d : EDst) (a b : ESrc) (t : Ty) (p : Pred)
  | vcmpGe (d : EDst) (a b : ESrc) (t : Ty) (p : Pred)
  | vsel (d : EDst) (a b c : ESrc)
  | vperm (d : EDst) (a b c : ESrc)
  | vpack (d : EDst) (a b : ESrc) (t : Ty)
  | vunpk (d : EDst) (a : ESrc) (t : Ty)
  -- Element floating-point actions (R162 to R168).
  | fadd (d : EDst) (a b : ESrc) (t : Ty) (rm : Rm)
  | fsub (d : EDst) (a b : ESrc) (t : Ty) (rm : Rm)
  | fmul (d : EDst) (a b : ESrc) (t : Ty) (rm : Rm)
  | ffma (d : EDst) (a b c : ESrc) (t : Ty) (rm : Rm)
  | fmin (d : EDst) (a b : ESrc) (t : Ty)
  | fmax (d : EDst) (a b : ESrc) (t : Ty)
  | fabs (d : EDst) (a : ESrc) (t : Ty)
  | fneg (d : EDst) (a : ESrc) (t : Ty)
  | fcmpEq (d : EDst) (a b : ESrc) (t : Ty) (p : Pred)
  | fcmpNe (d : EDst) (a b : ESrc) (t : Ty) (p : Pred)
  | fcmpLt (d : EDst) (a b : ESrc) (t : Ty) (p : Pred)
  | fcmpLe (d : EDst) (a b : ESrc) (t : Ty) (p : Pred)
  | fcmpGt (d : EDst) (a b : ESrc) (t : Ty) (p : Pred)
  | fcmpGe (d : EDst) (a b : ESrc) (t : Ty) (p : Pred)
  | fcmpUn (d : EDst) (a b : ESrc) (t : Ty) (p : Pred)
  | fclass (d : EDst) (a : ESrc) (t : Ty)
  | fdiv (d : EDst) (a b : ESrc) (t : Ty) (rm : Rm)
  | fsqrt (d : EDst) (a : ESrc) (t : Ty) (rm : Rm)
  | frcp (d : EDst) (a : ESrc) (t : Ty) (rm : Rm)
  | frsq (d : EDst) (a : ESrc) (t : Ty) (rm : Rm)
  | fexp2 (d : EDst) (a : ESrc) (t : Ty) (rm : Rm)
  | flog2 (d : EDst) (a : ESrc) (t : Ty) (rm : Rm)
  | cvt (d : EDst) (a : ESrc) (ts td : Ty) (off : BitVec 4) (rm : Rm)
  | crsub (d : EDst) (a b : ESrc) (lane : Bool) (rm : Rm)
  | dot (d : EDst) (a b c : ESrc) (t : Ty) (rm : Rm)
  -- Element dataflow actions (R169 to R182).
  | mov (d : EDst) (a : ESrc)
  | const (d : EDst) (ti : Ti) (imm : BitVec 32)
  | tagi (d : EDst) (a : ESrc) (add : Bool) (n : BitVec 4)
  | steer (d : EDst) (a : ESrc) (o : SteerOpts)
  | merge (d : EDst) (di ti fi : Fin 4)
  | mergeu (d : EDst) (tagb taga : BitVec 4) (ai bi : Fin 4)
  | gate (d : EDst) (a : ESrc) (cmask : BitVec 4)
  | permit (d : EDst) (ci di : Fin 4)
  | eos (d : EDst) (a : ESrc) (xv : Bool)
  | sink (d : EDst) (a : ESrc) (keep : Bool) (n : BitVec 8)
  | mark (a : ESrc)
  | redMin (a : ESrc) (t : Ty) (ri : Fin 4) (g : Fin 8)
  | redMax (a : ESrc) (t : Ty) (ri : Fin 4) (g : Fin 8)
  | redSum (a : ESrc) (t : Ty) (ri : Fin 4) (g : Fin 8)
  | send (a b : ESrc)
  | rsv (d : EDst) (a : ESrc) (n : BitVec 5)
  | enq (d : EDst) (a b : ESrc)
  | amplify (d : EDst) (a : ESrc) (m : BitVec 9)
  -- Element memory requests and tile-store actions (R280 to R286).
  | ldq (d : EDst) (base index : ESrc) (sz : Sz) (sc : Scope) (ord : Ord) (off : BitVec 22)
  | stq (d : ESrc) (base index : ESrc) (sz : Sz) (sc : Scope) (ord : Ord) (off : BitVec 22)
  | amoqAdd (d : EDst) (base index : ESrc) (sz : Sz) (sc : Scope) (ord : Ord) (off : BitVec 22)
  | amoqAnd (d : EDst) (base index : ESrc) (sz : Sz) (sc : Scope) (ord : Ord) (off : BitVec 22)
  | amoqOr (d : EDst) (base index : ESrc) (sz : Sz) (sc : Scope) (ord : Ord) (off : BitVec 22)
  | amoqXor (d : EDst) (base index : ESrc) (sz : Sz) (sc : Scope) (ord : Ord) (off : BitVec 22)
  | amoqMin (d : EDst) (base index : ESrc) (sz : Sz) (sc : Scope) (ord : Ord) (off : BitVec 22)
  | amoqMax (d : EDst) (base index : ESrc) (sz : Sz) (sc : Scope) (ord : Ord) (off : BitVec 22)
  | amoqMinu (d : EDst) (base index : ESrc) (sz : Sz) (sc : Scope) (ord : Ord) (off : BitVec 22)
  | amoqMaxu (d : EDst) (base index : ESrc) (sz : Sz) (sc : Scope) (ord : Ord) (off : BitVec 22)
  | amoqSwap (d : EDst) (base index : ESrc) (sz : Sz) (sc : Scope) (ord : Ord) (off : BitVec 22)
  | xlate (d : EDst) (a b : ESrc) (wr : Bool)
  | occl (d : EDst) (a b : ESrc)
  | vbmin (d : EDst) (a b : ESrc)
  | tsLd (d : EDst) (a : ESrc) (off : BitVec 18)
  | tsSt (a b : ESrc) (off : BitVec 18)
  | tsBlend (a b : ESrc) (mode : BlendMode)
  | tsDone (a b : ESrc)
  -- Engine command tokens (R323).
  | cpy (a b c : ESrc) (o : EngOpts)
  | gath (a b c : ESrc) (o : EngOpts)
  | scat (a b c : ESrc) (o : EngOpts)
  | fillb (a b c : ESrc) (o : EngOpts)
  | coll (a b c : ESrc) (o : EngOpts)
  | pub (o : PubOpts)
  | pubDef (a b c : ESrc) (o : PubOpts)
  | pubDrop (o : PubOpts)
  | xfm (a b c : ESrc) (o : EngOpts)
  -- Policy bytecode (R234 to R236).
  | imm (d : PReg) (i : BitVec 8)
  | kld (d : PReg) (k : Fin 8)
  | env (d : PReg) (e : BitVec 5)
  | cand (d s : PReg) (f : BitVec 5)
  | subj (d : PReg) (f : BitVec 5)
  | copy (d s : PReg)
  | addiv (d : PReg) (i : BitVec 8)
  | addv (d s : PReg)
  | subv (d s : PReg)
  | andv (d s : PReg)
  | orv (d s : PReg)
  | minv (d s : PReg)
  | maxv (d s : PReg)
  | shlv (d s : PReg)
  | shrv (d s : PReg)
  | mall
  | mkeepEq (s : PReg) (f : BitVec 5)
  | mkeepNe (s : PReg) (f : BitVec 5)
  | mkeepLt (s : PReg) (f : BitVec 5)
  | mkeepGe (s : PReg) (f : BitVec 5)
  | mcnt (d : PReg)
  | scanMin (d : PReg) (f : BitVec 5)
  | scanMax (d : PReg) (f : BitVec 5)
  | jeq (a s : PReg) (o : BitVec 5)
  | jne (a s : PReg) (o : BitVec 5)
  | jlt (a s : PReg) (o : BitVec 5)
  | jge (a s : PReg) (o : BitVec 5)
  | jfw (o : BitVec 8)
  | pick (s : PReg)
  | idle
  | preempt (s : PReg)
  | keep
  | restart
  | kill
  | host
  | migrate (s : PReg)
  -- Matrix instructions (R188).
  | mxLdb (a : Reg) (s : Fin 2) (bt : MTy)
  | mxScale (a : Reg) (s : Fin 2) (aen ben : Bool)
  | mxThr (a : Reg)
  | mxSamp (a b : Reg)
  | mm (a b : Reg) (o : MmOpts)
  | mmz (a b : Reg) (o : MmOpts)
  | mmr (a b : Reg) (z : Bool) (o : MmOpts)
  | mxDrain (a b : Reg) (rm : Rm) (clr mark : Bool) (bank : Fin 2) (dt : DrainTy)
  | mxWait (n : BitVec 5)
  | mxGang (a : Reg)
  | mxGangLeave
  | mxEdge (a b : Reg) (sx sy : BitVec 8) (g : Fin 4) (ne : BitVec 7)
  -- Display instructions (R360).
  | dsBand (d a : Reg) (head : Fin 4)
  | dsFall (d a : Reg) (lv : Fin 4) (head : Fin 4)
  | dsLine (d : Reg) (head : Fin 4)
  | dsLineWait (d a : Reg) (head : Fin 4)
  | dsMe (a b : Reg) (head : Fin 4)
  | dsWarp (a b : Reg) (up : Bool) (head : Fin 4)
  | dsNet (a b : Reg) (head : Fin 4)
  | dsEmit (d a : Reg) (head : Fin 4)
  -- Sequencer integer and logic operations (R69 to R72).
  | add (d a b : Reg)
  | sub (d a b : Reg)
  | mul (d a b : Reg)
  | mulh (d a b : Reg)
  | mulhu (d a b : Reg)
  | div (d a b : Reg)
  | divu (d a b : Reg)
  | rem (d a b : Reg)
  | remu (d a b : Reg)
  | and (d a b : Reg)
  | or (d a b : Reg)
  | xor (d a b : Reg)
  | andn (d a b : Reg)
  | orn (d a b : Reg)
  | shl (d a b : Reg)
  | shr (d a b : Reg)
  | sra (d a b : Reg)
  | rol (d a b : Reg)
  | ror (d a b : Reg)
  | min (d a b : Reg)
  | max (d a b : Reg)
  | minu (d a b : Reg)
  | maxu (d a b : Reg)
  | clz (d a : Reg)
  | ctz (d a : Reg)
  | popc (d a : Reg)
  | brev (d a : Reg)
  | sel (d : Reg) (c : Pred) (a b : Reg)
  | bfx (d a : Reg) (pos : BitVec 6) (len : BitVec 7)
  | bfxu (d a : Reg) (pos : BitVec 6) (len : BitVec 7)
  | bfi (d a : Reg) (pos : BitVec 6) (len : BitVec 7)
  | addi (d a : Reg) (ti : Ti) (imm : BitVec 32)
  | andi (d a : Reg) (ti : Ti) (imm : BitVec 32)
  | ori (d a : Reg) (ti : Ti) (imm : BitVec 32)
  | xori (d a : Reg) (ti : Ti) (imm : BitVec 32)
  | shli (d a : Reg) (sh : BitVec 6)
  | shri (d a : Reg) (sh : BitVec 6)
  | srai (d a : Reg) (sh : BitVec 6)
  | movi (d : Reg) (ti : Ti) (imm : BitVec 32)
  | movhi (d : Reg) (imm : BitVec 32)
  -- Compares and predicates (R74, R75).
  | cmpEq (d : Pred) (a b : Reg) (c : Pred)
  | cmpNe (d : Pred) (a b : Reg) (c : Pred)
  | cmpLt (d : Pred) (a b : Reg) (c : Pred)
  | cmpGe (d : Pred) (a b : Reg) (c : Pred)
  | cmpLtu (d : Pred) (a b : Reg) (c : Pred)
  | cmpGeu (d : Pred) (a b : Reg) (c : Pred)
  | cmpiEq (d : Pred) (a : Reg) (ti : Ti) (imm : BitVec 32)
  | cmpiNe (d : Pred) (a : Reg) (ti : Ti) (imm : BitVec 32)
  | cmpiLt (d : Pred) (a : Reg) (ti : Ti) (imm : BitVec 32)
  | cmpiGe (d : Pred) (a : Reg) (ti : Ti) (imm : BitVec 32)
  | cmpiLtu (d : Pred) (a : Reg) (ti : Ti) (imm : BitVec 32)
  | cmpiGeu (d : Pred) (a : Reg) (ti : Ti) (imm : BitVec 32)
  | pset (d : Pred) (a : Reg)
  | pand (d a b : Pred)
  | por (d a b : Pred)
  | pxor (d a b : Pred)
  | pnot (d a : Pred)
  -- Control flow (R76).
  | br (cc : Cond) (a b : Reg) (off : BitVec 32)
  | jmp (off : BitVec 32)
  | jal (a : Reg) (off : BitVec 32)
  | jalr (d a : Reg) (imm : BitVec 32)
  | loop (a : Reg) (off : BitVec 32)
  -- Loads, stores, atomics, SPILL, FILL and fences (R78 to R85).
  | ld (d base index : Reg) (sz : Sz) (sc : Scope) (ord : Ord) (off : BitVec 22)
  | ldLoc (d base index : Reg) (sz : Sz) (off : BitVec 22)
  | st (d base index : Reg) (sz : Sz) (sc : Scope) (ord : Ord) (off : BitVec 22)
  | stLoc (d base index : Reg) (sz : Sz) (off : BitVec 22)
  | amoAdd (d base index : Reg) (sz : Sz) (sc : Scope) (ord : Ord) (off : BitVec 22)
  | amoAnd (d base index : Reg) (sz : Sz) (sc : Scope) (ord : Ord) (off : BitVec 22)
  | amoOr (d base index : Reg) (sz : Sz) (sc : Scope) (ord : Ord) (off : BitVec 22)
  | amoXor (d base index : Reg) (sz : Sz) (sc : Scope) (ord : Ord) (off : BitVec 22)
  | amoMin (d base index : Reg) (sz : Sz) (sc : Scope) (ord : Ord) (off : BitVec 22)
  | amoMax (d base index : Reg) (sz : Sz) (sc : Scope) (ord : Ord) (off : BitVec 22)
  | amoMinu (d base index : Reg) (sz : Sz) (sc : Scope) (ord : Ord) (off : BitVec 22)
  | amoMaxu (d base index : Reg) (sz : Sz) (sc : Scope) (ord : Ord) (off : BitVec 22)
  | amoSwap (d base index : Reg) (sz : Sz) (sc : Scope) (ord : Ord) (off : BitVec 22)
  | amoLocAdd (d base index : Reg) (sz : Sz) (off : BitVec 22)
  | amoLocAnd (d base index : Reg) (sz : Sz) (off : BitVec 22)
  | amoLocOr (d base index : Reg) (sz : Sz) (off : BitVec 22)
  | amoLocXor (d base index : Reg) (sz : Sz) (off : BitVec 22)
  | amoLocMin (d base index : Reg) (sz : Sz) (off : BitVec 22)
  | amoLocMax (d base index : Reg) (sz : Sz) (off : BitVec 22)
  | amoLocMinu (d base index : Reg) (sz : Sz) (off : BitVec 22)
  | amoLocMaxu (d base index : Reg) (sz : Sz) (off : BitVec 22)
  | amoLocSwap (d base index : Reg) (sz : Sz) (off : BitVec 22)
  | cas (d base index : Reg) (sz : Sz) (sc : Scope) (ord : Ord) (off : BitVec 22)
  | casLoc (d base index : Reg) (sz : Sz) (off : BitVec 22)
  | spill (first last base : Reg) (sc : Scope) (ord : Ord) (off : BitVec 22)
  | fill (first last base : Reg) (sc : Scope) (ord : Ord) (off : BitVec 22)
  | fence (sc : Scope) (ord : Ord)
  | fenceF
  -- System instructions, events and the cycle counter (R86 to R93).
  | nop
  | yield
  | halt
  | brk (code : BitVec 16)
  | trap (imm : BitVec 32)
  | eret
  | crr (d : Reg) (idx : BitVec 12)
  | crw (idx : BitVec 12) (a : Reg)
  | evpop (d a : Reg)
  | evwait (d a : Reg)
  | cyc (d : Reg)
  -- Dictionary instructions (R60 to R64).
  | dictLd (d base : Reg) (off : BitVec 22)
  | dictCommit
  | dictRd (d a : Reg) (stg h : Bool)
  | dictGen (d : Reg)
  | dictGenId (d : Reg)
  -- Configuration, region, port and queue instructions (R131 to R141).
  | cfgLd (d a : Reg) (auto : Bool) (ply : Fin 4)
  | cfgCommit (ply : Fin 4)
  | cfgDrop (ply : Fin 4)
  | cfgDropImg (a : Reg)
  | cfgQPly (d : Reg)
  | cfgQImg (d a : Reg)
  | cfgQRsv (d : Reg)
  | rgnOpen (a : Reg)
  | rgnWait (d : Reg)
  | rgnClose
  | rgnCloseAbort
  | portBindHnd (a b : Reg)
  | portBindFar (a b : Reg) (ply : Fin 4)
  | portUnbindHnd (b : Reg)
  | portUnbindFar (b : Reg) (ply : Fin 4)
  | permitK (a : Reg) (k : BitVec 4)
  | qrsv (d a : Reg) (n : BitVec 5)
  | qpush (a b c : Reg)
  -- Policy, stream and window instructions (R244, R272).
  | policyLd (a : Reg)
  | policySwap (d : Reg)
  | strAff (a : Reg) (port : Fin 16)
  | strInd (a : Reg) (port : Fin 16)
  | strGo (a : Reg) (port : Fin 16)
  | strBar (mask : BitVec 16)
  | strWait (d : Reg) (mask : BitVec 16)
  | winSet (d a b : Reg) (entry : Fin 4) (port : Fin 16)
  | winClr (all : Bool) (entry : Fin 4) (port : Fin 16)
  -- Events: reset, boot and the host commands to contexts (R23, R377, R420, R421, R429).
  | coreReset (core : Nat)
  | boot
  | ctxStart (core : Nat) (v : Word)
  | ctxStop (core : Nat) (v : Word)
  | ctxTrap (core : Nat) (v : Word)
  | dsCtxStart (v : Word)
  | dsCtxStop (v : Word)
  | dsCtxTrap (v : Word)
  -- Events of the fabric (R105 to R126).
  | tokenArrival (core n : Nat)
  | creditReturn (core chan n : Nat)
  | slotGrantTimeout (core chan n : Nat)
  | passForward (core ply far stage : Nat)
  | firingSquash (core elem : Nat)
  | messageArrival (n : Nat)
  | handlerDelivery (core : Nat)
  | remoteEngineCommand (core : Nat)
  | selectionPortToken (core : Nat)
  | drainMarkerForward (core ply elem : Nat)
  | plyCommit (core ctx : Nat)
  | regionComplete (core ctx : Nat)
  | blockChoice (core ctx : Nat)
  | strandDelivery (core ctx : Nat)
  -- Events of scheduling and policy (R130, R216 to R246).
  | placementSample (die stage : Nat)
  | launchToken (die queue : Nat)
  | dispatchDecisionStart (die cluster : Nat)
  | preemptionDecisionStart (die cluster queue : Nat)
  | faultDecisionStart (core ctx : Nat)
  | policyBudgetExpiry (die cluster dec : Nat)
  | decisionCommit (die cluster dec : Nat)
  | sliceTokenDelivery (die slice : Nat)
  | sliceEnd (die slice : Nat)
  | budgetExhaustion (core ctx : Nat)
  | swapTokenArrival (part die : Nat)
  | swapDieAck (part die : Nat)
  | swapComplete (part : Nat)
  -- Events of the display synthesis engine (R208, R356 to R367).
  | lineBeacon (die head : Nat)
  | lineStart (head : Nat)
  | fallbackLevelFinish (head band : Nat)
  | dsMeRun
  | dsWarpRun
  | dsNetRun
  | emitCommit
  -- Events of memory, duties, streams and requests (R253 to R265, R269, R303 to R306, R345).
  | pageWalk (core : Nat) (va : Word) (acc : Acc) (user : Bool)
  | dutyWaitExpiry (part tag : Nat)
  | dutyReply (part : Nat) (v : Word)
  | streamElement (core port : Nat)
  | windowFill (core port : Nat)
  | streamLineWriteback (core port : Nat)
  | streamCommandComplete (core port : Nat)
  | requestResponse (core elem : Nat)
  | occlSlotAdd (core elem n : Nat)
  | compressedWriteback (n : Nat)
  | pageRelayout (n : Nat)
  | snpdata (die pa : Nat)
  | snpinv (die pa : Nat)
  | snpcur (die pa : Nat)
  | hostReadDeviceMemory (pa : Nat) (own : Bool)
  | hostWriteDeviceMemory (pa : Nat) (v : Word)
  | migcmd (die : Nat) (v : Word)
  | migrationCommit (die : Nat)
  | tinv (part : Nat) (v : Word)
  | tinvComplete (part : Nat)
  | occclr (die : Nat) (v : Word)
  | occclrStep (die : Nat)
  | occownWrite (die g : Nat) (v : Word)
  | occcntWrite (die slot : Nat) (v : Word)
  | chunkpush (die tile : Nat) (v : Word)
  | chunkpop (die tile : Nat)
  -- Events of the matrix array and the engines (R191 to R205, R322 to R334).
  | mxLdbExecute (core : Nat)
  | mxScaleExecute (core : Nat)
  | mmRowFire (core : Nat)
  | accumulatorRowWrite (core : Nat)
  | mxDrainExecute (core : Nat)
  | mxEdgeExecute (core : Nat)
  | gangFormed (core : Nat)
  | gangRowArrival (core : Nat)
  | matrixOpComplete (core : Nat)
  | engineCommandAccept (core n : Nat)
  | engineCommandBegin (core eng : Nat)
  | engineCommandComplete (core eng : Nat)
  | collectiveBegin (part group : Nat)
  | pubFlip (core eng : Nat)
  -- Events of faults and context switches (R377 to R399).
  | snapshotSave (core ply elem : Nat)
  | containment (core ctx : Nat)
  | rollback (core ctx : Nat)
  | regionMigration (core ctx : Nat)
  | fltreply (part : Nat) (v : Word)
  | fltptrWrite (part : Nat) (v : Word)
  | contextSwitchComplete (core ctx : Nat)
  | coreSave (core : Nat) (v : Word)
  | coreRestore (core : Nat) (v : Word)
  -- Events of the host interface (R214, R352, R418 to R430).
  | ingressToken (die queue : Nat) (tok : BitVec 128) (whole : Bool)
  | credreq (die queue : Nat) (v : Word)
  | creditRelease (die queue : Nat) (v : Word)
  | dropsClear (die queue : Nat)
  | tokdropClear (core : Nat)
  | regcmdQueue (die num : Nat)
  | regcmdStage (die num : Nat)
  | partitionSetup (part : Nat) (v : Word)
  | partitionEnd (part : Nat)
  | dspartWrite (v : Word)
  | headEnable (head : Nat) (v : Word)
  | headDisable (head : Nat) (v : Word)
  | attcmd (v : Word)
  | svncommit (v : Word)
  | registerWrite (off : Nat) (v : Word)
  -- Events of power, links, and the rest (R405 to R415, R431).
  | edgeMeterWindow (core : Nat)
  | powerSample (meas : Nat)
  | plainClockResume (die cluster : Nat)
  | powerGrant (msg : BitVec 128)
  | powerLend (msg : BitVec 128)
  | grantLeaseEnd
  | lendLeaseEnd (n : Nat)
  | lentReturn (n : Nat)
  | flitCrcFail (link : Nat)
  | linkDown (link : Nat)
  | hostLinkDown
  | ideIntegrity
  | thermalTrip
  | illegalParcel (cause : Cause) (fetch : Bool) (psz : Fin 4) (tval : Word)
  | endOfALoad (core ply : Nat)
  | linkRetrained (link : Nat)
  | attstDone
  | sendLend (pkg watts lease : Nat)
  deriving DecidableEq, Repr, Inhabited

end Sys2Proof
end

