-- ==== Sys2Proof/Config.lean ====
section
/-! DEFINITION. What an implementation fixes and the spec leaves open: free values, opaque constants that no proof can evaluate (logs 2, 13, 14). -/
namespace Sys2Proof

/-- A clock of the part: of a plain, of a die, of the display synthesis engine (00 R4, 09 R207, 23 R408). -/
inductive Clock
  | plain (die cluster : Nat)
  | die (die : Nat)
  | dse
  deriving DecidableEq, Repr, Inhabited

/-- Who acts in a step: a sequencer issues, an element fires, a policy program runs one instruction, an event happens, a clock ticks, an instruction that has issued goes on (01 R25), a line leaves an L2 (11 R258; 13 R305), a byte of memory or of a core's buffers becomes uncorrectable (11 R259), the matrix array errs in a row (08 R198), a flit that a link replays passes its CRC (23 R405), the oldest store of a core that its elements and streams may miss is performed (13 R291, R293), a context prefetches a halfword (04 R85), the junction limit is reached (23 R415), the host stores a doubleword of its own memory (13 R305; 25 R433), a message arrives from another package (24 R424). -/
inductive Turn
  | issue (core : Nat)
  | fire (core elem : Nat)
  | policy (die cluster dec : Nat)
  | ev (i : Instr)
  | clock (c : Clock)
  | resume (core ctx : Nat)
  | evict (die line : Nat)
  | memError (pa : Nat)
  | bufError (core place : Nat)
  | arrayError (core : Nat)
  | passFlit (link : Nat)
  | perform (core : Nat)
  | prefetch (core ctx addr : Nat)
  | junction
  | hostStore (pa : Nat) (v : BitVec 64)
  | peer (port : Nat) (msg : BitVec 128)
  deriving DecidableEq, Repr, Inhabited

namespace Config

/-- Which ready agent acts next where the spec lets several: free (log 2). -/
opaque freeTurn : Nat → Turn

/-- Bytes the spec leaves open, by use and position: a fresh value each (log 14). -/
opaque freeByte : Nat → Nat → BitVec 8

/-- Where a field of an attestation report stands, by its place among those that 24 R430 lists: free (log 73). -/
opaque reportAt : Nat → Nat

/-- The number of entries a route's end at the token fabric port or the selection port takes (log 15). -/
def portSlots : Nat := 4

end Config

end Sys2Proof
end

