-- ==== Sys2Proof/Machine/Bits.lean ====
section
/-! DEFINITION. The bit helpers of R6 and R56 over naturals and words: fields, sign extension, byte order. -/
namespace Sys2Proof.Machine

/-- `bits(x, lo + n - 1, lo)` of R6, as a natural. -/
def bits {k : Nat} (x : BitVec k) (lo n : Nat) : Nat := (x.toNat >>> lo) % 2 ^ n

/-- `bits(x, lo + n - 1, lo)` of a natural. -/
def nbits (x lo n : Nat) : Nat := (x >>> lo) % 2 ^ n

/-- Bit i of a word. -/
def bit {k : Nat} (x : BitVec k) (i : Nat) : Bool := x.getLsbD i

/-- A Bool as a number. -/
def b2n (b : Bool) : Nat := if b then 1 else 0

/-- `sext(x, n)` of R6: the low n bits of x as two's complement. -/
def sextN (x n : Nat) : Int :=
  if n = 0 then 0
  else
    let v := x % 2 ^ n
    if v < 2 ^ (n - 1) then (v : Int) else (v : Int) - (2 ^ n : Nat)

/-- `trunc(x, n)` of R6, of an integer, as a natural below 2^n. -/
def truncI (x : Int) (n : Nat) : Nat := (x % ((2 ^ n : Nat) : Int)).toNat

/-- A natural as a 64-bit word. -/
def w64 (n : Nat) : Word := BitVec.ofNat 64 n

/-- An integer as a 64-bit word. -/
def wI (i : Int) : Word := BitVec.ofNat 64 (truncI i 64)

/-- `place(w, s, n, v)` of R56: w with bits [s + n - 1 : s] replaced by v. -/
def place (w : Word) (s n v : Nat) : Word :=
  w64 (w.toNat - (nbits w.toNat s n) * 2 ^ s + (v % 2 ^ n) * 2 ^ s)

/-- w with bit i set to b. -/
def setBit {k : Nat} (w : BitVec k) (i : Nat) (b : Bool) : BitVec k :=
  if b then w ||| (BitVec.ofNat k (2 ^ i)) else w &&& ~~~(BitVec.ofNat k (2 ^ i))

/-- Byte k of a natural, counted from the least significant. -/
def byteOf (v k : Nat) : Byte := BitVec.ofNat 8 (v >>> (8 * k))

/-- Little-endian bytes of a value, n of them (R4). -/
def bytesLE (v n : Nat) : List Byte := (List.range n).map (byteOf v)

/-- The value of little-endian bytes (R4). -/
def ofBytesLE : List Byte → Nat
  | [] => 0
  | b :: bs => b.toNat + 256 * ofBytesLE bs

/-- Number of one bits among the low n bits of x. -/
def popcount (x : Nat) : Nat → Nat
  | 0 => 0
  | n + 1 => popcount x n + b2n (x.testBit n)

/-- Number of leading zeros of x taken as n bits. -/
def clz (x : Nat) : Nat → Nat
  | 0 => 0
  | n + 1 => if x.testBit n then 0 else 1 + clz x n

/-- Number of trailing zeros of x, at most n. -/
def ctz (x : Nat) : Nat → Nat
  | 0 => 0
  | n + 1 => if x.testBit 0 then 0 else 1 + ctz (x / 2) n

/-- The low n bits of x in reverse order. -/
def brev (x : Nat) : Nat → Nat
  | 0 => 0
  | n + 1 => b2n (x.testBit 0) * 2 ^ n + brev (x / 2) n

/-- `sat_sN` of R151: y limited to the range of an n-bit signed integer. -/
def satS (y : Int) (n : Nat) : Int :=
  if y < -((2 ^ (n - 1) : Nat) : Int) then -((2 ^ (n - 1) : Nat) : Int)
  else if ((2 ^ (n - 1) : Nat) : Int) - 1 < y then ((2 ^ (n - 1) : Nat) : Int) - 1 else y

/-- `sat_uN` of R151: y limited to the range of an n-bit unsigned integer. -/
def satU (y : Int) (n : Nat) : Int :=
  if y < 0 then 0 else if ((2 ^ n : Nat) : Int) - 1 < y then ((2 ^ n : Nat) : Int) - 1 else y

/-- ceil(a / b). -/
def cdiv (a b : Nat) : Nat := (a + b - 1) / b

/-- The least i below n that satisfies f. -/
def firstBelow (n : Nat) (f : Nat → Bool) : Option Nat := (List.range n).find? f

end Sys2Proof.Machine
end

