-- ==== Sys2Proof/WellFormed.lean ====
section
/-! DEFINITION. Well-formed instructions: the field values the spec refuses whatever the operands hold (02 R38 to R41, and each instruction's own rule). Operand types already exclude what they can. -/
namespace Sys2Proof

/-- Types of the integer lanes, T 0x0 to 0x7 (07 R158). -/
def tyInt : List Ty := [.i8, .u8, .i16, .u16, .i32, .u32, .i64, .u64]
/-- Signed integer lanes (07 R158). -/
def tySigned : List Ty := [.i8, .i16, .i32, .i64]
/-- Floating-point lanes, T 0x8 to 0xB (07 R162). -/
def tyFp : List Ty := [.f16, .bf16, .f32, .f64]
/-- T 0x8 to 0xA (07 R162). -/
def tyFpShort : List Ty := [.f16, .bf16, .f32]
/-- Source types of VPACK (07 R161). -/
def tyPack : List Ty := [.i16, .u16, .i32, .u32, .i64, .u64]
/-- Source types of VUNPK (07 R161). -/
def tyUnpk : List Ty := [.i8, .u8, .i16, .u16, .i32, .u32]
/-- Types of DOT (07 R168). -/
def tyDot : List Ty := [.i8, .u8, .f16, .bf16, .e4m3, .e5m2]
/-- Types of RED (07 R179). -/
def tyRed : List Ty := tyInt ++ tyFp

/-- t is one of l. -/
def tyIn (l : List Ty) (t : Ty) : Bool := l.contains t

/-- Number of lanes of a type (06 R145). -/
def Ty.lanes : Ty → Nat
  | .i8 | .u8 | .e4m3 | .e5m2 => 8
  | .i16 | .u16 | .f16 | .bf16 => 4
  | .i32 | .u32 | .f32 => 2
  | .i64 | .u64 | .f64 => 1
  | .e2m1 => 16

/-- Width of a lane in bits (06 R145). -/
def Ty.width (t : Ty) : Nat := 64 / t.lanes

/-- The limits of R166 on the lane offset of CVT. -/
def cvtOk (ts td : Ty) (off : Nat) : Bool :=
  if ts.lanes < td.lanes then decide (off + ts.lanes ≤ td.lanes) else decide (off + td.lanes ≤ ts.lanes)

/-- POS and LEN of the bit-field instructions (04 R71). -/
def fieldOk (pos : BitVec 6) (len : BitVec 7) : Bool :=
  decide (1 ≤ len.toNat) && decide (len.toNat ≤ 64) && decide (pos.toNat + len.toNat ≤ 64)

/-- TI values 0 and 1 (04 R72, R74). -/
def tiShort : Ti → Bool
  | .s | .z => true
  | _ => false

/-- The imm32 bits a TI value requires to be zero (02 R40). -/
def tiOk : Ti → BitVec 32 → Bool
  | .h4, imm => decide (imm.toNat < 2 ^ 16)
  | .b8, imm => decide (imm.toNat < 2 ^ 8)
  | _, _ => true

/-- Orders a load accepts (02 R41). -/
def ordLoad : Ord → Bool
  | .rel => false
  | _ => true

/-- Orders a store accepts (02 R41). -/
def ordStore : Ord → Bool
  | .acq => false
  | _ => true

/-- Sizes a store accepts (02 R41). -/
def storeSz : Sz → Bool
  | .b | .h | .w | .d => true
  | _ => false

/-- Sizes an atomic accepts (02 R41). -/
def atomSz : Sz → Bool
  | .w | .d => true
  | _ => false

/-- The control-register indices of R16. -/
def ctrlIndices : List Nat := [0x000, 0x001, 0x002, 0x003, 0x004, 0x005, 0x008, 0x009, 0x010, 0x011, 0x012, 0x013, 0x014, 0x015, 0x016, 0x020]

/-- An index of R16. -/
def ctrlIndex (idx : BitVec 12) : Bool := ctrlIndices.contains idx.toNat

/-- i holds no field value that the spec refuses (log 42). -/
def instrWf : Instr → Bool
  | .bfx _ _ pos len => fieldOk pos len
  | .bfxu _ _ pos len => fieldOk pos len
  | .bfi _ _ pos len => fieldOk pos len
  | .addi _ _ ti _ => tiShort ti
  | .cmpiEq _ _ ti _ => tiShort ti
  | .cmpiNe _ _ ti _ => tiShort ti
  | .cmpiLt _ _ ti _ => tiShort ti
  | .cmpiGe _ _ ti _ => tiShort ti
  | .cmpiLtu _ _ ti _ => tiShort ti
  | .cmpiGeu _ _ ti _ => tiShort ti
  | .andi _ _ ti imm => tiOk ti imm
  | .ori _ _ ti imm => tiOk ti imm
  | .xori _ _ ti imm => tiOk ti imm
  | .movi _ ti imm => tiOk ti imm
  | .const _ ti imm => tiOk ti imm
  | .loop a _ => decide (a ≠ 0)
  | .ld _ _ _ _ _ ord _ => ordLoad ord
  | .ldq _ _ _ _ _ ord _ => ordLoad ord
  | .st _ _ _ sz _ ord _ => storeSz sz && ordStore ord
  | .stq _ _ _ sz _ ord _ => storeSz sz && ordStore ord
  | .stLoc _ _ _ sz _ => storeSz sz
  | .amoqAdd _ _ _ sz _ _ _ => atomSz sz
  | .amoqAnd _ _ _ sz _ _ _ => atomSz sz
  | .amoqOr _ _ _ sz _ _ _ => atomSz sz
  | .amoqXor _ _ _ sz _ _ _ => atomSz sz
  | .amoqMin _ _ _ sz _ _ _ => atomSz sz
  | .amoqMax _ _ _ sz _ _ _ => atomSz sz
  | .amoqMinu _ _ _ sz _ _ _ => atomSz sz
  | .amoqMaxu _ _ _ sz _ _ _ => atomSz sz
  | .amoqSwap _ _ _ sz _ _ _ => atomSz sz
  | .amoAdd _ _ _ sz _ _ _ => atomSz sz
  | .amoAnd _ _ _ sz _ _ _ => atomSz sz
  | .amoOr _ _ _ sz _ _ _ => atomSz sz
  | .amoXor _ _ _ sz _ _ _ => atomSz sz
  | .amoMin _ _ _ sz _ _ _ => atomSz sz
  | .amoMax _ _ _ sz _ _ _ => atomSz sz
  | .amoMinu _ _ _ sz _ _ _ => atomSz sz
  | .amoMaxu _ _ _ sz _ _ _ => atomSz sz
  | .amoSwap _ _ _ sz _ _ _ => atomSz sz
  | .amoLocAdd _ _ _ sz _ => atomSz sz
  | .amoLocAnd _ _ _ sz _ => atomSz sz
  | .amoLocOr _ _ _ sz _ => atomSz sz
  | .amoLocXor _ _ _ sz _ => atomSz sz
  | .amoLocMin _ _ _ sz _ => atomSz sz
  | .amoLocMax _ _ _ sz _ => atomSz sz
  | .amoLocMinu _ _ _ sz _ => atomSz sz
  | .amoLocMaxu _ _ _ sz _ => atomSz sz
  | .amoLocSwap _ _ _ sz _ => atomSz sz
  | .cas _ _ _ sz _ _ _ => atomSz sz
  | .casLoc _ _ _ sz _ => atomSz sz
  | .spill first last _ _ _ _ => decide (first ≤ last)
  | .fill first last base _ _ _ => decide (first ≤ last) && (decide (base = 0) || decide (base < first) || decide (last < base))
  | .fence _ ord => decide (ord ≠ .rlx)
  | .crr _ idx => ctrlIndex idx
  | .crw idx _ => ctrlIndex idx
  | .evpop d a => decide (d ≠ a) || decide (d = 0)
  | .evwait d a => decide (d ≠ a) || decide (d = 0)
  | .permitK _ k => decide (k ≠ 0)
  | .qrsv _ _ n => decide (1 ≤ n.toNat ∧ n.toNat ≤ 16)
  | .rsv _ _ n => decide (1 ≤ n.toNat ∧ n.toNat ≤ 16)
  | .amplify _ _ m => decide (1 ≤ m.toNat ∧ m.toNat ≤ 256)
  | .mxWait n => decide (n.toNat ≤ 16)
  | .mxDrain _ _ rm _ _ _ dt => decide (rm = .rne) || (decide (dt ≠ .i8) && decide (dt ≠ .raw))
  | .mxEdge _ _ _ _ g ne => decide ((ne.toNat + 1) % (g.val + 1) = 0)
  | .vadd _ _ _ t => tyIn tyInt t
  | .vsub _ _ _ t => tyIn tyInt t
  | .vadds _ _ _ t => tyIn tyInt t
  | .vsubs _ _ _ t => tyIn tyInt t
  | .vmul _ _ _ t => tyIn tyInt t
  | .vmulh _ _ _ t => tyIn tyInt t
  | .vmad _ _ _ _ t => tyIn tyInt t
  | .vmin _ _ _ t => tyIn tyInt t
  | .vmax _ _ _ t => tyIn tyInt t
  | .vshl _ _ _ t => tyIn tyInt t
  | .vshr _ _ _ t => tyIn tyInt t
  | .vsra _ _ _ t => tyIn tyInt t
  | .vpopc _ _ t => tyIn tyInt t
  | .vclz _ _ t => tyIn tyInt t
  | .vabs _ _ t => tyIn tySigned t
  | .vneg _ _ t => tyIn tySigned t
  | .vcmpEq _ _ _ t _ => tyIn tyInt t
  | .vcmpNe _ _ _ t _ => tyIn tyInt t
  | .vcmpLt _ _ _ t _ => tyIn tyInt t
  | .vcmpLe _ _ _ t _ => tyIn tyInt t
  | .vcmpGt _ _ _ t _ => tyIn tyInt t
  | .vcmpGe _ _ _ t _ => tyIn tyInt t
  | .vpack _ _ _ t => tyIn tyPack t
  | .vunpk _ _ t => tyIn tyUnpk t
  | .fadd _ _ _ t _ => tyIn tyFp t
  | .fsub _ _ _ t _ => tyIn tyFp t
  | .fmul _ _ _ t _ => tyIn tyFp t
  | .ffma _ _ _ _ t _ => tyIn tyFp t
  | .fmin _ _ _ t => tyIn tyFp t
  | .fmax _ _ _ t => tyIn tyFp t
  | .fabs _ _ t => tyIn tyFp t
  | .fneg _ _ t => tyIn tyFp t
  | .fclass _ _ t => tyIn tyFp t
  | .fdiv _ _ _ t _ => tyIn tyFp t
  | .fsqrt _ _ t _ => tyIn tyFp t
  | .frcp _ _ t _ => tyIn tyFp t
  | .frsq _ _ t _ => tyIn tyFpShort t
  | .fexp2 _ _ t _ => tyIn tyFpShort t
  | .flog2 _ _ t _ => tyIn tyFpShort t
  | .fcmpEq _ _ _ t _ => tyIn tyFp t
  | .fcmpNe _ _ _ t _ => tyIn tyFp t
  | .fcmpLt _ _ _ t _ => tyIn tyFp t
  | .fcmpLe _ _ _ t _ => tyIn tyFp t
  | .fcmpGt _ _ _ t _ => tyIn tyFp t
  | .fcmpGe _ _ _ t _ => tyIn tyFp t
  | .fcmpUn _ _ _ t _ => tyIn tyFp t
  | .cvt _ _ ts td off _ => cvtOk ts td off.toNat
  | .dot _ _ _ _ t rm => tyIn tyDot t && (decide (rm = .rne) || !(tyIn tyInt t))
  | .redMin _ t _ _ => tyIn tyRed t
  | .redMax _ t _ _ => tyIn tyRed t
  | .redSum _ t _ _ => tyIn tyRed t
  | .cpy _ _ _ o => decide (o.cf = 0)
  | .fillb _ _ _ o => decide (o.cf = 0)
  | .coll _ _ _ o => decide (o.cf.toNat ≤ 4)
  | .xfm _ _ _ o => decide (o.cf.toNat ≠ 5 ∧ o.cf.toNat ≠ 7)
  | .pubDef _ _ _ o => !o.ct
  | .pubDrop o => !o.ct
  | .env _ e => decide (e.toNat ≤ 13)
  | .cand _ _ f => decide (f.toNat ≤ 15)
  | .subj _ f => decide (f.toNat ≤ 15)
  | .mkeepEq _ f => decide (f.toNat ≤ 15)
  | .mkeepNe _ f => decide (f.toNat ≤ 15)
  | .mkeepLt _ f => decide (f.toNat ≤ 15)
  | .mkeepGe _ f => decide (f.toNat ≤ 15)
  | .scanMin _ f => decide (f.toNat ≤ 15)
  | .scanMax _ f => decide (f.toNat ≤ 15)
  | _ => true

end Sys2Proof
end

