-- ==== Sys2Proof/Decode.lean ====
section
/-! DEFINITION. Decoding canonical words, short parcels' words and policy bytecode, and the encoder after it (02 R31 to R50, 10 R234). -/
namespace Sys2Proof

open Sys2Proof.Machine

/-- The executor classes (02 R44): a core sequencer, the display sequencer, an element. -/
inductive Executor | core | display | element
  deriving DecidableEq, Repr, Inhabited

/-- The guard of a word (02 R34, R35): none where G = 0, else N and the predicate. -/
abbrev Guard := Option (Bool × Pred)

/-- [44:40], the field D (02 R36). -/
def fD (w : Code) : BitVec 5 := w.extractLsb' 40 5
/-- [39:35], the field A, or base (02 R36). -/
def fA (w : Code) : BitVec 5 := w.extractLsb' 35 5
/-- [34:30], the field B, or index (02 R36). -/
def fB (w : Code) : BitVec 5 := w.extractLsb' 30 5
/-- [29:25], the field C (02 R36). -/
def fC (w : Code) : BitVec 5 := w.extractLsb' 25 5
/-- [24:21], the type field of RRR. -/
def fT (w : Code) : BitVec 4 := w.extractLsb' 21 4
/-- [20:18], the rounding field of RRR and of MX.DRAIN. -/
def fRm (w : Code) : BitVec 3 := w.extractLsb' 18 3
/-- [34:32], TI of RRI or CC of BR. -/
def fTi (w : Code) : BitVec 3 := w.extractLsb' 32 3
/-- [31:0], imm32. -/
def fImm (w : Code) : BitVec 32 := w.extractLsb' 0 32
/-- [29:27], SZ of MEM. -/
def fSz (w : Code) : BitVec 3 := w.extractLsb' 27 3
/-- [26:24], SC of MEM. -/
def fSc (w : Code) : BitVec 3 := w.extractLsb' 24 3
/-- [23:22], ORD of MEM. -/
def fOrd (w : Code) : BitVec 2 := w.extractLsb' 22 2
/-- [21:0], the offset of MEM. -/
def fOff (w : Code) : BitVec 22 := w.extractLsb' 0 22
/-- n bits of w from bit lo on are zero (02 R37). -/
def nbitsZ (w : Code) (lo n : Nat) : Bool := decide (w.extractLsb' lo n = 0)
/-- [24:0] are zero: of an RRR word T, RM and the reserved bits (02 R38, R39). -/
def low25Z (w : Code) : Bool := nbitsZ w 0 25
/-- [17:0] of an RRR word are zero. -/
def low18Z (w : Code) : Bool := nbitsZ w 0 18
/-- A register field of the sequencer map (02 R45). -/
def rg (x : BitVec 5) : Reg := x.toFin
/-- Bit lo as a number. -/
def f2 (w : Code) (lo : Nat) : Fin 2 := (w.extractLsb' lo 1).toFin
/-- Two bits from lo on as a number. -/
def f4 (w : Code) (lo : Nat) : Fin 4 := (w.extractLsb' lo 2).toFin
/-- Three bits from lo on as a number. -/
def f8 (w : Code) (lo : Nat) : Fin 8 := (w.extractLsb' lo 3).toFin
/-- Four bits from lo on as a number. -/
def f16 (w : Code) (lo : Nat) : Fin 16 := (w.extractLsb' lo 4).toFin
/-- A predicate field: the high two bits are zero (02 R45). -/
def prOf (x : BitVec 5) : Option Pred := if h : x.toNat < 8 then some ⟨x.toNat, h⟩ else none
/-- A source field of the element map (02 R46). -/
def esOf (x : BitVec 5) : Option ESrc :=
  if h : x.toNat < 8 then some (.d ⟨x.toNat, h⟩)
  else if h : x.toNat - 8 < 4 then some (.i ⟨x.toNat - 8, h⟩)
  else if x = 16 then some .zero
  else if x = 17 then some .coord
  else if x = 18 then some .plyn
  else if x = 19 then some .tag0
  else none
/-- A destination field of the element map (02 R46). -/
def edOf (x : BitVec 5) : Option EDst :=
  if h : x.toNat < 8 then some (.d ⟨x.toNat, h⟩) else if x = 31 then some .null else none
/-- A TI field (02 R40). -/
def tiOf (x : BitVec 3) : Option Ti := [Ti.s, .z, .w2, .h4, .b8][x.toNat]?
/-- A CC field (02 R43). -/
def condOf (x : BitVec 3) : Option Cond := [Cond.eq, .ne, .lt, .ge, .ltu, .geu][x.toNat]?
/-- An SZ field (02 R41). -/
def szOf (x : BitVec 3) : Option Sz := [Sz.b, .h, .w, .d, .bu, .hu, .wu][x.toNat]?
/-- An SC field (02 R41). -/
def scOf (x : BitVec 3) : Option Scope := [Scope.el, .co, .ga, .cl, .di, .pk, .sy, .pe][x.toNat]?
/-- An ORD field (02 R41). -/
def ordOf (x : BitVec 2) : Option Ord := [Ord.rlx, .acq, .rel, .ar][x.toNat]?
/-- A T field (02 R38). -/
def tyOf (x : BitVec 4) : Option Ty :=
  [Ty.i8, .u8, .i16, .u16, .i32, .u32, .i64, .u64, .f16, .bf16, .f32, .f64, .e4m3, .e5m2, .e2m1][x.toNat]?
/-- An RM field (02 R39). -/
def rmOf (x : BitVec 3) : Option Rm := [Rm.rne, .rtz, .rdn, .rup, .rna, .sr, .dyn][x.toNat]?
/-- A matrix type code (08 R186). -/
def mtyOf (x : BitVec 4) : Option MTy := [MTy.bf16, .f16, .e4m3, .e5m2, .e2m1, .i8, .i4][x.toNat]?
/-- A DT code of MX.DRAIN (08 R199). -/
def drainOf (x : BitVec 4) : Option DrainTy :=
  if x.toNat = 7 then some .raw else [DrainTy.bf16, .f16, .e4m3, .e5m2, .e2m1, .i8][x.toNat]?
/-- A MODE of TS.BLEND (12 R287). -/
def blendOf (x : BitVec 2) : Option BlendMode := [BlendMode.rep, .srcOver, .add][x.toNat]?
/-- The fields of a matrix multiply (08 R188). -/
def mmOpts (w : Code) (t : MTy) : MmOpts := ⟨bit w 11, bit w 10, bit w 9, f2 w 8, f2 w 4, t⟩
/-- The condition of a STEER word (07 R171). -/
def steerOf (w : Code) : Option SteerSel :=
  if bit w 11 then (if nbitsZ w 8 3 then (esOf (fB w)).map .reg else none)
  else if fB w = 0 then some (.pred (f8 w 8)) else none
/-- Bits [24:0] of an engine command (17 R324). -/
def engOf (w : Code) : Option EngOpts := do
  let o ← ordOf (w.extractLsb' 23 2)
  let sc ← scOf (w.extractLsb' 20 3)
  some ⟨o, sc, bit w 19, bit w 18, bit w 17, w.extractLsb' 14 3, w.extractLsb' 0 14⟩

/-- The instruction i where its reserved bits c are clear and it is well formed. -/
def fin (c : Bool) (i : Instr) : Option Instr := if c && instrWf i then some i else none

/-- An RRR word of three sequencer registers. -/
def decBin (k : Reg → Reg → Reg → Instr) (w : Code) : Option Instr :=
  fin (fC w = 0 && low25Z w) (k (rg (fD w)) (rg (fA w)) (rg (fB w)))

/-- An RRR word of two sequencer registers. -/
def decUn (k : Reg → Reg → Instr) (w : Code) : Option Instr :=
  fin (fB w = 0 && fC w = 0 && low25Z w) (k (rg (fD w)) (rg (fA w)))

/-- An RRR element word of D, A, B and a type. -/
def decV3 (k : EDst → ESrc → ESrc → Ty → Instr) (w : Code) : Option Instr := do
  let d ← edOf (fD w)
  let a ← esOf (fA w)
  let b ← esOf (fB w)
  let t ← tyOf (fT w)
  fin (fC w = 0 && fRm w = 0 && low18Z w) (k d a b t)

/-- A PUB word by OPF (17 R323, R324). -/
def decPub (w : Code) : Option Instr := do
  let sc ← scOf (w.extractLsb' 20 3)
  let o : PubOpts := ⟨f4 w 23, sc, bit w 18, bit w 17, w.extractLsb' 0 14⟩
  let c := fD w = 31 && !(bit w 19) && !(bit w 14)
  let z := fA w = 0 && fB w = 0 && fC w = 0
  match (w.extractLsb' 15 2).toNat with
  | 0 => fin (c && z) (.pub o)
  | 1 => do
    let a ← esOf (fA w)
    let b ← esOf (fB w)
    let k ← esOf (fC w)
    fin c (.pubDef a b k o)
  | 2 => fin (c && z) (.pubDrop o)
  | _ => none

/-- The instructions of OP 0x01 by FN (02 R47). -/
def dec01 (fn : Nat) (w : Code) : Option (Option Instr) :=
  match fn with
  | 0 => some (decBin .add w)
  | 1 => some (decBin .sub w)
  | 2 => some (decBin .mul w)
  | 3 => some (decBin .mulh w)
  | 4 => some (decBin .mulhu w)
  | 5 => some (decBin .div w)
  | 6 => some (decBin .divu w)
  | 7 => some (decBin .rem w)
  | 8 => some (decBin .remu w)
  | _ => none

/-- The instructions of OP 0x02 by FN (02 R47). -/
def dec02 (fn : Nat) (w : Code) : Option (Option Instr) :=
  match fn with
  | 0 => some (decBin .and w)
  | 1 => some (decBin .or w)
  | 2 => some (decBin .xor w)
  | 3 => some (decBin .andn w)
  | 4 => some (decBin .orn w)
  | 5 => some (decBin .shl w)
  | 6 => some (decBin .shr w)
  | 7 => some (decBin .sra w)
  | 8 => some (decBin .rol w)
  | 9 => some (decBin .ror w)
  | _ => none

/-- The instructions of OP 0x03 by FN (02 R47). -/
def dec03 (fn : Nat) (w : Code) : Option (Option Instr) :=
  match fn with
  | 0 => some (decBin .min w)
  | 1 => some (decBin .max w)
  | 2 => some (decBin .minu w)
  | 3 => some (decBin .maxu w)
  | 4 => some (decUn .clz w)
  | 5 => some (decUn .ctz w)
  | 6 => some (decUn .popc w)
  | 7 => some (decUn .brev w)
  | 8 => some (do let c ← prOf (fC w); fin (low25Z w) (.sel (rg (fD w)) c (rg (fA w)) (rg (fB w))))
  | _ => none

/-- The instructions of OP 0x04 by FN (02 R47). -/
def dec04 (fn : Nat) (w : Code) : Option (Option Instr) :=
  match fn with
  | 0 => some (fin (fB w = 0 && fC w = 0 && nbitsZ w 14 11 && nbitsZ w 7 1) (.bfx (rg (fD w)) (rg (fA w)) (w.extractLsb' 8 6) (w.extractLsb' 0 7)))
  | 1 => some (fin (fB w = 0 && fC w = 0 && nbitsZ w 14 11 && nbitsZ w 7 1) (.bfxu (rg (fD w)) (rg (fA w)) (w.extractLsb' 8 6) (w.extractLsb' 0 7)))
  | 2 => some (fin (fB w = 0 && fC w = 0 && nbitsZ w 14 11 && nbitsZ w 7 1) (.bfi (rg (fD w)) (rg (fA w)) (w.extractLsb' 8 6) (w.extractLsb' 0 7)))
  | _ => none

/-- The instructions of OP 0x08 by FN (02 R47). -/
def dec08 (fn : Nat) (w : Code) : Option (Option Instr) :=
  match fn with
  | 0 => some (do let ti ← tiOf (fTi w); fin true (.addi (rg (fD w)) (rg (fA w)) ti (fImm w)))
  | 1 => some (do let ti ← tiOf (fTi w); fin true (.andi (rg (fD w)) (rg (fA w)) ti (fImm w)))
  | 2 => some (do let ti ← tiOf (fTi w); fin true (.ori (rg (fD w)) (rg (fA w)) ti (fImm w)))
  | 3 => some (do let ti ← tiOf (fTi w); fin true (.xori (rg (fD w)) (rg (fA w)) ti (fImm w)))
  | 4 => some (fin (fTi w = 1 && nbitsZ w 6 26) (.shli (rg (fD w)) (rg (fA w)) (w.extractLsb' 0 6)))
  | 5 => some (fin (fTi w = 1 && nbitsZ w 6 26) (.shri (rg (fD w)) (rg (fA w)) (w.extractLsb' 0 6)))
  | 6 => some (fin (fTi w = 1 && nbitsZ w 6 26) (.srai (rg (fD w)) (rg (fA w)) (w.extractLsb' 0 6)))
  | 7 => some (do let ti ← tiOf (fTi w); fin (fA w = 0) (.movi (rg (fD w)) ti (fImm w)))
  | 8 => some (fin (fTi w = 1 && fA w = 0) (.movhi (rg (fD w)) (fImm w)))
  | _ => none

/-- The instructions of OP 0x10 by FN (02 R47). -/
def dec10 (fn : Nat) (w : Code) : Option (Option Instr) :=
  match fn with
  | 0 => some (do let d ← prOf (fD w); let c ← prOf (fC w); fin (low25Z w) (.cmpEq d (rg (fA w)) (rg (fB w)) c))
  | 1 => some (do let d ← prOf (fD w); let c ← prOf (fC w); fin (low25Z w) (.cmpNe d (rg (fA w)) (rg (fB w)) c))
  | 2 => some (do let d ← prOf (fD w); let c ← prOf (fC w); fin (low25Z w) (.cmpLt d (rg (fA w)) (rg (fB w)) c))
  | 3 => some (do let d ← prOf (fD w); let c ← prOf (fC w); fin (low25Z w) (.cmpGe d (rg (fA w)) (rg (fB w)) c))
  | 4 => some (do let d ← prOf (fD w); let c ← prOf (fC w); fin (low25Z w) (.cmpLtu d (rg (fA w)) (rg (fB w)) c))
  | 5 => some (do let d ← prOf (fD w); let c ← prOf (fC w); fin (low25Z w) (.cmpGeu d (rg (fA w)) (rg (fB w)) c))
  | _ => none

/-- The instructions of OP 0x11 by FN (02 R47). -/
def dec11 (fn : Nat) (w : Code) : Option (Option Instr) :=
  match fn with
  | 0 => some (do let d ← prOf (fD w); let ti ← tiOf (fTi w); fin true (.cmpiEq d (rg (fA w)) ti (fImm w)))
  | 1 => some (do let d ← prOf (fD w); let ti ← tiOf (fTi w); fin true (.cmpiNe d (rg (fA w)) ti (fImm w)))
  | 2 => some (do let d ← prOf (fD w); let ti ← tiOf (fTi w); fin true (.cmpiLt d (rg (fA w)) ti (fImm w)))
  | 3 => some (do let d ← prOf (fD w); let ti ← tiOf (fTi w); fin true (.cmpiGe d (rg (fA w)) ti (fImm w)))
  | 4 => some (do let d ← prOf (fD w); let ti ← tiOf (fTi w); fin true (.cmpiLtu d (rg (fA w)) ti (fImm w)))
  | 5 => some (do let d ← prOf (fD w); let ti ← tiOf (fTi w); fin true (.cmpiGeu d (rg (fA w)) ti (fImm w)))
  | _ => none

/-- The instructions of OP 0x12 by FN (02 R47). -/
def dec12 (fn : Nat) (w : Code) : Option (Option Instr) :=
  match fn with
  | 0 => some (do let d ← prOf (fD w); fin (fB w = 0 && fC w = 0 && low25Z w) (.pset d (rg (fA w))))
  | 1 => some (do let d ← prOf (fD w); let a ← prOf (fA w); let b ← prOf (fB w); fin (fC w = 0 && low25Z w) (.pand d a b))
  | 2 => some (do let d ← prOf (fD w); let a ← prOf (fA w); let b ← prOf (fB w); fin (fC w = 0 && low25Z w) (.por d a b))
  | 3 => some (do let d ← prOf (fD w); let a ← prOf (fA w); let b ← prOf (fB w); fin (fC w = 0 && low25Z w) (.pxor d a b))
  | 4 => some (do let d ← prOf (fD w); let a ← prOf (fA w); fin (fB w = 0 && fC w = 0 && low25Z w) (.pnot d a))
  | _ => none

/-- The instructions of OP 0x18 by FN (02 R47). -/
def dec18 (fn : Nat) (w : Code) : Option (Option Instr) :=
  match fn with
  | 0 => some (do let cc ← condOf (fTi w); fin true (.br cc (rg (fD w)) (rg (fA w)) (fImm w)))
  | _ => none

/-- The instructions of OP 0x19 by FN (02 R47). -/
def dec19 (fn : Nat) (w : Code) : Option (Option Instr) :=
  match fn with
  | 0 => some (fin (fD w = 0 && fA w = 0 && fTi w = 0) (.jmp (fImm w)))
  | 1 => some (fin (fA w = 0 && fTi w = 0) (.jal (rg (fD w)) (fImm w)))
  | _ => none

/-- The instructions of OP 0x1A by FN (02 R47). -/
def dec1A (fn : Nat) (w : Code) : Option (Option Instr) :=
  match fn with
  | 0 => some (fin (fTi w = 0) (.jalr (rg (fD w)) (rg (fA w)) (fImm w)))
  | _ => none

/-- The instructions of OP 0x1B by FN (02 R47). -/
def dec1B (fn : Nat) (w : Code) : Option (Option Instr) :=
  match fn with
  | 0 => some (fin (fA w = 0 && fTi w = 0) (.loop (rg (fD w)) (fImm w)))
  | _ => none

/-- The instructions of OP 0x20 by FN (02 R47). -/
def dec20 (fn : Nat) (w : Code) : Option (Option Instr) :=
  match fn with
  | 0 => some (do let sz ← szOf (fSz w); let sc ← scOf (fSc w); let od ← ordOf (fOrd w); fin true (.ld (rg (fD w)) (rg (fA w)) (rg (fB w)) sz sc od (fOff w)))
  | 1 => some (do let sz ← szOf (fSz w); fin (fSc w = 0 && fOrd w = 0) (.ldLoc (rg (fD w)) (rg (fA w)) (rg (fB w)) sz (fOff w)))
  | _ => none

/-- The instructions of OP 0x21 by FN (02 R47). -/
def dec21 (fn : Nat) (w : Code) : Option (Option Instr) :=
  match fn with
  | 0 => some (do let sz ← szOf (fSz w); let sc ← scOf (fSc w); let od ← ordOf (fOrd w); fin true (.st (rg (fD w)) (rg (fA w)) (rg (fB w)) sz sc od (fOff w)))
  | 1 => some (do let sz ← szOf (fSz w); fin (fSc w = 0 && fOrd w = 0) (.stLoc (rg (fD w)) (rg (fA w)) (rg (fB w)) sz (fOff w)))
  | _ => none

/-- The instructions of OP 0x22 by FN (02 R47). -/
def dec22 (fn : Nat) (w : Code) : Option (Option Instr) :=
  match fn with
  | 0 => some (do let sz ← szOf (fSz w); let sc ← scOf (fSc w); let od ← ordOf (fOrd w); fin true (.amoAdd (rg (fD w)) (rg (fA w)) (rg (fB w)) sz sc od (fOff w)))
  | 1 => some (do let sz ← szOf (fSz w); let sc ← scOf (fSc w); let od ← ordOf (fOrd w); fin true (.amoAnd (rg (fD w)) (rg (fA w)) (rg (fB w)) sz sc od (fOff w)))
  | 2 => some (do let sz ← szOf (fSz w); let sc ← scOf (fSc w); let od ← ordOf (fOrd w); fin true (.amoOr (rg (fD w)) (rg (fA w)) (rg (fB w)) sz sc od (fOff w)))
  | 3 => some (do let sz ← szOf (fSz w); let sc ← scOf (fSc w); let od ← ordOf (fOrd w); fin true (.amoXor (rg (fD w)) (rg (fA w)) (rg (fB w)) sz sc od (fOff w)))
  | 4 => some (do let sz ← szOf (fSz w); let sc ← scOf (fSc w); let od ← ordOf (fOrd w); fin true (.amoMin (rg (fD w)) (rg (fA w)) (rg (fB w)) sz sc od (fOff w)))
  | 5 => some (do let sz ← szOf (fSz w); let sc ← scOf (fSc w); let od ← ordOf (fOrd w); fin true (.amoMax (rg (fD w)) (rg (fA w)) (rg (fB w)) sz sc od (fOff w)))
  | 6 => some (do let sz ← szOf (fSz w); let sc ← scOf (fSc w); let od ← ordOf (fOrd w); fin true (.amoMinu (rg (fD w)) (rg (fA w)) (rg (fB w)) sz sc od (fOff w)))
  | 7 => some (do let sz ← szOf (fSz w); let sc ← scOf (fSc w); let od ← ordOf (fOrd w); fin true (.amoMaxu (rg (fD w)) (rg (fA w)) (rg (fB w)) sz sc od (fOff w)))
  | 8 => some (do let sz ← szOf (fSz w); let sc ← scOf (fSc w); let od ← ordOf (fOrd w); fin true (.amoSwap (rg (fD w)) (rg (fA w)) (rg (fB w)) sz sc od (fOff w)))
  | _ => none

/-- The instructions of OP 0x23 by FN (02 R47). -/
def dec23 (fn : Nat) (w : Code) : Option (Option Instr) :=
  match fn with
  | 0 => some (do let sz ← szOf (fSz w); fin (fSc w = 0 && fOrd w = 0) (.amoLocAdd (rg (fD w)) (rg (fA w)) (rg (fB w)) sz (fOff w)))
  | 1 => some (do let sz ← szOf (fSz w); fin (fSc w = 0 && fOrd w = 0) (.amoLocAnd (rg (fD w)) (rg (fA w)) (rg (fB w)) sz (fOff w)))
  | 2 => some (do let sz ← szOf (fSz w); fin (fSc w = 0 && fOrd w = 0) (.amoLocOr (rg (fD w)) (rg (fA w)) (rg (fB w)) sz (fOff w)))
  | 3 => some (do let sz ← szOf (fSz w); fin (fSc w = 0 && fOrd w = 0) (.amoLocXor (rg (fD w)) (rg (fA w)) (rg (fB w)) sz (fOff w)))
  | 4 => some (do let sz ← szOf (fSz w); fin (fSc w = 0 && fOrd w = 0) (.amoLocMin (rg (fD w)) (rg (fA w)) (rg (fB w)) sz (fOff w)))
  | 5 => some (do let sz ← szOf (fSz w); fin (fSc w = 0 && fOrd w = 0) (.amoLocMax (rg (fD w)) (rg (fA w)) (rg (fB w)) sz (fOff w)))
  | 6 => some (do let sz ← szOf (fSz w); fin (fSc w = 0 && fOrd w = 0) (.amoLocMinu (rg (fD w)) (rg (fA w)) (rg (fB w)) sz (fOff w)))
  | 7 => some (do let sz ← szOf (fSz w); fin (fSc w = 0 && fOrd w = 0) (.amoLocMaxu (rg (fD w)) (rg (fA w)) (rg (fB w)) sz (fOff w)))
  | 8 => some (do let sz ← szOf (fSz w); fin (fSc w = 0 && fOrd w = 0) (.amoLocSwap (rg (fD w)) (rg (fA w)) (rg (fB w)) sz (fOff w)))
  | _ => none

/-- The instructions of OP 0x24 by FN (02 R47). -/
def dec24 (fn : Nat) (w : Code) : Option (Option Instr) :=
  match fn with
  | 0 => some (do let sz ← szOf (fSz w); let sc ← scOf (fSc w); let od ← ordOf (fOrd w); fin true (.cas (rg (fD w)) (rg (fA w)) (rg (fB w)) sz sc od (fOff w)))
  | 1 => some (do let sz ← szOf (fSz w); fin (fSc w = 0 && fOrd w = 0) (.casLoc (rg (fD w)) (rg (fA w)) (rg (fB w)) sz (fOff w)))
  | _ => none

/-- The instructions of OP 0x25 by FN (02 R47). -/
noncomputable def dec25 (fn : Nat) (w : Code) : Option (Option Instr) :=
  match fn with
  | 0 => some (do let sc ← scOf (fSc w); let od ← ordOf (fOrd w); fin (fSz w = 3) (.spill (rg (fD w)) (rg (fB w)) (rg (fA w)) sc od (fOff w)))
  | 1 => some (do let sc ← scOf (fSc w); let od ← ordOf (fOrd w); fin (fSz w = 3) (.fill (rg (fD w)) (rg (fB w)) (rg (fA w)) sc od (fOff w)))
  | _ => none

/-- The instructions of OP 0x26 by FN (02 R47). -/
noncomputable def dec26 (fn : Nat) (w : Code) : Option (Option Instr) :=
  match fn with
  | 0 => some (do let sc ← scOf (fSc w); let od ← ordOf (fOrd w); fin (fD w = 0 && fA w = 0 && fB w = 0 && fSz w = 0 && fOff w = 0) (.fence sc od))
  | 1 => some (fin (nbitsZ w 0 45) .fenceF)
  | _ => none

/-- The instructions of OP 0x40 by FN (02 R47). -/
noncomputable def dec40 (fn : Nat) (w : Code) : Option (Option Instr) :=
  match fn with
  | 0 => some (fin (fB w = 0 && fSz w = 0 && fSc w = 0 && fOrd w = 0) (.dictLd (rg (fD w)) (rg (fA w)) (fOff w)))
  | 1 => some (fin (nbitsZ w 0 45) .dictCommit)
  | 2 => some (fin (fB w = 0 && fC w = 0 && nbitsZ w 2 23) (.dictRd (rg (fD w)) (rg (fA w)) (bit w 1) (bit w 0)))
  | 3 => some (fin (fA w = 0 && fB w = 0 && fC w = 0 && nbitsZ w 1 24) (if bit w 0 then .dictGenId (rg (fD w)) else .dictGen (rg (fD w))))
  | _ => none

/-- The instructions of OP 0x41 by FN (02 R47). -/
noncomputable def dec41 (fn : Nat) (w : Code) : Option (Option Instr) :=
  match fn with
  | 0 => some (fin (fB w = 0 && fC w = 0 && nbitsZ w 3 22) (.cfgLd (rg (fD w)) (rg (fA w)) (bit w 2) (f4 w 0)))
  | 1 => some (fin (nbitsZ w 2 43) (.cfgCommit (f4 w 0)))
  | 2 => some (fin (fD w = 0 && fB w = 0 && fC w = 0 && nbitsZ w 3 22 && (bit w 2 || fA w = 0)) (if bit w 2 then .cfgDropImg (rg (fA w)) else .cfgDrop (f4 w 0)))
  | 3 => some (fin (fB w = 0 && fC w = 0 && nbitsZ w 2 23 && !(bit w 0 && bit w 1) && (bit w 0 || fA w = 0)) (if bit w 0 then .cfgQImg (rg (fD w)) (rg (fA w)) else if bit w 1 then .cfgQRsv (rg (fD w)) else .cfgQPly (rg (fD w))))
  | _ => none

/-- The instructions of OP 0x42 by FN (02 R47). -/
noncomputable def dec42 (fn : Nat) (w : Code) : Option (Option Instr) :=
  match fn with
  | 0 => some (fin (fD w = 0 && fB w = 0 && fC w = 0 && low25Z w) (.rgnOpen (rg (fA w))))
  | 1 => some (fin (fA w = 0 && fB w = 0 && fC w = 0 && low25Z w) (.rgnWait (rg (fD w))))
  | 2 => some (fin (nbitsZ w 1 44) (if bit w 0 then .rgnCloseAbort else .rgnClose))
  | _ => none

/-- The instructions of OP 0x43 by FN (02 R47). -/
noncomputable def dec43 (fn : Nat) (w : Code) : Option (Option Instr) :=
  match fn with
  | 0 => some (fin (fD w = 0 && fC w = 0 && nbitsZ w 3 22 && (bit w 0 || nbitsZ w 1 2)) (if bit w 0 then .portBindFar (rg (fA w)) (rg (fB w)) (f4 w 1) else .portBindHnd (rg (fA w)) (rg (fB w))))
  | 1 => some (fin (fD w = 0 && fA w = 0 && fC w = 0 && nbitsZ w 3 22 && (bit w 0 || nbitsZ w 1 2)) (if bit w 0 then .portUnbindFar (rg (fB w)) (f4 w 1) else .portUnbindHnd (rg (fB w))))
  | _ => none

/-- The instructions of OP 0x44 by FN (02 R47). -/
noncomputable def dec44 (fn : Nat) (w : Code) : Option (Option Instr) :=
  match fn with
  | 0 => some (fin (fD w = 0 && fB w = 0 && fC w = 0 && nbitsZ w 4 21) (.permitK (rg (fA w)) (w.extractLsb' 0 4)))
  | _ => none

/-- The instructions of OP 0x45 by FN (02 R47). -/
noncomputable def dec45 (fn : Nat) (w : Code) : Option (Option Instr) :=
  match fn with
  | 0 => some (fin (fB w = 0 && fC w = 0 && nbitsZ w 5 20) (.qrsv (rg (fD w)) (rg (fA w)) (w.extractLsb' 0 5)))
  | 1 => some (fin (fD w = 0 && low25Z w) (.qpush (rg (fA w)) (rg (fB w)) (rg (fC w))))
  | _ => none

/-- The instructions of OP 0x46 by FN (02 R47). -/
noncomputable def dec46 (fn : Nat) (w : Code) : Option (Option Instr) :=
  match fn with
  | 0 => some (fin (fD w = 0 && fB w = 0 && fC w = 0 && low25Z w) (.policyLd (rg (fA w))))
  | 1 => some (fin (fA w = 0 && fB w = 0 && fC w = 0 && low25Z w) (.policySwap (rg (fD w))))
  | _ => none

/-- The instructions of OP 0x48 by FN (02 R47). -/
noncomputable def dec48 (fn : Nat) (w : Code) : Option (Option Instr) :=
  match fn with
  | 0 => some (fin (fD w = 0 && fB w = 0 && fC w = 0 && nbitsZ w 4 21) (.strAff (rg (fA w)) (f16 w 0)))
  | 1 => some (fin (fD w = 0 && fB w = 0 && fC w = 0 && nbitsZ w 4 21) (.strInd (rg (fA w)) (f16 w 0)))
  | 2 => some (fin (fD w = 0 && fB w = 0 && fC w = 0 && nbitsZ w 4 21) (.strGo (rg (fA w)) (f16 w 0)))
  | 3 => some (fin (nbitsZ w 16 29) (.strBar (w.extractLsb' 0 16)))
  | 4 => some (fin (nbitsZ w 16 24) (.strWait (rg (fD w)) (w.extractLsb' 0 16)))
  | _ => none

/-- The instructions of OP 0x49 by FN (02 R47). -/
noncomputable def dec49 (fn : Nat) (w : Code) : Option (Option Instr) :=
  match fn with
  | 0 => some (fin (fC w = 0 && nbitsZ w 6 19) (.winSet (rg (fD w)) (rg (fA w)) (rg (fB w)) (f4 w 4) (f16 w 0)))
  | 1 => some (fin (nbitsZ w 7 38) (.winClr (bit w 6) (f4 w 4) (f16 w 0)))
  | _ => none

/-- The instructions of OP 0x50 by FN (02 R47). -/
noncomputable def dec50 (fn : Nat) (w : Code) : Option (Option Instr) :=
  match fn with
  | 0 => some (fin (nbitsZ w 0 45) .nop)
  | 1 => some (fin (nbitsZ w 0 45) .yield)
  | 2 => some (fin (nbitsZ w 0 45) .halt)
  | 3 => some (fin (nbitsZ w 16 29) (.brk (w.extractLsb' 0 16)))
  | _ => none

/-- The instructions of OP 0x51 by FN (02 R47). -/
noncomputable def dec51 (fn : Nat) (w : Code) : Option (Option Instr) :=
  match fn with
  | 0 => some (fin (fD w = 0 && fA w = 0 && fTi w = 1) (.trap (fImm w)))
  | 1 => some (fin (nbitsZ w 0 45) .eret)
  | _ => none

/-- The instructions of OP 0x52 by FN (02 R47) (log 20) -/
noncomputable def dec52 (fn : Nat) (w : Code) : Option (Option Instr) :=
  match fn with
  | 0 => some (fin (fA w = 0 && fTi w = 1 && nbitsZ w 12 20) (.crr (rg (fD w)) (w.extractLsb' 0 12)))
  | 1 => some (fin (fD w = 0 && fTi w = 1 && nbitsZ w 12 20) (.crw (w.extractLsb' 0 12) (rg (fA w))))
  | _ => none

/-- The instructions of OP 0x53 by FN (02 R47). -/
noncomputable def dec53 (fn : Nat) (w : Code) : Option (Option Instr) :=
  match fn with
  | 0 => some (fin (fB w = 0 && fC w = 0 && low25Z w) (.evpop (rg (fD w)) (rg (fA w))))
  | 1 => some (fin (fB w = 0 && fC w = 0 && low25Z w) (.evwait (rg (fD w)) (rg (fA w))))
  | _ => none

/-- The instructions of OP 0x54 by FN (02 R47). -/
noncomputable def dec54 (fn : Nat) (w : Code) : Option (Option Instr) :=
  match fn with
  | 0 => some (fin (fA w = 0 && fB w = 0 && fC w = 0 && low25Z w) (.cyc (rg (fD w))))
  | _ => none

/-- The instructions of OP 0x60 by FN (02 R47). -/
def dec60 (fn : Nat) (w : Code) : Option (Option Instr) :=
  match fn with
  | 0 => some (decV3 .vadd w)
  | 1 => some (decV3 .vsub w)
  | 2 => some (decV3 .vadds w)
  | 3 => some (decV3 .vsubs w)
  | 4 => some (decV3 .vmul w)
  | 5 => some (decV3 .vmulh w)
  | 6 => some (do let d ← edOf (fD w); let a ← esOf (fA w); let b ← esOf (fB w); let c ← esOf (fC w); let t ← tyOf (fT w); fin (fRm w = 0 && low18Z w) (.vmad d a b c t))
  | 7 => some (do let d ← edOf (fD w); let a ← esOf (fA w); let t ← tyOf (fT w); fin (fB w = 0 && fC w = 0 && fRm w = 0 && low18Z w) (.vabs d a t))
  | 8 => some (do let d ← edOf (fD w); let a ← esOf (fA w); let t ← tyOf (fT w); fin (fB w = 0 && fC w = 0 && fRm w = 0 && low18Z w) (.vneg d a t))
  | _ => none

/-- The instructions of OP 0x61 by FN (02 R47). -/
def dec61 (fn : Nat) (w : Code) : Option (Option Instr) :=
  match fn with
  | 0 => some (decV3 .vmin w)
  | 1 => some (decV3 .vmax w)
  | 2 => some (do let d ← edOf (fD w); let a ← esOf (fA w); let b ← esOf (fB w); fin (fC w = 0 && low25Z w) (.vand d a b))
  | 3 => some (do let d ← edOf (fD w); let a ← esOf (fA w); let b ← esOf (fB w); fin (fC w = 0 && low25Z w) (.vor d a b))
  | 4 => some (do let d ← edOf (fD w); let a ← esOf (fA w); let b ← esOf (fB w); fin (fC w = 0 && low25Z w) (.vxor d a b))
  | 5 => some (do let d ← edOf (fD w); let a ← esOf (fA w); let b ← esOf (fB w); fin (fC w = 0 && low25Z w) (.vandn d a b))
  | 6 => some (do let d ← edOf (fD w); let a ← esOf (fA w); fin (fB w = 0 && fC w = 0 && low25Z w) (.vnot d a))
  | 7 => some (decV3 .vshl w)
  | 8 => some (decV3 .vshr w)
  | 9 => some (decV3 .vsra w)
  | 10 => some (do let d ← edOf (fD w); let a ← esOf (fA w); let t ← tyOf (fT w); fin (fB w = 0 && fC w = 0 && fRm w = 0 && low18Z w) (.vpopc d a t))
  | 11 => some (do let d ← edOf (fD w); let a ← esOf (fA w); let t ← tyOf (fT w); fin (fB w = 0 && fC w = 0 && fRm w = 0 && low18Z w) (.vclz d a t))
  | _ => none

/-- The instructions of OP 0x62 by FN (02 R47). -/
def dec62 (fn : Nat) (w : Code) : Option (Option Instr) :=
  match fn with
  | 0 => some (do let d ← edOf (fD w); let a ← esOf (fA w); let b ← esOf (fB w); let p ← prOf (fC w); let t ← tyOf (fT w); fin (fRm w = 0 && low18Z w) (.vcmpEq d a b t p))
  | 1 => some (do let d ← edOf (fD w); let a ← esOf (fA w); let b ← esOf (fB w); let p ← prOf (fC w); let t ← tyOf (fT w); fin (fRm w = 0 && low18Z w) (.vcmpNe d a b t p))
  | 2 => some (do let d ← edOf (fD w); let a ← esOf (fA w); let b ← esOf (fB w); let p ← prOf (fC w); let t ← tyOf (fT w); fin (fRm w = 0 && low18Z w) (.vcmpLt d a b t p))
  | 3 => some (do let d ← edOf (fD w); let a ← esOf (fA w); let b ← esOf (fB w); let p ← prOf (fC w); let t ← tyOf (fT w); fin (fRm w = 0 && low18Z w) (.vcmpLe d a b t p))
  | 4 => some (do let d ← edOf (fD w); let a ← esOf (fA w); let b ← esOf (fB w); let p ← prOf (fC w); let t ← tyOf (fT w); fin (fRm w = 0 && low18Z w) (.vcmpGt d a b t p))
  | 5 => some (do let d ← edOf (fD w); let a ← esOf (fA w); let b ← esOf (fB w); let p ← prOf (fC w); let t ← tyOf (fT w); fin (fRm w = 0 && low18Z w) (.vcmpGe d a b t p))
  | _ => none

/-- The instructions of OP 0x63 by FN (02 R47). -/
def dec63 (fn : Nat) (w : Code) : Option (Option Instr) :=
  match fn with
  | 0 => some (do let d ← edOf (fD w); let a ← esOf (fA w); let b ← esOf (fB w); let c ← esOf (fC w); fin (low25Z w) (.vsel d a b c))
  | 1 => some (do let d ← edOf (fD w); let a ← esOf (fA w); let b ← esOf (fB w); let c ← esOf (fC w); fin (low25Z w) (.vperm d a b c))
  | 2 => some (decV3 .vpack w)
  | 3 => some (do let d ← edOf (fD w); let a ← esOf (fA w); let t ← tyOf (fT w); fin (fB w = 0 && fC w = 0 && fRm w = 0 && low18Z w) (.vunpk d a t))
  | _ => none

/-- The instructions of OP 0x68 by FN (02 R47). -/
def dec68 (fn : Nat) (w : Code) : Option (Option Instr) :=
  match fn with
  | 0 => some (do let d ← edOf (fD w); let a ← esOf (fA w); let b ← esOf (fB w); let t ← tyOf (fT w); let m ← rmOf (fRm w); fin (fC w = 0 && low18Z w) (.fadd d a b t m))
  | 1 => some (do let d ← edOf (fD w); let a ← esOf (fA w); let b ← esOf (fB w); let t ← tyOf (fT w); let m ← rmOf (fRm w); fin (fC w = 0 && low18Z w) (.fsub d a b t m))
  | 2 => some (do let d ← edOf (fD w); let a ← esOf (fA w); let b ← esOf (fB w); let t ← tyOf (fT w); let m ← rmOf (fRm w); fin (fC w = 0 && low18Z w) (.fmul d a b t m))
  | 3 => some (do let d ← edOf (fD w); let a ← esOf (fA w); let b ← esOf (fB w); let c ← esOf (fC w); let t ← tyOf (fT w); let m ← rmOf (fRm w); fin (low18Z w) (.ffma d a b c t m))
  | 4 => some (decV3 .fmin w)
  | 5 => some (decV3 .fmax w)
  | 6 => some (do let d ← edOf (fD w); let a ← esOf (fA w); let t ← tyOf (fT w); fin (fB w = 0 && fC w = 0 && fRm w = 0 && low18Z w) (.fabs d a t))
  | 7 => some (do let d ← edOf (fD w); let a ← esOf (fA w); let t ← tyOf (fT w); fin (fB w = 0 && fC w = 0 && fRm w = 0 && low18Z w) (.fneg d a t))
  | _ => none

/-- The instructions of OP 0x69 by FN (02 R47). -/
def dec69 (fn : Nat) (w : Code) : Option (Option Instr) :=
  match fn with
  | 0 => some (do let d ← edOf (fD w); let a ← esOf (fA w); let b ← esOf (fB w); let p ← prOf (fC w); let t ← tyOf (fT w); fin (fRm w = 0 && low18Z w) (.fcmpEq d a b t p))
  | 1 => some (do let d ← edOf (fD w); let a ← esOf (fA w); let b ← esOf (fB w); let p ← prOf (fC w); let t ← tyOf (fT w); fin (fRm w = 0 && low18Z w) (.fcmpNe d a b t p))
  | 2 => some (do let d ← edOf (fD w); let a ← esOf (fA w); let b ← esOf (fB w); let p ← prOf (fC w); let t ← tyOf (fT w); fin (fRm w = 0 && low18Z w) (.fcmpLt d a b t p))
  | 3 => some (do let d ← edOf (fD w); let a ← esOf (fA w); let b ← esOf (fB w); let p ← prOf (fC w); let t ← tyOf (fT w); fin (fRm w = 0 && low18Z w) (.fcmpLe d a b t p))
  | 4 => some (do let d ← edOf (fD w); let a ← esOf (fA w); let b ← esOf (fB w); let p ← prOf (fC w); let t ← tyOf (fT w); fin (fRm w = 0 && low18Z w) (.fcmpGt d a b t p))
  | 5 => some (do let d ← edOf (fD w); let a ← esOf (fA w); let b ← esOf (fB w); let p ← prOf (fC w); let t ← tyOf (fT w); fin (fRm w = 0 && low18Z w) (.fcmpGe d a b t p))
  | 6 => some (do let d ← edOf (fD w); let a ← esOf (fA w); let b ← esOf (fB w); let p ← prOf (fC w); let t ← tyOf (fT w); fin (fRm w = 0 && low18Z w) (.fcmpUn d a b t p))
  | _ => none

/-- The instructions of OP 0x6A by FN (02 R47). -/
def dec6A (fn : Nat) (w : Code) : Option (Option Instr) :=
  match fn with
  | 0 => some (do let d ← edOf (fD w); let a ← esOf (fA w); let t ← tyOf (fT w); fin (fB w = 0 && fC w = 0 && fRm w = 0 && low18Z w) (.fclass d a t))
  | 1 => some (do let d ← edOf (fD w); let a ← esOf (fA w); let b ← esOf (fB w); let t ← tyOf (fT w); let m ← rmOf (fRm w); fin (fC w = 0 && low18Z w) (.fdiv d a b t m))
  | 2 => some (do let d ← edOf (fD w); let a ← esOf (fA w); let t ← tyOf (fT w); let m ← rmOf (fRm w); fin (fB w = 0 && fC w = 0 && low18Z w) (.fsqrt d a t m))
  | 3 => some (do let d ← edOf (fD w); let a ← esOf (fA w); let t ← tyOf (fT w); let m ← rmOf (fRm w); fin (fB w = 0 && fC w = 0 && low18Z w) (.frcp d a t m))
  | 4 => some (do let d ← edOf (fD w); let a ← esOf (fA w); let t ← tyOf (fT w); let m ← rmOf (fRm w); fin (fB w = 0 && fC w = 0 && low18Z w) (.frsq d a t m))
  | 5 => some (do let d ← edOf (fD w); let a ← esOf (fA w); let t ← tyOf (fT w); let m ← rmOf (fRm w); fin (fB w = 0 && fC w = 0 && low18Z w) (.fexp2 d a t m))
  | 6 => some (do let d ← edOf (fD w); let a ← esOf (fA w); let t ← tyOf (fT w); let m ← rmOf (fRm w); fin (fB w = 0 && fC w = 0 && low18Z w) (.flog2 d a t m))
  | _ => none

/-- The instructions of OP 0x6B by FN (02 R47). -/
def dec6B (fn : Nat) (w : Code) : Option (Option Instr) :=
  match fn with
  | 0 => some (do let d ← edOf (fD w); let a ← esOf (fA w); let ts ← tyOf (fT w); let td ← tyOf (w.extractLsb' 30 4); let m ← rmOf (fRm w); fin (!(bit w 34) && !(bit w 29) && low18Z w) (.cvt d a ts td (w.extractLsb' 25 4) m))
  | _ => none

/-- The instructions of OP 0x6C by FN (02 R47). -/
def dec6C (fn : Nat) (w : Code) : Option (Option Instr) :=
  match fn with
  | 0 => some (do let d ← edOf (fD w); let a ← esOf (fA w); let b ← esOf (fB w); let m ← rmOf (fRm w); fin (nbitsZ w 26 4 && fT w = 10 && low18Z w) (.crsub d a b (bit w 25) m))
  | _ => none

/-- The instructions of OP 0x6D by FN (02 R47). -/
def dec6D (fn : Nat) (w : Code) : Option (Option Instr) :=
  match fn with
  | 0 => some (do let d ← edOf (fD w); let a ← esOf (fA w); let b ← esOf (fB w); let c ← esOf (fC w); let t ← tyOf (fT w); let m ← rmOf (fRm w); fin (low18Z w) (.dot d a b c t m))
  | _ => none

/-- The instructions of OP 0x80 by FN (02 R47). -/
def dec80 (fn : Nat) (w : Code) : Option (Option Instr) :=
  match fn with
  | 0 => some (do let d ← edOf (fD w); let a ← esOf (fA w); fin (fB w = 0 && fC w = 0 && low25Z w) (.mov d a))
  | _ => none

/-- The instructions of OP 0x81 by FN (02 R47). -/
def dec81 (fn : Nat) (w : Code) : Option (Option Instr) :=
  match fn with
  | 0 => some (do let d ← edOf (fD w); let ti ← tiOf (fTi w); fin (fA w = 0) (.const d ti (fImm w)))
  | 1 => some (do let d ← edOf (fD w); let a ← esOf (fA w); fin (fTi w = 1 && nbitsZ w 5 27) (.tagi d a (bit w 4) (w.extractLsb' 0 4)))
  | _ => none

/-- The instructions of OP 0x82 by FN (02 R47). -/
def dec82 (fn : Nat) (w : Code) : Option (Option Instr) :=
  match fn with
  | 0 => some (do let d ← edOf (fD w); let a ← esOf (fA w); let s ← steerOf w; fin (fC w = 0 && nbitsZ w 16 9) (.steer d a ⟨s, w.extractLsb' 12 4, w.extractLsb' 4 4, w.extractLsb' 0 4⟩))
  | 1 => some (do let d ← edOf (fD w); fin (fA w = 0 && fB w = 0 && fC w = 0 && nbitsZ w 10 15 && nbitsZ w 6 2 && nbitsZ w 2 2) (.merge d (f4 w 8) (f4 w 4) (f4 w 0)))
  | 2 => some (do let d ← edOf (fD w); fin (fA w = 0 && fB w = 0 && fC w = 0 && nbitsZ w 20 5 && nbitsZ w 6 6 && nbitsZ w 2 2) (.mergeu d (w.extractLsb' 16 4) (w.extractLsb' 12 4) (f4 w 4) (f4 w 0)))
  | 3 => some (do let d ← edOf (fD w); let a ← esOf (fA w); fin (fB w = 0 && fC w = 0 && nbitsZ w 4 21) (.gate d a (w.extractLsb' 0 4)))
  | 4 => some (do let d ← edOf (fD w); fin (fA w = 0 && fB w = 0 && fC w = 0 && nbitsZ w 10 15 && nbitsZ w 6 2 && nbitsZ w 0 4) (.permit d (f4 w 8) (f4 w 4)))
  | _ => none

/-- The instructions of OP 0x83 by FN (02 R47). -/
def dec83 (fn : Nat) (w : Code) : Option (Option Instr) :=
  match fn with
  | 0 => some (do let d ← edOf (fD w); let a ← esOf (fA w); fin (fB w = 0 && fC w = 0 && nbitsZ w 1 24) (.eos d a (bit w 0)))
  | 1 => some (do let d ← edOf (fD w); let a ← esOf (fA w); fin (fB w = 0 && fC w = 0 && nbitsZ w 9 16) (.sink d a (bit w 8) (w.extractLsb' 0 8)))
  | 2 => some (do let a ← esOf (fA w); fin (fD w = 31 && fB w = 0 && fC w = 0 && low25Z w) (.mark a))
  | _ => none

/-- The instructions of OP 0x84 by FN (02 R47). -/
def dec84 (fn : Nat) (w : Code) : Option (Option Instr) :=
  match fn with
  | 0 => some (do let a ← esOf (fA w); let t ← tyOf (fT w); fin (fD w = 31 && fB w = 0 && fRm w = 0 && low18Z w) (.redMin a t (f4 w 28) (f8 w 25)))
  | 1 => some (do let a ← esOf (fA w); let t ← tyOf (fT w); fin (fD w = 31 && fB w = 0 && fRm w = 0 && low18Z w) (.redMax a t (f4 w 28) (f8 w 25)))
  | 2 => some (do let a ← esOf (fA w); let t ← tyOf (fT w); fin (fD w = 31 && fB w = 0 && fRm w = 0 && low18Z w) (.redSum a t (f4 w 28) (f8 w 25)))
  | _ => none

/-- The instructions of OP 0x85 by FN (02 R47). -/
def dec85 (fn : Nat) (w : Code) : Option (Option Instr) :=
  match fn with
  | 0 => some (do let a ← esOf (fA w); let b ← esOf (fB w); fin (fD w = 31 && fC w = 0 && low25Z w) (.send a b))
  | 1 => some (do let d ← edOf (fD w); let a ← esOf (fA w); fin (fB w = 0 && fC w = 0 && nbitsZ w 5 20) (.rsv d a (w.extractLsb' 0 5)))
  | 2 => some (do let d ← edOf (fD w); let a ← esOf (fA w); let b ← esOf (fB w); fin (fC w = 0 && low25Z w) (.enq d a b))
  | 3 => some (do let d ← edOf (fD w); let a ← esOf (fA w); fin (fB w = 0 && fC w = 0 && nbitsZ w 9 16) (.amplify d a (w.extractLsb' 0 9)))
  | _ => none

/-- The instructions of OP 0xA0 by FN (02 R47). -/
def decA0 (fn : Nat) (w : Code) : Option (Option Instr) :=
  match fn with
  | 0 => some (do let t ← mtyOf (w.extractLsb' 0 4); fin (fD w = 0 && fB w = 0 && fC w = 0 && nbitsZ w 9 16 && nbitsZ w 4 4) (.mxLdb (rg (fA w)) (f2 w 8) t))
  | 1 => some (fin (fD w = 0 && fB w = 0 && fC w = 0 && nbitsZ w 9 16 && nbitsZ w 2 6) (.mxScale (rg (fA w)) (f2 w 8) (bit w 1) (bit w 0)))
  | 2 => some (fin (fD w = 0 && fB w = 0 && fC w = 0 && low25Z w) (.mxThr (rg (fA w))))
  | 3 => some (fin (fD w = 0 && fC w = 0 && low25Z w) (.mxSamp (rg (fA w)) (rg (fB w))))
  | _ => none

/-- The instructions of OP 0xA1 by FN (02 R47). -/
def decA1 (fn : Nat) (w : Code) : Option (Option Instr) :=
  match fn with
  | 0 => some (do let t ← mtyOf (w.extractLsb' 0 4); fin (fD w = 0 && fC w = 0 && nbitsZ w 12 13 && nbitsZ w 5 3) (.mm (rg (fA w)) (rg (fB w)) (mmOpts w t)))
  | 1 => some (do let t ← mtyOf (w.extractLsb' 0 4); fin (fD w = 0 && fC w = 0 && nbitsZ w 12 13 && nbitsZ w 5 3) (.mmz (rg (fA w)) (rg (fB w)) (mmOpts w t)))
  | 2 => some (do let t ← mtyOf (w.extractLsb' 0 4); fin (fD w = 0 && fC w = 0 && nbitsZ w 13 12 && nbitsZ w 5 3) (.mmr (rg (fA w)) (rg (fB w)) (bit w 12) (mmOpts w t)))
  | _ => none

/-- The instructions of OP 0xA2 by FN (02 R47). -/
def decA2 (fn : Nat) (w : Code) : Option (Option Instr) :=
  match fn with
  | 0 => some (do let t ← drainOf (w.extractLsb' 0 4); let m ← rmOf (fRm w); fin (fD w = 0 && fC w = 0 && nbitsZ w 21 4 && nbitsZ w 13 5 && nbitsZ w 5 6) (.mxDrain (rg (fA w)) (rg (fB w)) m (bit w 12) (bit w 11) (f2 w 4) t))
  | 1 => some (fin (nbitsZ w 5 40) (.mxWait (w.extractLsb' 0 5)))
  | 2 => some (fin (fD w = 0 && fB w = 0 && fC w = 0 && nbitsZ w 1 24 && (!(bit w 0) || fA w = 0)) (if bit w 0 then .mxGangLeave else .mxGang (rg (fA w))))
  | _ => none

/-- The instructions of OP 0xA3 by FN (02 R47). -/
def decA3 (fn : Nat) (w : Code) : Option (Option Instr) :=
  match fn with
  | 0 => some (fin (fD w = 0 && fC w = 0) (.mxEdge (rg (fA w)) (rg (fB w)) (w.extractLsb' 17 8) (w.extractLsb' 9 8) (f4 w 7) (w.extractLsb' 0 7)))
  | _ => none

/-- The instructions of OP 0xB0 by FN (02 R47). -/
def decB0 (fn : Nat) (w : Code) : Option (Option Instr) :=
  match fn with
  | 0 => some (do let d ← edOf (fD w); let a ← esOf (fA w); let b ← esOf (fB w); let sz ← szOf (fSz w); let sc ← scOf (fSc w); let od ← ordOf (fOrd w); fin true (.ldq d a b sz sc od (fOff w)))
  | 1 => some (do let d ← esOf (fD w); let a ← esOf (fA w); let b ← esOf (fB w); let sz ← szOf (fSz w); let sc ← scOf (fSc w); let od ← ordOf (fOrd w); fin true (.stq d a b sz sc od (fOff w)))
  | _ => none

/-- The instructions of OP 0xB1 by FN (02 R47). -/
def decB1 (fn : Nat) (w : Code) : Option (Option Instr) :=
  match fn with
  | 0 => some (do let d ← edOf (fD w); let a ← esOf (fA w); let b ← esOf (fB w); fin (fC w = 0 && nbitsZ w 1 24) (.xlate d a b (bit w 0)))
  | _ => none

/-- The instructions of OP 0xB2 by FN (02 R47). -/
def decB2 (fn : Nat) (w : Code) : Option (Option Instr) :=
  match fn with
  | 0 => some (do let d ← edOf (fD w); let a ← esOf (fA w); let b ← esOf (fB w); fin (fC w = 0 && low25Z w) (.vbmin d a b))
  | 1 => some (do let d ← edOf (fD w); let a ← esOf (fA w); let b ← esOf (fB w); fin (fC w = 0 && low25Z w) (.occl d a b))
  | _ => none

/-- The instructions of OP 0xB3 by FN (02 R47). -/
def decB3 (fn : Nat) (w : Code) : Option (Option Instr) :=
  match fn with
  | 0 => some (do let d ← edOf (fD w); let a ← esOf (fA w); let b ← esOf (fB w); let sz ← szOf (fSz w); let sc ← scOf (fSc w); let od ← ordOf (fOrd w); fin true (.amoqAdd d a b sz sc od (fOff w)))
  | 1 => some (do let d ← edOf (fD w); let a ← esOf (fA w); let b ← esOf (fB w); let sz ← szOf (fSz w); let sc ← scOf (fSc w); let od ← ordOf (fOrd w); fin true (.amoqAnd d a b sz sc od (fOff w)))
  | 2 => some (do let d ← edOf (fD w); let a ← esOf (fA w); let b ← esOf (fB w); let sz ← szOf (fSz w); let sc ← scOf (fSc w); let od ← ordOf (fOrd w); fin true (.amoqOr d a b sz sc od (fOff w)))
  | 3 => some (do let d ← edOf (fD w); let a ← esOf (fA w); let b ← esOf (fB w); let sz ← szOf (fSz w); let sc ← scOf (fSc w); let od ← ordOf (fOrd w); fin true (.amoqXor d a b sz sc od (fOff w)))
  | 4 => some (do let d ← edOf (fD w); let a ← esOf (fA w); let b ← esOf (fB w); let sz ← szOf (fSz w); let sc ← scOf (fSc w); let od ← ordOf (fOrd w); fin true (.amoqMin d a b sz sc od (fOff w)))
  | 5 => some (do let d ← edOf (fD w); let a ← esOf (fA w); let b ← esOf (fB w); let sz ← szOf (fSz w); let sc ← scOf (fSc w); let od ← ordOf (fOrd w); fin true (.amoqMax d a b sz sc od (fOff w)))
  | 6 => some (do let d ← edOf (fD w); let a ← esOf (fA w); let b ← esOf (fB w); let sz ← szOf (fSz w); let sc ← scOf (fSc w); let od ← ordOf (fOrd w); fin true (.amoqMinu d a b sz sc od (fOff w)))
  | 7 => some (do let d ← edOf (fD w); let a ← esOf (fA w); let b ← esOf (fB w); let sz ← szOf (fSz w); let sc ← scOf (fSc w); let od ← ordOf (fOrd w); fin true (.amoqMaxu d a b sz sc od (fOff w)))
  | 8 => some (do let d ← edOf (fD w); let a ← esOf (fA w); let b ← esOf (fB w); let sz ← szOf (fSz w); let sc ← scOf (fSc w); let od ← ordOf (fOrd w); fin true (.amoqSwap d a b sz sc od (fOff w)))
  | _ => none

/-- The instructions of OP 0xB4 by FN (02 R47). -/
def decB4 (fn : Nat) (w : Code) : Option (Option Instr) :=
  match fn with
  | 0 => some (do let d ← edOf (fD w); let a ← esOf (fA w); fin (fB w = 0 && fC w = 0 && nbitsZ w 18 7) (.tsLd d a (w.extractLsb' 0 18)))
  | 1 => some (do let a ← esOf (fA w); let b ← esOf (fB w); fin (fD w = 31 && fC w = 0 && nbitsZ w 18 7) (.tsSt a b (w.extractLsb' 0 18)))
  | 2 => some (do let a ← esOf (fA w); let b ← esOf (fB w); let m ← blendOf (w.extractLsb' 0 2); fin (fD w = 31 && fC w = 0 && nbitsZ w 2 23) (.tsBlend a b m))
  | 3 => some (do let a ← esOf (fA w); let b ← esOf (fB w); fin (fD w = 31 && fC w = 0 && low25Z w) (.tsDone a b))
  | _ => none

/-- The instructions of OP 0xC0 by FN (02 R47). -/
def decC0 (fn : Nat) (w : Code) : Option (Option Instr) :=
  match fn with
  | 0 => some (do let a ← esOf (fA w); let b ← esOf (fB w); let c ← esOf (fC w); let o ← engOf w; fin (fD w = 31) (.cpy a b c o))
  | 1 => some (do let a ← esOf (fA w); let b ← esOf (fB w); let c ← esOf (fC w); let o ← engOf w; fin (fD w = 31) (.gath a b c o))
  | 2 => some (do let a ← esOf (fA w); let b ← esOf (fB w); let c ← esOf (fC w); let o ← engOf w; fin (fD w = 31) (.scat a b c o))
  | 3 => some (do let a ← esOf (fA w); let b ← esOf (fB w); let c ← esOf (fC w); let o ← engOf w; fin (fD w = 31) (.fillb a b c o))
  | _ => none

/-- The instructions of OP 0xC1 by FN (02 R47). -/
def decC1 (fn : Nat) (w : Code) : Option (Option Instr) :=
  match fn with
  | 0 => some (do let a ← esOf (fA w); let b ← esOf (fB w); let c ← esOf (fC w); let o ← engOf w; fin (fD w = 31) (.coll a b c o))
  | _ => none

/-- The instructions of OP 0xC2 by FN (02 R47). -/
def decC2 (fn : Nat) (w : Code) : Option (Option Instr) :=
  match fn with
  | 0 => some (decPub w)
  | _ => none

/-- The instructions of OP 0xC3 by FN (02 R47). -/
def decC3 (fn : Nat) (w : Code) : Option (Option Instr) :=
  match fn with
  | 0 => some (do let a ← esOf (fA w); let b ← esOf (fB w); let c ← esOf (fC w); let o ← engOf w; fin (fD w = 31) (.xfm a b c o))
  | _ => none

/-- The instructions of OP 0xD0 by FN (02 R47). -/
def decD0 (fn : Nat) (w : Code) : Option (Option Instr) :=
  match fn with
  | 0 => some (fin (fB w = 0 && fC w = 0 && nbitsZ w 2 23) (.dsBand (rg (fD w)) (rg (fA w)) (f4 w 0)))
  | 1 => some (fin (fB w = 0 && fC w = 0 && nbitsZ w 4 21) (.dsFall (rg (fD w)) (rg (fA w)) (f4 w 2) (f4 w 0)))
  | 2 => some (fin (fB w = 0 && fC w = 0 && nbitsZ w 3 22 && (bit w 2 || fA w = 0)) (if bit w 2 then .dsLineWait (rg (fD w)) (rg (fA w)) (f4 w 0) else .dsLine (rg (fD w)) (f4 w 0)))
  | _ => none

/-- The instructions of OP 0xD1 by FN (02 R47). -/
def decD1 (fn : Nat) (w : Code) : Option (Option Instr) :=
  match fn with
  | 0 => some (fin (fD w = 0 && fC w = 0 && nbitsZ w 2 23) (.dsMe (rg (fA w)) (rg (fB w)) (f4 w 0)))
  | 1 => some (fin (fD w = 0 && fC w = 0 && nbitsZ w 3 22) (.dsWarp (rg (fA w)) (rg (fB w)) (bit w 2) (f4 w 0)))
  | _ => none

/-- The instructions of OP 0xD2 by FN (02 R47). -/
def decD2 (fn : Nat) (w : Code) : Option (Option Instr) :=
  match fn with
  | 0 => some (fin (fD w = 0 && fC w = 0 && nbitsZ w 2 23) (.dsNet (rg (fA w)) (rg (fB w)) (f4 w 0)))
  | 1 => some (fin (fB w = 0 && fC w = 0 && nbitsZ w 2 23) (.dsEmit (rg (fD w)) (rg (fA w)) (f4 w 0)))
  | _ => none

/-- The opcode map of R47 for the element class: none where OP or FN is unused, some none where a field is refused. -/
def decElem (op fn : Nat) (w : Code) : Option (Option Instr) :=
  if op = 0x60 then dec60 fn w
  else if op = 0x61 then dec61 fn w
  else if op = 0x62 then dec62 fn w
  else if op = 0x63 then dec63 fn w
  else if op = 0x68 then dec68 fn w
  else if op = 0x69 then dec69 fn w
  else if op = 0x6A then dec6A fn w
  else if op = 0x6B then dec6B fn w
  else if op = 0x6C then dec6C fn w
  else if op = 0x6D then dec6D fn w
  else if op = 0x80 then dec80 fn w
  else if op = 0x81 then dec81 fn w
  else if op = 0x82 then dec82 fn w
  else if op = 0x83 then dec83 fn w
  else if op = 0x84 then dec84 fn w
  else if op = 0x85 then dec85 fn w
  else if op = 0xB0 then decB0 fn w
  else if op = 0xB1 then decB1 fn w
  else if op = 0xB2 then decB2 fn w
  else if op = 0xB3 then decB3 fn w
  else if op = 0xB4 then decB4 fn w
  else if op = 0xC0 then decC0 fn w
  else if op = 0xC1 then decC1 fn w
  else if op = 0xC2 then decC2 fn w
  else if op = 0xC3 then decC3 fn w
  else none

/-- The opcode map of R47 for the sequencer and display classes: none where OP or FN is unused, some none where a field is refused. -/
noncomputable def decSeq (op fn : Nat) (w : Code) : Option (Option Instr) :=
  if op = 0x01 then dec01 fn w
  else if op = 0x02 then dec02 fn w
  else if op = 0x03 then dec03 fn w
  else if op = 0x04 then dec04 fn w
  else if op = 0x08 then dec08 fn w
  else if op = 0x10 then dec10 fn w
  else if op = 0x11 then dec11 fn w
  else if op = 0x12 then dec12 fn w
  else if op = 0x18 then dec18 fn w
  else if op = 0x19 then dec19 fn w
  else if op = 0x1A then dec1A fn w
  else if op = 0x1B then dec1B fn w
  else if op = 0x20 then dec20 fn w
  else if op = 0x21 then dec21 fn w
  else if op = 0x22 then dec22 fn w
  else if op = 0x23 then dec23 fn w
  else if op = 0x24 then dec24 fn w
  else if op = 0x25 then dec25 fn w
  else if op = 0x26 then dec26 fn w
  else if op = 0x40 then dec40 fn w
  else if op = 0x41 then dec41 fn w
  else if op = 0x42 then dec42 fn w
  else if op = 0x43 then dec43 fn w
  else if op = 0x44 then dec44 fn w
  else if op = 0x45 then dec45 fn w
  else if op = 0x46 then dec46 fn w
  else if op = 0x48 then dec48 fn w
  else if op = 0x49 then dec49 fn w
  else if op = 0x50 then dec50 fn w
  else if op = 0x51 then dec51 fn w
  else if op = 0x52 then dec52 fn w
  else if op = 0x53 then dec53 fn w
  else if op = 0x54 then dec54 fn w
  else if op = 0xA0 then decA0 fn w
  else if op = 0xA1 then decA1 fn w
  else if op = 0xA2 then decA2 fn w
  else if op = 0xA3 then decA3 fn w
  else if op = 0xD0 then decD0 fn w
  else if op = 0xD1 then decD1 fn w
  else if op = 0xD2 then decD2 fn w
  else none

/-- The FN values of an OP that the map uses, as bits (02 R47). -/
def fnUsed : Nat → Nat
  | 0x01 => 0x1FF
  | 0x02 => 0x3FF
  | 0x03 => 0x1FF
  | 0x04 => 0x7
  | 0x08 => 0x1FF
  | 0x10 => 0x3F
  | 0x11 => 0x3F
  | 0x12 => 0x1F
  | 0x18 => 0x1
  | 0x19 => 0x3
  | 0x1A => 0x1
  | 0x1B => 0x1
  | 0x20 => 0x3
  | 0x21 => 0x3
  | 0x22 => 0x1FF
  | 0x23 => 0x1FF
  | 0x24 => 0x3
  | 0x25 => 0x3
  | 0x26 => 0x3
  | 0x40 => 0xF
  | 0x41 => 0xF
  | 0x42 => 0x7
  | 0x43 => 0x3
  | 0x44 => 0x1
  | 0x45 => 0x3
  | 0x46 => 0x3
  | 0x48 => 0x1F
  | 0x49 => 0x3
  | 0x50 => 0xF
  | 0x51 => 0x3
  | 0x52 => 0x3
  | 0x53 => 0x3
  | 0x54 => 0x1
  | 0x60 => 0x1FF
  | 0x61 => 0xFFF
  | 0x62 => 0x3F
  | 0x63 => 0xF
  | 0x68 => 0xFF
  | 0x69 => 0x7F
  | 0x6A => 0x7F
  | 0x6B => 0x1
  | 0x6C => 0x1
  | 0x6D => 0x1
  | 0x80 => 0x1
  | 0x81 => 0x3
  | 0x82 => 0x1F
  | 0x83 => 0x7
  | 0x84 => 0x7
  | 0x85 => 0xF
  | 0xA0 => 0xF
  | 0xA1 => 0x7
  | 0xA2 => 0x7
  | 0xA3 => 0x1
  | 0xB0 => 0x3
  | 0xB1 => 0x1
  | 0xB2 => 0x3
  | 0xB3 => 0x1FF
  | 0xB4 => 0xF
  | 0xC0 => 0xF
  | 0xC1 => 0x1
  | 0xC2 => 0x1
  | 0xC3 => 0x1
  | 0xD0 => 0x7
  | 0xD1 => 0x3
  | 0xD2 => 0x3
  | _ => 0

/-- OP ranges of an executor class (02 R48). -/
def runs : Executor → Nat → Bool
  | .core, op => decide (op ≤ 0x26) || decide (0x40 ≤ op ∧ op ≤ 0x54) || decide (0xA0 ≤ op ∧ op ≤ 0xA3)
  | .display, op => decide (op ≤ 0x26) || decide (op = 0x40) || decide (0x50 ≤ op ∧ op ≤ 0x54) || decide (0xD0 ≤ op ∧ op ≤ 0xD2)
  | .element, op => decide (0x60 ≤ op ∧ op ≤ 0x85) || decide (0xB0 ≤ op ∧ op ≤ 0xB4) || decide (0xC0 ≤ op ∧ op ≤ 0xC3)

/-- The guard field of a word, none where R35 refuses it. -/
def guardOf (ex : Executor) (w : Code) : Option Guard :=
  if bit w 49 then
    (match ex with
     | .element => none
     | _ => some (some (bit w 48, f8 w 45)))
  else if nbitsZ w 45 4 then some none else none

/-- What decoding a word answers: an instruction and its guard, or the cause of R49. -/
inductive Decoded
  | ok (g : Guard) (i : Instr)
  | bad (c : Cause)
  deriving DecidableEq, Repr

/-- Decoding a canonical word on an executor by a body of the opcode map, with the causes in the order of R28. -/
def decodeBy (ex : Executor) (body : Nat → Nat → Code → Option (Option Instr)) (w : Code) : Decoded :=
  let op := (w.extractLsb' 54 8).toNat
  let fn := (w.extractLsb' 50 4).toNat
  if !((fnUsed op).testBit fn) then .bad .illegalOpcode
  else if !(runs ex op) then .bad .wrongExecutor
  else
    match guardOf ex w, (body op fn w).join with
    | some g, some i => .ok g i
    | _, _ => .bad .reservedField

/-- Decoding an action word (02 R48) (log 42). -/
def decodeElem (w : Code) : Decoded := decodeBy .element decElem w

/-- Decoding a canonical word on an executor (02 R47, R48). -/
noncomputable def decode (ex : Executor) (w : Code) : Decoded :=
  match ex with
  | .element => decodeElem w
  | .core => decodeBy .core decSeq w
  | .display => decodeBy .display decSeq w

/-- A register field of a policy instruction. -/
def pv (h : BitVec 16) (lo : Nat) : PReg := (h.extractLsb' lo 3).toFin

/-- The named instruction where c holds and it is well formed. -/
def finP (c : Bool) (i : Instr) : Option Instr := if c && instrWf i then some i else none

/-- Decoding one policy instruction (10 R234, R236). -/
def decodePolicy (h : BitVec 16) : Option Instr :=
  let d := pv h 8
  let s := pv h 5
  let f : BitVec 5 := h.extractLsb' 0 5
  let i8 : BitVec 8 := h.extractLsb' 0 8
  let z (lo n : Nat) : Bool := decide (h.extractLsb' lo n = 0)
  match (h.extractLsb' 11 5).toNat with
  | 0x01 => finP true (.imm d i8)
  | 0x02 => finP (z 3 5) (.kld d ((h.extractLsb' 0 3).toFin))
  | 0x03 => finP (z 5 3) (.env d f)
  | 0x04 => finP true (.cand d s f)
  | 0x05 => finP (z 5 3) (.subj d f)
  | 0x06 => finP (z 0 5) (.copy d s)
  | 0x07 => finP true (.addiv d i8)
  | 0x08 =>
    if z 3 2 then
      [Instr.addv d s, .subv d s, .andv d s, .orv d s, .minv d s, .maxv d s, .shlv d s, .shrv d s][(h.extractLsb' 0 3).toNat]?
    else none
  | 0x09 => finP (z 0 11) .mall
  | 0x0A =>
    if z 8 1 then
      ([Instr.mkeepEq s f, .mkeepNe s f, .mkeepLt s f, .mkeepGe s f][(h.extractLsb' 9 2).toNat]?).bind (finP true)
    else none
  | 0x0B => finP (z 0 8) (.mcnt d)
  | 0x0C => if z 6 2 then (if bit h 5 then finP true (.scanMax d f) else finP true (.scanMin d f)) else none
  | 0x10 => finP true (.jeq d s f)
  | 0x11 => finP true (.jne d s f)
  | 0x12 => finP true (.jlt d s f)
  | 0x13 => finP true (.jge d s f)
  | 0x14 => finP (z 8 3) (.jfw i8)
  | 0x18 =>
    if z 0 5 then
      match (h.extractLsb' 8 3).toNat with
      | 0 => some (.pick s)
      | 2 => some (.preempt s)
      | 7 => some (.migrate s)
      | n => if z 5 3 then [none, some Instr.idle, none, some .keep, some .restart, some .kill, some .host][n]?.join else none
    else none
  | _ => none

/-- The decoder on an instruction of the opcode table: 16 bits are policy bytecode, 64 bits a canonical word whose bit 0 is bit 0 of the word (log 7). -/
noncomputable def decodeTableWord (nbits w : Nat) : Option Instr :=
  if nbits = 16 then decodePolicy (BitVec.ofNat 16 w)
  else
    let c : Code := BitVec.ofNat 64 w
    if c.extractLsb' 62 2 = 2#2 then
      let ex : Executor :=
        if runs .core (c.extractLsb' 54 8).toNat then .core
        else if runs .display (c.extractLsb' 54 8).toNat then .display else .element
      match decode ex c with
      | .ok _ i => some i
      | .bad _ => none
    else none

/-- A register as its field. -/
def r (x : Reg) : BitVec 5 := BitVec.ofFin x
/-- A predicate as its field. -/
def pr (x : Pred) : BitVec 5 := BitVec.ofNat 5 x.val
/-- A Bool as one bit. -/
def bb (b : Bool) : BitVec 1 := BitVec.ofBool b
/-- A number below 2 as one bit. -/
def n1 (x : Fin 2) : BitVec 1 := BitVec.ofFin x
/-- A number below 4 as two bits. -/
def n2 (x : Fin 4) : BitVec 2 := BitVec.ofFin x
/-- A number below 8 as three bits. -/
def n3 (x : Fin 8) : BitVec 3 := BitVec.ofFin x
/-- A number below 16 as four bits. -/
def n4 (x : Fin 16) : BitVec 4 := BitVec.ofFin x
/-- A source as its field (02 R46). -/
def es : ESrc → BitVec 5
  | .d n => BitVec.ofNat 5 n.val
  | .i n => BitVec.ofNat 5 (8 + n.val)
  | .zero => 16
  | .coord => 17
  | .plyn => 18
  | .tag0 => 19
/-- A destination as its field (02 R46). -/
def ed : EDst → BitVec 5
  | .d n => BitVec.ofNat 5 n.val
  | .null => 31
/-- TI (02 R40). -/
def tiCode : Ti → BitVec 3
  | .s => 0 | .z => 1 | .w2 => 2 | .h4 => 3 | .b8 => 4
/-- CC (02 R43). -/
def condCode : Cond → BitVec 3
  | .eq => 0 | .ne => 1 | .lt => 2 | .ge => 3 | .ltu => 4 | .geu => 5
/-- SZ (02 R41). -/
def szCode : Sz → BitVec 3
  | .b => 0 | .h => 1 | .w => 2 | .d => 3 | .bu => 4 | .hu => 5 | .wu => 6
/-- SC (02 R41). -/
def scCode : Scope → BitVec 3
  | .el => 0 | .co => 1 | .ga => 2 | .cl => 3 | .di => 4 | .pk => 5 | .sy => 6 | .pe => 7
/-- ORD (02 R41). -/
def ordCode : Ord → BitVec 2
  | .rlx => 0 | .acq => 1 | .rel => 2 | .ar => 3
/-- T (02 R38). -/
def tyCode : Ty → BitVec 4
  | .i8 => 0 | .u8 => 1 | .i16 => 2 | .u16 => 3 | .i32 => 4 | .u32 => 5 | .i64 => 6 | .u64 => 7
  | .f16 => 8 | .bf16 => 9 | .f32 => 10 | .f64 => 11 | .e4m3 => 12 | .e5m2 => 13 | .e2m1 => 14
/-- RM (02 R39). -/
def rmCode : Rm → BitVec 3
  | .rne => 0 | .rtz => 1 | .rdn => 2 | .rup => 3 | .rna => 4 | .sr => 5 | .dyn => 6
/-- A matrix type (08 R186). -/
def mtyCode : MTy → BitVec 4
  | .bf16 => 0 | .f16 => 1 | .e4m3 => 2 | .e5m2 => 3 | .e2m1 => 4 | .i8 => 5 | .i4 => 6
/-- DT (08 R199). -/
def drainCode : DrainTy → BitVec 4
  | .bf16 => 0 | .f16 => 1 | .e4m3 => 2 | .e5m2 => 3 | .e2m1 => 4 | .i8 => 5 | .raw => 7
/-- MODE of TS.BLEND (12 R287). -/
def blendCode : BlendMode → BitVec 2
  | .rep => 0 | .srcOver => 1 | .add => 2
/-- B of a STEER (07 R171). -/
def steerB : SteerSel → BitVec 5
  | .pred _ => 0
  | .reg b => es b
/-- DSRC and P of a STEER (07 R171). -/
def steerP : SteerSel → BitVec 4
  | .pred p => 0#1 ++ n3 p
  | .reg _ => 8
/-- [24:0] of MM, MMZ and MMR (08 R188). -/
def mmLow (z : Bool) (o : MmOpts) : BitVec 25 :=
  0#12 ++ bb z ++ bb o.apx ++ bb o.pres ++ bb o.gang ++ n1 o.s ++ 0#3 ++ n1 o.bank ++ mtyCode o.at_
/-- [24:0] of an engine command (17 R324). -/
def engLow (o : EngOpts) : BitVec 25 :=
  ordCode o.ord ++ scCode o.sc ++ bb o.sh ++ bb o.ev ++ bb o.ct ++ o.cf ++ o.tag
/-- [24:0] of a PUB (17 R324). -/
def pubLow (opf : BitVec 2) (o : PubOpts) : BitVec 25 :=
  n2 o.w ++ scCode o.sc ++ 0#1 ++ bb o.ev ++ bb o.ct ++ opf ++ 0#1 ++ o.tag
/-- Bits [44:0] of an RRR word (02 R36). -/
def rrr (d a b c : BitVec 5) (t : BitVec 4) (rm : BitVec 3) : BitVec 45 := d ++ a ++ b ++ c ++ t ++ rm ++ 0#18
/-- Bits [44:0] of an RRI or BR word (02 R36). -/
def rri (d a : BitVec 5) (ti : BitVec 3) (imm : BitVec 32) : BitVec 45 := d ++ a ++ ti ++ imm
/-- Bits [44:0] of a MEM word (02 R36). -/
def memf (d base index : BitVec 5) (sz sc : BitVec 3) (od : BitVec 2) (off : BitVec 22) : BitVec 45 :=
  d ++ base ++ index ++ sz ++ sc ++ od ++ off
/-- Bits [44:0] of a CMD word (02 R36). -/
def cmd (d a b c : BitVec 5) (low : BitVec 25) : BitVec 45 := d ++ a ++ b ++ c ++ low

/-- OP, FN and bits [44:0] of an instruction that has a canonical word (02 R36, R47). -/
def encBody : Instr → Option (Nat × Nat × BitVec 45)
  | .vadd d a b t => some (0x60, 0, rrr (ed d) (es a) (es b) 0 (tyCode t) 0)
  | .vsub d a b t => some (0x60, 1, rrr (ed d) (es a) (es b) 0 (tyCode t) 0)
  | .vadds d a b t => some (0x60, 2, rrr (ed d) (es a) (es b) 0 (tyCode t) 0)
  | .vsubs d a b t => some (0x60, 3, rrr (ed d) (es a) (es b) 0 (tyCode t) 0)
  | .vmul d a b t => some (0x60, 4, rrr (ed d) (es a) (es b) 0 (tyCode t) 0)
  | .vmulh d a b t => some (0x60, 5, rrr (ed d) (es a) (es b) 0 (tyCode t) 0)
  | .vmad d a b c t => some (0x60, 6, rrr (ed d) (es a) (es b) (es c) (tyCode t) 0)
  | .vabs d a t => some (0x60, 7, rrr (ed d) (es a) 0 0 (tyCode t) 0)
  | .vneg d a t => some (0x60, 8, rrr (ed d) (es a) 0 0 (tyCode t) 0)
  | .vmin d a b t => some (0x61, 0, rrr (ed d) (es a) (es b) 0 (tyCode t) 0)
  | .vmax d a b t => some (0x61, 1, rrr (ed d) (es a) (es b) 0 (tyCode t) 0)
  | .vand d a b => some (0x61, 2, rrr (ed d) (es a) (es b) 0 0 0)
  | .vor d a b => some (0x61, 3, rrr (ed d) (es a) (es b) 0 0 0)
  | .vxor d a b => some (0x61, 4, rrr (ed d) (es a) (es b) 0 0 0)
  | .vandn d a b => some (0x61, 5, rrr (ed d) (es a) (es b) 0 0 0)
  | .vnot d a => some (0x61, 6, rrr (ed d) (es a) 0 0 0 0)
  | .vshl d a b t => some (0x61, 7, rrr (ed d) (es a) (es b) 0 (tyCode t) 0)
  | .vshr d a b t => some (0x61, 8, rrr (ed d) (es a) (es b) 0 (tyCode t) 0)
  | .vsra d a b t => some (0x61, 9, rrr (ed d) (es a) (es b) 0 (tyCode t) 0)
  | .vpopc d a t => some (0x61, 10, rrr (ed d) (es a) 0 0 (tyCode t) 0)
  | .vclz d a t => some (0x61, 11, rrr (ed d) (es a) 0 0 (tyCode t) 0)
  | .vcmpEq d a b t p => some (0x62, 0, rrr (ed d) (es a) (es b) (pr p) (tyCode t) 0)
  | .vcmpNe d a b t p => some (0x62, 1, rrr (ed d) (es a) (es b) (pr p) (tyCode t) 0)
  | .vcmpLt d a b t p => some (0x62, 2, rrr (ed d) (es a) (es b) (pr p) (tyCode t) 0)
  | .vcmpLe d a b t p => some (0x62, 3, rrr (ed d) (es a) (es b) (pr p) (tyCode t) 0)
  | .vcmpGt d a b t p => some (0x62, 4, rrr (ed d) (es a) (es b) (pr p) (tyCode t) 0)
  | .vcmpGe d a b t p => some (0x62, 5, rrr (ed d) (es a) (es b) (pr p) (tyCode t) 0)
  | .vsel d a b c => some (0x63, 0, rrr (ed d) (es a) (es b) (es c) 0 0)
  | .vperm d a b c => some (0x63, 1, rrr (ed d) (es a) (es b) (es c) 0 0)
  | .vpack d a b t => some (0x63, 2, rrr (ed d) (es a) (es b) 0 (tyCode t) 0)
  | .vunpk d a t => some (0x63, 3, rrr (ed d) (es a) 0 0 (tyCode t) 0)
  | .fadd d a b t rm => some (0x68, 0, rrr (ed d) (es a) (es b) 0 (tyCode t) (rmCode rm))
  | .fsub d a b t rm => some (0x68, 1, rrr (ed d) (es a) (es b) 0 (tyCode t) (rmCode rm))
  | .fmul d a b t rm => some (0x68, 2, rrr (ed d) (es a) (es b) 0 (tyCode t) (rmCode rm))
  | .ffma d a b c t rm => some (0x68, 3, rrr (ed d) (es a) (es b) (es c) (tyCode t) (rmCode rm))
  | .fmin d a b t => some (0x68, 4, rrr (ed d) (es a) (es b) 0 (tyCode t) 0)
  | .fmax d a b t => some (0x68, 5, rrr (ed d) (es a) (es b) 0 (tyCode t) 0)
  | .fabs d a t => some (0x68, 6, rrr (ed d) (es a) 0 0 (tyCode t) 0)
  | .fneg d a t => some (0x68, 7, rrr (ed d) (es a) 0 0 (tyCode t) 0)
  | .fcmpEq d a b t p => some (0x69, 0, rrr (ed d) (es a) (es b) (pr p) (tyCode t) 0)
  | .fcmpNe d a b t p => some (0x69, 1, rrr (ed d) (es a) (es b) (pr p) (tyCode t) 0)
  | .fcmpLt d a b t p => some (0x69, 2, rrr (ed d) (es a) (es b) (pr p) (tyCode t) 0)
  | .fcmpLe d a b t p => some (0x69, 3, rrr (ed d) (es a) (es b) (pr p) (tyCode t) 0)
  | .fcmpGt d a b t p => some (0x69, 4, rrr (ed d) (es a) (es b) (pr p) (tyCode t) 0)
  | .fcmpGe d a b t p => some (0x69, 5, rrr (ed d) (es a) (es b) (pr p) (tyCode t) 0)
  | .fcmpUn d a b t p => some (0x69, 6, rrr (ed d) (es a) (es b) (pr p) (tyCode t) 0)
  | .fclass d a t => some (0x6A, 0, rrr (ed d) (es a) 0 0 (tyCode t) 0)
  | .fdiv d a b t rm => some (0x6A, 1, rrr (ed d) (es a) (es b) 0 (tyCode t) (rmCode rm))
  | .fsqrt d a t rm => some (0x6A, 2, rrr (ed d) (es a) 0 0 (tyCode t) (rmCode rm))
  | .frcp d a t rm => some (0x6A, 3, rrr (ed d) (es a) 0 0 (tyCode t) (rmCode rm))
  | .frsq d a t rm => some (0x6A, 4, rrr (ed d) (es a) 0 0 (tyCode t) (rmCode rm))
  | .fexp2 d a t rm => some (0x6A, 5, rrr (ed d) (es a) 0 0 (tyCode t) (rmCode rm))
  | .flog2 d a t rm => some (0x6A, 6, rrr (ed d) (es a) 0 0 (tyCode t) (rmCode rm))
  | .cvt d a ts td off rm => some (0x6B, 0, rrr (ed d) (es a) (0#1 ++ tyCode td) (0#1 ++ off) (tyCode ts) (rmCode rm))
  | .crsub d a b lane rm => some (0x6C, 0, rrr (ed d) (es a) (es b) (0#4 ++ bb lane) 10 (rmCode rm))
  | .dot d a b c t rm => some (0x6D, 0, rrr (ed d) (es a) (es b) (es c) (tyCode t) (rmCode rm))
  | .mov d a => some (0x80, 0, rrr (ed d) (es a) 0 0 0 0)
  | .const d ti imm => some (0x81, 0, rri (ed d) 0 (tiCode ti) imm)
  | .tagi d a add n => some (0x81, 1, rri (ed d) (es a) 1 (0#27 ++ bb add ++ n))
  | .steer d a o => some (0x82, 0, cmd (ed d) (es a) (steerB o.sel) 0 (0#9 ++ o.dmask ++ steerP o.sel ++ o.tmask ++ o.fmask))
  | .merge d di ti fi => some (0x82, 1, cmd (ed d) 0 0 0 (0#15 ++ n2 di ++ 0#2 ++ n2 ti ++ 0#2 ++ n2 fi))
  | .mergeu d tagb taga ai bi => some (0x82, 2, cmd (ed d) 0 0 0 (0#5 ++ tagb ++ taga ++ 0#6 ++ n2 ai ++ 0#2 ++ n2 bi))
  | .gate d a cmask => some (0x82, 3, cmd (ed d) (es a) 0 0 (0#21 ++ cmask))
  | .permit d ci di => some (0x82, 4, cmd (ed d) 0 0 0 (0#15 ++ n2 ci ++ 0#2 ++ n2 di ++ 0#4))
  | .eos d a xv => some (0x83, 0, cmd (ed d) (es a) 0 0 (0#24 ++ bb xv))
  | .sink d a keep n => some (0x83, 1, cmd (ed d) (es a) 0 0 (0#16 ++ bb keep ++ n))
  | .mark a => some (0x83, 2, cmd 31 (es a) 0 0 0)
  | .redMin a t ri g => some (0x84, 0, rrr 31 (es a) 0 (n2 ri ++ n3 g) (tyCode t) 0)
  | .redMax a t ri g => some (0x84, 1, rrr 31 (es a) 0 (n2 ri ++ n3 g) (tyCode t) 0)
  | .redSum a t ri g => some (0x84, 2, rrr 31 (es a) 0 (n2 ri ++ n3 g) (tyCode t) 0)
  | .send a b => some (0x85, 0, cmd 31 (es a) (es b) 0 0)
  | .rsv d a n => some (0x85, 1, cmd (ed d) (es a) 0 0 (0#20 ++ n))
  | .enq d a b => some (0x85, 2, cmd (ed d) (es a) (es b) 0 0)
  | .amplify d a m => some (0x85, 3, cmd (ed d) (es a) 0 0 (0#16 ++ m))
  | .ldq d base index sz sc ord off => some (0xB0, 0, memf (ed d) (es base) (es index) (szCode sz) (scCode sc) (ordCode ord) off)
  | .stq d base index sz sc ord off => some (0xB0, 1, memf (es d) (es base) (es index) (szCode sz) (scCode sc) (ordCode ord) off)
  | .amoqAdd d base index sz sc ord off => some (0xB3, 0, memf (ed d) (es base) (es index) (szCode sz) (scCode sc) (ordCode ord) off)
  | .amoqAnd d base index sz sc ord off => some (0xB3, 1, memf (ed d) (es base) (es index) (szCode sz) (scCode sc) (ordCode ord) off)
  | .amoqOr d base index sz sc ord off => some (0xB3, 2, memf (ed d) (es base) (es index) (szCode sz) (scCode sc) (ordCode ord) off)
  | .amoqXor d base index sz sc ord off => some (0xB3, 3, memf (ed d) (es base) (es index) (szCode sz) (scCode sc) (ordCode ord) off)
  | .amoqMin d base index sz sc ord off => some (0xB3, 4, memf (ed d) (es base) (es index) (szCode sz) (scCode sc) (ordCode ord) off)
  | .amoqMax d base index sz sc ord off => some (0xB3, 5, memf (ed d) (es base) (es index) (szCode sz) (scCode sc) (ordCode ord) off)
  | .amoqMinu d base index sz sc ord off => some (0xB3, 6, memf (ed d) (es base) (es index) (szCode sz) (scCode sc) (ordCode ord) off)
  | .amoqMaxu d base index sz sc ord off => some (0xB3, 7, memf (ed d) (es base) (es index) (szCode sz) (scCode sc) (ordCode ord) off)
  | .amoqSwap d base index sz sc ord off => some (0xB3, 8, memf (ed d) (es base) (es index) (szCode sz) (scCode sc) (ordCode ord) off)
  | .xlate d a b wr => some (0xB1, 0, cmd (ed d) (es a) (es b) 0 (0#24 ++ bb wr))
  | .occl d a b => some (0xB2, 1, cmd (ed d) (es a) (es b) 0 0)
  | .vbmin d a b => some (0xB2, 0, cmd (ed d) (es a) (es b) 0 0)
  | .tsLd d a off => some (0xB4, 0, cmd (ed d) (es a) 0 0 (0#7 ++ off))
  | .tsSt a b off => some (0xB4, 1, cmd 31 (es a) (es b) 0 (0#7 ++ off))
  | .tsBlend a b mode => some (0xB4, 2, cmd 31 (es a) (es b) 0 (0#23 ++ blendCode mode))
  | .tsDone a b => some (0xB4, 3, cmd 31 (es a) (es b) 0 0)
  | .cpy a b c o => some (0xC0, 0, cmd 31 (es a) (es b) (es c) (engLow o))
  | .gath a b c o => some (0xC0, 1, cmd 31 (es a) (es b) (es c) (engLow o))
  | .scat a b c o => some (0xC0, 2, cmd 31 (es a) (es b) (es c) (engLow o))
  | .fillb a b c o => some (0xC0, 3, cmd 31 (es a) (es b) (es c) (engLow o))
  | .coll a b c o => some (0xC1, 0, cmd 31 (es a) (es b) (es c) (engLow o))
  | .pub o => some (0xC2, 0, cmd 31 0 0 0 (pubLow 0 o))
  | .pubDef a b c o => some (0xC2, 0, cmd 31 (es a) (es b) (es c) (pubLow 1 o))
  | .pubDrop o => some (0xC2, 0, cmd 31 0 0 0 (pubLow 2 o))
  | .xfm a b c o => some (0xC3, 0, cmd 31 (es a) (es b) (es c) (engLow o))
  | .mxLdb a s bt => some (0xA0, 0, cmd 0 (r a) 0 0 (0#16 ++ n1 s ++ 0#4 ++ mtyCode bt))
  | .mxScale a s aen ben => some (0xA0, 1, cmd 0 (r a) 0 0 (0#16 ++ n1 s ++ 0#6 ++ bb aen ++ bb ben))
  | .mxThr a => some (0xA0, 2, cmd 0 (r a) 0 0 0)
  | .mxSamp a b => some (0xA0, 3, cmd 0 (r a) (r b) 0 0)
  | .mm a b o => some (0xA1, 0, cmd 0 (r a) (r b) 0 (mmLow false o))
  | .mmz a b o => some (0xA1, 1, cmd 0 (r a) (r b) 0 (mmLow false o))
  | .mmr a b z o => some (0xA1, 2, cmd 0 (r a) (r b) 0 (mmLow z o))
  | .mxDrain a b rm clr mark bank dt => some (0xA2, 0, cmd 0 (r a) (r b) 0 (0#4 ++ rmCode rm ++ 0#5 ++ bb clr ++ bb mark ++ 0#6 ++ n1 bank ++ drainCode dt))
  | .mxWait n => some (0xA2, 1, cmd 0 0 0 0 (0#20 ++ n))
  | .mxGang a => some (0xA2, 2, cmd 0 (r a) 0 0 0)
  | .mxGangLeave => some (0xA2, 2, cmd 0 0 0 0 1)
  | .mxEdge a b sx sy g ne => some (0xA3, 0, cmd 0 (r a) (r b) 0 (sx ++ sy ++ n2 g ++ ne))
  | .dsBand d a head => some (0xD0, 0, cmd (r d) (r a) 0 0 (0#23 ++ n2 head))
  | .dsFall d a lv head => some (0xD0, 1, cmd (r d) (r a) 0 0 (0#21 ++ n2 lv ++ n2 head))
  | .dsLine d head => some (0xD0, 2, cmd (r d) 0 0 0 (0#23 ++ n2 head))
  | .dsLineWait d a head => some (0xD0, 2, cmd (r d) (r a) 0 0 (0#22 ++ 1#1 ++ n2 head))
  | .dsMe a b head => some (0xD1, 0, cmd 0 (r a) (r b) 0 (0#23 ++ n2 head))
  | .dsWarp a b up head => some (0xD1, 1, cmd 0 (r a) (r b) 0 (0#22 ++ bb up ++ n2 head))
  | .dsNet a b head => some (0xD2, 0, cmd 0 (r a) (r b) 0 (0#23 ++ n2 head))
  | .dsEmit d a head => some (0xD2, 1, cmd (r d) (r a) 0 0 (0#23 ++ n2 head))
  | .add d a b => some (0x01, 0, rrr (r d) (r a) (r b) 0 0 0)
  | .sub d a b => some (0x01, 1, rrr (r d) (r a) (r b) 0 0 0)
  | .mul d a b => some (0x01, 2, rrr (r d) (r a) (r b) 0 0 0)
  | .mulh d a b => some (0x01, 3, rrr (r d) (r a) (r b) 0 0 0)
  | .mulhu d a b => some (0x01, 4, rrr (r d) (r a) (r b) 0 0 0)
  | .div d a b => some (0x01, 5, rrr (r d) (r a) (r b) 0 0 0)
  | .divu d a b => some (0x01, 6, rrr (r d) (r a) (r b) 0 0 0)
  | .rem d a b => some (0x01, 7, rrr (r d) (r a) (r b) 0 0 0)
  | .remu d a b => some (0x01, 8, rrr (r d) (r a) (r b) 0 0 0)
  | .and d a b => some (0x02, 0, rrr (r d) (r a) (r b) 0 0 0)
  | .or d a b => some (0x02, 1, rrr (r d) (r a) (r b) 0 0 0)
  | .xor d a b => some (0x02, 2, rrr (r d) (r a) (r b) 0 0 0)
  | .andn d a b => some (0x02, 3, rrr (r d) (r a) (r b) 0 0 0)
  | .orn d a b => some (0x02, 4, rrr (r d) (r a) (r b) 0 0 0)
  | .shl d a b => some (0x02, 5, rrr (r d) (r a) (r b) 0 0 0)
  | .shr d a b => some (0x02, 6, rrr (r d) (r a) (r b) 0 0 0)
  | .sra d a b => some (0x02, 7, rrr (r d) (r a) (r b) 0 0 0)
  | .rol d a b => some (0x02, 8, rrr (r d) (r a) (r b) 0 0 0)
  | .ror d a b => some (0x02, 9, rrr (r d) (r a) (r b) 0 0 0)
  | .min d a b => some (0x03, 0, rrr (r d) (r a) (r b) 0 0 0)
  | .max d a b => some (0x03, 1, rrr (r d) (r a) (r b) 0 0 0)
  | .minu d a b => some (0x03, 2, rrr (r d) (r a) (r b) 0 0 0)
  | .maxu d a b => some (0x03, 3, rrr (r d) (r a) (r b) 0 0 0)
  | .clz d a => some (0x03, 4, rrr (r d) (r a) 0 0 0 0)
  | .ctz d a => some (0x03, 5, rrr (r d) (r a) 0 0 0 0)
  | .popc d a => some (0x03, 6, rrr (r d) (r a) 0 0 0 0)
  | .brev d a => some (0x03, 7, rrr (r d) (r a) 0 0 0 0)
  | .sel d c a b => some (0x03, 8, rrr (r d) (r a) (r b) (pr c) 0 0)
  | .bfx d a pos len => some (0x04, 0, cmd (r d) (r a) 0 0 (0#11 ++ pos ++ 0#1 ++ len))
  | .bfxu d a pos len => some (0x04, 1, cmd (r d) (r a) 0 0 (0#11 ++ pos ++ 0#1 ++ len))
  | .bfi d a pos len => some (0x04, 2, cmd (r d) (r a) 0 0 (0#11 ++ pos ++ 0#1 ++ len))
  | .addi d a ti imm => some (0x08, 0, rri (r d) (r a) (tiCode ti) imm)
  | .andi d a ti imm => some (0x08, 1, rri (r d) (r a) (tiCode ti) imm)
  | .ori d a ti imm => some (0x08, 2, rri (r d) (r a) (tiCode ti) imm)
  | .xori d a ti imm => some (0x08, 3, rri (r d) (r a) (tiCode ti) imm)
  | .shli d a sh => some (0x08, 4, rri (r d) (r a) 1 (0#26 ++ sh))
  | .shri d a sh => some (0x08, 5, rri (r d) (r a) 1 (0#26 ++ sh))
  | .srai d a sh => some (0x08, 6, rri (r d) (r a) 1 (0#26 ++ sh))
  | .movi d ti imm => some (0x08, 7, rri (r d) 0 (tiCode ti) imm)
  | .movhi d imm => some (0x08, 8, rri (r d) 0 1 imm)
  | .cmpEq d a b c => some (0x10, 0, rrr (pr d) (r a) (r b) (pr c) 0 0)
  | .cmpNe d a b c => some (0x10, 1, rrr (pr d) (r a) (r b) (pr c) 0 0)
  | .cmpLt d a b c => some (0x10, 2, rrr (pr d) (r a) (r b) (pr c) 0 0)
  | .cmpGe d a b c => some (0x10, 3, rrr (pr d) (r a) (r b) (pr c) 0 0)
  | .cmpLtu d a b c => some (0x10, 4, rrr (pr d) (r a) (r b) (pr c) 0 0)
  | .cmpGeu d a b c => some (0x10, 5, rrr (pr d) (r a) (r b) (pr c) 0 0)
  | .cmpiEq d a ti imm => some (0x11, 0, rri (pr d) (r a) (tiCode ti) imm)
  | .cmpiNe d a ti imm => some (0x11, 1, rri (pr d) (r a) (tiCode ti) imm)
  | .cmpiLt d a ti imm => some (0x11, 2, rri (pr d) (r a) (tiCode ti) imm)
  | .cmpiGe d a ti imm => some (0x11, 3, rri (pr d) (r a) (tiCode ti) imm)
  | .cmpiLtu d a ti imm => some (0x11, 4, rri (pr d) (r a) (tiCode ti) imm)
  | .cmpiGeu d a ti imm => some (0x11, 5, rri (pr d) (r a) (tiCode ti) imm)
  | .pset d a => some (0x12, 0, rrr (pr d) (r a) 0 0 0 0)
  | .pand d a b => some (0x12, 1, rrr (pr d) (pr a) (pr b) 0 0 0)
  | .por d a b => some (0x12, 2, rrr (pr d) (pr a) (pr b) 0 0 0)
  | .pxor d a b => some (0x12, 3, rrr (pr d) (pr a) (pr b) 0 0 0)
  | .pnot d a => some (0x12, 4, rrr (pr d) (pr a) 0 0 0 0)
  | .br cc a b off => some (0x18, 0, rri (r a) (r b) (condCode cc) off)
  | .jmp off => some (0x19, 0, rri 0 0 0 off)
  | .jal a off => some (0x19, 1, rri (r a) 0 0 off)
  | .jalr d a imm => some (0x1A, 0, rri (r d) (r a) 0 imm)
  | .loop a off => some (0x1B, 0, rri (r a) 0 0 off)
  | .ld d base index sz sc ord off => some (0x20, 0, memf (r d) (r base) (r index) (szCode sz) (scCode sc) (ordCode ord) off)
  | .ldLoc d base index sz off => some (0x20, 1, memf (r d) (r base) (r index) (szCode sz) 0 0 off)
  | .st d base index sz sc ord off => some (0x21, 0, memf (r d) (r base) (r index) (szCode sz) (scCode sc) (ordCode ord) off)
  | .stLoc d base index sz off => some (0x21, 1, memf (r d) (r base) (r index) (szCode sz) 0 0 off)
  | .amoAdd d base index sz sc ord off => some (0x22, 0, memf (r d) (r base) (r index) (szCode sz) (scCode sc) (ordCode ord) off)
  | .amoAnd d base index sz sc ord off => some (0x22, 1, memf (r d) (r base) (r index) (szCode sz) (scCode sc) (ordCode ord) off)
  | .amoOr d base index sz sc ord off => some (0x22, 2, memf (r d) (r base) (r index) (szCode sz) (scCode sc) (ordCode ord) off)
  | .amoXor d base index sz sc ord off => some (0x22, 3, memf (r d) (r base) (r index) (szCode sz) (scCode sc) (ordCode ord) off)
  | .amoMin d base index sz sc ord off => some (0x22, 4, memf (r d) (r base) (r index) (szCode sz) (scCode sc) (ordCode ord) off)
  | .amoMax d base index sz sc ord off => some (0x22, 5, memf (r d) (r base) (r index) (szCode sz) (scCode sc) (ordCode ord) off)
  | .amoMinu d base index sz sc ord off => some (0x22, 6, memf (r d) (r base) (r index) (szCode sz) (scCode sc) (ordCode ord) off)
  | .amoMaxu d base index sz sc ord off => some (0x22, 7, memf (r d) (r base) (r index) (szCode sz) (scCode sc) (ordCode ord) off)
  | .amoSwap d base index sz sc ord off => some (0x22, 8, memf (r d) (r base) (r index) (szCode sz) (scCode sc) (ordCode ord) off)
  | .amoLocAdd d base index sz off => some (0x23, 0, memf (r d) (r base) (r index) (szCode sz) 0 0 off)
  | .amoLocAnd d base index sz off => some (0x23, 1, memf (r d) (r base) (r index) (szCode sz) 0 0 off)
  | .amoLocOr d base index sz off => some (0x23, 2, memf (r d) (r base) (r index) (szCode sz) 0 0 off)
  | .amoLocXor d base index sz off => some (0x23, 3, memf (r d) (r base) (r index) (szCode sz) 0 0 off)
  | .amoLocMin d base index sz off => some (0x23, 4, memf (r d) (r base) (r index) (szCode sz) 0 0 off)
  | .amoLocMax d base index sz off => some (0x23, 5, memf (r d) (r base) (r index) (szCode sz) 0 0 off)
  | .amoLocMinu d base index sz off => some (0x23, 6, memf (r d) (r base) (r index) (szCode sz) 0 0 off)
  | .amoLocMaxu d base index sz off => some (0x23, 7, memf (r d) (r base) (r index) (szCode sz) 0 0 off)
  | .amoLocSwap d base index sz off => some (0x23, 8, memf (r d) (r base) (r index) (szCode sz) 0 0 off)
  | .cas d base index sz sc ord off => some (0x24, 0, memf (r d) (r base) (r index) (szCode sz) (scCode sc) (ordCode ord) off)
  | .casLoc d base index sz off => some (0x24, 1, memf (r d) (r base) (r index) (szCode sz) 0 0 off)
  | .spill first last base sc ord off => some (0x25, 0, memf (r first) (r base) (r last) 3 (scCode sc) (ordCode ord) off)
  | .fill first last base sc ord off => some (0x25, 1, memf (r first) (r base) (r last) 3 (scCode sc) (ordCode ord) off)
  | .fence sc ord => some (0x26, 0, memf 0 0 0 0 (scCode sc) (ordCode ord) 0)
  | .fenceF => some (0x26, 1, cmd 0 0 0 0 0)
  | .nop => some (0x50, 0, cmd 0 0 0 0 0)
  | .yield => some (0x50, 1, cmd 0 0 0 0 0)
  | .halt => some (0x50, 2, cmd 0 0 0 0 0)
  | .brk code => some (0x50, 3, cmd 0 0 0 0 (0#9 ++ code))
  | .trap imm => some (0x51, 0, rri 0 0 1 imm)
  | .eret => some (0x51, 1, cmd 0 0 0 0 0)
  | .crr d idx => some (0x52, 0, rri (r d) 0 1 (0#20 ++ idx))
  | .crw idx a => some (0x52, 1, rri 0 (r a) 1 (0#20 ++ idx))
  | .evpop d a => some (0x53, 0, cmd (r d) (r a) 0 0 0)
  | .evwait d a => some (0x53, 1, cmd (r d) (r a) 0 0 0)
  | .cyc d => some (0x54, 0, cmd (r d) 0 0 0 0)
  | .dictLd d base off => some (0x40, 0, memf (r d) (r base) 0 0 0 0 off)
  | .dictCommit => some (0x40, 1, cmd 0 0 0 0 0)
  | .dictRd d a stg h => some (0x40, 2, cmd (r d) (r a) 0 0 (0#23 ++ bb stg ++ bb h))
  | .dictGen d => some (0x40, 3, cmd (r d) 0 0 0 0)
  | .dictGenId d => some (0x40, 3, cmd (r d) 0 0 0 1)
  | .cfgLd d a auto ply => some (0x41, 0, cmd (r d) (r a) 0 0 (0#22 ++ bb auto ++ n2 ply))
  | .cfgCommit ply => some (0x41, 1, cmd 0 0 0 0 (0#23 ++ n2 ply))
  | .cfgDrop ply => some (0x41, 2, cmd 0 0 0 0 (0#23 ++ n2 ply))
  | .cfgDropImg a => some (0x41, 2, cmd 0 (r a) 0 0 4)
  | .cfgQPly d => some (0x41, 3, cmd (r d) 0 0 0 0)
  | .cfgQImg d a => some (0x41, 3, cmd (r d) (r a) 0 0 1)
  | .cfgQRsv d => some (0x41, 3, cmd (r d) 0 0 0 2)
  | .rgnOpen a => some (0x42, 0, cmd 0 (r a) 0 0 0)
  | .rgnWait d => some (0x42, 1, cmd (r d) 0 0 0 0)
  | .rgnClose => some (0x42, 2, cmd 0 0 0 0 0)
  | .rgnCloseAbort => some (0x42, 2, cmd 0 0 0 0 1)
  | .portBindHnd a b => some (0x43, 0, cmd 0 (r a) (r b) 0 0)
  | .portBindFar a b ply => some (0x43, 0, cmd 0 (r a) (r b) 0 (0#22 ++ n2 ply ++ 1#1))
  | .portUnbindHnd b => some (0x43, 1, cmd 0 0 (r b) 0 0)
  | .portUnbindFar b ply => some (0x43, 1, cmd 0 0 (r b) 0 (0#22 ++ n2 ply ++ 1#1))
  | .permitK a k => some (0x44, 0, cmd 0 (r a) 0 0 (0#21 ++ k))
  | .qrsv d a n => some (0x45, 0, cmd (r d) (r a) 0 0 (0#20 ++ n))
  | .qpush a b c => some (0x45, 1, cmd 0 (r a) (r b) (r c) 0)
  | .policyLd a => some (0x46, 0, cmd 0 (r a) 0 0 0)
  | .policySwap d => some (0x46, 1, cmd (r d) 0 0 0 0)
  | .strAff a port => some (0x48, 0, cmd 0 (r a) 0 0 (0#21 ++ n4 port))
  | .strInd a port => some (0x48, 1, cmd 0 (r a) 0 0 (0#21 ++ n4 port))
  | .strGo a port => some (0x48, 2, cmd 0 (r a) 0 0 (0#21 ++ n4 port))
  | .strBar mask => some (0x48, 3, cmd 0 0 0 0 (0#9 ++ mask))
  | .strWait d mask => some (0x48, 4, cmd (r d) 0 0 0 (0#9 ++ mask))
  | .winSet d a b entry port => some (0x49, 0, cmd (r d) (r a) (r b) 0 (0#19 ++ n2 entry ++ n4 port))
  | .winClr all entry port => some (0x49, 1, cmd 0 0 0 0 (0#18 ++ bb all ++ n2 entry ++ n4 port))
  | _ => none

/-- [49:45] of a guard (02 R34). -/
def guardCode : Guard → BitVec 5
  | none => 0
  | some (n, p) => 1#1 ++ bb n ++ n3 p

/-- The canonical word of a guarded instruction (02 R34, R36). -/
def encode (g : Guard) (i : Instr) : Option Code :=
  (encBody i).map fun (op, fn, body) =>
    2#2 ++ BitVec.ofNat 8 op ++ BitVec.ofNat 4 fn ++ guardCode g ++ body

/-- A policy instruction of OPC, [10:8], [7:5] and [4:0] (10 R234). -/
def pol (opc : BitVec 5) (d s : BitVec 3) (f : BitVec 5) : BitVec 16 := opc ++ d ++ s ++ f

/-- The halfword of a policy instruction (10 R234). -/
def encodePolicy : Instr → Option (BitVec 16)
  | .imm d i => some (0x01#5 ++ n3 d ++ i)
  | .kld d k => some (pol 0x02 (n3 d) 0 (0#2 ++ n3 k))
  | .env d e => some (pol 0x03 (n3 d) 0 e)
  | .cand d s f => some (pol 0x04 (n3 d) (n3 s) f)
  | .subj d f => some (pol 0x05 (n3 d) 0 f)
  | .copy d s => some (pol 0x06 (n3 d) (n3 s) 0)
  | .addiv d i => some (0x07#5 ++ n3 d ++ i)
  | .addv d s => some (pol 0x08 (n3 d) (n3 s) 0)
  | .subv d s => some (pol 0x08 (n3 d) (n3 s) 1)
  | .andv d s => some (pol 0x08 (n3 d) (n3 s) 2)
  | .orv d s => some (pol 0x08 (n3 d) (n3 s) 3)
  | .minv d s => some (pol 0x08 (n3 d) (n3 s) 4)
  | .maxv d s => some (pol 0x08 (n3 d) (n3 s) 5)
  | .shlv d s => some (pol 0x08 (n3 d) (n3 s) 6)
  | .shrv d s => some (pol 0x08 (n3 d) (n3 s) 7)
  | .mall => some (pol 0x09 0 0 0)
  | .mkeepEq s f => some (pol 0x0A 0 (n3 s) f)
  | .mkeepNe s f => some (pol 0x0A 2 (n3 s) f)
  | .mkeepLt s f => some (pol 0x0A 4 (n3 s) f)
  | .mkeepGe s f => some (pol 0x0A 6 (n3 s) f)
  | .mcnt d => some (pol 0x0B (n3 d) 0 0)
  | .scanMin d f => some (pol 0x0C (n3 d) 0 f)
  | .scanMax d f => some (pol 0x0C (n3 d) 1 f)
  | .jeq a s o => some (pol 0x10 (n3 a) (n3 s) o)
  | .jne a s o => some (pol 0x11 (n3 a) (n3 s) o)
  | .jlt a s o => some (pol 0x12 (n3 a) (n3 s) o)
  | .jge a s o => some (pol 0x13 (n3 a) (n3 s) o)
  | .jfw o => some (0x14#5 ++ 0#3 ++ o)
  | .pick s => some (pol 0x18 0 (n3 s) 0)
  | .idle => some (pol 0x18 1 0 0)
  | .preempt s => some (pol 0x18 2 (n3 s) 0)
  | .keep => some (pol 0x18 3 0 0)
  | .restart => some (pol 0x18 4 0 0)
  | .kill => some (pol 0x18 5 0 0)
  | .host => some (pol 0x18 6 0 0)
  | .migrate s => some (pol 0x18 7 (n3 s) 0)
  | _ => none

end Sys2Proof
end

