-- ==== Sys2Proof/Machine/Tab.lean ====
section
/-! DEFINITION. A table of values by number, as plain data: a list of (number, value) pairs with the numbers strictly rising. Memory, registers and every indexed unit of the part are held so. -/
namespace Sys2Proof.Machine

/-- Values by number, the numbers strictly rising; a number not listed reads as a default its reader names. -/
abbrev Tab (α : Type) := List (Nat × α)

/-- The value listed at k. -/
def Tab.find {α : Type} : Tab α → Nat → Option α
  | [], _ => none
  | (j, v) :: t, k => if k = j then some v else Tab.find t k

/-- The value at k, or d where none is listed. -/
def Tab.look {α : Type} (d : α) (t : Tab α) (k : Nat) : α := (Tab.find t k).getD d

/-- t without an entry at k. -/
def Tab.drop {α : Type} : Tab α → Nat → Tab α
  | [], _ => []
  | (j, v) :: t, k => if k = j then Tab.drop t k else (j, v) :: Tab.drop t k

/-- t with v listed at k. -/
def Tab.set {α : Type} : Tab α → Nat → α → Tab α
  | [], k, v => [(k, v)]
  | (j, u) :: t, k, v =>
    if k = j then (k, v) :: t
    else if k < j then (k, v) :: (j, u) :: t
    else (j, u) :: Tab.set t k v

/-- t with v at k in canonical form: the default d is never listed. -/
def Tab.put {α : Type} [DecidableEq α] (d : α) (t : Tab α) (k : Nat) (v : α) : Tab α :=
  if v = d then Tab.drop t k else Tab.set t k v

/-- The numbers of t rise strictly, all of them from lo on. -/
def Tab.risesFrom {α : Type} : Nat → Tab α → Bool
  | _, [] => true
  | lo, (j, _) :: t => decide (lo ≤ j) && Tab.risesFrom (j + 1) t

/-- t in canonical form: numbers strictly rising and no entry equal to d. -/
def Tab.wf {α : Type} [DecidableEq α] (d : α) (t : Tab α) : Bool :=
  Tab.risesFrom 0 t && t.all (fun e => decide (e.2 ≠ d))

/-- The values of a table in the order of their numbers. -/
def Tab.vals {α : Type} (t : Tab α) : List α := t.map Prod.snd

/-- t with f applied to the value at k (the default d where none is listed). -/
def Tab.mod {α : Type} (d : α) (t : Tab α) (k : Nat) (f : α → α) : Tab α := Tab.set t k (f (Tab.look d t k))

/-- A list with an element before the first that it comes before. -/
def insertBy {α : Type} (before : α → α → Bool) (a : α) : List α → List α
  | [] => [a]
  | b :: l => if before a b then a :: b :: l else b :: insertBy before a l

/-- A list in the order of `before`, equal elements as they stood. -/
def sortBy {α : Type} (before : α → α → Bool) : List α → List α
  | [] => []
  | a :: l => insertBy (fun a b => !(before b a)) a (sortBy before l)

end Sys2Proof.Machine
end

