-- ==== Sys2Proof/Machine/Types.lean ====
section
/-! DEFINITION. The pieces of the state of a core: contexts, dictionaries, regions, the fabric, streams, the matrix array, engines and the tile unit. Every structure cites the rule that names its fields. -/
namespace Sys2Proof.Machine

/-- The states of a context (01 R22). -/
inductive RunState | off | run | wait
  deriving DecidableEq, Repr, Inhabited

/-- What a context in WAIT awaits (01 R22). -/
inductive Await
  | event
  | region
  | streams (mask : BitVec 16)
  | matrix (n : Nat)
  | line (head target : Nat)
  deriving DecidableEq, Repr, Inhabited

/-- The registers a trap writes, and TVEC (01 R16). -/
structure TrapRegs where
  cause : Word := 0
  epc : Word := 0
  tval : Word := 0
  tstat : Word := 0
  tvec : Word := 0
  deriving DecidableEq, Repr, Inhabited

/-- One dictionary entry: template and hole descriptor (03 R53, R54). -/
structure DictEntry where
  template : Word := 0
  desc : BitVec 32 := 0
  deriving DecidableEq, Repr, Inhabited

/-- The dictionary state of a context (03 R52). -/
structure Dict where
  active : Tab DictEntry := []
  staged : Tab DictEntry := []
  activeId : BitVec 32 := 0
  stagedId : BitVec 32 := 0
  gen : BitVec 32 := 0
  pend : Bool := false
  complete : Bool := false
  deriving DecidableEq, Repr, Inhabited

/-- A reservation of queue slots (05 R128; 07 R181, where amp and excess serve AMPLIFY). -/
structure Rsv where
  queue : Nat := 0
  count : Nat := 0
  amp : Bool := false
  excess : Bool := false
  deriving DecidableEq, Repr, Inhabited

/-- The matrix registers of a context (08 R185). -/
structure MxCtx where
  thr : BitVec 32 := 0
  bound : BitVec 32 := 0x7F800000
  err : BitVec 32 := 0
  sn : Nat := 0
  scnt : Nat := 0
  outstanding : Nat := 0
  fault : Option (Cause × Word) := none
  deriving DecidableEq, Repr, Inhabited

/-- A selection a core has latched for a context (05 R117): the STAGED ply, and the address after the CFG.COMMIT that waits on it. -/
structure Latch where
  ply : Nat
  commit : Option Word
  deriving DecidableEq, Repr, Inhabited

/-- A deadline as a die holds it (09 R209, R210): KIND, HEAD, ABS and the enable count it was stamped under. -/
structure Deadline where
  kind : Nat := 0
  head : Nat := 0
  abs : Int := 0
  gen : Nat := 0
  deriving DecidableEq, Repr, Inhabited

/-- A block of a strand region (05 R125). -/
structure Block where
  image : Word
  queue : Nat
  thresh : Nat
  deriving DecidableEq, Repr, Inhabited

/-- The states of a region bound to a context (05 R123, R136). -/
inductive RgnState | opened | done | faulted
  deriving DecidableEq, Repr, Inhabited

/-- A region (05 R121 to R126, 21 R378 to R390): its snapshot of the RCB path and its progress. `mark` holds what the last sink report found (R123): the next request number, the stream commands that ran, the next engine command number; `stored` says that DONEVAL is stored and the store to STATE still waits, `served` that the loader opened it for a queue or a stage (09 R220), `lastQ` the queue that its server served last, `turn` its slice since the last YIELD, 0 before the first (09 R222), and `choice` the block that the scheduler of a strand has chosen while no ply is FREE to load it (18 R344). -/
structure Region where
  rcb : Word := 0
  image : Word := 0
  scope : Nat := 0
  strand : Bool := false
  budget : Option Nat := none
  prio : Nat := 0
  fdom : Nat := 0
  deadline : Option Deadline := none
  doneva : Word := 0
  doneval : Word := 0
  blocks : List Block := []
  running : Option Nat := none
  override : Option Nat := none
  state : RgnState := .opened
  sinks : Nat := 0
  err : Bool := false
  cause : Nat := 0
  nflt : Nat := 0
  start : Nat := 0
  used : Nat := 0
  exhausted : Bool := false
  slice : Option (Nat × Nat) := none
  served : Bool := false
  lastQ : Option Nat := none
  turn : Nat := 0
  choice : Option Nat := none
  mark : Option (Nat × List Nat × Nat) := none
  stored : Bool := false
  deriving DecidableEq, Repr, Inhabited

/-- A full switch of a context that was ordered for a pre-emption: the save slot, and the queue that the freed server goes to (09 R219; 21 R394). -/
structure SwitchTo where
  slot : Nat
  queue : Nat
  deriving DecidableEq, Repr, Inhabited

/-- An instruction that has issued and waits to retire: what it is, its PSZ and its parcel's bits (01 R25). Its guard held when it issued, and it goes on without issuing again. -/
structure Going where
  act : Instr := .nop
  psz : Nat := 2
  bits : Word := 0
  deriving DecidableEq, Repr, Inhabited

/-- A context of a sequencer (01 R11, R16); `going` is the instruction that has issued and waits for the host, a page lock or a load (01 R25; 21 R377), `pre` the halfwords that it has prefetched, by address (04 R85), `hold` a CFG.COMMIT that waits for its commit (05 R119), `stopping` that a stop command awaits the end of the instruction it has issued (24 R421). -/
structure Ctx where
  x : Tab Word := []
  p : BitVec 8 := 1
  pc : Word := 0
  run : RunState := .off
  await : Option Await := none
  hold : Bool := false
  priv : Bool := true
  tr : TrapRegs := {}
  frm : Nat := 0
  pfloor : Word := 0
  resume : Option Nat := none
  going : Option Going := none
  pre : Tab Nat := []
  stopping : Bool := false
  ext : Option Word := none
  dict : Dict := {}
  rsv : Rsv := {}
  bound : Option Nat := none
  latch : Option Latch := none
  region : Option Region := none
  switch : Option SwitchTo := none
  mx : MxCtx := {}
  deriving DecidableEq, Repr, Inhabited

/-- An endpoint of a route (05 R114); an element is ROW * 8 + COL. -/
inductive Endpt
  | chan (elem ch : Nat)
  | stream (n : Nat)
  | engine (n : Nat)
  | far (n : Nat)
  | select
  deriving DecidableEq, Repr, Inhabited

/-- What a channel entry is: a token, a drain marker (05 R117) or a snapshot marker whose data is its cut (07 R178). -/
inductive Mark | none | drain | snap
  deriving DecidableEq, Repr, Inhabited

/-- A channel token (05 R98). `ray` says that it descends from a delivery of kind 3 (21 R391), `port` that the token fabric port delivered it (05 R437). -/
structure Token where
  data : Word := 0
  tag : Nat := 0
  ply : Nat := 0
  e : Bool := false
  x : Bool := false
  mark : Mark := .none
  ray : Bool := false
  port : Bool := false
  deriving DecidableEq, Repr, Inhabited

/-- What an engine command does (17 R323). -/
inductive EngKind
  | none
  | cpy (o : EngOpts)
  | gath (o : EngOpts)
  | scat (o : EngOpts)
  | fillb (o : EngOpts)
  | coll (o : EngOpts)
  | pub (o : PubOpts)
  | pubDef (o : PubOpts)
  | pubDrop (o : PubOpts)
  | xfm (o : EngOpts) (rm : Rm)
  deriving DecidableEq, Repr, Inhabited

/-- An engine command (17 R326): its word, what it does, three operands, and the core, ply, element and rule that fired it; a remote one (R335) has element 64. `before` is the request number of its firing (its release part waits for the requests before it), `acc` its number in acceptance order (R334), `gone` says that its ply is FREE (R322); then its progress in units and bytes, whether its accesses are done, and the cause it failed with; of a COLL, its number among those accepted on its group, and once it has begun its result, the cores that take part, and the piece of the result at which a member in another package fails (R332; 24 R428). -/
structure EngCmd where
  word : Code := 0
  kind : EngKind := .none
  a : Word := 0
  b : Word := 0
  c : Word := 0
  core : Nat := 0
  ply : Nat := 0
  elem : Nat := 0
  rule : Nat := 0
  before : Nat := 0
  acc : Nat := 0
  gone : Bool := false
  prog : Nat := 0
  wrote : Nat := 0
  done : Bool := false
  code : Nat := 0
  num : Nat := 0
  res : List Byte := []
  peers : List Nat := []
  peerFault : Option Nat := none
  deriving DecidableEq, Repr, Inhabited

/-- A token between an output stage and the slot its route reserved (05 R107), with the engine command it carries to e0, e1 or e2. The producer is the ply of its route, or 4 for the token fabric port (05 R437). -/
structure Flight where
  dst : Endpt
  tok : Token
  prod : Nat
  cmd : Option EngCmd := none
  deriving DecidableEq, Repr, Inhabited

/-- A slot granted to a producer, and whether the producer sees it yet (05 R437). -/
structure Grant where
  prod : Nat
  seen : Bool
  deriving DecidableEq, Repr, Inhabited

/-- An input channel (05 R99, R437). -/
structure Chan where
  toks : List Token := []
  grants : List Grant := []
  deriving DecidableEq, Repr, Inhabited

/-- A rule of an element: trigger word, the word of its action and the action (05 R95, R100). -/
structure Rule where
  trig : BitVec 32 := 0
  word : Code := 0
  act : Instr := .nop
  deriving DecidableEq, Repr, Inhabited

/-- A route (05 R106, R114). -/
structure Route where
  src : Endpt
  back : Bool
  dests : List Endpt
  deriving DecidableEq, Repr, Inhabited

/-- The remote input a far output is bound to (05 R139). -/
structure FarBind where
  core : Nat
  elem : Nat
  ch : Nat
  ply : Nat
  deriving DecidableEq, Repr, Inhabited

/-- A far record with its binding and its passes, the tokens of each pass oldest first (05 R108, R114). `ended` is set when the route carries nothing more but the end token in `tail`, which waits for room (21 R383). -/
structure Far where
  out : Bool := true
  ep : Endpt := .select
  bind : Option FarBind := none
  passes : List (List Token) := []
  ended : Bool := false
  tail : Option Token := none
  absorb : Bool := false
  deriving DecidableEq, Repr, Inhabited

/-- The per-rule state of MERGEU (07 R173); lastB says that arm B was served last. -/
structure MergeU where
  lastB : Bool := true
  endA : Bool := false
  xA : Bool := false
  endB : Bool := false
  xB : Bool := false
  deriving DecidableEq, Repr, Inhabited

/-- The per-rule state of SINK (07 R177). -/
structure SinkSt where
  count : Nat := 0
  err : Bool := false
  deriving DecidableEq, Repr, Inhabited

/-- The state of one element in one ply (05 R95, 07 R183); `markDue` are the outputs on which the marker of cut `markCut` has still to be placed, ahead of any later token (21 R387); dray and pray mark the registers and predicates that descend from a ray delivery (13 R298, 21 R391). -/
structure EPly where
  d : Tab Word := []
  p : BitVec 8 := 1
  k : Nat := 1
  infl : BitVec 16 := 0
  nt : Nat := 0
  rv : Rsv := {}
  mergeu : Tab MergeU := []
  sinks : Tab SinkSt := []
  redDone : BitVec 8 := 0
  popped : Tab Nat := []
  stopped : Bool := false
  heldB : Bool := false
  markDue : Nat := 0
  markCut : Nat := 0
  dray : BitVec 8 := 0
  pray : BitVec 8 := 0
  deriving DecidableEq, Repr, Inhabited

/-- One contribution to a round of RED (07 R179). -/
structure RedPart where
  elem : Nat
  data : Word
  e : Bool
  x : Bool
  deriving DecidableEq, Repr, Inhabited

/-- A snapshot of an element at a cut (21 R387), with its contributions to the open rounds of RED by group (07 R179, R183). -/
structure Snap where
  cut : Nat
  st : EPly
  reds : Tab RedPart := []
  deriving DecidableEq, Repr, Inhabited

/-- The states of a ply (05 R97). -/
inductive PlySt | free | loading | staged | active
  deriving DecidableEq, Repr, Inhabited

/-- A ply of a core (05 R97, R114, R118; 21 R383, R387); `frozen` while its context is switched out (21 R395), `contained` the nodes of the groups that a KILL has contained (21 R383). While it is LOADING, `loader` is the block that the block scheduler loads, and `byInstr` says that a CFG.LD loads it. -/
structure Ply where
  st : PlySt := .free
  ctx : Nat := 0
  image : Word := 0
  rules : Tab (Tab Rule) := []
  elems : Tab EPly := []
  routes : List Route := []
  fars : Tab Far := []
  sports : Nat := 0
  eports : Nat := 0
  entry : Option Endpt := none
  nsink : Nat := 0
  reds : Tab (List RedPart) := []
  draining : Bool := false
  frozen : Bool := false
  contained : List Nat := []
  forwarded : List Nat := []
  snaps : Tab (List Snap) := []
  loader : Option Nat := none
  byInstr : Bool := false
  deriving DecidableEq, Repr, Inhabited

/-- The progress of a request in an element's request unit (12 R278, R281). -/
inductive ReqSt
  | waiting
  | held
  | done (v : Word)
  | failed
  deriving DecidableEq, Repr, Inhabited

/-- What a request does (12 R280). -/
inductive ReqKind
  | load (sz : Sz)
  | store (sz : Sz)
  | amo (op : Nat) (sz : Sz)
  | xlate (wr : Bool)
  | occl
  deriving DecidableEq, Repr, Inhabited

/-- A request of an element (12 R278): what it does, its destination, the operands read at selection, and what its response emits. `endX` holds for an end firing and its X bit (07 R170), `parkable` where a head descends from a ray delivery (21 R391), `npg` and `marks` for the pages an XLATE has verified (12 R282), `no` its number in selection order on the core. -/
structure Req where
  ply : Nat := 0
  rule : Nat := 0
  word : Code := 0
  kind : ReqKind := .occl
  dst : EDst := .null
  ea : Word := 0
  opnd : Word := 0
  tag : Nat := 0
  endX : Option Bool := none
  ray : Bool := false
  parkable : Bool := false
  npg : Nat := 0
  marks : Nat := 2
  no : Nat := 0
  st : ReqSt := .waiting
  elem : Nat := 0
  deriving DecidableEq, Repr, Inhabited

/-- A queue operation of an element (07 R182): the push of a token, the release of n slots, or the grant of n slots to an RSV or (`amp`) an AMPLIFY, with what answers its firing: the outputs, the tag, D, and whether it descends from a ray. -/
inductive QueueOp
  | token
  | release (n : Nat)
  | grant (amp : Bool) (n mask tag : Nat) (d : EDst) (ray : Bool)
  deriving DecidableEq, Repr, Inhabited

/-- A queue operation that waits: the push of an ENQ whose earlier requests are not yet performed (13 R299), or what its element has sent behind one (07 R182): its element and ply, the request number of its firing, its queue, the deadline of its region, and the token. -/
structure Push where
  op : QueueOp := .token
  elem : Nat := 0
  ply : Nat := 0
  before : Nat := 0
  queue : Nat := 0
  dl : Option Deadline := none
  tok : Wide := 0
  deriving DecidableEq, Repr, Inhabited

/-- An image of the configuration cache (05 R116): its entry, its tags and its bytes, the oldest load first; `doomed` says that it is removed when the read of it ends (05 R134). -/
structure CfgImage where
  slot : Nat
  addr : Word
  part : Nat
  bytes : List Byte
  doomed : Bool := false
  deriving DecidableEq, Repr, Inhabited

/-- The fabric of a core (05 R95 to R120, 12 R278, 21 R391, R392); `selq` holds the tokens at the selection port, each with the context that its ply served when it arrived (R117); `pushes` the queue operations of elements that wait, in the order of their firings. -/
structure Fabric where
  plies : Tab Ply := []
  order : List Nat := [0, 1, 2, 3]
  chans : Tab Chan := []
  flights : List Flight := []
  reqs : Tab (List Req) := []
  reqNo : Nat := 0
  selq : List (Token × Nat) := []
  cfg : List CfgImage := []
  park : List Req := []
  pushes : List Push := []
  deriving DecidableEq, Repr, Inhabited

/-- A queue operation that is the grant of an RSV or an AMPLIFY (07 R182). -/
def Push.isGrant (x : Push) : Bool :=
  match x.op with
  | .grant .. => true
  | _ => false

/-- A message at a token fabric port, with its number in the order of arrival (05 R111, R112), the valid handler entry that it found on arrival (05 R113) and the slice whose token it is, where one delivered it as a message (09 R220). -/
structure PortMsg where
  msg : Wide := 0
  no : Nat := 0
  entry : Option Word := none
  slice : Option Nat := none
  deriving DecidableEq, Repr, Inhabited

/-- The token fabric port of a core (05 R109 to R113): handler table, unbound queue and inbox in arrival order with the messages that have arrived so far, the second token of a delivery under way with the slice of its message; messages of kind 2 in arrival order (17 R335); the half of a message that a ply has sent (07 R180); the beats of a ray that an element (as ply * 128 + element) has sent so far (18 R348). -/
structure Port where
  handlers : Tab Word := []
  unbound : List PortMsg := []
  inbox : List PortMsg := []
  arrivals : Nat := 0
  remote : List PortMsg := []
  second : Option (Endpt × Token) := none
  secondOf : Option Nat := none
  half : Tab Word := []
  rays : Tab (List Wide) := []
  tokdrop : Nat := 0
  deriving DecidableEq, Repr, Inhabited

/-- A stream descriptor (12 R268). -/
structure SDesc where
  ind : Bool := false
  base : Word := 0
  n0 : Nat := 0
  n1 : Nat := 1
  n2 : Nat := 1
  st0 : Int := 0
  st1 : Int := 0
  st2 : Int := 0
  esz : Nat := 1
  write : Bool := false
  ord : Nat := 0
  sc : Nat := 0
  eos : Bool := false
  mark : Bool := false
  ctok : Bool := false
  sext : Bool := false
  shift : Nat := 0
  iw : Bool := false
  deriving DecidableEq, Repr, Inhabited

/-- A stream port's record of a cut (21 R387, R388): the cut, the number of the command, its element, and the input channel of the destination that saved it, 256 for the record of a write port. -/
structure CutRec where
  cut : Nat
  cmd : Nat := 0
  elem : Nat
  dst : Nat := 256
  deriving DecidableEq, Repr, Inhabited

/-- A stream command (12 R267, R274), its number on the core and the commands that a STR.BAR puts before it (R275). -/
structure SCmd where
  desc : SDesc
  ply : Nat
  id : Nat
  after : List Nat
  deriving DecidableEq, Repr, Inhabited

/-- A command that runs (12 R269): the next element, whether its last element is done, and whether the end token of EOS is still due. -/
structure SRun where
  cmd : SCmd
  e : Nat := 0
  last : Bool := false
  eosDue : Bool := false
  deriving DecidableEq, Repr, Inhabited

/-- A window of a stream port (11 R256): its first page, its base address (of the page, or of its descriptor where CMP is set), its pages, and when it was used last. -/
structure Win where
  vbase : Nat
  pbase : Nat
  npg : Nat
  rd : Bool
  w : Bool
  cmp : Bool
  used : Nat := 0
  deriving DecidableEq, Repr, Inhabited

/-- Where a virtual byte lies: at a physical address, or at an offset of a compressed page (11 R253, R261). -/
inductive Loc
  | plain (pa : Nat)
  | comp (desc off : Nat)
  deriving DecidableEq, Repr, Inhabited

/-- A line of a port's stream window (11 R257; 13 R303): its virtual address, where its bytes lie (physical, or at an offset of the page of a descriptor), the bytes held, those that are uncorrectable, and for a read the first element that it does not serve; `stuck` says that its write-back has failed and awaits a decision. -/
structure WLine where
  va : Nat
  cmp : Bool := false
  at_ : Nat := 0
  off : Nat := 0
  bytes : Tab Byte := []
  bad : List Nat := []
  upto : Nat := 0
  stuck : Bool := false
  deriving DecidableEq, Repr, Inhabited

/-- A window being built, whose next page awaits the host's walk: its first page, the leaf of it with the first page the leaf maps, and the pages verified so far (11 R256; 00 R8). -/
structure WinBuild where
  page : Nat := 0
  leaf : Nat := 0
  vpn : Nat := 0
  npg : Nat := 1
  deriving DecidableEq, Repr, Inhabited

/-- A stream port (12 R267, 11 R257, 21 R388); `builds` holds at 0 the window that its own access builds, at 1 that of a WIN.SET; `cuts` holds its records of cuts, those of one destination the newest first, `due` the records that lie in the command it takes up next, and `past` the last command that ended with the tokens it sent; `reached` is where the next element of a write goes, once translated, as pieces of (virtual address, place, bytes) (15 R315). -/
structure SPort where
  armed : Option (SDesc × Nat) := none
  queue : List SCmd := []
  run : Option SRun := none
  faulted : Bool := false
  err : Bool := false
  toks : List Token := []
  wins : Tab Win := []
  builds : Tab WinBuild := []
  lines : List WLine := []
  bar : List Nat := []
  cuts : List CutRec := []
  due : List CutRec := []
  past : Option (Nat × Nat) := none
  reached : Option (List (Nat × Loc × Nat)) := none
  deriving DecidableEq, Repr, Inhabited

/-- A slice of the matrix array (08 R185, R190, R192): values by k * 128 + n and scales by column * 4P + group. -/
structure MxSlice where
  valid : Bool := false
  bt : MTy := .bf16
  aen : Bool := false
  ben : Bool := false
  vals : Tab Nat := []
  scales : Tab Nat := []
  deriving DecidableEq, Repr, Inhabited

/-- A fired A row: its 256 bytes and the scales of its groups (08 R193, R202). -/
structure MxRow where
  bytes : List Byte := []
  scales : List Byte := []
  deriving DecidableEq, Repr, Inhabited

/-- An operation of the matrix queue (08 R187): its context, word, register operands, threshold and rounding mode at issue, whether its gang had lost a member then (R201); and its progress: the next row, unit or edge, rows or payload bytes done, rows fired and not yet written, the mask of the edge group and those of the groups before it, the failure that takes effect once the rows fired are written, whether it joined its gang, whether it runs degraded (23 R414). -/
structure MxOp where
  ctx : Nat := 0
  word : Code := 0
  act : Instr := .nop
  a : Word := 0
  b : Word := 0
  thr : BitVec 32 := 0
  rm : Rm := .rne
  late : Bool := false
  begun : Bool := false
  row : Nat := 0
  written : Nat := 0
  fired : List MxRow := []
  mask : Nat := 0
  masks : List Nat := []
  fail : Option (Cause × Nat) := none
  joined : Bool := false
  degraded : Bool := false
  deriving DecidableEq, Repr, Inhabited

/-- This core's place in a gang (08 R201). -/
structure GangMem where
  gid : Nat
  row : Nat
  col : Nat
  deriving DecidableEq, Repr, Inhabited

/-- The matrix array of a core (08 R185, R187, R202); `coming` holds the rows on their way to its row queue, `was` the place in a gang that a failing operation has dissolved and will report (R189), and `err` says that the two passes of the next row of an MMR differ (08 R198). -/
structure Matrix where
  slices : Tab MxSlice := []
  intBank : BitVec 2 := 0
  full : Tab Bool := []
  gang : Option GangMem := none
  was : Option GangMem := none
  rowq : List MxRow := []
  coming : List MxRow := []
  err : Bool := false
  queue : List MxOp := []
  deriving DecidableEq, Repr, Inhabited

/-- A parked tile request (12 R286, 21 R398), with the context of the region that fired it, which its ply may have left since (18 R344). -/
structure TileReq where
  done : Bool
  a : Word
  b : Word
  mode : BlendMode
  elem : Nat
  ply : Nat
  rule : Nat
  word : Code
  ctx : Nat := 0
  deriving DecidableEq, Repr, Inhabited

/-- The tile unit of a core (12 R286): BCNT by slot, DN by slot where it holds a value, and the park, oldest first. -/
structure Tile where
  bcnt : Tab Nat := []
  dn : Tab Nat := []
  park : List TileReq := []
  deriving DecidableEq, Repr, Inhabited

/-- A shadow window (17 R333). -/
structure Shadow where
  valid : Bool := false
  space : Nat := 0
  base : Nat := 0
  alt : Nat := 0
  len : Nat := 0
  flip : Bool := false
  deriving DecidableEq, Repr, Inhabited

/-- An engine port of a core (17 R322, R326 to R328): its queue, the command begun, commands that failed and await a decision, the COLLs accepted by group (R332), and completion tokens that await room on the outgoing route. -/
structure Engine where
  queue : List EngCmd := []
  cur : Option EngCmd := none
  held : List EngCmd := []
  colls : Tab Nat := []
  toks : List Token := []
  deriving DecidableEq, Repr, Inhabited

/-- A translation in a core's cache (11 R255): page number and size in 64 KiB pages, and the leaf. -/
structure Xlat where
  vpn : Nat
  pages : Nat
  leaf : Word
  deriving DecidableEq, Repr, Inhabited

/-- The registers of a core's MMIO block, the CSWCMD command under way, and the edge meter: its rate, the limit in force for the window, the tokens injected in it, its number (24 R419, R420; 23 R410; 21 R398). -/
structure CoreRegs where
  ign : Nat := 0
  dbgstop : Nat := 0
  servers : Nat := 0
  edgeRate : Nat := 0
  edgeLimit : Nat := 0
  edgeCount : Nat := 0
  edgeWin : Nat := 0
  cswaddr : Word := 0
  cswst : Word := 0
  csw : Option Word := none
  deriving DecidableEq, Repr, Inhabited

/-- Who has drawn from the generator of a core in an ac (06 R150): elements in ascending order, then the matrix array, whose number is 64, then a CRW of SR.SEED, 65. `before` is the generator as it stood at the start of the ac, which a CRR of SEED reads (01 R17; 06 R149). -/
structure Drawn where
  ac : Nat
  by_ : Nat
  before : Word
  deriving DecidableEq, Repr, Inhabited

/-- A core: a sequencer with four contexts, its memories and its units (01, 05, 08, 11, 12, 17); `bad` lists buffer bytes whose data is uncorrectable, by space * 2^20 + offset (01 R14, 08 R189), and `olds`, by the same keys, what bytes of AB and WB held before writes of a stream or engine command that has not completed, with the writer (08 R204). The display sequencer is held as one, with context 0 only (log 8). -/
structure CoreSt where
  part : Nat := 0
  cycBase : Nat := 0
  seed : Word := 0x2545F4914F6CDD1D
  drawn : Option Drawn := none
  last : Nat := 3
  ctxs : Tab Ctx := []
  local_ : Tab Byte := []
  bad : Tab Bool := []
  olds : Tab (Nat × Byte) := []
  ab : Tab Byte := []
  wb : Tab Byte := []
  cb : Tab Byte := []
  ts : Tab Byte := []
  evq : List Wide := []
  lost : Bool := false
  xlats : List Xlat := []
  fab : Fabric := {}
  port : Port := {}
  streams : Tab SPort := []
  nextCmd : Nat := 0
  mx : Matrix := {}
  tile : Tile := {}
  shadows : Tab Shadow := []
  nextEng : Nat := 0
  engines : Tab Engine := []
  regs : CoreRegs := {}
  deriving DecidableEq, Repr, Inhabited

end Sys2Proof.Machine
end

