-- ==== Sys2Proof/Machine/State.lean ====
section
/-! DEFINITION. The state of the part as plain data, and the state after reset. Every field cites the rule that names it; INVENTORY.md lists them with their reset values. -/
namespace Sys2Proof.Machine

/-- A token of a hardware work queue with its deadline (09 R213). -/
structure QTok where
  tok : Wide
  dl : Deadline
  deriving DecidableEq, Repr, Inhabited

/-- A hardware work queue (05 R127, 09 R212 to R216): the registered descriptor, its tokens in push order, slots reserved, and the ingress port. -/
structure Queue where
  ctl : Nat := 0
  cap : Nat := 0
  image : Word := 0
  rcbt : Word := 0
  deadline : Word := 0
  budget : Nat := 0
  oslot : Nat := 0
  stealmin : Nat := 0
  toks : List QTok := []
  reserved : Nat := 0
  blocked : Bool := false
  age : Nat := 0
  credit : Nat := 0
  dlnext : Word := 0
  drops : Nat := 0
  deriving DecidableEq, Repr, Inhabited

/-- A stage descriptor of the placement controller and its sample counters (05 R129, R130): the cores held, the last added first. -/
structure Stage where
  image : Word := 0
  rcbt : Word := 0
  queue : Nat := 0
  minc : Nat := 0
  maxc : Nat := 0
  hyst : Nat := 0
  grow : Nat := 0
  shrink : Nat := 0
  period : Nat := 0
  above : Nat := 0
  below : Nat := 0
  cores : List Nat := []
  next : Nat := 0
  releasing : Option Nat := none
  deriving DecidableEq, Repr, Inhabited

/-- A job slice (09 R220 to R222): its queue, server, ply and image, its start in CYC with the count before it, its budget, the deadline of the last token delivered, and how it stands: `closed` takes no further token of its queue (09 R216; 21 R386), `stolen` is the token of another die it serves (09 R223), `restore` the save slot that it comes back from (21 R394), `stage` the stage that added its core (05 R130). -/
structure Slice where
  queue : Nat := 0
  core : Nat := 0
  ctx : Nat := 0
  ply : Option Nat := none
  image : Word := 0
  messages : Bool := false
  start : Nat := 0
  used : Nat := 0
  budget : Option Nat := none
  dl : Deadline := {}
  order : Nat := 0
  delivering : Bool := true
  exhausted : Bool := false
  closed : Bool := false
  stolen : Option QTok := none
  restore : Option Nat := none
  stage : Option Nat := none
  loading : Bool := false
  deriving DecidableEq, Repr, Inhabited

/-- The kinds of decision (09 R217, 10 R231). -/
inductive DecKind | dispatch | preempt | fault
  deriving DecidableEq, Repr, Inhabited

/-- A fault that awaits or has a decision (21 R374, R378, R381, R382): its record number, class, cause, place, the unit it holds (`elem` is the node of the group, R380, and `req` the number of the request), and the verdict that has still to act with its target die; `saved` while its unit stands in an image (R395). -/
structure FaultRef where
  seq : Nat := 0
  part : Nat := 0
  core : Nat := 0
  ctx : Nat := 0
  ply : Nat := 0
  cause : Nat := 0
  cls : Nat := 0
  src : Nat := 0
  unit : Nat := 0
  elem : Nat := 0
  req : Option Nat := none
  written : Bool := false
  parked : Bool := false
  awaiting : Bool := false
  saved : Bool := false
  started : Bool := false
  verdict : Nat := 0
  target : Nat := 0
  nflt : Nat := 0
  word0 : Nat := 0
  slice : Option (Nat × Nat) := none
  deriving DecidableEq, Repr, Inhabited

/-- A policy program (10 R237): its budget, constants and code. -/
structure Program where
  budget : Nat := 56
  consts : List Word := []
  code : List (BitVec 16) := []
  deriving DecidableEq, Repr, Inhabited

/-- A decision in flight with the policy unit that runs it (09 R217, 10 R229 to R233): `ids` are the queues or slices of its candidates, `eligible` the queues of its dispatcher that were eligible when it started (09 R224), `server` the context whose YIELD started it and `turn` the slice that this began (09 R222), `host` the tag of the duty request it awaits, `byProg` that its program reached the verdict, `stealDi` and `stealPk` SCHEDCTL as it stood at the start (09 R227). -/
structure Decision where
  kind : DecKind := .dispatch
  server : Option (Nat × Nat) := none
  turn : Nat := 0
  part : Nat := 0
  start : Nat := 0
  prog : Option Program := none
  gen : Nat := 0
  v : Tab Word := []
  m : BitVec 32 := 0
  ix : Nat := 0
  time : Nat := 0
  cands : List (List Word) := []
  ids : List Nat := []
  eligible : List Nat := []
  subj : List Word := []
  env : List Word := []
  verdict : Option (Nat × Nat) := none
  forced : Bool := false
  builtin : Nat × Nat := (1, 0)
  host : Option Nat := none
  byHost : Bool := false
  byProg : Bool := false
  stealDi : Bool := true
  stealPk : Bool := true
  subjQ : Nat := 0
  fault : Option FaultRef := none
  deriving DecidableEq, Repr, Inhabited

/-- A dispatcher (09 R217): its decisions in the order they started, the order in which its servers became WARM, the queues that became eligible while it had no FREE or WARM server and await their pre-emption decision, and the YIELDs that await theirs, each as the core, the context and the slice that it began (R222). -/
structure Disp where
  decs : List Decision := []
  warm : List (Nat × Nat × Nat) := []
  newly : List Nat := []
  yields : List (Nat × Nat × Nat) := []
  deriving DecidableEq, Repr, Inhabited

/-- What is kept of a context and its ply that its image has no place for (21 R396): the ply's rounds and stopped elements, the requests' tags, tokens in the slots of ports, lines whose write-back has failed, engine commands that failed, by their engines, and the matrix operations as they were issued (log 17). -/
structure Beside where
  ply : Ply := {}
  reqs : List Req := []
  toks : List (Endpt × Token) := []
  lines : List (Nat × List WLine) := []
  held : List (Nat × EngCmd) := []
  ops : List MxOp := []
  deriving DecidableEq, Repr, Inhabited

/-- A slice switched out into a save slot (21 R394), with the region's progress, what its image has no place for, and the faults that wait with it; `resume` says that it migrates and its held units resume (R386) (log 17). -/
structure Suspended where
  queue : Nat
  slot : Nat
  slice : Slice
  region : Region
  beside : Beside := {}
  faults : List FaultRef := []
  resume : Bool := false
  deriving DecidableEq, Repr, Inhabited

/-- A chunk pool of a memory-interface tile (11 R264): its registers, and the frames of the free list and of the reserve, the oldest first. -/
structure Pool where
  slack : Nat := 1
  rsvt : Nat := 0
  lowmark : Nat := 0
  free : List Nat := []
  reserve : List Nat := []
  deriving DecidableEq, Repr, Inhabited

/-- A gang of a die (08 R201): its partition, shape and members as (core, row, column), whether it has formed, and the members that have left. -/
structure Gang where
  part : Nat := 0
  rows : Nat := 1
  cols : Nat := 1
  members : List (Nat × Nat × Nat) := []
  formed : Bool := false
  left : List Nat := []
  deriving DecidableEq, Repr, Inhabited

/-- How far a page migration has come: its page is still to be translated, to be copied, or is copied (11 R265). -/
inductive MigStage | asked | found | copied
  deriving DecidableEq, Repr, Inhabited

/-- A page migration under way (11 R265): its partition and page, its frames, the leaf entry with its address, and the version read as the copy began. -/
structure Migration where
  part : Nat
  va : Nat
  src : Nat := 0
  dst : Nat
  entry : Nat := 0
  leaf : Word := 0
  version : Nat := 0
  stage : MigStage := .asked
  deriving DecidableEq, Repr, Inhabited

/-- The mirror of a head's lines on a die (09 R207). -/
structure LineMirror where
  line : Nat := 0
  lper : Nat := 0
  lgen : Nat := 0
  deriving DecidableEq, Repr, Inhabited

/-- The registers of a die's MMIO block beyond its queues (24 R419, R420; 11 R265; 18 R345; 23 R413). -/
structure DieRegs where
  regbuf : Tab Byte := []
  regst : Nat := 0
  migdst : Nat := 0
  migst : Nat := 0
  occs : Tab Nat := []
  owners : Tab Nat := []
  clears : List (Nat × Nat) := []
  deriving DecidableEq, Repr, Inhabited

/-- The clock of a plain (23 R408, R409): ac counted since reset, its operating point, the fastest point allowed, and whether it stands for a change. -/
structure Plain where
  ac : Nat := 0
  point : Nat := 0
  min : Nat := 0
  stopped : Bool := false
  deriving DecidableEq, Repr, Inhabited

/-- A duty request that awaits its answer (00 R8, R9; 24 R425, R426): what it asks, when, and the host's answer (code and DUTYDATA) once it is there; `wait` is WAIT as it stood, `expired` when it ran out. Of a walk, `probe` says that it verifies a later page of a window (11 R256), `stale` that a migration has changed the leaf since it began (11 R254, R265). -/
structure Duty where
  func : Nat := 0
  tag : Nat := 0
  die : Nat := 0
  cluster : Nat := 0
  core : Nat := 0
  what : Nat := 0
  acc : Acc := .read
  probe : Bool := false
  stale : Bool := false
  at_ : Nat := 0
  wait : Nat := 0
  reply : Option (Nat × Nat × Word) := none
  expired : Bool := false
  deriving DecidableEq, Repr, Inhabited

/-- A non-leaf table entry in a walker's cache: its partition, its level, the bits of the address that led to it, where it was read, and the next table (11 R252, R254, R255). -/
structure WalkEnt where
  part : Nat
  lv : Nat
  pfx : Nat
  pos : Nat
  next : Nat
  deriving DecidableEq, Repr, Inhabited

/-- A walk of a die's walker that has begun and has not ended, since flits are held on its way (11 R254; 23 R405): its partition, the walk asked for, the levels left and the table read next; `old` says that a TINV written since awaits its end (11 R255). -/
structure HwWalk where
  part : Nat
  duty : Duty
  left : Nat := 3
  table : Nat := 0
  old : Bool := false
  deriving DecidableEq, Repr, Inhabited

/-- A compute die (05, 08, 09, 11, 23, 24). `walks` holds the walks of its walker that have begun, `wcache` is its walker's cache, the oldest entry first, and `walkq` holds the walks that wait for one in flight to end, each with its partition (11 R254). `nextSlice` numbers the slices of its servers and those that a YIELD begins (09 R222); `kept` holds, by core * 4 + context, what the last SAVE of a core kept beside each context's image, with the image's bytes (21 R398) (log 17). -/
structure Die where
  dlc : Nat := 0
  heads : Tab LineMirror := []
  queues : Tab Queue := []
  stages : Tab Stage := []
  disps : Tab Disp := []
  slices : Tab Slice := []
  nextSlice : Nat := 0
  pools : Tab Pool := []
  gangs : Tab Gang := []
  versions : Tab Nat := []
  mig : Option Migration := none
  regs : DieRegs := {}
  plains : Tab Plain := []
  degrade : Bool := false
  walks : List HwWalk := []
  wcache : List WalkEnt := []
  walkq : List (Nat × Duty) := []
  kept : Tab (Beside × List Byte) := []
  deriving DecidableEq, Repr, Inhabited

/-- A ring in host memory (21 R375, 24 R422). -/
structure Ring where
  ring : Word := 0
  head : Nat := 0
  tail : Nat := 0
  lost : Nat := 0
  deriving DecidableEq, Repr, Inhabited

/-- A policy slot: nothing, the built-in policy, or a program (10 R243, R245). -/
inductive PolSlot
  | empty
  | builtin
  | prog (p : Program)
  deriving DecidableEq, Repr, Inhabited

/-- The policy state of a partition (10 R243 to R246): counters, active program on each die, the staged slot, dies that switched, dies that acknowledged, and the core that issued the last POLICY.SWAP. -/
structure Policy where
  ovr : Nat := 0
  badv : Nat := 0
  gen : Nat := 0
  staged : PolSlot := .empty
  active : PolSlot := .empty
  swp : Bool := false
  switched : List Nat := []
  acked : List Nat := []
  swapper : Option Nat := none
  deriving DecidableEq, Repr, Inhabited

/-- The registers and bookkeeping of a partition (00 R7, 09 R227, 10 R243, 11 R252, R255, 21 R375, R394, 24 R419, R420). `tinvs` holds the TINV under way and those behind it, each with the tags of the walks that it must see end. -/
structure Part where
  dutyctl : Word := 0x0010000000000000
  schedctl : Word := 0x00C0040000000FFF
  troot : Word := 0
  savepool : Word := 0
  dutydata : Word := 0
  collbase : Word := 0
  partclu : Word := 0
  fltring : Ring := {}
  rings : Tab Ring := []
  duties : List Duty := []
  nextTag : Nat := 0
  tinvs : List (Word × List Nat) := []
  faults : List FaultRef := []
  slots : List Nat := []
  suspended : List Suspended := []
  ending : Option Nat := none
  policy : Policy := {}
  deriving DecidableEq, Repr, Inhabited

/-- A frame of a head (19 R354, R355, R357): its descriptor, whether it was taken over, whether it is blank, and the vector block rows that are complete. -/
structure Frame where
  f : Nat := 0
  out : Word := 0
  src : Word := 0
  mv : Word := 0
  sw : Nat := 0
  sh : Nat := 0
  scale : Nat := 1
  taken : Bool := false
  blank : Bool := false
  rows : List Nat := []
  deriving DecidableEq, Repr, Inhabited

/-- A band that began a path or committed (19 R356, R358): frame, band, level running (none where none), level taken (7 not yet), and its status bits; MARGIN. -/
structure Band where
  f : Nat
  b : Nat
  running : Option Nat := none
  level : Nat := 7
  flags : Nat := 0
  margin : Nat := 0
  deriving DecidableEq, Repr, Inhabited

/-- A head (19 R352, R353, R355 to R358): `closed` frames are settled, and `sent` holds the active line that leaves, with its pixels of 10 bits for each channel. -/
structure Head where
  hctl : Word := 0x0008040201000000
  htim : Word := 0
  hpclk : Word := 0
  line : Nat := 0
  bstat : Tab Word := []
  frames : List Frame := []
  bands : List Band := []
  closed : Nat := 0
  sent : Option (Nat × List (Nat × Nat × Nat)) := none
  deriving DecidableEq, Repr, Inhabited

/-- An operation of the DSE queue (19 R361): the instruction, its operands, the mode it was issued in, the block rows or layers done, and the values of the next layer done (R366). -/
structure DsOp where
  act : Instr := .nop
  a : Word := 0
  b : Word := 0
  user : Bool := false
  done : Nat := 0
  val : Nat := 0
  deriving DecidableEq, Repr, Inhabited

/-- A DS.EMIT that waits (19 R367): its address, head, frame and band. -/
structure EmitWait where
  pc : Word
  head : Nat
  f : Nat
  b : Nat
  deriving DecidableEq, Repr, Inhabited

/-- A Porey or Thonazon link (23 R404, R405): down, the replays of the flit that fails its CRC now, and its retraining. -/
structure Link where
  down : Bool := false
  replays : Nat := 0
  retraining : Bool := false
  deriving DecidableEq, Repr, Inhabited

/-- The power coordinator (23 R411 to R413): registers, the grant and the loans in force, each with its watts and the DLC of the IOD at which it ends, and its steps. -/
structure Power where
  pwrcfg : Word := 0x0000070802580000
  meas : Nat := 0
  grant : Option (Nat × Nat) := none
  lent : Nat := 0
  borr : Nat := 0
  lends : List (Nat × Nat) := []
  borrows : List (Nat × Nat) := []
  above : Nat := 0
  under : Nat := 0
  limit : Nat := 0
  slowed : Nat := 0
  count : Nat := 0
  deriving DecidableEq, Repr, Inhabited

/-- The security engine (24 R429, R430). -/
structure Security where
  bootstat : Nat := 0
  nonce : Tab Word := []
  attst : Nat := 0
  report : Nat := 0
  index : Nat := 0
  fwsvn : Nat := 0
  svn : Nat := 0
  deriving DecidableEq, Repr, Inhabited

/-- The I/O die and what the package holds once (19, 23, 24); `waits` holds the writes that wait for a link or the host link, the oldest first, as (address, bytes) (23 R405; 24 R431). -/
structure Iod where
  heads : Tab Head := []
  dsq : List DsOp := []
  dsFault : Option (Cause × Word) := none
  emit : Option EmitWait := none
  dsac : Nat := 0
  dspart : Word := 0
  pkgid : Nat := 0
  peerrt : Tab Nat := []
  hostRing : Ring := {}
  links : Tab Link := []
  power : Power := {}
  dlc : Nat := 0
  waits : List (Nat × List Byte) := []
  sec : Security := {}
  linkDown : Bool := false
  thermal : Bool := false
  deriving DecidableEq, Repr, Inhabited

/-- MESI states of a line in a die's L2 (11 R258). -/
inductive Mesi | i | s | e | m
  deriving DecidableEq, Repr, Inhabited

/-- A line of a die's L2 (11 R258): its state and the owner tag. -/
structure L2Line where
  st : Mesi := .i
  part : Nat := 0
  deriving DecidableEq, Repr, Inhabited

/-- The snoop filter of a line of device memory (13 R306). -/
inductive Snoop | none | shared | excl
  deriving DecidableEq, Repr, Inhabited

/-- A dirty line of a compressed page that awaits its write-back (11 R262): its descriptor, line in the page, 128 bytes, owner tag and die; `outgrown` while its tile's pending table holds its block and the page is laid out again, `arrived` its place among the write-backs that wait at the tiles, and the tag of the request that was sent to the host. -/
structure CmpLine where
  desc : Nat
  line : Nat
  bytes : List Byte
  part : Nat
  die : Nat
  outgrown : Bool := false
  arrived : Option Nat := none
  duty : Option Nat := none
  deriving DecidableEq, Repr, Inhabited

/-- A request of a core for a line of a compressed page that waits on the page's lock (11 R262): its place in arrival order, and the line's bytes once the tile has served it. -/
structure CmpRead where
  core : Nat
  desc : Nat
  line : Nat
  arrived : Nat
  served : Option (List Byte) := none
  deriving DecidableEq, Repr, Inhabited

/-- A store of a sequencer context that is not yet performed at CO, so that the elements and stream ports of its core may still read what stood there before (12 R270; 13 R291 to R293): the core and context, where it lies (`Loc.key`), the old bytes, and the stream commands with the release part that must find it performed; `passed` says that an access which its core issued later is performed, so that local order has it performed at CO too (13 R293), and `loose` that its context has since queued a stream command with no release part, which R270 leaves unordered with it (14 R312). -/
structure Late where
  core : Nat
  ctx : Nat
  at_ : Nat
  old : List Byte
  owed : List Nat := []
  passed : Bool := false
  loose : Bool := false
  deriving DecidableEq, Repr, Inhabited

/-- Memory beyond a core (11 R248, R258 to R262): bytes by physical address, addresses whose data is uncorrectable, L2 lines by die * 2^45 + line, snoop filters by line, dirty lines of compressed pages, the requests that wait on a page's lock, the stores that are not yet performed at CO, the oldest first (13 R293), and whether an access was made to a reserved address (Step then faults). -/
structure Memory where
  bytes : List Host.Cell := []
  bad : Tab Bool := []
  l2 : Tab L2Line := []
  snoop : Tab Snoop := []
  cmp : List CmpLine := []
  reads : List CmpRead := []
  late : List Late := []
  reserved : Bool := false
  deriving DecidableEq, Repr, Inhabited

/-- A message on the token fabric (05 R109, R110): the sending core, its 128 bits, the beats of a ray that travel with it (18 R348), the sender's partition, and the ply and RCB of the region that sent it, if one did (23 R406). -/
structure Msg where
  src : Nat
  msg : Wide
  rest : List Wide := []
  part : Nat
  ply : Nat := 0
  rcb : Option Word := none
  deriving DecidableEq, Repr, Inhabited

/-- Who acts in this step and what it fetched: written by Step, read by the meanings (log 2). -/
structure Actor where
  core : Nat := 0
  ctx : Nat := 0
  pc : Word := 0
  psz : Nat := 2
  bits : Word := 0
  guard : Option (Bool × Pred) := none
  act : Instr := .nop
  elem : Nat := 0
  ply : Nat := 0
  rule : Nat := 0
  die : Nat := 0
  cluster : Nat := 0
  dec : Nat := 0
  deriving DecidableEq, Repr, Inhabited

/-- The state of the part. The last three fields are the model's own (log 2): turns already chosen, who acts, the counter of free values. -/
structure State where
  mem : Memory := {}
  cores : Tab CoreSt := []
  dies : Tab Die := []
  parts : Tab Part := []
  iod : Iod := {}
  net : List Msg := []
  agenda : List Turn := []
  actor : Actor := {}
  fresh : Nat := 0
  deriving DecidableEq, Repr, Inhabited

/-- Why the machine stops. -/
inductive Fault
  /-- Raised by an access that a register of the host places at a reserved physical address (11 R248), which the spec says does not exist. Safe: the model stops where the part could go on. -/
  | reservedAddress
  deriving DecidableEq, Repr, Inhabited

/-- Why an instruction has no meaning. -/
inductive Refusal
  /-- Raised by Dispatch for an instruction whose meaning is not written. Safe: nothing is claimed of it. -/
  | notModelled (mnemonic : String)
  deriving DecidableEq, Repr, Inhabited

/-- What a step answers. -/
abbrev Out := Host.Outcome State Fault Refusal

/-- The machine right after reset: every field at the reset value of its rule, memory with nothing listed, and the values that INVENTORY.md and log 6 name where the spec gives none. -/
def State.reset : State := {}

end Sys2Proof.Machine
end

