-- ==== Sys2Proof/Machine/Access.lean ====
section
/-! DEFINITION. Reading and writing the named pieces of the state: cores, contexts, registers, dies, partitions, counters. -/
namespace Sys2Proof.Machine

/-- The number of the display sequencer among the cores (01 R20, log 8). -/
def dsCore : Nat := 127

/-- The die of a core number (core within the die in [6:0]). -/
def dieOf (core : Nat) : Nat := core / 128
/-- The core within its die. -/
def coreIn (core : Nat) : Nat := core % 128
/-- The cluster of a core (05 R108). -/
def clusterOf (core : Nat) : Nat := core % 128 / 16

/-- Core k. -/
def State.core (s : State) (k : Nat) : CoreSt := Tab.look {} s.cores k
/-- s with core k replaced. -/
def State.setCore (s : State) (k : Nat) (c : CoreSt) : State := { s with cores := Tab.set s.cores k c }
/-- s with f applied to core k. -/
def State.modCore (s : State) (k : Nat) (f : CoreSt → CoreSt) : State := s.setCore k (f (s.core k))
/-- Die d. -/
def State.die (s : State) (d : Nat) : Die := Tab.look {} s.dies d
/-- s with f applied to die d. -/
def State.modDie (s : State) (d : Nat) (f : Die → Die) : State := { s with dies := Tab.set s.dies d (f (s.die d)) }
/-- Partition p. -/
def State.part (s : State) (p : Nat) : Part := Tab.look {} s.parts p
/-- s with f applied to partition p. -/
def State.modPart (s : State) (p : Nat) (f : Part → Part) : State := { s with parts := Tab.set s.parts p (f (s.part p)) }
/-- Context n of a core. -/
def CoreSt.ctx (c : CoreSt) (n : Nat) : Ctx := Tab.look {} c.ctxs n
/-- A core with context n replaced. -/
def CoreSt.setCtx (c : CoreSt) (n : Nat) (x : Ctx) : CoreSt := { c with ctxs := Tab.set c.ctxs n x }
/-- Context n of core k. -/
def State.ctx (s : State) (k n : Nat) : Ctx := (s.core k).ctx n
/-- s with context n of core k replaced. -/
def State.setCtx (s : State) (k n : Nat) (x : Ctx) : State := s.setCore k ((s.core k).setCtx n x)
/-- s with f applied to context n of core k. -/
def State.modCtx (s : State) (k n : Nat) (f : Ctx → Ctx) : State := s.setCtx k n (f (s.ctx k n))
/-- The context that acts. -/
def State.me (s : State) : Ctx := s.ctx s.actor.core s.actor.ctx
/-- s with the context that acts replaced. -/
def State.setMe (s : State) (x : Ctx) : State := s.setCtx s.actor.core s.actor.ctx x
/-- s with f applied to the context that acts. -/
def State.modMe (s : State) (f : Ctx → Ctx) : State := s.setMe (f s.me)

/-- A register; x0 reads as zero (01 R11). -/
def Ctx.reg (c : Ctx) (i : Reg) : Word := if i = 0 then 0 else Tab.look 0 c.x i.val
/-- Writing a register; a write to x0 is discarded (01 R11). -/
def Ctx.setReg (c : Ctx) (i : Reg) (v : Word) : Ctx := if i = 0 then c else { c with x := Tab.put 0 c.x i.val v }
/-- A predicate; p0 reads as 1 (01 R11). -/
def Ctx.pred (c : Ctx) (i : Pred) : Bool := decide (i = 0) || bit c.p i.val
/-- Writing a predicate; a write to p0 is discarded (01 R11). -/
def Ctx.setPred (c : Ctx) (i : Pred) (b : Bool) : Ctx := if i = 0 then c else { c with p := setBit c.p i.val b }
/-- A register of the acting context. -/
def State.reg (s : State) (i : Reg) : Word := s.me.reg i
/-- Writing a register of the acting context. -/
def State.setReg (s : State) (i : Reg) (v : Word) : State := s.modMe fun c => c.setReg i v
/-- A predicate of the acting context. -/
def State.pred (s : State) (i : Pred) : Bool := s.me.pred i
/-- Writing a predicate of the acting context. -/
def State.setPred (s : State) (i : Pred) (b : Bool) : State := s.modMe fun c => c.setPred i b

/-- A value as a PC: 55 bits with bit 0 clear (01 R12). -/
def pcOf (v : Word) : Word := v &&& 0x007FFFFFFFFFFFFE

/-- The size in bytes of a parcel by PSZ (01 R29). -/
def parcelSize : Nat → Nat
  | 0 => 2
  | 1 => 4
  | _ => 8

/-- `next`: the address of the parcel after the acting one, exact (04 R68). -/
def State.nextAddr (s : State) : Word := s.actor.pc + w64 (parcelSize s.actor.psz)

/-- `next` as the PC takes it (01 R12; 04 R68). -/
def State.nextPc (s : State) : Word := pcOf s.nextAddr

/-- A plain of the part. -/
def State.plain (s : State) (d k : Nat) : Plain := Tab.look {} (s.die d).plains k

/-- The clock a core counts (01 R21): the ac of its plain, or of the DSE. -/
def State.acOf (s : State) (k : Nat) : Nat :=
  if k = dsCore then s.iod.dsac else (s.plain (dieOf k) (clusterOf k)).ac

/-- What has drawn from the generator of a core in the present ac (06 R150). -/
def State.drawnNow (s : State) (k : Nat) : Option Drawn := (s.core k).drawn.filter fun x => decide (x.ac = s.acOf k)

/-- Unit u of core k may take draws in the present ac: no later one has (06 R150). -/
def State.mayDraw (s : State) (k u : Nat) : Bool := (s.drawnNow k).all fun x => decide (x.by_ < u) || (decide (u = 64) && decide (x.by_ = 64))

/-- SR.SEED as a CRR reads it: as it stands after the draws of the ac before; a CRW that has retired since has replaced it (06 R150). -/
def State.seedRead (s : State) (k : Nat) : Word := (((s.drawnNow k).filter fun x => decide (x.by_ < 65)).map (·.before)).getD (s.core k).seed

/-- Unit u of core k changes the generator to g in the present ac (06 R149, R150). -/
def State.setSeed (s : State) (k u : Nat) (g : Word) : State :=
  s.modCore k fun c => { c with seed := g, drawn := some { ac := s.acOf k, by_ := u, before := s.seedRead k } }

/-- CYC of a core (01 R21), before it wraps. -/
def State.cyc (s : State) (k : Nat) : Nat := s.acOf k - (s.core k).cycBase

/-- PART of DSPART where it is enabled, else 0 (24 R420). -/
def dsPart (s : State) : Nat := if bit s.iod.dspart 12 then bits s.iod.dspart 0 12 else 0

/-- The owner partition of a core, 0 where it has none (01 R16, 24 R420). -/
def State.partOf (s : State) (k : Nat) : Nat := if k = dsCore then dsPart s else (s.core k).part

/-- CTXID (01 R20). -/
def ctxId (k n : Nat) : Word :=
  if k = dsCore then 0x1FC else w64 (dieOf k * 512 + coreIn k * 4 + n)

/-- The clusters of a partition, as bits 5d + k (24 R420). -/
def ownsCluster (p : Part) (d k : Nat) : Bool := bit p.partclu 63 && bit p.partclu (5 * d + k)

/-- A die holds a cluster of the partition. -/
def ownsDie (p : Part) (d : Nat) : Bool := (List.range 5).any fun k => ownsCluster p d k

/-- Ply q of a core. -/
def Fabric.ply (f : Fabric) (q : Nat) : Ply := Tab.look {} f.plies q
/-- A core with f applied to its fabric. -/
def CoreSt.modFab (c : CoreSt) (f : Fabric → Fabric) : CoreSt := { c with fab := f c.fab }
/-- A fabric with f applied to ply q. -/
def Fabric.modPly (b : Fabric) (q : Nat) (f : Ply → Ply) : Fabric := { b with plies := Tab.set b.plies q (f (b.ply q)) }
/-- An element's state in ply q. -/
def Ply.elem (p : Ply) (e : Nat) : EPly := Tab.look {} p.elems e
/-- A ply with f applied to the state of element e. -/
def Ply.modElem (p : Ply) (e : Nat) (f : EPly → EPly) : Ply := { p with elems := Tab.set p.elems e (f (p.elem e)) }
/-- Ply q of core k. -/
def State.ply (s : State) (k q : Nat) : Ply := (s.core k).fab.ply q
/-- s with f applied to the fabric of core k. -/
def State.modFab (s : State) (k : Nat) (f : Fabric → Fabric) : State := s.modCore k fun c => c.modFab f
/-- s with f applied to ply q of core k. -/
def State.modPly (s : State) (k q : Nat) (f : Ply → Ply) : State := s.modFab k fun b => b.modPly q f
/-- The stream port n of a core. -/
def CoreSt.stream (c : CoreSt) (n : Nat) : SPort := Tab.look {} c.streams n
/-- s with f applied to stream port n of core k. -/
def State.modStream (s : State) (k n : Nat) (f : SPort → SPort) : State :=
  s.modCore k fun c => { c with streams := Tab.set c.streams n (f (c.stream n)) }
/-- s with f applied to the matrix array of core k. -/
def State.modMx (s : State) (k : Nat) (f : Matrix → Matrix) : State := s.modCore k fun c => { c with mx := f c.mx }
/-- Engine n of a core. -/
def CoreSt.engine (c : CoreSt) (n : Nat) : Engine := Tab.look {} c.engines n
/-- s with f applied to engine n of core k. -/
def State.modEngine (s : State) (k n : Nat) (f : Engine → Engine) : State :=
  s.modCore k fun c => { c with engines := Tab.set c.engines n (f (c.engine n)) }
/-- s with f applied to the token fabric port of core k. -/
def State.modPort (s : State) (k : Nat) (f : Port → Port) : State := s.modCore k fun c => { c with port := f c.port }
/-- Queue q of a die. -/
def Die.queue (d : Die) (q : Nat) : Queue := Tab.look {} d.queues q
/-- A queue by its number: die in [13:12], queue in [11:0] (05 R127). -/
def State.queue (s : State) (q : Nat) : Queue := (s.die (q / 4096)).queue (q % 4096)
/-- s with f applied to a queue. -/
def State.modQueue (s : State) (q : Nat) (f : Queue → Queue) : State :=
  s.modDie (q / 4096) fun d => { d with queues := Tab.set d.queues (q % 4096) (f (d.queue (q % 4096))) }
/-- Head h. -/
def Iod.head (i : Iod) (h : Nat) : Head := Tab.look {} i.heads h
/-- s with f applied to head h. -/
def State.modHead (s : State) (h : Nat) (f : Head → Head) : State :=
  { s with iod := { s.iod with heads := Tab.set s.iod.heads h (f (s.iod.head h)) } }
/-- s with f applied to the I/O die. -/
def State.modIod (s : State) (f : Iod → Iod) : State := { s with iod := f s.iod }
/-- s with f applied to memory. -/
def State.modMem (s : State) (f : Memory → Memory) : State := { s with mem := f s.mem }

/-- EN of a queue (09 R212). -/
def Queue.en (q : Queue) : Bool := q.ctl.testBit 0
/-- PARTID of a queue (09 R212). -/
def Queue.partid (q : Queue) : Nat := nbits q.ctl 16 12
/-- OCC of a queue: tokens held and slots reserved (05 R127). -/
def Queue.occ (q : Queue) : Nat := q.toks.length + q.reserved

end Sys2Proof.Machine
end

