-- ==== Sys2Proof/Machine/Phys.lean ====
section
/-! DEFINITION. Physical memory: bytes, the coherent L2 and snoop filters, compressed pages (11 R248, R257 to R263; 13 R305, R306; 23 R407). One coherent memory: an access is performed when it is made (log 4). -/
namespace Sys2Proof.Machine

/-- What an unlisted byte of memory reads as (log 5). -/
def memDefault : Byte := 0

/-- Memory in canonical form: addresses strictly rising, and no entry equal to what an unlisted address reads as (log 5). -/
def Memory.wf (m : Memory) : Bool := Tab.wf memDefault m.bytes

/-- A physical address the spec reserves (11 R248) (log 24). -/
def paReserved (pa : Nat) : Bool := decide (2 ^ 38 ≤ pa ∧ pa < 2 ^ 51) || decide (2 ^ 52 ≤ pa)

/-- Some byte of n from pa on is reserved (11 R248). -/
def rangeReserved (pa n : Nat) : Bool := paReserved pa || paReserved (pa + n - 1) || decide (pa < 2 ^ 38 ∧ 2 ^ 38 < pa + n)

/-- The byte at a physical address. -/
def Memory.byte (m : Memory) (pa : Nat) : Byte := Tab.look memDefault m.bytes pa
/-- Memory with one byte written. -/
def Memory.setByte (m : Memory) (pa : Nat) (b : Byte) : Memory := { m with bytes := Tab.put memDefault m.bytes pa b }
/-- The bytes from pa on, n of them. -/
def Memory.get (m : Memory) (pa : Nat) : Nat → List Byte
  | 0 => []
  | n + 1 => m.byte pa :: m.get (pa + 1) n
/-- Memory with bytes written from pa on. -/
def Memory.set (m : Memory) (pa : Nat) : List Byte → Memory
  | [] => m
  | b :: bs => (m.setByte pa b).set (pa + 1) bs
/-- The little-endian value of n bytes. -/
def Memory.val (m : Memory) (pa n : Nat) : Nat := ofBytesLE (m.get pa n)

/-- The key of a line of die d in the table of L2 lines. -/
def l2Key (d line : Nat) : Nat := d * 2 ^ 45 + line
/-- A line of a die's L2. -/
def Memory.l2At (m : Memory) (d line : Nat) : L2Line := Tab.look {} m.l2 (l2Key d line)
/-- m with one L2 line set. -/
def Memory.setL2 (m : Memory) (d line : Nat) (l : L2Line) : Memory := { m with l2 := Tab.put {} m.l2 (l2Key d line) l }
/-- The snoop filter of a line. -/
def Memory.snoopAt (m : Memory) (line : Nat) : Snoop := Tab.look .none m.snoop line
/-- m with the snoop filter of a line set. -/
def Memory.setSnoop (m : Memory) (line : Nat) (v : Snoop) : Memory := { m with snoop := Tab.put .none m.snoop line v }

/-- The directory entry that a line's home keeps: a presence bit for each compute die, and the die that owns it in E or M (23 R407). The IOD's copy counts as none of them. -/
def Memory.directory (m : Memory) (line : Nat) : Nat × Option Nat :=
  (((List.range 4).map fun d => if (m.l2At d line).st = .i then 0 else 2 ^ d).sum,
   (List.range 4).find? fun d => decide ((m.l2At d line).st = .m) || decide ((m.l2At d line).st = .e))

/-- Every die but d, and the IOD as die 4, downgraded to S, or invalidated, at a line (23 R407). -/
def Memory.others (m : Memory) (d line : Nat) (inv : Bool) : Memory :=
  ([0, 1, 2, 3, 4].filter (· ≠ d)).foldl (fun m k =>
    let l := m.l2At k line
    if l.st = .i then m
    else if inv then m.setL2 k line {}
    else if l.st = .s then m else m.setL2 k line { l with st := .s }) m

/-- The home die of a device address (11 R259). -/
def homeDie (pa : Nat) : Nat := nbits pa 16 2
/-- The tile of a device address, 16 * die + tile in the die (11 R259). -/
def tileOf (pa : Nat) : Nat := nbits pa 16 2 * 16 + nbits pa 12 4

/-- A link of the package is not down: 0 to 3 are PL0 to PL3, 4 to 7 the ports of PL4 and PL5 to CD0 to CD3, and 8 to 19 the Thonazon ports (23 R404, R405). -/
def linkUp (s : State) (n : Nat) : Bool := !((Tab.look {} s.iod.links n).down)

/-- Flits cross a link: it neither replays one nor is retrained (23 R405). -/
def linkFlows (s : State) (n : Nat) : Bool :=
  let l := Tab.look {} s.iod.links n
  !l.down && !l.retraining && decide (l.replays = 0)

/-- The link between two compute dies that one joins: PL0 to PL3 (23 R404). -/
def linkBetween (a b : Nat) : Nat :=
  match min a b, max a b with
  | 0, 1 => 0
  | 0, 2 => 1
  | 1, 3 => 2
  | _, _ => 3

/-- The port of PL4 or PL5 that joins a compute die and the IOD (23 R404). -/
def linkToIod (d : Nat) : Nat := 4 + d

/-- The paths of links from one die to another, the one taken first before the other; die 4 is the IOD (23 R404, R406). -/
def pathsOf (a b : Nat) : List (List Nat) :=
  let via (m : Nat) : List Nat := [linkBetween a m, linkBetween m b]
  if a = b then [[]]
  else if a = 4 ∨ b = 4 then [[linkToIod (min a b)]]
  else if a + b = 3 then [via (a ^^^ 1), via (b ^^^ 1)]
  else [[linkBetween a b]]

/-- What a path between two dies does with flits: it carries them, it holds them while a link of it replays or retrains, or there is none (23 R405, R406). -/
inductive Crossing
  | clear
  | held
  | down
  deriving DecidableEq, Repr, Inhabited

/-- The path of links that traffic from die a to die b takes, where one is left (23 R406). -/
def pathTaken (s : State) (a b : Nat) : Option (List Nat) := (pathsOf a b).find? fun p => p.all (linkUp s)

/-- What the path from die a to die b does (23 R405, R406). -/
def crossing (s : State) (a b : Nat) : Crossing :=
  match pathTaken s a b with
  | none => .down
  | some p => if p.all (linkFlows s) then .clear else .held

/-- The way through a Thonazon port, whose link is the eighth and on: it carries flits, holds them, or is down until package reset (23 R405; 24 R427) (log 59). -/
def portWay (s : State) (port : Nat) : Crossing := if (Tab.look {} s.iod.links (8 + port)).down then .down else if linkFlows s (8 + port) then .clear else .held

/-- A path of links joins two dies (23 R406). -/
def pathUp (s : State) (a b : Nat) : Bool := (pathTaken s a b).isSome

/-- Where the home of a physical address lies: its die, or the IOD for host memory (11 R259; 23 R407). -/
def homeOf (pa : Nat) : Nat := if pa < 2 ^ 38 then homeDie pa else 4

/-- What the way of an access by die d to a physical address does: the links of the package, and for host memory the host link, which holds whatever needs it once it has failed (23 R406; 24 R431). -/
def reaching (s : State) (d pa : Nat) : Crossing :=
  match crossing s d (homeOf pa) with
  | .clear => if s.iod.linkDown ∧ homeOf pa = 4 then .held else .clear
  | x => x

/-- The die a core's accesses come from; the display sequencer's come from the IOD. -/
def accessDie (k : Nat) : Nat := if k = dsCore then 4 else dieOf k

/-- The write-version counter of a page goes up (11 R265). -/
def bumpVersion (s : State) (pa : Nat) : State :=
  if pa < 2 ^ 38 then
    s.modDie (homeDie pa) fun d =>
      { d with versions := Tab.put 0 d.versions (pa / 65536) ((Tab.look 0 d.versions (pa / 65536) + 1) % 2 ^ 32) }
  else s

/-- The first number of the lines of compressed pages: no line of memory lies there (11 R248). -/
def cmpLineBase : Nat := 2 ^ 43

/-- The number under which the L2s keep a line of a compressed page (11 R258, R262): its tile alone knows where its block lies. -/
def cmpLineNo (desc line : Nat) : Nat := cmpLineBase + desc / 1024 * 512 + line

/-- The 128-byte lines that a die's L2 of 64 MiB holds (11 R258). -/
def l2Lines : Nat := 2 ^ 19

/-- The lines of die d's L2 that may leave it for want of room: a dirty line of a compressed page leaves by its write-back (11 R262). -/
def evictable (m : Memory) (d : Nat) : List Nat :=
  ((m.l2.filter fun x => decide (x.1 / 2 ^ 45 = d)).map fun x => x.1 % 2 ^ 45).filter fun line =>
    !(m.cmp.any fun l => decide (cmpLineNo l.desc l.line = line) && decide (l.die = d))

/-- A line leaves the L2 of die d: its data, which a line in M writes back, lies in memory already (11 R258; 13 R305) (log 47). -/
def Memory.evict (m : Memory) (d line : Nat) : Memory := if (evictable m d).contains line then m.setL2 d line {} else m

/-- The L2 of die d is full and every line of it awaits its write-back, so that a line it does not hold cannot enter (11 R258, R262) (log 47). -/
def l2Full (s : State) (d line : Nat) : Bool :=
  decide (l2Lines ≤ s.mem.l2.length) && decide ((s.mem.l2At d line).st = .i) &&
  decide (l2Lines ≤ (s.mem.l2.filter fun x => decide (x.1 / 2 ^ 45 = d)).length) && (evictable s.mem d).isEmpty

/-- Room for a line in the L2 of die d: where it is full, a line that the spec does not name makes room, a free choice (11 R258) (log 47). -/
def makeRoom (s : State) (d line : Nat) : State :=
  if s.mem.l2.length < l2Lines ∨ (s.mem.l2At d line).st ≠ .i then s
  else
    let held := (s.mem.l2.filter fun x => decide (x.1 / 2 ^ 45 = d)).length
    let ls := evictable s.mem d
    let pick := ofBytesLE ((List.range 4).map (Config.freeByte s.fresh))
    if held < l2Lines then s
    else { s with mem := s.mem.evict d ((ls[pick % ls.length]?).getD 0), fresh := s.fresh + 1 }

/-- A read by an agent of die d of a line by its number: the L2 gets it in S where it missed, other holders are downgraded, and the host's exclusive copy is taken back (11 R258; 13 R305, R306; 23 R407) (log 47). -/
def touchLine (s : State) (d line : Nat) : State :=
  let s := makeRoom s d line
  let m := s.mem
  let m := if line < 2 ^ 31 ∧ m.snoopAt line = .excl then m.setSnoop line .shared else m
  let m := if (m.l2At d line).st = .i then (m.others d line false).setL2 d line { st := .s } else m
  { s with mem := m }

/-- A read by an agent of die d at a physical address (11 R258). -/
def touchRead (s : State) (d pa : Nat) : State := touchLine s d (pa / 128)

/-- A write by an agent of die d for a partition to a line by its number: the L2 holds it in M with its owner tag, and nobody else holds it (11 R258, R265; 13 R305, R306; 23 R407) (log 47). -/
def ownLine (s : State) (d part line : Nat) : State :=
  let s := makeRoom s d line
  let st := (s.mem.l2At d line).st
  let m := if line < 2 ^ 31 then s.mem.setSnoop line .none else s.mem
  let m := (m.others d line true).setL2 d line { st := .m, part := part }
  let s := { s with mem := m }
  if st = .i ∨ st = .s then bumpVersion s (line * 128) else s

/-- A write by an agent of die d at a physical address (11 R258). -/
def touchWrite (s : State) (d part pa : Nat) : State := ownLine s d part (pa / 128)

/-- The lines that n bytes from pa on touch. -/
def linesOf (pa n : Nat) : List Nat := (List.range ((pa + n - 1) / 128 - pa / 128 + 1)).map fun i => (pa / 128 + i) * 128

/-- A coherent read of n bytes at a physical address by an agent of die d. -/
def physRead (s : State) (d pa n : Nat) : List Byte × State :=
  let s := if rangeReserved pa n then s.modMem fun m => { m with reserved := true } else s
  (s.mem.get pa n, (linesOf pa n).foldl (fun s a => touchRead s d a) s)

/-- A coherent write of bytes at a physical address by an agent of die d for a partition. -/
def physWrite (s : State) (d part pa : Nat) (bs : List Byte) : State :=
  if rangeReserved pa bs.length then s.modMem fun m => { m with reserved := true }
  else ((linesOf pa bs.length).foldl (fun s a => touchWrite s d part a) s).modMem fun m => m.set pa bs

/-- Some byte of n from pa on is uncorrectable (11 R259) (log 13). -/
def physBad (s : State) (pa n : Nat) : Bool := (List.range n).any fun i => Tab.look false s.mem.bad (pa + i)

/-- The state of a compressed page's descriptor (11 R261). -/
def cmpState (m : Memory) (desc : Nat) : Nat := m.val (desc + 0x240) 8
/-- LOCK of a page (11 R261). -/
def cmpLock (m : Memory) (desc : Nat) : Bool := (cmpState m desc).testBit 0
/-- BROKEN of a page (11 R261). -/
def cmpBroken (m : Memory) (desc : Nat) : Bool := (cmpState m desc).testBit 1
/-- SIZE of block b (11 R261). -/
def cmpSize (m : Memory) (desc b : Nat) : Nat := nbits (m.val (desc + 2 * b) 2) 12 4
/-- FIRST of block b (11 R261). -/
def cmpFirst (m : Memory) (desc b : Nat) : Nat := nbits (m.val (desc + 2 * b) 2) 0 11
/-- Chunk pointer i as a physical address, 0 for none (11 R261). -/
def cmpChunk (m : Memory) (desc i : Nat) : Nat := m.val (desc + 0x200 + 4 * i) 4 * 4096
/-- The chunks of a page, in order (11 R261). -/
def cmpChunks (m : Memory) (desc : Nat) : List Nat := ((List.range 16).map (cmpChunk m desc)).takeWhile (· ≠ 0)
/-- The capacity of block b in sectors (11 R261). -/
def cmpCap (m : Memory) (desc b : Nat) : Nat :=
  (if b = 255 then 128 * (cmpChunks m desc).length else cmpFirst m desc (b + 1)) - cmpFirst m desc b

/-- A descriptor that breaks no rule of R261. -/
def cmpOk (m : Memory) (desc : Nat) : Bool :=
  let n := (cmpChunks m desc).length
  (List.range 16).all (fun i => decide (i < n) || decide (cmpChunk m desc i = 0)) &&
  (cmpChunks m desc).all (fun c => decide (c < 2 ^ 38) && decide (tileOf c = tileOf desc)) &&
  (List.range 256).all (fun b =>
    !((m.val (desc + 2 * b) 2).testBit 11) && decide (cmpSize m desc b ≤ 8) &&
    decide (cmpFirst m desc b ≤ (if b = 255 then 128 * n else cmpFirst m desc (b + 1))) &&
    decide (cmpSize m desc b ≤ cmpCap m desc b)) &&
  decide (cmpState m desc < 4) && (m.get (desc + 0x248) 440).all (· = 0)

/-- The address of sector x of a page (11 R261). -/
def cmpSector (m : Memory) (desc x : Nat) : Nat := ((cmpChunks m desc)[x / 128]?).getD 0 + 32 * (x % 128)

/-- The sectors of a block, n of them from sector x on. -/
def cmpSectors (m : Memory) (desc x n : Nat) : List Byte :=
  (List.range n).flatMap fun i => m.get (cmpSector m desc (x + i)) 32

/-- The doublewords of a block from its bitmap: bit i takes the next stored doubleword, else zero (11 R260). -/
def cmpFill (map : Nat) : Nat → List Byte → List Byte
  | 0, _ => []
  | n + 1, bs =>
    if map.testBit (32 - (n + 1)) then bs.take 8 ++ cmpFill map n (bs.drop 8)
    else List.replicate 8 0 ++ cmpFill map n bs

/-- The 256 bytes of a stored block (11 R260). -/
def cmpExpand (size : Nat) (bs : List Byte) : List Byte :=
  if size = 0 then List.replicate 256 0
  else if size = 8 then bs
  else (cmpFill (ofBytesLE (bs.take 4)) 32 (bs.drop 4)).map id

/-- Splitting bytes into doublewords. -/
def dwords : Nat → List Byte → List (List Byte)
  | 0, _ => []
  | n + 1, bs => bs.take 8 :: dwords n (bs.drop 8)

/-- The compressed form of a block of 256 bytes: its size in sectors and its stored bytes (11 R260). -/
def cmpPack (bs : List Byte) : Nat × List Byte :=
  let ds := dwords 32 bs
  let nz := ds.filter fun d => d.any (· ≠ 0)
  let c := cdiv (4 + 8 * nz.length) 32
  if nz.length = 0 then (0, [])
  else if 8 ≤ c then (8, bs)
  else
    let map := (ds.zipIdx.foldl (fun a (d, i) => if d.any (· ≠ 0) then a + 2 ^ i else a) 0)
    let body := bytesLE map 4 ++ nz.flatten
    (c, body ++ List.replicate (32 * c - body.length) 0)

/-- Block b of a compressed page as its tile stores it. -/
def cmpStored (m : Memory) (desc b : Nat) : List Byte :=
  cmpExpand (cmpSize m desc b) (cmpSectors m desc (cmpFirst m desc b) (cmpSize m desc b))

/-- A line of 128 bytes of a compressed page as the L2 sees it: the dirty line where one awaits its write-back. -/
def cmpLineBytes (m : Memory) (desc line : Nat) : List Byte :=
  match m.cmp.find? (fun l => decide (l.desc = desc) && decide (l.line = line)) with
  | some l => l.bytes
  | none => ((cmpStored m desc (line / 2)).drop (128 * (line % 2))).take 128

/-- n bytes at offset off of a compressed page, within one line. -/
def cmpGet (m : Memory) (desc off n : Nat) : List Byte := ((cmpLineBytes m desc (off / 128)).drop (off % 128)).take n

/-- The lines of device memory that a tile reads for block b of a compressed page: its descriptor and its sectors (11 R261). -/
def cmpTileLines (m : Memory) (desc b : Nat) : List Nat :=
  (linesOf desc 1024).map (· / 128) ++ (List.range (cmpSize m desc b)).map fun i => cmpSector m desc (cmpFirst m desc b + i) / 128

/-- A tile reads lines of its memory: holders are downgraded, and the host's exclusive copies are taken back (13 R306; 23 R407). -/
def Memory.tileRead (m : Memory) (ls : List Nat) : Memory :=
  ls.foldl (fun m line => (if m.snoopAt line = .excl then m.setSnoop line .shared else m).others 5 line false) m

/-- A tile writes bytes of its memory: nobody else keeps the lines (13 R306; 23 R407). -/
def Memory.tileSet (m : Memory) (pa : Nat) (bs : List Byte) : Memory :=
  ((linesOf pa bs.length).foldl (fun m a => (m.setSnoop (a / 128) .none).others 5 (a / 128) true) m).set pa bs

/-- A byte that a line of a compressed page comes from is uncorrectable: of its descriptor or of its block's sectors; a dirty line comes from the L2 (11 R259, R261). -/
def cmpBad (m : Memory) (desc off : Nat) : Bool :=
  let b := off / 256
  let err (pa n : Nat) : Bool := (List.range n).any fun i => Tab.look false m.bad (pa + i)
  !m.bad.isEmpty && !(m.cmp.any fun l => decide (l.desc = desc) && decide (l.line = off / 128)) &&
  (err desc 1024 || (List.range (cmpSize m desc b)).any fun i => err (cmpSector m desc (cmpFirst m desc b + i)) 32)

/-- An agent of die d reaches a line of a compressed page for a partition: where its L2 misses, the tile reads the block (11 R258, R262; 13 R306; 23 R407). -/
def touchCmp (s : State) (d part desc off : Nat) (write : Bool) : State :=
  let line := cmpLineNo desc (off / 128)
  let s := if (s.mem.l2At d line).st = .i then { s with mem := s.mem.tileRead (cmpTileLines s.mem desc (off / 256)) } else s
  if write then ownLine s d part line else touchLine s d line

/-- Overwriting the bytes of a list from position k on. -/
def overlay (bs : List Byte) (k : Nat) (new : List Byte) : List Byte := bs.take k ++ new ++ bs.drop (k + new.length)

/-- A write within one line of a compressed page: the line is dirty in the L2 of die d and awaits its write-back (11 R262). -/
def cmpSet (m : Memory) (d part desc off : Nat) (new : List Byte) : Memory :=
  let line := off / 128
  let bs := overlay (cmpLineBytes m desc line) (off % 128) new
  let own (l : CmpLine) : Bool := decide (l.desc = desc) && decide (l.line = line)
  { m with cmp := (m.cmp.filter fun l => !(own l)) ++ [{ desc := desc, line := line, bytes := bs, part := part, die := d, arrived := (m.cmp.find? own).bind (·.arrived) }] }

end Sys2Proof.Machine
end

