-- ==== Sys2Proof/Machine/Records.lean ====
section
/-! DEFINITION. Events, rings, fault records and duty requests (04 R91; 21 R374 to R376; 24 R422, R425). -/
namespace Sys2Proof.Machine

/-- A write that no L2 keeps: nobody holds the lines after it, and the version of each line's page rises (11 R265; 13 R305, R306; 23 R407). -/
def iodPut (s : State) (pa : Nat) (bs : List Byte) : State :=
  if rangeReserved pa bs.length then s.modMem fun m => { m with reserved := true }
  else ((linesOf pa bs.length).foldl (fun s a =>
      bumpVersion (s.modMem fun m => (if a < 2 ^ 38 then m.setSnoop (a / 128) .none else m).others 4 (a / 128) true) a) s).modMem fun m => m.set pa bs

/-- A write by the I/O die: it waits where flits are held on its way or the host link has failed, and is lost where no link is left (23 R405, R406; 24 R431) (log 57). -/
def iodWrite (s : State) (pa : Nat) (bs : List Byte) : State :=
  match reaching s 4 pa with
  | .clear => iodPut s pa bs
  | .held => s.modIod fun i => { i with waits := i.waits ++ [(pa, bs)] }
  | .down => s

/-- The writes of the I/O die that waited for a way that is now clear are performed, in their order; those whose way is gone are lost (23 R405, R406). -/
def flushWaits (s : State) : State := s.iod.waits.foldl (fun s x => iodWrite s x.1 x.2) (s.modIod fun i => { i with waits := [] })

/-- A read by the I/O die: dirty holders are downgraded, and the host's exclusive copy is taken back (13 R305, R306). -/
def iodRead (s : State) (pa n : Nat) : List Byte × State :=
  if rangeReserved pa n then ([], s.modMem fun m => { m with reserved := true })
  else (s.mem.get pa n, s.modMem fun m => (linesOf pa n).foldl (fun m a =>
    (if a < 2 ^ 38 ∧ m.snoopAt (a / 128) = .excl then m.setSnoop (a / 128) .shared else m).others 4 (a / 128) false) m)

/-- A context that awaits an event goes back to RUN (04 R92). -/
def Ctx.wakeEvent (c : Ctx) : Ctx := if c.run = .wait ∧ c.await = some .event then { c with run := .run, await := none } else c

/-- An event record enters a core's event queue; a full queue discards it and marks the next record LOST (04 R91). -/
def postEvent (s : State) (k : Nat) (lo hi : Nat) : State :=
  s.modCore k fun c =>
    if 256 ≤ c.evq.length then { c with lost := true }
    else
      let lo := lo + (if c.lost then 256 else 0)
      { c with evq := c.evq ++ [BitVec.ofNat 128 (hi * 2 ^ 64 + lo % 2 ^ 64)], lost := false, ctxs := c.ctxs.map fun (n, x) => (n, x.wakeEvent) }

/-- BASE of a ring (21 R375). -/
def Ring.base (r : Ring) : Nat := bits r.ring 12 40 * 4096
/-- EN of a ring (21 R375). -/
def Ring.en (r : Ring) : Bool := bit r.ring 4
/-- Records a ring holds (21 R375). -/
def Ring.size (r : Ring) : Nat := 2 ^ min 12 (bits r.ring 0 4)
/-- A ring takes a further record (21 R375). -/
def Ring.room (r : Ring) : Bool := r.en && decide ((r.head + 65536 - r.tail) % 65536 ≠ r.size)
/-- A ring after a record was written to it. -/
def Ring.advance (r : Ring) : Ring := { r with head := (r.head + 1) % 65536 }
/-- A ring after a record was lost. -/
def Ring.lose (r : Ring) : Ring := { r with lost := min 65535 (r.lost + 1) }

/-- A record offered to a ring: the state, the ring after it, and whether it is written (21 R375, 24 R422); one that no link of the package can carry is not (log 57). -/
def ringPut (s : State) (r : Ring) (bs : List Byte) : State × Ring × Bool :=
  if r.room ∧ reaching s 4 (r.base + bs.length * (r.head % r.size)) ≠ .down then (iodWrite s (r.base + bs.length * (r.head % r.size)) bs, r.advance, true) else (s, r.lose, false)

/-- Ring m of a partition (24 R422). -/
def Part.ring (p : Part) (m : Nat) : Ring := Tab.look {} p.rings m

/-- A record for ring m of a partition. -/
def partRing (s : State) (p m : Nat) (bs : List Byte) : State × Bool :=
  let (s, r, ok) := ringPut s ((s.part p).ring m) bs
  (s.modPart p fun x => { x with rings := Tab.set x.rings m r }, ok)

/-- A record for the host event ring (24 R422). -/
def hostEvent (s : State) (lo hi : Nat) : State :=
  let (s, r, _) := ringPut s s.iod.hostRing (bytesLE (lo % 2 ^ 64) 8 ++ bytesLE (hi % 2 ^ 64) 8)
  s.modIod fun i => { i with hostRing := r }

/-- A partition event: to the core that issued the last POLICY.SWAP while it is in the partition, else to partition ring 1 (10 R241). -/
def partEvent (s : State) (p lo hi : Nat) : State :=
  match (s.part p).policy.swapper with
  | some k => if s.partOf k = p then postEvent s k lo hi else (partRing s p 1 (bytesLE (lo % 2 ^ 64) 8 ++ bytesLE hi 8)).1
  | none => (partRing s p 1 (bytesLE (lo % 2 ^ 64) 8 ++ bytesLE hi 8)).1

/-- The classes of a cause (21 R373): 0 none, 1 H, 2 B, 3 C, 4 N, 5 E, 6 P. LINK_DOWN of an access that has no path acts as class N for its region (23 R406) (log 57). -/
def Cause.cls : Cause → Nat
  | .pageFaultRead | .pageFaultWrite | .permission | .tableFormat | .chunkReserveEmpty | .rayParkFull | .budgetExhausted => 1
  | .misaligned | .bufferBounds | .bufferAccess | .memUncorrectable | .queueUnreserved | .engineFormat | .engineState | .collMismatch => 2
  | .amplifyOverflow | .tileSeq | .tileParkFull => 3
  | .illegalOpcode | .reservedField | .dictUndefined | .dictShortFill | .wrongExecutor | .dictMismatch | .dictFormat | .cfgFormat | .plyState | .regionState | .linkDown => 4
  | .streamError | .loaderLost => 5
  | .unboundOverflow | .doubleTrap | .restoreFormat | .hostLinkDown | .ideIntegrity => 6
  | _ => 0

/-- What a fault record says (21 R374). -/
structure FltInfo where
  part : Nat := 0
  parked : Bool := false
  held : Bool := false
  src : Nat := 0
  ctx : Nat := 0
  ply : Nat := 0
  nflt : Nat := 0
  unit : Nat := 0
  cls : Nat := 0
  cause : Nat := 0
  tval : Nat := 0
  place : Nat := 0
  rcb : Nat := 0
  detail : Nat := 0
  dlc : Nat := 0
  cut : Option Nat := none
  queue : Option Nat := none
  cause2 : Nat := 0
  deriving DecidableEq, Repr, Inhabited

/-- Doubleword 0 of a fault record; `dva` holds DONE, VERDICT and AWAIT (21 R374). -/
def fltWord0 (f : FltInfo) (seq dva : Nat) : Nat :=
  seq * 2 ^ 48 + f.part * 2 ^ 36 + dva * 2 ^ 31 + b2n f.parked * 2 ^ 30 + b2n f.held * 2 ^ 29 + f.src * 2 ^ 26 + f.ctx * 2 ^ 24 +
  f.ply * 2 ^ 22 + min 31 f.nflt * 2 ^ 17 + f.unit * 2 ^ 13 + f.cls * 2 ^ 10 + f.cause

/-- The 64 bytes of a fault record (21 R374). -/
def fltBytes (f : FltInfo) (seq : Nat) : List Byte :=
  let opt (o : Option Nat) (sh v : Nat) : Nat := match o with
    | some x => x * 2 ^ sh + 2 ^ v
    | none => 0
  bytesLE (fltWord0 f seq 0) 8 ++ bytesLE f.tval 8 ++ bytesLE f.place 8 ++ bytesLE f.rcb 8 ++ bytesLE f.detail 8 ++ bytesLE f.dlc 8 ++
  bytesLE (opt f.cut 0 16 + opt f.queue 32 48) 8 ++ bytesLE f.cause2 8

/-- A fault record is written to its partition's fault ring: the state, its SEQ, and whether it was written (21 R374, R375). -/
def faultRecord (s : State) (f : FltInfo) : State × Nat × Bool :=
  let r := (s.part f.part).fltring
  let (s, r', ok) := ringPut s r (fltBytes f r.head)
  (s.modPart f.part fun p => { p with fltring := r' }, r.head, ok)

/-- A P cause: only a fault record (21 R373). -/
def partFault (s : State) (p : Nat) (c : Cause) (tval src place : Nat) : State :=
  (faultRecord s { part := p, src := src, cls := 6, cause := c.code, tval := tval, place := place, dlc := (s.die (place / 2 ^ 13)).dlc }).1

/-- WHERE of a source that is no element: die and core in [14:6] (21 R374). -/
def placeOf (k : Nat) : Nat := dieOf k * 2 ^ 13 + coreIn k * 64

/-- The coordinate of an element (05 R96). -/
def coordOf (k e : Nat) : Nat := placeOf k + e

/-- HOST_DUTY_TIMEOUT for a duty request (00 R9, 21 R376). -/
def dutyTimeout (s : State) (p : Nat) (d : Duty) : State :=
  partEvent s p (0x21 + (match d.func with | 1 => 1 | 2 => 2 | 3 => 3 | _ => 0) * 2 ^ 9 + d.cluster * 2 ^ 11 + d.die * 2 ^ 14) d.what

/-- A duty request goes to the host; one its ring loses is taken in hardware at once (24 R422, R425). The answer is its TAG (log 68). -/
def sendDuty (s : State) (p : Nat) (d : Duty) (w1 w2 : Nat) (tail : List Byte) : State × Nat :=
  let tag := (s.part p).nextTag
  let d := { d with tag := tag, at_ := (s.die d.die).dlc, wait := bits (s.part p).dutyctl 32 32 }
  let rec0 := bytesLE (d.func + tag * 2 ^ 16 + d.die * 2 ^ 32 + d.cluster * 2 ^ 34) 8 ++ bytesLE w1 8 ++ bytesLE w2 8 ++ List.replicate 8 0 ++ tail
  let (s, ok) := partRing s p 0 (rec0 ++ List.replicate (128 - rec0.length) 0)
  let s := s.modPart p fun x => { x with nextTag := (tag + 1) % 65536, duties := x.duties ++ [{ d with expired := !ok }] }
  (if ok then s else dutyTimeout s p d, tag)

/-- The duty with a tag. -/
def dutyOf (s : State) (p tag : Nat) : Option Duty := (s.part p).duties.find? fun d => decide (d.tag = tag)

/-- A duty request is settled. -/
def dropDuty (s : State) (p tag : Nat) : State :=
  s.modPart p fun x => { x with duties := x.duties.filter fun d => decide (d.tag ≠ tag) }

end Sys2Proof.Machine
end

