-- ==== Sys2Proof/Machine/Trans.lean ====
section
/-! DEFINITION. Translation and access to unified memory (11 R252 to R255, R261; 00 R8; 04 R79; 24 R426). -/
namespace Sys2Proof.Machine

/-- What looking for a leaf answers: the entry, its level and address, a cause code, or the wait for its way, with the levels left and the table read next. -/
inductive Leaf
  | found (e lv at_ : Nat)
  | bad (code : Nat)
  | wait (left table : Nat)
  deriving DecidableEq, Repr, Inhabited

/-- pf(acc) of R253. -/
def pfCode : Acc → Nat
  | .read | .fetch => 0x20
  | .write | .amo => 0x21

/-- Size in bytes of a page of level lv (11 R253). -/
def pageSize (lv : Nat) : Nat := 2 ^ (16 + 13 * (2 - lv))

/-- ADDR of an entry, as an address (11 R253). -/
def entryAddr (e : Nat) : Nat := nbits e 10 42 * 1024

/-- The checks of R253 on a leaf of level lv that do not depend on the access (log 46). -/
def leafOk (e lv : Nat) : Bool :=
  if e.testBit 7 then decide (lv = 2) && !(rangeReserved (entryAddr e) 1024)
  else decide (entryAddr e % pageSize lv = 0) && !(rangeReserved (entryAddr e) (pageSize lv))

/-- A permitted access (11 R253). -/
def permits (e : Nat) (acc : Acc) (user : Bool) : Bool :=
  (match acc with
   | .read => e.testBit 3
   | .write => e.testBit 4
   | .fetch => e.testBit 5 && e.testBit 3
   | .amo => e.testBit 3 && e.testBit 4) && (!user || e.testBit 6)

/-- The non-leaf entries that a walker keeps (11 R254). -/
def walkEntries : Nat := 512

/-- The bits of an address above those that the entries below level lv index. -/
def walkPrefix (lv va : Nat) : Nat := va / 2 ^ (42 - 13 * lv)

/-- The next table that the walker of die d keeps of the entry at a for an address at level lv (11 R252, R254, R255) (log 88). -/
def walkKept (s : State) (d part lv va a : Nat) : Option Nat :=
  ((s.die d).wcache.find? fun x => decide (x.part = part) && decide (x.lv = lv) && decide (x.pfx = walkPrefix lv va) && decide (x.pos = a)).map (·.next)

/-- A non-leaf entry enters the walker's cache; the oldest makes room (11 R254) (log 88). -/
def keepEntry (s : State) (d : Nat) (x : WalkEnt) : State :=
  s.modDie d fun y => { y with wcache := (if walkEntries ≤ y.wcache.length then y.wcache.drop 1 else y.wcache) ++ [x] }

/-- The way of a table read by the walker of die d: none is needed where the die's own L2 holds the line (11 R254, R258; 23 R406). -/
def walkWay (s : State) (d a : Nat) : Crossing := if (s.mem.l2At d (a / 128)).st = .i then reaching s d a else .clear

/-- The address of the entry that a walk of a virtual address reads next, with n levels left (11 R253). -/
def entryAt (va n table : Nat) : Nat := table + 8 * nbits va (42 - 13 * (3 - n)) 13

/-- The levels of a walk by die d from level lv on, with the table at t; n levels are left (11 R253). A level whose entry the walker keeps is not read (R254); a table read is a coherent read (R254; 13 R289), and needs a path of links to its home (23 R406) (logs 46, 88). -/
def walkFrom (d part va : Nat) (acc : Acc) : Nat → Nat → State → Leaf × State
  | 0, _, s => (.bad 0x27, s)
  | n + 1, t, s =>
    let lv := 2 - n
    let a := entryAt va (n + 1) t
    match walkKept s d part lv va a with
    | some t' => walkFrom d part va acc n t' s
    | none =>
      match walkWay s d a with
      | .down => (.bad 0x72, s)
      | .held => (.wait (n + 1) t, s)
      | .clear =>
        if l2Full s d (a / 128) then (.wait (n + 1) t, s) else
        let e := s.mem.val a 8
        let s := (physRead s d a 8).2
        if !(e.testBit 0) then (.bad (pfCode acc), s)
        else if nbits e 52 12 ≠ 0 ∨ e.testBit 2 ∨ (lv = 2 ∧ !(e.testBit 1)) then (.bad 0x27, s)
        else if e.testBit 1 then (if leafOk e lv then .found e lv a else .bad 0x27, s)
        else if entryAddr e % 65536 ≠ 0 ∨ rangeReserved (entryAddr e) 65536 then (.bad 0x27, s)
        else walkFrom d part va acc n (entryAddr e) (keepEntry s d { part := part, lv := lv, pfx := walkPrefix lv va, pos := a, next := entryAddr e })

/-- BASE of TROOT (11 R252). -/
def trootBase (p : Part) : Nat := bits p.troot 16 36 * 65536

/-- The leaf of a virtual address in a partition as die d's walker finds it, with no permission checked: from the root, or from where a walk that had begun stands (11 R252, R253). -/
def findLeaf (s : State) (d p va : Nat) (acc : Acc) (begun : Option HwWalk := none) : Leaf × State :=
  match begun with
  | some w => walkFrom d p va acc w.left w.table s
  | none => if bit (s.part p).troot 0 then walkFrom d p va acc 3 (trootBase (s.part p)) s else (.bad (pfCode acc), s)

/-- A leaf entry with A set, and D for a write (11 R253, R254). -/
def withAD (e : Nat) (acc : Acc) : Nat :=
  let e := if e.testBit 8 then e else e + 256
  match acc with
  | .write | .amo => if e.testBit 9 then e else e + 512
  | _ => e

/-- A leaf's pages of 64 KiB: the first page number it maps for va, and how many. -/
def leafPages (va lv : Nat) : Nat × Nat := (va / pageSize lv * (pageSize lv / 65536), pageSize lv / 65536)

/-- Where va lies under a leaf that maps `pages` pages from page vpn on. -/
def leafLoc (e vpn va : Nat) : Loc :=
  if e.testBit 7 then .comp (entryAddr e) (va % 65536) else .plain (entryAddr e + (va - vpn * 65536))

/-- A translation enters a core's cache of 64 entries; the oldest makes room (11 R255, log 9). -/
def addXlat (c : CoreSt) (x : Xlat) : CoreSt :=
  let rest := c.xlats.filter fun y => decide (y.vpn + y.pages ≤ x.vpn) || decide (x.vpn + x.pages ≤ y.vpn)
  { c with xlats := (if 64 ≤ rest.length then rest.drop 1 else rest) ++ [x] }

/-- The outcome of an access to unified memory: done, a cause code with its TVAL, or the wait for a host or a page lock. -/
inductive Mr (α : Type)
  | ok (v : α) (s : State)
  | fault (code tval : Nat) (s : State)
  | wait (s : State)

/-- Going on from an access that succeeds. -/
def Mr.andThen {α β : Type} (r : Mr α) (f : α → State → Mr β) : Mr β :=
  match r with
  | .ok v s => f v s
  | .fault c t s => .fault c t s
  | .wait s => .wait s

/-- The die whose walker serves core k; the display sequencer's walks are die 0's (11 R254) (log 88). -/
def walkDie (k : Nat) : Nat := if k = dsCore then 0 else dieOf k

/-- A leaf that the host answered, checked as R253 checks a leaf of level 2 (24 R426). -/
def hostLeaf (s : State) (va e : Nat) (ok : Nat → Bool) : Mr (Nat × Nat × Nat) :=
  if nbits e 52 12 ≠ 0 ∨ e.testBit 2 ∨ !(e.testBit 0) ∨ !(e.testBit 1) ∨ !(leafOk e 2) then .fault 0x27 va s
  else if ok e then .ok (e, va / 65536, 1) s
  else .fault 0x22 va s

/-- Code of an access in a walk request (24 R425). -/
def accCode : Acc → Nat
  | .read => 0
  | .write => 1
  | .fetch => 2
  | .amo => 3

/-- The walks that a die may have in flight (11 R254). -/
def walkCap : Nat := 256

/-- A walk with the host for which no answer has come and WAIT has not expired. -/
def Duty.inFlight (y : Duty) : Bool := decide (y.func = 0) && y.reply.isNone && !y.expired

/-- The walks of die d that are with the host, each with its partition (11 R254). -/
def walksOf (s : State) (d : Nat) : List (Nat × Duty) :=
  s.parts.flatMap fun x => (x.2.duties.filter fun y => y.inFlight && decide (y.die = d)).map fun y => (x.1, y)

/-- A walk of die d's walker cannot go on: flits are held on its way (23 R405; 24 R431). -/
def HwWalk.stands (s : State) (d : Nat) (w : HwWalk) : Bool := decide (walkWay s d (entryAt w.duty.what w.left w.table) = .held)

/-- The walks of die d in flight, each with its partition: those with the host, and those of the walker (11 R254). -/
def walksInFlight (s : State) (d : Nat) : List (Nat × Duty) :=
  walksOf s d ++ ((s.die d).walks.filter (·.stands s d)).map fun w => (w.part, w.duty)

/-- A walk of the page of va in partition p is in flight on die d (11 R254). -/
def pageWalked (s : State) (d p va : Nat) : Bool := (walksInFlight s d).any fun x => decide (x.1 = p) && decide (x.2.what / 65536 = va / 65536)

/-- A walk is the one that core k asks for: of the page of va, of this access, for an access or to verify a page of a window. -/
def Duty.asks (y : Duty) (k va : Nat) (acc : Acc) (probe : Bool) : Bool :=
  decide (y.func = 0) && decide (y.core = k) && decide (y.what / 65536 = va / 65536) && decide (y.acc = acc) && decide (y.probe = probe)

/-- A walk request goes to the host (24 R425). -/
def sendWalk (s : State) (p : Nat) (y : Duty) : State × Nat := sendDuty s p y y.what (accCode y.acc) []

/-- A walk that waited begins, in the mode that holds now: with the host, or by the walker from the root that TROOT names now; where TROOT.EN is 0 its access asks again, and faults (00 R10; 11 R252, R254). -/
def startWalk (s : State) (d p : Nat) (y : Duty) : State :=
  if !(bit (s.part p).troot 0) then s
  else if bit (s.part p).dutyctl 0 then (sendWalk s p y).1
  else s.modDie d fun x => { x with walks := x.walks ++ [{ part := p, duty := y, table := trootBase (s.part p) }] }

/-- The walks that wait begin in arrival order while there is room, n of them at most; one whose page is walked already waits on (11 R254). -/
def promoteWalks (d : Nat) : Nat → State → State
  | 0, s => s
  | n + 1, s =>
    if walkCap ≤ (walksInFlight s d).length then s
    else match (s.die d).walkq.find? fun x => !(pageWalked s d x.1 x.2.what) with
      | none => s
      | some x => promoteWalks d n (startWalk (s.modDie d fun y => { y with walkq := y.walkq.erase x }) d x.1 x.2)

/-- What asking for a walk answers: the walker is to walk, the walk is awaited, a leaf, or a cause code. -/
inductive WalkAns
  | hw
  | wait
  | leaf (e : Nat)
  | bad (cause : Nat)
  deriving DecidableEq, Repr, Inhabited

/-- The walk that core k has begun with its die's walker for an access to va. -/
def begunWalk (s : State) (k va : Nat) (acc : Acc) (probe : Bool) : Option HwWalk :=
  (s.die (walkDie k)).walks.find? fun w => decide (w.part = s.partOf k) && w.duty.asks k va acc probe

/-- The walk request of core k for va. -/
def walkDuty (k va : Nat) (acc : Acc) (probe : Bool) : Duty :=
  { func := 0, die := walkDie k, cluster := clusterOf k % 8, core := k, what := va, acc := acc, probe := probe }

/-- A walk that core k needs and that the walker has not begun: the host's answer where one is there, else the wait for one in flight for the page, for room among the walks in flight, or for the host; the walker where TROOT.EN is 0, walks are the hardware's, or WAIT has expired (00 R8 to R10; 11 R252, R254) (logs 54, 88). -/
def askHost (s : State) (k va : Nat) (acc : Acc) (probe : Bool) : WalkAns × State :=
  let p := s.partOf k
  let d := walkDie k
  let y := walkDuty k va acc probe
  match (s.part p).duties.find? fun y => y.asks k va acc probe with
  | some y =>
    if y.expired then (.hw, dropDuty s p y.tag)
    else match y.reply with
      | none => (.wait, s)
      | some (0, _, leaf) => (.leaf leaf.toNat, dropDuty s p y.tag)
      | some (_, cause, _) => (.bad cause, dropDuty s p y.tag)
  | none =>
    if (s.die d).walkq.any fun x => decide (x.1 = p) && x.2.asks k va acc probe then (.wait, s)
    else if !(bit (s.part p).troot 0) then (.hw, s)
    else if pageWalked s d p va then (.wait, s)
    else if walkCap ≤ (walksInFlight s d).length ∨ !(s.die d).walkq.isEmpty then (.wait, s.modDie d fun x => { x with walkq := x.walkq ++ [(p, y)] })
    else if !(bit (s.part p).dutyctl 0) then (.hw, s)
    else
      let (s, tag) := sendWalk s p y
      if (dutyOf s p tag).any (·.expired) then (.hw, dropDuty s p tag) else (.wait, s)

/-- A walk that core k needs. One that the walker has begun completes there, whatever the mode is now (00 R8, R10); walks that wait for room begin first (11 R254). -/
def askWalk (s : State) (k va : Nat) (acc : Acc) (probe : Bool) : WalkAns × State :=
  let s := promoteWalks (walkDie k) (s.die (walkDie k)).walkq.length s
  if (begunWalk s k va acc probe).isSome then (.hw, s) else askHost s k va acc probe

/-- A walk by the die walker for core k: one whose way holds flits is kept as it stands, and goes on from there (11 R253, R254; 23 R405). -/
def dieWalk (s : State) (k va : Nat) (acc : Acc) (probe : Bool) : Leaf × State :=
  let d := walkDie k
  let w := (begunWalk s k va acc probe).getD { part := s.partOf k, duty := walkDuty k va acc probe }
  let same (x : HwWalk) : Bool := decide (x.part = s.partOf k) && x.duty.asks k va acc probe
  let keep (s : State) (l : List HwWalk) : State := s.modDie d fun y => { y with walks := (y.walks.filter fun x => !(same x)) ++ l }
  match findLeaf s d (s.partOf k) va acc (begunWalk s k va acc probe) with
  | (.wait n t, s) => (.wait n t, keep s [{ w with left := n, table := t }])
  | (x, s) => (x, keep s [])

/-- A walk by the die walker for an access of core k (11 R253, R254): the leaf with A set, and D for a write, and the pages it maps. -/
def hwLeaf (s : State) (k va : Nat) (acc : Acc) (ok : Nat → Bool) : Mr (Nat × Nat × Nat) :=
  match dieWalk s k va acc false with
  | (.bad c, s) => .fault c va s
  | (.wait _ _, s) => .wait s
  | (.found e lv a, s) =>
    if ok e then
      let e' := withAD e acc
      .ok (e', leafPages va lv) (if e' = e then s else physWrite s (walkDie k) (s.partOf k) a (bytesLE e' 8))
    else .fault 0x22 va s

/-- A walk for an access of core k: by the walker, or handed to the host (00 R8, R9; 11 R252 to R254). -/
def hostWalk (s : State) (k va : Nat) (acc : Acc) (ok : Nat → Bool) : Mr (Nat × Nat × Nat) :=
  match askWalk s k va acc false with
  | (.hw, s) => hwLeaf s k va acc ok
  | (.wait, s) => .wait s
  | (.leaf e, s) => hostLeaf s va e ok
  | (.bad c, s) => .fault c va s

/-- The leaf of a later page of a window, with the pages it maps: a walk that raises no cause and sets neither A nor D, by the walker or the host (11 R256; 00 R8) (log 63). -/
def probePage (s : State) (k va : Nat) : Mr (Option (Nat × Nat × Nat)) :=
  match askWalk s k va .read true with
  | (.wait, s) => .wait s
  | (.bad _, s) => .ok none s
  | (.leaf e, s) =>
    (match hostLeaf s va e fun _ => true with
     | .ok r s => .ok (some r) s
     | .fault _ _ s => .ok none s
     | .wait s => .wait s)
  | (.hw, s) =>
    match dieWalk s k va .read true with
    | (.found e lv _, s) => .ok (some (e, leafPages va lv)) s
    | (.bad _, s) => .ok none s
    | (.wait _ _, s) => .wait s

/-- A walk whose leaf serves the access and enters the core's cache (00 R8, R10; 11 R253, R255). -/
def walk (s : State) (k va : Nat) (acc : Acc) (user : Bool) : Mr Loc :=
  (hostWalk s k va acc fun e => permits e acc user).andThen fun r s =>
    .ok (leafLoc r.1 r.2.1 va) (s.modCore k fun c => addXlat c { vpn := r.2.1, pages := r.2.2, leaf := w64 r.1 })

/-- The cached translation that serves an access: it covers the page, and for a write its D is set (11 R255) (log 85). -/
def xlatHit (c : CoreSt) (va : Nat) (acc : Acc) : Option Xlat :=
  c.xlats.find? fun x => decide (x.vpn ≤ va / 65536) && decide (va / 65536 < x.vpn + x.pages) &&
    (match acc with
     | .write | .amo => bit x.leaf 9
     | _ => true)

/-- Translating an access of core k (11 R253 to R255) (log 85). -/
def translate (s : State) (k va : Nat) (acc : Acc) (user : Bool) : Mr Loc :=
  match xlatHit (s.core k) va acc with
  | some x => if permits x.leaf.toNat acc user then .ok (leafLoc x.leaf.toNat x.vpn va) s else .fault 0x22 va s
  | none => walk s k va acc user

/-- A read of physical memory by an agent of core k (log 25). -/
def agentRead (s : State) (k pa n : Nat) : List Byte × State := if k = dsCore then iodRead s pa n else physRead s (dieOf k) pa n

/-- A write of physical memory by an agent of core k (log 25). -/
def agentWrite (s : State) (k pa : Nat) (bs : List Byte) : State :=
  if k = dsCore then iodWrite s pa bs else physWrite s (dieOf k) (s.partOf k) pa bs

/-- The place in arrival order of the next request that waits at a tile for a compressed page (11 R262). -/
def nextArrival (m : Memory) : Nat := ((m.cmp.map fun x => x.arrived.getD 0) ++ m.reads.map (·.arrived)).foldl max 0 + 1

/-- The request of core k for a line of a compressed page that waits on the page's lock (11 R262). -/
def waitingRead (m : Memory) (k desc line : Nat) : Option CmpRead :=
  m.reads.find? fun x => decide (x.core = k) && decide (x.desc = desc) && decide (x.line = line)

/-- m without the request of core k for a line. -/
def Memory.endRead (m : Memory) (k desc line : Nat) : Memory :=
  { m with reads := m.reads.filter fun x => !(decide (x.core = k) && decide (x.desc = desc) && decide (x.line = line)) }

/-- A request of core k for a line waits on the page's lock, in arrival order (11 R262). -/
def arriveRead (m : Memory) (k desc line : Nat) : Memory :=
  if (waitingRead m k desc line).isSome then m else { m with reads := m.reads ++ [{ core := k, desc := desc, line := line, arrived := nextArrival m }] }

/-- The checks of an access of core k to a compressed page: its lock, BROKEN, and its descriptor. The answer is the line as its tile served it, where the request waited on the lock and came before what locked the page again (11 R261 to R263) (log 69). -/
def cmpCheck (s : State) (k desc off va : Nat) : Mr (Option (List Byte)) :=
  let s1 := s.modMem fun m => m.endRead k desc (off / 128)
  if 2 ^ 38 ≤ desc then .fault 0x27 desc s
  else match (waitingRead s.mem k desc (off / 128)).bind (·.served) with
    | some bs => .ok (some bs) s1
    | none =>
      if cmpLock s.mem desc then .wait (s.modMem fun m => arriveRead m k desc (off / 128))
      else if cmpBroken s.mem desc then .fault 0x28 va s1
      else if cmpOk s.mem desc then .ok none s1
      else .fault 0x27 desc s1

/-- An access by die d for virtual address va crosses to a physical address: LINK_DOWN where no path of links leads there, a wait where flits are held (23 R405, R406; 24 R431) (log 57). -/
def crossTo (s : State) (d va pa : Nat) : Mr Unit :=
  match reaching s d pa with
  | .down => .fault 0x72 va s
  | .held => .wait s
  | .clear => .ok () s

/-- One number for every place a byte may lie at. -/
def Loc.key : Loc → Nat
  | .plain pa => pa
  | .comp desc off => 2 ^ 60 + desc * 64 + off

/-- A store wrote one of n bytes from place a on. -/
def Late.meets (x : Late) (a n : Nat) : Bool := decide (x.at_ < a + n) && decide (a < x.at_ + x.old.length)

/-- Stores that `p` names are performed, and with each those that its core issued before it (13 R293). -/
def performLate (p : Late → Bool) : List Late → List Late
  | [] => []
  | x :: r => if p x || r.any fun y => decide (y.core = x.core) && p y then performLate p r else x :: performLate p r

/-- The stores that `p` names are performed at CO (13 R291, R293). -/
def performStores (s : State) (p : Late → Bool) : State :=
  if s.mem.late.isEmpty then s else s.modMem fun m => { m with late := performLate p m.late }

/-- The oldest store of core k that is not performed at CO is performed (13 R291). -/
def performNext (k : Nat) (s : State) : State :=
  s.modMem fun m => { m with late := match m.late.find? fun x => decide (x.core = k) with
    | some x => m.late.erase x
    | none => m.late }

/-- Every store of core k is performed at CO (13 R293, R294). -/
def settleCore (s : State) (k : Nat) : State := performStores s fun x => decide (x.core = k)

/-- An access that core k has issued after its stores is performed: they are performed at CO with it, but for what R270 leaves unordered (13 R293; 14 R312) (log 4). -/
def passStores (s : State) (k : Nat) : State :=
  if s.mem.late.isEmpty then s else s.modMem fun m => { m with late := m.late.map fun x => if x.core = k then { x with passed := true } else x }

/-- An element or a stream port may still miss a store of its core (13 R291, R293; 12 R270). -/
def Late.mayMiss (x : Late) : Bool := !x.passed || x.loose

/-- Bytes from place a on as they stood before a store. -/
def Late.undo (x : Late) (a : Nat) (bs : List Byte) : List Byte :=
  bs.zipIdx.map fun (b, i) => if x.at_ ≤ a + i then (x.old[a + i - x.at_]?).getD b else b

/-- Bytes from place a on as they stood before every store that is not yet performed (13 R291). -/
def rewind (l : List Late) (a : Nat) (bs : List Byte) : List Byte := l.foldr (fun x bs => x.undo a bs) bs

/-- The physical address that says which way an access to a location takes. -/
def Loc.home : Loc → Nat
  | .plain pa => pa
  | .comp desc _ => desc

/-- The number of the L2 line that a location lies in. -/
def Loc.lineNo : Loc → Nat
  | .plain pa => pa / 128
  | .comp desc off => cmpLineNo desc (off / 128)

/-- The L2 of core k's die holds the line of a location, for a write in E or M (11 R258; 13 R305). -/
def locHeld (s : State) (k : Nat) (l : Loc) (write : Bool) : Bool :=
  decide (k ≠ dsCore) && match (s.mem.l2At (dieOf k) l.lineNo).st with
  | .i => false
  | .s => !write
  | .e | .m => true

/-- An access of core k reaches a location: in its die's own L2, or by the links of the package, where that L2 can take the line; while it is full of dirty compressed lines, the access waits (11 R258; 23 R405, R406) (logs 47, 57). -/
def locWay (s : State) (k va : Nat) (l : Loc) (write : Bool) : Mr Unit :=
  if locHeld s k l write then .ok () s
  else if k ≠ dsCore ∧ l2Full s (dieOf k) l.lineNo then .wait s
  else crossTo s (accessDie k) va l.home

/-- The bytes at a location as memory holds them, within one line (04 R79; 11 R261), whatever error they carry. -/
def locNewest (s : State) (k va : Nat) (l : Loc) (n : Nat) : Mr (List Byte) :=
  match l with
  | .plain pa =>
    (locWay s k va l false).andThen fun _ s => let (bs, s) := agentRead s k pa n; .ok bs s
  | .comp desc off =>
    (locWay s k va l false).andThen fun _ s => (cmpCheck s k desc off va).andThen fun served s =>
      .ok (((served.map fun bs => (bs.drop (off % 128)).take n)).getD (cmpGet s.mem desc off n)) (touchCmp s (walkDie k) (s.partOf k) desc off false)

/-- The bytes at a location as an agent of core k reads them (13 R291 to R293). An element and a stream port (`own` false) may miss stores of their core's sequencer that are not yet performed at CO; for every other agent they count as performed by then (log 4). -/
def locFetch (s : State) (k va : Nat) (l : Loc) (n : Nat) (own : Bool := true) : Mr (List Byte) :=
  (locNewest (performStores s fun x => x.meets l.key n && (own || decide (x.core ≠ k) || !x.mayMiss)) k va l n).andThen fun bs s =>
    .ok (if own then bs else rewind s.mem.late l.key bs) s

/-- A byte of n at a location is uncorrectable (11 R259). -/
def locBad (s : State) (l : Loc) (n : Nat) : Bool :=
  match l with
  | .plain pa => physBad s pa n
  | .comp desc off => cmpBad s.mem desc off

/-- Reading n bytes at a location, within one line: an uncorrectable error fails the read (04 R79). -/
def locRead (s : State) (k va : Nat) (l : Loc) (n : Nat) (own : Bool := true) : Mr (List Byte) :=
  (locFetch s k va l n own).andThen fun bs s => if locBad s l n then .fault 0x2F va s else .ok bs s

/-- Writing bytes at a location, within one line (11 R262), whatever stores still await there. -/
def locPut (s : State) (k va : Nat) (l : Loc) (bs : List Byte) : Mr Unit :=
  match l with
  | .plain pa =>
    (locWay s k va l true).andThen fun _ s => .ok () (agentWrite s k pa bs)
  | .comp desc off =>
    (locWay s k va l true).andThen fun _ s => (cmpCheck s k desc off va).andThen fun _ s =>
      .ok () ((touchCmp s (walkDie k) (s.partOf k) desc off true).modMem fun m => cmpSet m (walkDie k) (s.partOf k) desc off bs)

/-- Writing bytes at a location, within one line, after the stores that await there (11 R262; 13 R292). -/
def locWrite (s : State) (k va : Nat) (l : Loc) (bs : List Byte) : Mr Unit :=
  locPut (performStores s fun x => x.meets l.key bs.length) k va l bs

/-- The bytes that memory holds at a location. -/
def Memory.at_ (m : Memory) (l : Loc) (n : Nat) : List Byte :=
  match l with
  | .plain pa => m.get pa n
  | .comp desc off => cmpGet m desc off n

/-- A store of the acting context at a location, after the older stores of its core where it has a release part (`rel`); its core's elements and stream ports may miss it for a while (12 R270; 13 R291, R293, R294). -/
def locStore (s : State) (k va : Nat) (l : Loc) (bs : List Byte) (rel : Bool) : Mr Unit :=
  let s := if rel then settleCore s k else s
  let x : Late := { core := k, ctx := s.actor.ctx, at_ := l.key, old := s.mem.at_ l bs.length }
  (locPut (performStores s fun y => y.meets l.key bs.length && decide (y.core ≠ k)) k va l bs).andThen fun _ s =>
    .ok () (s.modMem fun m => { m with late := m.late ++ [x] })

/-- Steps 2 and 3 of R79: the address is below 2^55 and translates. -/
def reach (s : State) (k va : Nat) (acc : Acc) (user : Bool) : Mr Loc :=
  if 2 ^ 55 ≤ va then .fault (pfCode acc) va s else translate s k va acc user

/-- Reading n bytes of unified memory, within one line (04 R79). -/
def vread (s : State) (k va n : Nat) (acc : Acc) (user : Bool) (own : Bool := true) : Mr (List Byte) :=
  (reach s k va acc user).andThen fun l s => locRead s k va l n own

/-- Writing bytes of unified memory, within one line (04 R79). -/
def vwrite (s : State) (k va : Nat) (bs : List Byte) (user : Bool) : Mr Unit :=
  (reach s k va .write user).andThen fun l s => locWrite s k va l bs

/-- A store of the acting context to unified memory, within one line (04 R79; 13 R293). -/
def vstore (s : State) (k va : Nat) (bs : List Byte) (user rel : Bool) : Mr Unit :=
  (reach s k va .write user).andThen fun l s => locStore s k va l bs rel

/-- An atomic update of n bytes of unified memory: f gives the value to write, or none, and the old value is the answer (04 R80, R81). One that writes nothing holds its line as a write does (13 R305, R306). -/
def vamo (s : State) (k va n : Nat) (user : Bool) (f : Nat → Option Nat) : Mr Nat :=
  (reach s k va .amo user).andThen fun l s =>
    (locRead s k va l n).andThen fun bs s =>
      let old := ofBytesLE bs
      (locWrite s k va l (bytesLE ((f old).getD old) n)).andThen fun _ s => .ok old s

/-- Reading a run of bytes piece by piece, each piece within one line; n pieces at most. -/
def vreadMany (k : Nat) (acc : Acc) (user : Bool) (step : Nat) : Nat → Nat → State → Mr (List Byte)
  | 0, _, s => .ok [] s
  | n + 1, va, s =>
    (vread s k va step acc user).andThen fun bs s =>
      (vreadMany k acc user step n (va + step) s).andThen fun rest s => .ok (bs ++ rest) s

/-- Writing a run of bytes one by one. -/
def vwriteMany (k : Nat) (user : Bool) : List Byte → Nat → State → Mr Unit
  | [], _, s => .ok () s
  | b :: bs, va, s => (vwrite s k va [b] user).andThen fun _ s => vwriteMany k user bs (va + 1) s

end Sys2Proof.Machine
end

