-- ==== Sys2Proof/Machine/PlyOps.lean ====
section
/-! DEFINITION. Plies as a whole: freeing one, the messages parked for one, dropping drain markers, discarding a staged ply; reservations returned to their queues (05 R97, R99, R109 to R113, R120, R128, R134; 07 R181). -/
namespace Sys2Proof.Machine

/-- n reserved slots go back to queue q (05 R127). -/
def returnSlots (s : State) (q n : Nat) : State :=
  if n = 0 then s else s.modQueue q fun x => { x with reserved := x.reserved - n }

/-- The slots that the elements of ply q of core k still hold go back (07 R181). -/
def releaseElems (s : State) (k q : Nat) : State :=
  (s.ply k q).elems.foldl (fun s (_, e) => returnSlots s e.rv.queue e.rv.count) s

/-- An engine command sent by ply q of core k. -/
def EngCmd.of (c : EngCmd) (k q : Nat) : Bool := decide (c.core = k) && decide (c.ply = q) && decide (c.elem < 64)

/-- The target of a handler-table entry (05 R111): ply, element and channel. -/
def handlerTarget (w : Word) : Nat × Nat × Nat := (bits w 10 2, bits w 4 3 + 8 * bits w 7 3, bits w 0 2)

/-- Kind of a message (05 R109). -/
def msgKind (m : Wide) : Nat := bits m 124 4
/-- Handler index of a message (05 R109). -/
def msgIndex (m : Wide) : Nat := bits m 112 8
/-- Continuation of a message (05 R109). -/
def msgCont (m : Wide) : Nat := bits m 64 48
/-- Operand of a message (05 R109). -/
def msgOperand (m : Wide) : Nat := bits m 0 64

/-- A message that a handler entry takes now: its ply is ACTIVE and does not drain (05 R112, R118). -/
def entryOpen (s : State) (k : Nat) (w : Word) : Bool :=
  decide ((s.ply k (handlerTarget w).1).st = .active) && !(s.ply k (handlerTarget w).1).draining && !(s.ply k (handlerTarget w).1).frozen

/-- The entry by which a parked message is delivered now: the valid one that it found on arrival, else the one that a PORT.BIND has made valid since; its ply takes messages (05 R112, R113). -/
def parkedEntry (s : State) (k : Nat) (m : PortMsg) : Option Word :=
  (m.entry.orElse fun _ => Tab.find (s.core k).port.handlers (msgIndex m.msg)).filter (entryOpen s k)

/-- A message takes its place in the order of arrival (05 R111, R112). -/
def insertMsg (m : PortMsg) : List PortMsg → List PortMsg
  | [] => [m]
  | x :: l => if m.no < x.no then m :: x :: l else x :: insertMsg m l

/-- The parked messages of core k whose entry takes them now go to those that wait for delivery, each at its place in the order of arrival (05 R111, R112). -/
def releaseParked (s : State) (k : Nat) : State :=
  s.modPort k fun p =>
    { p with
      unbound := p.unbound.filter fun m => (parkedEntry s k m).isNone
      inbox := (p.unbound.filterMap fun m => (parkedEntry s k m).map fun w => { m with entry := some w }).foldl (fun l m => insertMsg m l) p.inbox }

/-- A load under way reads an entry of the configuration cache (05 R116, R134). -/
def Fabric.reads (f : Fabric) (x : CfgImage) : Bool := f.plies.any fun p => decide (p.2.st = .loading) && !p.2.byInstr && decide (p.2.image = x.addr)

/-- Images whose removal awaits the end of a read leave the configuration cache once no load reads them (05 R134). -/
def Fabric.sweep (f : Fabric) : Fabric := { f with cfg := f.cfg.filter fun x => !x.doomed || f.reads x }

/-- A load has filled ply q of core k (05 R97, R134). -/
def fillPly (s : State) (k q : Nat) (g : Ply) : State := s.modFab k fun f => (f.modPly q fun _ => g).sweep

/-- Everything of ply q leaves the fabric of core k: tokens, flights, grants, requests, stream and engine commands that wait; where a context was bound to it, that context's tokens at the selection port too (05 R99, R117, R120; 12 R267; 17 R322). -/
def clearPly (c : CoreSt) (k q : Nat) : CoreSt :=
  let f : Fabric := c.fab
  let f : Fabric := { f with
    plies := Tab.set f.plies q {}
    chans := f.chans.map fun (i, h) => (i, { toks := h.toks.filter (·.ply ≠ q), grants := h.grants.filter fun g => decide (g.prod ≠ q) && decide (g.prod ≠ 8 + q) })
    flights := f.flights.filter (·.tok.ply ≠ q)
    reqs := f.reqs.map fun (i, l) => (i, l.filter (·.ply ≠ q))
    park := f.park.filter (·.ply ≠ q)
    pushes := f.pushes.filter fun x => !(decide (x.ply = q) && x.isGrant)
    selq := f.selq.filter fun x => decide ((c.ctx x.2).bound ≠ some q) }
  { c with
    fab := f.sweep
    streams := c.streams.map fun (i, p) =>
      (i, { p with
        armed := p.armed.filter (·.2 ≠ q)
        queue := p.queue.filter (·.ply ≠ q)
        run := p.run.filter (·.cmd.ply ≠ q)
        faulted := p.faulted && !(p.run.any (·.cmd.ply = q))
        toks := p.toks.filter (·.ply ≠ q)
        lines := if p.run.any (·.cmd.ply = q) then [] else p.lines
        due := if p.run.any (·.cmd.ply = q) then [] else p.due
        reached := if p.run.any (·.cmd.ply = q) then none else p.reached
        builds := if p.run.any (·.cmd.ply = q) then [] else p.builds })
    engines := c.engines.map fun (i, e) => (i, { e with queue := e.queue.filter (fun x => !(x.of k q)), held := e.held.filter (fun x => !(x.of k q)), toks := e.toks.filter (·.ply ≠ q), cur := e.cur.map fun x => if x.of k q then { x with gone := true } else x })
    port := { c.port with half := Tab.drop c.port.half q, rays := c.port.rays.filter fun (i, _) => decide (i / 128 ≠ q)
                          second := c.port.second.filter (fun x => decide (x.2.ply ≠ q))
                          secondOf := if c.port.second.any (fun x => decide (x.2.ply = q)) then none else c.port.secondOf }
    ctxs := c.ctxs.map fun (i, x) => (i, if x.bound = some q then { x with bound := none } else x) }

/-- Ply q of core k becomes FREE (05 R97, R99). -/
def freePly (s : State) (k q : Nat) : State := (releaseElems s k q).modCore k fun c => clearPly c k q

/-- The drain of ply q of core k is called off: its markers are dropped, its sources resume, and the messages parked for it are released (05 R112, R120). -/
def undrain (s : State) (k q : Nat) : State :=
  let keep (t : Token) : Bool := !(decide (t.ply = q) && decide (t.mark = .drain))
  releaseParked (s.modCore k fun c =>
    { c with
      fab := { (c.fab.modPly q fun p => { p with draining := false, forwarded := [] }) with
        chans := c.fab.chans.map fun (i, h) => (i, { h with toks := h.toks.filter keep })
        flights := c.fab.flights.filter fun f => keep f.tok }
      streams := c.streams.map fun (i, p) => (i, { p with toks := p.toks.filter keep }) }) k

/-- The selection latched for a context is called off: its STAGED ply becomes FREE and the old configuration runs on (05 R120). -/
def discardStaged (s : State) (k n : Nat) : State :=
  match (s.ctx k n).latch with
  | none => s
  | some l =>
    let s := freePly s k l.ply
    let s := match (s.ctx k n).bound with
      | some q => undrain s k q
      | none => s
    s.modCtx k n fun c => { c with latch := none, hold := false }

/-- A context enters OFF: its registers are kept and its reservation goes back to its queue (01 R24, 05 R128). -/
def stopContext (s : State) (k n : Nat) : State :=
  let r := (s.ctx k n).rsv
  (returnSlots s r.queue r.count).modCtx k n fun c => { c with run := .off, await := none, hold := false, going := none, pre := [], stopping := false, rsv := {} }

/-- A stop command acts once the instruction that the context has issued is over (24 R421). -/
def takeStop (s : State) (k n : Nat) : State :=
  let c := s.ctx k n
  if c.stopping && !c.hold && c.going.isNone then stopContext s k n else s

end Sys2Proof.Machine
end

