-- ==== Sys2Proof/Machine/Ops.lean ====
section
/-! DEFINITION. What every sequencer meaning ends through: retiring, taking a trap, returning from one, waiting (01 R22, R27 to R30; 21 R377). -/
namespace Sys2Proof.Machine

/-- What a trap is taken with (01 R29): cause code, EXT, TVAL, the parcel's address and PSZ, FETCH, and the completed units of a restartable instruction. -/
structure TrapArg where
  code : Nat
  ext : Bool := false
  val : Word := 0
  at_ : Word := 0
  psz : Nat := 2
  fetch : Bool := false
  done : Option Nat := none
  deriving DecidableEq, Repr, Inhabited

/-- TSTAT.TIN of a context (01 R19). -/
def Ctx.tin (c : Ctx) : Bool := bit c.tr.tstat 0

/-- TSTAT as trap entry writes it (01 R19, R29). -/
def tstatOf (c : Ctx) (t : TrapArg) : Word :=
  w64 (c.dict.gen.toNat * 2 ^ 32 + (t.done.getD 0) * 2 ^ 15 + b2n t.done.isSome * 2 ^ 14 + b2n t.fetch * 2 ^ 13 + t.psz * 2 ^ 10 + b2n c.priv * 2 ^ 8 + 1)

/-- A context after trap entry with TIN clear (01 R29). -/
def Ctx.trapped (c : Ctx) (t : TrapArg) : Ctx :=
  { c with
    tr := { c.tr with epc := t.at_, cause := w64 (t.code + b2n t.ext * 128), tval := t.val, tstat := tstatOf c t }
    priv := true
    pc := pcOf c.tr.tvec
    run := .run
    await := none
    going := none
    hold := false }

/-- The record of a double trap (01 R29, 21 R374). -/
def doubleTrap (s : State) (k n : Nat) (t : TrapArg) : State :=
  let c := s.ctx k n
  (faultRecord s
    { part := s.partOf k, src := 0, ctx := n, cls := 6, cause := 0x70, tval := t.val.toNat, place := placeOf k
      ply := c.bound.getD 0, rcb := (c.region.map (·.rcb.toNat)).getD 0, detail := t.at_.toNat, dlc := (s.die (dieOf k)).dlc, cause2 := t.code }).1

/-- TAKING A TRAP, the one operation (01 R29): with TIN set the context stops and a DOUBLE_TRAP record is sent; otherwise EPC, CAUSE, TVAL and TSTAT are written, the mode becomes supervisor and the PC goes to TVEC. A latched selection is discarded (05 R120). -/
def enterTrap (s : State) (k n : Nat) (t : TrapArg) : State :=
  if (s.ctx k n).tin then doubleTrap (stopContext (discardStaged s k n) k n) k n t
  else (discardStaged s k n).modCtx k n fun c => c.trapped t

/-- A pending external trap is taken once TIN is 0 (21 R377) (log 41). -/
def takePending (s : State) (k n : Nat) : State :=
  let c := s.ctx k n
  match c.ext with
  | some v =>
    if c.tin || c.going.isSome || decide (c.run = .off) then s
    else enterTrap (s.modCtx k n fun c => { c with ext := none }) k n { code := 3, ext := true, val := v, at_ := c.pc, psz := 3 }
  | none => s

/-- The acting instruction retires and the PC goes to pc; the resume count is used up (01 R30, 02 R32). -/
def retireTo (s : State) (pc : Word) : Out := .next (s.modMe fun c => { c with pc := pc, resume := none, going := none })

/-- The acting instruction retires. -/
def retire (s : State) : Out := retireTo s s.nextPc

/-- The acting instruction writes a register and retires. -/
def retireWith (s : State) (d : Reg) (v : Word) : Out := retire (s.setReg d v)

/-- The acting instruction traps with a cause code, a TVAL and, where it restarts, the units it completed (01 R27 to R30). -/
def trapDone (s : State) (code : Nat) (val : Word) (done : Option Nat) : Out :=
  .next (enterTrap (s.modMe fun c => { c with resume := none }) s.actor.core s.actor.ctx
    { code := code, val := val, at_ := s.actor.pc, psz := s.actor.psz, done := done })

/-- The acting instruction traps. -/
def trap (s : State) (code : Nat) (val : Word) : Out := trapDone s code val none

/-- The acting instruction enters WAIT without retiring (01 R22). -/
def waitFor (s : State) (a : Await) : Out := .next (s.modMe fun c => { c with run := .wait, await := some a })

/-- The acting instruction has issued and stays at its address until what it awaits is there (01 R25); it then goes on, and its guard is not tested again. -/
def State.stay (s : State) : State :=
  s.modMe fun c => { c with going := some { act := s.actor.act, psz := s.actor.psz, bits := s.actor.bits } }

/-- The end of an access: go on with its value, trap with its cause, or stay at the instruction while a host or a page lock is awaited. -/
def Mr.seq {α : Type} (r : Mr α) (f : α → State → Out) : Out :=
  match r with
  | .ok v s => f v s
  | .fault c t s => trap s c (w64 t)
  | .wait s => .next s.stay

/-- The acting context runs in user mode. -/
def State.user (s : State) : Bool := !s.me.priv

/-- Returning from a trap (01 R29): PC, mode and resume count come back, RST and TIN clear (log 41). -/
def Ctx.eret (c : Ctx) : Ctx :=
  let t := c.tr.tstat
  { c with
    pc := pcOf c.tr.epc
    priv := bit t 8
    resume := if bit t 14 then some (bits t 15 9) else none
    tr := { c.tr with tstat := setBit (setBit t 14 false) 0 false } }

/-- Bytes that the spec gives no value: free ones (log 14). -/
def freeBytes (s : State) (n : Nat) : List Byte × State := ((List.range n).map (Config.freeByte s.fresh), { s with fresh := s.fresh + 1 })

end Sys2Proof.Machine
end

