-- ==== Sys2Proof/Machine/Operands.lean ====
section
/-! DEFINITION. The operand forms of sequencer instructions: immediates, effective addresses, access sizes (02 R40 to R43, 04 R78). -/
namespace Sys2Proof.Machine

/-- imm32 as a 64-bit operand (02 R40). -/
def immOf : Ti → BitVec 32 → Word
  | .s, i => i.signExtend 64
  | .z, i => i.setWidth 64
  | .w2, i => i ++ i
  | .h4, i => let h : BitVec 16 := i.setWidth 16; h ++ h ++ h ++ h
  | .b8, i => let b : BitVec 8 := i.setWidth 8; b ++ b ++ b ++ b ++ b ++ b ++ b ++ b

/-- Bytes of an access (02 R41). -/
def szBytes : Sz → Nat
  | .b | .bu => 1
  | .h | .hu => 2
  | .w | .wu => 4
  | .d => 8

/-- A loaded value of size SZ as 64 bits (02 R41, 04 R78). -/
def extend (sz : Sz) (v : Nat) : Word :=
  match sz with
  | .b => (BitVec.ofNat 8 v).signExtend 64
  | .h => (BitVec.ofNat 16 v).signExtend 64
  | .w => (BitVec.ofNat 32 v).signExtend 64
  | _ => w64 v

/-- ea of a MEM instruction without index (02 R42). -/
def eaOf (base : Word) (off : BitVec 22) : Word := base + off.signExtend 64

/-- ea of LD, ST, LDQ and STQ (02 R42). -/
def eaIndexed (base index : Word) (off : BitVec 22) : Word := base + index + off.signExtend 64

/-- The target of a BR word (02 R43). -/
def targetOf (pc : Word) (off : BitVec 32) : Word := pcOf (pc + (off.signExtend 64 <<< 1))

end Sys2Proof.Machine
end

