-- ==== Sys2Proof/Machine/SeqMem.lean ====
section
/-! DEFINITION. Loads, stores, atomics, SPILL, FILL and the fences of the sequencer (04 R78 to R85; 01 R14). -/
namespace Sys2Proof.Machine

/-- What scope and order ask beyond the core binds other agents' views only, and changes nothing here (13, log 4). -/
def ordered (o : Out) (_sc : Scope) (_ord : Ord) : Out := o

/-- A release part at a scope wider than the agent itself (02 R41; 13 R290, R294). -/
def releases (sc : Scope) (ord : Ord) : Bool := (decide (ord = .rel) || decide (ord = .ar)) && decide (sc ≠ .el)

/-- A load of size SZ from unified memory into D (04 R78, R79), performed after the stores that its core issued (13 R293). -/
def load (s : State) (ea : Word) (sz : Sz) (d : Reg) : Out :=
  if ea.toNat % szBytes sz ≠ 0 then trap s 0x24 ea
  else (vread s s.actor.core ea.toNat (szBytes sz) .read s.user).seq fun bs s => retireWith (passStores s s.actor.core) d (extend sz (ofBytesLE bs))

/-- A store of size SZ to unified memory, with a release part where `rel` (04 R78, R79; 13 R293, R294). -/
def store (s : State) (ea : Word) (sz : Sz) (v : Word) (rel : Bool) : Out :=
  if ea.toNat % szBytes sz ≠ 0 then trap s 0x24 ea
  else (vstore s s.actor.core ea.toNat (bytesLE v.toNat (szBytes sz)) s.user rel).seq fun _ s => retire s

/-- The checks of R79 on an access of n bytes to local memory (01 R14): alignment, bounds, an uncorrectable error (log 80). -/
def localAt (s : State) (ea : Word) (n : Nat) (f : Nat → Out) : Out :=
  if ea.toNat % n ≠ 0 then trap s 0x24 ea
  else if 0x4000 ≤ ea.toNat then trap s 0x23 ea
  else if (List.range n).any fun i => Tab.look false (s.core s.actor.core).bad (ea.toNat + i) then trap s 0x2F ea
  else f ea.toNat

/-- The bytes of local memory of a core from address a on. -/
def localBytes (c : CoreSt) (a : Nat) : Nat → List Byte
  | 0 => []
  | n + 1 => Tab.look 0 c.local_ a :: localBytes c (a + 1) n

/-- A table of bytes with bytes written from a on. -/
def putBytes (t : Tab Byte) (a : Nat) : List Byte → Tab Byte
  | [] => t
  | b :: bs => putBytes (Tab.put 0 t a b) (a + 1) bs

/-- The little-endian value of n bytes of the acting core's local memory. -/
def localVal (s : State) (a n : Nat) : Nat := ofBytesLE (localBytes (s.core s.actor.core) a n)

/-- A write of n bytes to the acting core's local memory. -/
def setLocal (s : State) (a n v : Nat) : State :=
  s.modCore s.actor.core fun c => { c with local_ := putBytes c.local_ a (bytesLE v n) }

/-- Bits of an atomic operand (04 R80). -/
def szMask (sz : Sz) (v : Nat) : Nat := v % 2 ^ (8 * szBytes sz)

/-- An atomic update of unified memory; D takes the old value (04 R79 to R81), performed after the stores that its core issued (13 R293). -/
def atomic (s : State) (ea : Word) (sz : Sz) (d : Reg) (f : Sz → Nat → Option Nat) : Out :=
  if ea.toNat % szBytes sz ≠ 0 then trap s 0x24 ea
  else (vamo s s.actor.core ea.toNat (szBytes sz) s.user (f sz)).seq fun old s => retireWith (settleCore s s.actor.core) d (extend sz old)

/-- An atomic update of local memory; D takes the old value (04 R79 to R82). -/
def atomicLoc (s : State) (ea : Word) (sz : Sz) (d : Reg) (f : Sz → Nat → Option Nat) : Out :=
  localAt s ea (szBytes sz) fun a =>
    let old := localVal s a (szBytes sz)
    let s' := match f sz old with
      | some v => setLocal s a (szBytes sz) v
      | none => s
    retireWith s' d (extend sz old)

/-- f(old, o) of AMO.add (04 R80). -/
def amoAdd (o : Word) (sz : Sz) (old : Nat) : Option Nat := some (szMask sz (old + o.toNat))
/-- f(old, o) of AMO.and (04 R80). -/
def amoAnd (o : Word) (sz : Sz) (old : Nat) : Option Nat := some (szMask sz (old &&& o.toNat))
/-- f(old, o) of AMO.or (04 R80). -/
def amoOr (o : Word) (sz : Sz) (old : Nat) : Option Nat := some (szMask sz (old ||| o.toNat))
/-- f(old, o) of AMO.xor (04 R80). -/
def amoXor (o : Word) (sz : Sz) (old : Nat) : Option Nat := some (szMask sz (old ^^^ o.toNat))
/-- f(old, o) of AMO.min (04 R80). -/
def amoMin (o : Word) (sz : Sz) (old : Nat) : Option Nat :=
  some (if sextN (szMask sz o.toNat) (8 * szBytes sz) < sextN old (8 * szBytes sz) then szMask sz o.toNat else old)
/-- f(old, o) of AMO.max (04 R80). -/
def amoMax (o : Word) (sz : Sz) (old : Nat) : Option Nat :=
  some (if sextN old (8 * szBytes sz) < sextN (szMask sz o.toNat) (8 * szBytes sz) then szMask sz o.toNat else old)
/-- f(old, o) of AMO.minu (04 R80). -/
def amoMinu (o : Word) (sz : Sz) (old : Nat) : Option Nat := some (if szMask sz o.toNat < old then szMask sz o.toNat else old)
/-- f(old, o) of AMO.maxu (04 R80). -/
def amoMaxu (o : Word) (sz : Sz) (old : Nat) : Option Nat := some (if old < szMask sz o.toNat then szMask sz o.toNat else old)
/-- f(old, o) of AMO.swap (04 R80). -/
def amoSwap (o : Word) (sz : Sz) (_old : Nat) : Option Nat := some (szMask sz o.toNat)
/-- CAS: the new value where the old one is the one expected, else no write (04 R81). -/
def casWith (expected new : Word) (sz : Sz) (old : Nat) : Option Nat :=
  if old = szMask sz expected.toNat then some (szMask sz new.toNat) else none

/-- The predicates as SPILL writes them: p7 to p0, p0 as 1 (04 R83). -/
def Ctx.predByte (c : Ctx) : Nat := (c.p ||| 1).toNat

/-- One unit of SPILL: register r to its slot at a (04 R83). -/
def spillUnit (s : State) (r a : Nat) : Mr Unit :=
  let v := if r = 0 then s.me.predByte else (Tab.look 0 s.me.x r).toNat
  vstore s s.actor.core a (bytesLE v 8) s.user false

/-- One unit of FILL: register r from its slot at a; the slot of x0 gives p1 to p7 (04 R83). -/
def fillUnit (s : State) (r a : Nat) : Mr Unit :=
  (vread s s.actor.core a 8 .read s.user).andThen fun bs s =>
    let v := ofBytesLE bs
    .ok () ((passStores s s.actor.core).modMe fun c => if r = 0 then { c with p := BitVec.ofNat 8 v ||| 1 } else { c with x := Tab.put 0 c.x r (w64 v) })

/-- n units from unit k on, register f + k at ea + 8k; a fault on unit k traps with done = k (04 R83, 01 R29) (log 61). -/
def units (ea f : Nat) (unit : State → Nat → Nat → Mr Unit) : Nat → Nat → State → Out
  | 0, _, s => retire s
  | n + 1, k, s =>
    match unit s (f + k) (ea + 8 * k) with
    | .ok _ s => units ea f unit n (k + 1) s
    | .fault c t s => trapDone s c (w64 t) (some k)
    | .wait s => .next (s.modMe fun c => { c with resume := some k }).stay

/-- SPILL or FILL from its resume count on, its release part before the first unit of the attempt (04 R83, 01 R30; 13 R294) (log 61). -/
def saveRun (s : State) (ea : Word) (first last : Reg) (rel : Bool) (unit : State → Nat → Nat → Mr Unit) : Out :=
  let k0 := s.me.resume.getD 0
  if ea.toNat % 8 ≠ 0 then trapDone s 0x24 ea (some 0)
  else units ea.toNat first.val unit (last.val - first.val + 1 - k0) k0 (if rel then settleCore s s.actor.core else s)

/-- The dictionary promotion of R58. -/
def Ctx.promote (c : Ctx) : Ctx :=
  if c.dict.pend then
    { c with dict := { c.dict with active := c.dict.staged, activeId := c.dict.stagedId, gen := c.dict.gen + 1, pend := false } }
  else c

/-- A configuration load on behalf of the acting context is under way (03 R59). -/
def loadingFor (s : State) : Bool :=
  (s.core s.actor.core).fab.plies.any fun (_, p) => decide (p.st = .loading) && decide (p.ctx = s.actor.ctx)

/-- LD: a load from unified memory (04 R78, R79). SC and ORD order it towards other agents only (log 4). -/
def execLd (d base index : Reg) (sz : Sz) (sc : Scope) (ord : Ord) (off : BitVec 22) (s : State) : Out :=
  load s (eaIndexed (s.reg base) (s.reg index) off) sz d |> fun o => ordered o sc ord

/-- LD.loc: a load from local memory (04 R78, R79; 01 R14). -/
def execLdLoc (d base index : Reg) (sz : Sz) (off : BitVec 22) (s : State) : Out :=
  localAt s (eaIndexed (s.reg base) (s.reg index) off) (szBytes sz) fun a => retireWith s d (extend sz (localVal s a (szBytes sz)))

/-- ST: a store to unified memory (04 R78, R79); a release part performs the core's older stores first (13 R294) (log 4). -/
def execSt (d base index : Reg) (sz : Sz) (sc : Scope) (ord : Ord) (off : BitVec 22) (s : State) : Out :=
  store s (eaIndexed (s.reg base) (s.reg index) off) sz (s.reg d) (releases sc ord)

/-- ST.loc: a store to local memory (04 R78, R79) (log 80). -/
def execStLoc (d base index : Reg) (sz : Sz) (off : BitVec 22) (s : State) : Out :=
  localAt s (eaIndexed (s.reg base) (s.reg index) off) (szBytes sz) fun a => retire (setLocal s a (szBytes sz) (s.reg d).toNat)

/-- AMO.add in unified memory (04 R80). -/
def execAmoAdd (d base index : Reg) (sz : Sz) (sc : Scope) (ord : Ord) (off : BitVec 22) (s : State) : Out :=
  atomic s (eaOf (s.reg base) off) sz d (amoAdd (s.reg index)) |> fun r => ordered r sc ord

/-- AMO.and in unified memory (04 R80). -/
def execAmoAnd (d base index : Reg) (sz : Sz) (sc : Scope) (ord : Ord) (off : BitVec 22) (s : State) : Out :=
  atomic s (eaOf (s.reg base) off) sz d (amoAnd (s.reg index)) |> fun r => ordered r sc ord

/-- AMO.or in unified memory (04 R80). -/
def execAmoOr (d base index : Reg) (sz : Sz) (sc : Scope) (ord : Ord) (off : BitVec 22) (s : State) : Out :=
  atomic s (eaOf (s.reg base) off) sz d (amoOr (s.reg index)) |> fun r => ordered r sc ord

/-- AMO.xor in unified memory (04 R80). -/
def execAmoXor (d base index : Reg) (sz : Sz) (sc : Scope) (ord : Ord) (off : BitVec 22) (s : State) : Out :=
  atomic s (eaOf (s.reg base) off) sz d (amoXor (s.reg index)) |> fun r => ordered r sc ord

/-- AMO.min in unified memory (04 R80). -/
def execAmoMin (d base index : Reg) (sz : Sz) (sc : Scope) (ord : Ord) (off : BitVec 22) (s : State) : Out :=
  atomic s (eaOf (s.reg base) off) sz d (amoMin (s.reg index)) |> fun r => ordered r sc ord

/-- AMO.max in unified memory (04 R80). -/
def execAmoMax (d base index : Reg) (sz : Sz) (sc : Scope) (ord : Ord) (off : BitVec 22) (s : State) : Out :=
  atomic s (eaOf (s.reg base) off) sz d (amoMax (s.reg index)) |> fun r => ordered r sc ord

/-- AMO.minu in unified memory (04 R80). -/
def execAmoMinu (d base index : Reg) (sz : Sz) (sc : Scope) (ord : Ord) (off : BitVec 22) (s : State) : Out :=
  atomic s (eaOf (s.reg base) off) sz d (amoMinu (s.reg index)) |> fun r => ordered r sc ord

/-- AMO.maxu in unified memory (04 R80). -/
def execAmoMaxu (d base index : Reg) (sz : Sz) (sc : Scope) (ord : Ord) (off : BitVec 22) (s : State) : Out :=
  atomic s (eaOf (s.reg base) off) sz d (amoMaxu (s.reg index)) |> fun r => ordered r sc ord

/-- AMO.swap in unified memory (04 R80). -/
def execAmoSwap (d base index : Reg) (sz : Sz) (sc : Scope) (ord : Ord) (off : BitVec 22) (s : State) : Out :=
  atomic s (eaOf (s.reg base) off) sz d (amoSwap (s.reg index)) |> fun r => ordered r sc ord

/-- AMO.loc.add in local memory (04 R80). -/
def execAmoLocAdd (d base index : Reg) (sz : Sz) (off : BitVec 22) (s : State) : Out :=
  atomicLoc s (eaOf (s.reg base) off) sz d (amoAdd (s.reg index))

/-- AMO.loc.and in local memory (04 R80). -/
def execAmoLocAnd (d base index : Reg) (sz : Sz) (off : BitVec 22) (s : State) : Out :=
  atomicLoc s (eaOf (s.reg base) off) sz d (amoAnd (s.reg index))

/-- AMO.loc.or in local memory (04 R80). -/
def execAmoLocOr (d base index : Reg) (sz : Sz) (off : BitVec 22) (s : State) : Out :=
  atomicLoc s (eaOf (s.reg base) off) sz d (amoOr (s.reg index))

/-- AMO.loc.xor in local memory (04 R80). -/
def execAmoLocXor (d base index : Reg) (sz : Sz) (off : BitVec 22) (s : State) : Out :=
  atomicLoc s (eaOf (s.reg base) off) sz d (amoXor (s.reg index))

/-- AMO.loc.min in local memory (04 R80). -/
def execAmoLocMin (d base index : Reg) (sz : Sz) (off : BitVec 22) (s : State) : Out :=
  atomicLoc s (eaOf (s.reg base) off) sz d (amoMin (s.reg index))

/-- AMO.loc.max in local memory (04 R80). -/
def execAmoLocMax (d base index : Reg) (sz : Sz) (off : BitVec 22) (s : State) : Out :=
  atomicLoc s (eaOf (s.reg base) off) sz d (amoMax (s.reg index))

/-- AMO.loc.minu in local memory (04 R80). -/
def execAmoLocMinu (d base index : Reg) (sz : Sz) (off : BitVec 22) (s : State) : Out :=
  atomicLoc s (eaOf (s.reg base) off) sz d (amoMinu (s.reg index))

/-- AMO.loc.maxu in local memory (04 R80). -/
def execAmoLocMaxu (d base index : Reg) (sz : Sz) (off : BitVec 22) (s : State) : Out :=
  atomicLoc s (eaOf (s.reg base) off) sz d (amoMaxu (s.reg index))

/-- AMO.loc.swap in local memory (04 R80). -/
def execAmoLocSwap (d base index : Reg) (sz : Sz) (off : BitVec 22) (s : State) : Out :=
  atomicLoc s (eaOf (s.reg base) off) sz d (amoSwap (s.reg index))

/-- CAS in unified memory (04 R81). -/
def execCas (d base index : Reg) (sz : Sz) (sc : Scope) (ord : Ord) (off : BitVec 22) (s : State) : Out :=
  atomic s (eaOf (s.reg base) off) sz d (casWith (s.reg d) (s.reg index)) |> fun r => ordered r sc ord

/-- CAS.loc in local memory (04 R81). -/
def execCasLoc (d base index : Reg) (sz : Sz) (off : BitVec 22) (s : State) : Out :=
  atomicLoc s (eaOf (s.reg base) off) sz d (casWith (s.reg d) (s.reg index))

/-- SPILL: registers first to last to memory, restartable (04 R83). -/
def execSpill (first last base : Reg) (sc : Scope) (ord : Ord) (off : BitVec 22) (s : State) : Out :=
  saveRun s (eaOf (s.reg base) off) first last (releases sc ord) spillUnit

/-- FILL: registers first to last from memory, restartable (04 R83). -/
def execFill (first last base : Reg) (sc : Scope) (ord : Ord) (off : BitVec 22) (s : State) : Out :=
  saveRun s (eaOf (s.reg base) off) first last (releases sc ord) fillUnit

/-- FENCE: with a release part the stores that the core has issued are performed; its other orderings are in force at once (04 R84; 13 R294) (log 4). -/
def execFence (sc : Scope) (ord : Ord) (s : State) : Out := 
  retire (if releases sc ord then settleCore s s.actor.core else s)

/-- FENCE.F: promotes a pending dictionary commit, held while a load for the context is under way, and discards the parcels that the context has prefetched (03 R58, R59; 04 R85). -/
def execFenceF (s : State) : Out :=
  if s.me.dict.pend && loadingFor s then .next s.stay else retire (s.modMe fun c => { c.promote with pre := [] })

end Sys2Proof.Machine
end

