-- ==== Sys2Proof/Machine/Dictionary.lean ====
section
/-! DEFINITION. Decode dictionaries: entries, the expansion of short parcels, and the dictionary instructions (03 R52 to R64). -/
namespace Sys2Proof.Machine

/-- VALID of an entry (03 R54). -/
def DictEntry.valid (e : DictEntry) : Bool := bit e.desc 31
/-- LONG of an entry (03 R54). -/
def DictEntry.long (e : DictEntry) : Bool := bit e.desc 30
/-- The holes of an entry, hole 0 first: start and width (03 R54). -/
def DictEntry.holes (e : DictEntry) : List (Nat × Nat) :=
  [(bits e.desc 24 6, bits e.desc 20 4), (bits e.desc 14 6, bits e.desc 10 4), (bits e.desc 4 6, bits e.desc 0 4)]
/-- The widths of an entry's holes together. -/
def DictEntry.width (e : DictEntry) : Nat := (e.holes.map Prod.snd).sum

/-- Two holes share no template bit. -/
def apart (a b : Nat × Nat) : Bool := decide (a.2 = 0) || decide (b.2 = 0) || decide (a.1 + a.2 ≤ b.1) || decide (b.1 + b.2 ≤ a.1)

/-- The checks of R55 on a valid entry; `tail` is bytes 12 to 15. -/
def DictEntry.wellFormed (e : DictEntry) (tail : Nat) : Bool :=
  decide (bits e.template 62 2 = 2) &&
  e.holes.all (fun h => if h.2 = 0 then decide (h.1 = 0) else decide (h.1 + h.2 - 1 < 62) && decide (bits e.template h.1 h.2 = 0)) &&
  (match e.holes with
   | [a, b, c] => apart a b && apart a c && apart b c
   | _ => true) &&
  decide (e.width ≤ 22) && decide (tail = 0)

/-- Filling the holes of a template from the fill's bits (03 R56). -/
def fillHoles (fill : Nat) : List (Nat × Nat) → Nat → Word → Word
  | [], _, w => w
  | (st, n) :: hs, pos, w => if n = 0 then fillHoles fill hs pos w else fillHoles fill hs (pos + n) (place w st n (nbits fill pos n))

/-- What expanding a short parcel answers: the canonical word, or the code of DICT_UNDEFINED or DICT_SHORT_FILL. -/
inductive Expanded
  | word (w : Word)
  | bad (code : Nat)
  deriving DecidableEq, Repr

/-- expand(parcel, bank) of R56 for an entry, its fill, and whether the parcel is an S16. -/
def expand (bank : Tab DictEntry) (short : Bool) (entry fill : Nat) : Expanded :=
  let e := Tab.look {} bank entry
  if !e.valid then .bad 0x06
  else if short && e.long then .bad 0x07
  else if (if short then 8 else 22) < e.width then .bad 0x07
  else .word (fillHoles fill e.holes 0 e.template)

/-- Expanding an S16 parcel (02 R31). -/
def expandS16 (bank : Tab DictEntry) (p : Nat) : Expanded := expand bank true (nbits p 8 6) (nbits p 0 8)
/-- Expanding an S32 parcel (02 R31). -/
def expandS32 (bank : Tab DictEntry) (p : Nat) : Expanded := expand bank false (nbits p 22 8) (nbits p 0 22)

/-- A canonical word from its eight bytes: four little-endian halfwords, the most significant first (02 R32). -/
def wordOfBytes (bs : List Byte) : Word :=
  let h (i : Nat) : Nat := ofBytesLE ((bs.drop (2 * i)).take 2)
  w64 (h 0 * 2 ^ 48 + h 1 * 2 ^ 32 + h 2 * 2 ^ 16 + h 3)

/-- The bytes of a canonical word in memory (02 R32). -/
def bytesOfWord (w : Word) : List Byte := [48, 32, 16, 0].flatMap fun lo => bytesLE (bits w lo 16) 2

/-- An entry from its 16 bytes (03 R53); one with no valid bit reads as zeros (R55). -/
def entryOf (bs : List Byte) : DictEntry :=
  let e : DictEntry := { template := wordOfBytes (bs.take 8), desc := BitVec.ofNat 32 (ofBytesLE ((bs.drop 8).take 4)) }
  if e.valid then e else {}

/-- n entries from entry k on, read at ea + 16k into the staged bank; a fault on one of them leaves COMPLETE at 0 (03 R61) (log 11). -/
def dictUnits (ea : Nat) : Nat → Nat → State → Out
  | 0, _, s => retire (s.modMe fun c => { c with dict := { c.dict with complete := true } })
  | n + 1, k, s =>
    match vread s s.actor.core (ea + 16 * k) 16 .read s.user with
    | .fault c t s => trapDone (s.modMe fun c => { c with dict := { c.dict with complete := false } }) c (w64 t) (some k)
    | .wait s => .next (s.modMe fun c => { c with resume := some k }).stay
    | .ok bs s =>
      let s := passStores s s.actor.core
      let e := entryOf bs
      if e.valid && !(e.wellFormed (ofBytesLE (bs.drop 12))) then trapDone (s.modMe fun c => { c with dict := { c.dict with complete := false } }) 0x0B (w64 (ea + 16 * k)) (some k)
      else dictUnits ea n (k + 1) (s.modMe fun c => { c with dict := { c.dict with staged := Tab.put {} c.dict.staged k e } })

/-- DICT.LD: a dictionary image into the staged bank, restartable by entries (03 R61); one that starts at unit 0 clears PEND (R59) (log 11). -/
def execDictLd (d base : Reg) (off : BitVec 22) (s : State) : Out :=
  let ea := eaOf (s.reg base) off
  if ea.toNat % 16 ≠ 0 then trapDone s 0x24 ea (some 0)
  else
    match s.me.resume with
    | some k => dictUnits ea.toNat (256 - k) k (if k = 0 then s.modMe fun c => { c with dict := { c.dict with pend := false, complete := false } } else s)
    | none =>
      dictUnits ea.toNat 256 0 (s.modMe fun c =>
        { c with dict := { c.dict with staged := [], pend := false, complete := false, stagedId := (s.reg d).setWidth 32 } })

/-- DICT.COMMIT: marks a commit; DICT_FORMAT where no image is complete (03 R62). -/
def execDictCommit (s : State) : Out :=
  if s.me.dict.complete then retire (s.modMe fun c => { c with dict := { c.dict with pend := true } }) else trap s 0x0B 0

/-- DICT.RD: the template or the descriptor of an entry of a bank (03 R64). -/
def execDictRd (d a : Reg) (stg h : Bool) (s : State) : Out :=
  let e := Tab.look {} (if stg then s.me.dict.staged else s.me.dict.active) ((s.reg a).toNat % 256)
  retireWith s d (if h then e.desc.setWidth 64 else e.template)

/-- DICT.GEN with SEL = 0 (03 R63). -/
def dictStat (c : Dict) : Word := w64 (b2n c.complete * 2 ^ 33 + b2n c.pend * 2 ^ 32 + c.gen.toNat)
/-- DICT.GEN with SEL = 1 (03 R63). -/
def dictIds (c : Dict) : Word := c.stagedId ++ c.activeId

/-- DICT.GEN: status and generation (03 R63). -/
def execDictGen (d : Reg) (s : State) : Out := retireWith s d (dictStat s.me.dict)

/-- DICT.GEN.id: the identities of the banks (03 R63). -/
def execDictGenId (d : Reg) (s : State) : Out := retireWith s d (dictIds s.me.dict)

end Sys2Proof.Machine
end

