-- ==== Sys2Proof/Machine/ElemClass.lean ====
section
/-! DEFINITION. What the fabric must know of an element action before it fires: which READY condition it has, the sources it reads (05 R101; 07 R170 to R181; 12 R278; 17 R326). -/
namespace Sys2Proof.Machine

/-- The READY condition of an action (05 R101; 07 R170 to R180; 12 R278). -/
inductive Fires
  /-- All READY heads data, or all end tokens (R101, R170, R175). -/
  | uniform
  /-- The same, and a free request entry unless it is an end firing (R278). -/
  | request
  /-- READY heads of any kind. -/
  | plain
  /-- The heads of R172. -/
  | merge (di ti fi : Nat)
  /-- The heads of R173. -/
  | mergeu (ai bi : Nat)
  /-- The heads of R174. -/
  | permit (ci di : Nat)
  /-- Once in a round, with room at its result input (R179). -/
  | red (ri g : Nat)
  /-- Two free slots at e3 (R180). -/
  | send
  /-- A free entry at an engine port (R322). -/
  | engine
  deriving DecidableEq, Repr

/-- The READY condition of an instruction; an instruction that no element runs counts as plain. -/
def firesOf (i : Instr) : Fires :=
  match i with
  | .vadd _ _ _ _ | .vsub _ _ _ _ | .vadds _ _ _ _ | .vsubs _ _ _ _ | .vmul _ _ _ _ | .vmulh _ _ _ _
  | .vmad _ _ _ _ _ | .vabs _ _ _ | .vneg _ _ _ | .vmin _ _ _ _ | .vmax _ _ _ _ | .vand _ _ _
  | .vor _ _ _ | .vxor _ _ _ | .vandn _ _ _ | .vnot _ _ | .vshl _ _ _ _ | .vshr _ _ _ _
  | .vsra _ _ _ _ | .vpopc _ _ _ | .vclz _ _ _ | .vcmpEq _ _ _ _ _ | .vcmpNe _ _ _ _ _ | .vcmpLt _ _ _ _ _
  | .vcmpLe _ _ _ _ _ | .vcmpGt _ _ _ _ _ | .vcmpGe _ _ _ _ _ | .vsel _ _ _ _ | .vperm _ _ _ _ | .vpack _ _ _ _
  | .vunpk _ _ _ | .fadd _ _ _ _ _ | .fsub _ _ _ _ _ | .fmul _ _ _ _ _ | .ffma _ _ _ _ _ _ | .fmin _ _ _ _
  | .fmax _ _ _ _ | .fabs _ _ _ | .fneg _ _ _ | .fcmpEq _ _ _ _ _ | .fcmpNe _ _ _ _ _ | .fcmpLt _ _ _ _ _
  | .fcmpLe _ _ _ _ _ | .fcmpGt _ _ _ _ _ | .fcmpGe _ _ _ _ _ | .fcmpUn _ _ _ _ _ | .fclass _ _ _ | .fdiv _ _ _ _ _
  | .fsqrt _ _ _ _ | .frcp _ _ _ _ | .frsq _ _ _ _ | .fexp2 _ _ _ _ | .flog2 _ _ _ _ | .cvt _ _ _ _ _ _
  | .crsub _ _ _ _ _ | .dot _ _ _ _ _ _ | .mov _ _ | .const _ _ _ | .tagi _ _ _ _ | .steer _ _ _
  | .gate _ _ _ | .vbmin _ _ _ | .tsLd _ _ _ | .tsSt _ _ _ | .tsBlend _ _ _ | .tsDone _ _ => .uniform
  | .ldq _ _ _ _ _ _ _ | .stq _ _ _ _ _ _ _ | .amoqAdd _ _ _ _ _ _ _ | .amoqAnd _ _ _ _ _ _ _ | .amoqOr _ _ _ _ _ _ _ | .amoqXor _ _ _ _ _ _ _
  | .amoqMin _ _ _ _ _ _ _ | .amoqMax _ _ _ _ _ _ _ | .amoqMinu _ _ _ _ _ _ _ | .amoqMaxu _ _ _ _ _ _ _ | .amoqSwap _ _ _ _ _ _ _ | .xlate _ _ _ _
  | .occl _ _ _ => .request
  | .merge _ di ti fi => .merge di.val ti.val fi.val
  | .mergeu _ _ _ ai bi => .mergeu ai.val bi.val
  | .permit _ ci di => .permit ci.val di.val
  | .redMin _ _ ri g => .red ri.val g.val
  | .redMax _ _ ri g => .red ri.val g.val
  | .redSum _ _ ri g => .red ri.val g.val
  | .send _ _ => .send
  | .cpy _ _ _ _ => .engine
  | .gath _ _ _ _ => .engine
  | .scat _ _ _ _ => .engine
  | .fillb _ _ _ _ => .engine
  | .coll _ _ _ _ => .engine
  | .pub _ => .engine
  | .pubDef _ _ _ _ => .engine
  | .pubDrop _ => .engine
  | .xfm _ _ _ _ => .engine
  | _ => .plain

/-- A d register as a source. -/
def dstSrc : EDst → List ESrc
  | .d n => [.d n]
  | .null => []

/-- The sources an action reads (02 R46); CVT and CRSUB also read D (07 R166, R167). -/
def readsOf (i : Instr) : List ESrc :=
  match i with
  | .vadd _ a b _ => [a, b]
  | .vsub _ a b _ => [a, b]
  | .vadds _ a b _ => [a, b]
  | .vsubs _ a b _ => [a, b]
  | .vmul _ a b _ => [a, b]
  | .vmulh _ a b _ => [a, b]
  | .vmad _ a b c _ => [a, b, c]
  | .vabs _ a _ => [a]
  | .vneg _ a _ => [a]
  | .vmin _ a b _ => [a, b]
  | .vmax _ a b _ => [a, b]
  | .vand _ a b => [a, b]
  | .vor _ a b => [a, b]
  | .vxor _ a b => [a, b]
  | .vandn _ a b => [a, b]
  | .vnot _ a => [a]
  | .vshl _ a b _ => [a, b]
  | .vshr _ a b _ => [a, b]
  | .vsra _ a b _ => [a, b]
  | .vpopc _ a _ => [a]
  | .vclz _ a _ => [a]
  | .vcmpEq _ a b _ _ => [a, b]
  | .vcmpNe _ a b _ _ => [a, b]
  | .vcmpLt _ a b _ _ => [a, b]
  | .vcmpLe _ a b _ _ => [a, b]
  | .vcmpGt _ a b _ _ => [a, b]
  | .vcmpGe _ a b _ _ => [a, b]
  | .vsel _ a b c => [a, b, c]
  | .vperm _ a b c => [a, b, c]
  | .vpack _ a b _ => [a, b]
  | .vunpk _ a _ => [a]
  | .fadd _ a b _ _ => [a, b]
  | .fsub _ a b _ _ => [a, b]
  | .fmul _ a b _ _ => [a, b]
  | .ffma _ a b c _ _ => [a, b, c]
  | .fmin _ a b _ => [a, b]
  | .fmax _ a b _ => [a, b]
  | .fabs _ a _ => [a]
  | .fneg _ a _ => [a]
  | .fcmpEq _ a b _ _ => [a, b]
  | .fcmpNe _ a b _ _ => [a, b]
  | .fcmpLt _ a b _ _ => [a, b]
  | .fcmpLe _ a b _ _ => [a, b]
  | .fcmpGt _ a b _ _ => [a, b]
  | .fcmpGe _ a b _ _ => [a, b]
  | .fcmpUn _ a b _ _ => [a, b]
  | .fclass _ a _ => [a]
  | .fdiv _ a b _ _ => [a, b]
  | .fsqrt _ a _ _ => [a]
  | .frcp _ a _ _ => [a]
  | .frsq _ a _ _ => [a]
  | .fexp2 _ a _ _ => [a]
  | .flog2 _ a _ _ => [a]
  | .cvt d a _ _ _ _ => dstSrc d ++ [a]
  | .crsub d a b _ _ => dstSrc d ++ [a, b]
  | .dot _ a b c _ _ => [a, b, c]
  | .mov _ a => [a]
  | .tagi _ a _ _ => [a]
  | .steer _ a o => a :: (match o.sel with | .reg b => [b] | .pred _ => [])
  | .gate _ a _ => [a]
  | .eos _ a _ => [a]
  | .sink _ a _ _ => [a]
  | .mark a => [a]
  | .redMin a _ _ _ => [a]
  | .redMax a _ _ _ => [a]
  | .redSum a _ _ _ => [a]
  | .send a b => [a, b]
  | .rsv _ a _ => [a]
  | .enq _ a b => [a, b]
  | .amplify _ a _ => [a]
  | .ldq _ base index _ _ _ _ => [base, index]
  | .stq d base index _ _ _ _ => [d, base, index]
  | .amoqAdd _ base index _ _ _ _ => [base, index]
  | .amoqAnd _ base index _ _ _ _ => [base, index]
  | .amoqOr _ base index _ _ _ _ => [base, index]
  | .amoqXor _ base index _ _ _ _ => [base, index]
  | .amoqMin _ base index _ _ _ _ => [base, index]
  | .amoqMax _ base index _ _ _ _ => [base, index]
  | .amoqMinu _ base index _ _ _ _ => [base, index]
  | .amoqMaxu _ base index _ _ _ _ => [base, index]
  | .amoqSwap _ base index _ _ _ _ => [base, index]
  | .xlate _ a b _ => [a, b]
  | .occl _ a b => [a, b]
  | .vbmin _ a b => [a, b]
  | .tsLd _ a _ => [a]
  | .tsSt a b _ => [a, b]
  | .tsBlend a b _ => [a, b]
  | .tsDone a b => [a, b]
  | .cpy a b c _ => [a, b, c]
  | .gath a b c _ => [a, b, c]
  | .scat a b c _ => [a, b, c]
  | .fillb a b c _ => [a, b, c]
  | .coll a b c _ => [a, b, c]
  | .pubDef a b c _ => [a, b, c]
  | .xfm a b c _ => [a, b, c]
  | _ => []

end Sys2Proof.Machine
end

