-- ==== Sys2Proof/Machine/Fabric.lean ====
section
/-! DEFINITION. The fabric of a core: channels and their slots, routes, far routes, which rule is eligible, and what every firing ends through (05 R95 to R108, R437; 12 R278). -/
namespace Sys2Proof.Machine

/-- The number of input channel ch of element e in the table of channels. -/
def chanKey (e ch : Nat) : Nat := e * 4 + ch

/-- An input channel. -/
def Fabric.chan (f : Fabric) (c : Nat) : Chan := Tab.look {} f.chans c
/-- A fabric with f applied to an input channel. -/
def Fabric.modChan (b : Fabric) (c : Nat) (f : Chan → Chan) : Fabric := { b with chans := Tab.set b.chans c (f (b.chan c)) }
/-- s with f applied to input channel c of core k. -/
def State.modChan (s : State) (k c : Nat) (f : Chan → Chan) : State := s.modFab k fun b => b.modChan c f
/-- s with f applied to the state of element e in ply q of core k. -/
def State.modElem (s : State) (k q e : Nat) (f : EPly → EPly) : State := s.modPly k q fun p => p.modElem e f
/-- The requests of an element. -/
def Fabric.reqsOf (f : Fabric) (e : Nat) : List Req := Tab.look [] f.reqs e
/-- s with f applied to the requests of element e of core k. -/
def State.modReqs (s : State) (k e : Nat) (f : List Req → List Req) : State :=
  s.modFab k fun b => { b with reqs := Tab.set b.reqs e (f (b.reqsOf e)) }

/-- READY of a trigger word (05 R100). -/
def trigReady (t : BitVec 32) : Nat := bits t 28 4
/-- SPACE of a trigger word. -/
def trigSpace (t : BitVec 32) : Nat := bits t 24 4
/-- CARE of a trigger word. -/
def trigCare (t : BitVec 32) : Nat := bits t 16 8
/-- VAL of a trigger word. -/
def trigVal (t : BitVec 32) : Nat := bits t 8 8
/-- POP of a trigger word. -/
def trigPop (t : BitVec 32) : Nat := bits t 4 4
/-- EMIT of a trigger word. -/
def trigEmit (t : BitVec 32) : Nat := bits t 0 4
/-- The numbers of the set bits of a mask of n bits, ascending. -/
def maskBits (n m : Nat) : List Nat := (List.range n).filter fun i => m.testBit i

/-- Rules of element e in a ply. -/
def Ply.rulesOf (p : Ply) (e : Nat) : Tab Rule := Tab.look [] p.rules e
/-- Rule r of element e in ply q of core k. -/
def State.ruleAt (s : State) (k q e r : Nat) : Rule := Tab.look {} ((s.ply k q).rulesOf e) r
/-- The route of a ply that leaves an endpoint (05 R106). -/
def Ply.routeOf (p : Ply) (x : Endpt) : Option Route := p.routes.find? fun r => decide (r.src = x)
/-- The route of a ply that feeds an endpoint (05 R106). -/
def Ply.feeder (p : Ply) (x : Endpt) : Option Route := p.routes.find? fun r => r.dests.contains x
/-- An input of a ply that a BACK route feeds (05 R114). -/
def Ply.backInput (p : Ply) (x : Endpt) : Bool := p.routes.any fun r => r.back && r.dests.contains x

/-- The head of ply q in a channel: its oldest token there, unless that is a marker, which no rule sees (05 R99, R117; 21 R387). -/
def Chan.head (c : Chan) (q : Nat) : Option Token :=
  match c.toks.find? (fun t => decide (t.ply = q)) with
  | some t => if t.mark = .none then some t else none
  | none => none

/-- The head of input j of element e in ply q of core k. -/
def headOf (s : State) (k q e j : Nat) : Option Token := ((s.core k).fab.chan (chanKey e j)).head q

/-- Slots of an endpoint that tokens on their way to it will take; a SEND takes two (07 R180). -/
def Fabric.coming (f : Fabric) (d : Endpt) : Nat :=
  (f.flights.map fun x => if x.dst ≠ d then 0 else if d = .engine 3 ∧ x.cmd.isSome then 2 else 1).sum

/-- Slots of an input channel that nobody holds (05 R437). -/
def Fabric.pool (f : Fabric) (e ch : Nat) : Nat :=
  4 - (f.chan (chanKey e ch)).toks.length - (f.chan (chanKey e ch)).grants.length - f.coming (.chan e ch)

/-- A producer takes a slot of an input channel: one granted to it that it sees, else one that nobody holds (05 R437). -/
def Fabric.takeSlot (f : Fabric) (e ch prod : Nat) : Option Fabric :=
  match (f.chan (chanKey e ch)).grants.findIdx? (fun g => decide (g.prod = prod) && g.seen) with
  | some i => some (f.modChan (chanKey e ch) fun c => { c with grants := c.grants.eraseIdx i })
  | none => if 0 < f.pool e ch then some f else none

/-- A token sets out for an input channel of core k (05 R107). -/
def sendChan (s : State) (k e ch prod : Nat) (t : Token) : Option State :=
  match (s.core k).fab.takeSlot e ch prod with
  | some f => some (s.modFab k fun _ => { f with flights := f.flights ++ [{ dst := .chan e ch, tok := t, prod := prod }] })
  | none => none

/-- The far record of an incoming route (05 R108, R139). -/
def Ply.farIn (p : Ply) (e ch : Nat) : Option (Nat × Far) := p.fars.find? fun (_, x) => !x.out && decide (x.ep = .chan e ch)

/-- A token leaves a far route at its remote input: a draining ply withholds credit, a contained route absorbs, and the tokens of a ply that is gone are discarded (05 R99, R118; 21 R383). -/
def sendRemote (s : State) (b : FarBind) (t : Token) : Option State :=
  let p := s.ply b.core b.ply
  if p.st = .free then some s
  else if p.draining || p.frozen then none
  else if (p.farIn b.elem b.ch).any (·.2.absorb) then some s
  else sendChan s b.core b.elem b.ch b.ply { t with ply := b.ply }

/-- Cluster borders between two cores of a die (05 R108). -/
def borders (a b : Nat) : Nat := if clusterOf a ≤ clusterOf b then clusterOf b - clusterOf a else clusterOf a - clusterOf b

/-- Pass i of a far route. -/
def Far.pass (x : Far) (i : Nat) : List Token := (x.passes[i]?).getD []

/-- An RSV or AMPLIFY of element e in ply q awaits its grant (07 R182). -/
def Fabric.granting (f : Fabric) (q e : Nat) : Bool := f.pushes.any fun x => decide (x.ply = q) && decide (x.elem = e) && x.isGrant

/-- An action on the element's reservation (07 R182). -/
def actsOnRsv : Instr → Bool
  | .rsv .. | .amplify .. | .enq .. => true
  | _ => false

/-- A token of ply q sets out for one end of its route (05 R107, R108; 15 R315; 17 R322). -/
def sendTo (s : State) (k q : Nat) (t : Token) (cmd : Option EngCmd) (d : Endpt) : Option State :=
  let f := (s.core k).fab
  let go := some (s.modFab k fun f => { f with flights := f.flights ++ [{ dst := d, tok := t, prod := q, cmd := cmd }] })
  match d with
  | .chan e ch => sendChan s k e ch q t
  | .stream n => if ((s.core k).stream n).toks.length + f.coming d < 4 then go else none
  | .engine n =>
    if n = 3 then (if f.coming d + (if cmd.isSome then 2 else 1) ≤ Config.portSlots then go else none)
    else if ((s.core k).engine n).queue.length + f.coming d < 8 then go else none
  | .select => if f.selq.length + f.coming d < Config.portSlots then go else none
  | .far n =>
    match Tab.find (f.ply q).fars n with
    | none => none
    | some x =>
      match x.bind with
      | none => none
      | some b =>
        if x.ended then none
        else if borders k b.core = 0 then sendRemote s b t
        else if (x.pass 0).length + f.coming d < 8 then go else none

/-- A token sets out for one destination of its route. The two tokens of a SEND are joined at e3 only; another destination of its route gets both (07 R180) (log 55). -/
def sendDest (s : State) (k q : Nat) (t : Token) (cmd : Option EngCmd) (d : Endpt) : Option State :=
  match cmd with
  | some c =>
    if c.kind = .none ∧ d ≠ .engine 3 then (sendTo s k q t none d).bind fun s => sendTo s k q { t with data := c.b } none d
    else sendTo s k q t cmd d
  | none => sendTo s k q t none d

/-- A token leaves endpoint x of ply q by its route, to every destination or to none (05 R107) (log 15). -/
def sendFrom (s : State) (k q : Nat) (x : Endpt) (t : Token) (cmd : Option EngCmd) : Option State :=
  match (s.ply k q).routeOf x with
  | none => some s
  | some r => r.dests.foldlM (fun s d => sendDest s k q t cmd d) s

/-- A token leaves every output of a mask (05 R103). -/
def emitMask (s : State) (k q e mask : Nat) (t : Token) (cmd : Option EngCmd) : Option State :=
  (maskBits 4 mask).foldlM (fun s j => sendFrom s k q (.chan e j) t cmd) s

/-- The READY heads of a trigger word, ascending. -/
def readyHeads (s : State) (k q e : Nat) (t : BitVec 32) : List Token := (maskBits 4 (trigReady t)).filterMap (headOf s k q e)

/-- An end firing (05 R101): READY is not empty and every READY head is an end token. -/
def endHeads (s : State) (k q e : Nat) (t : BitVec 32) : Bool :=
  decide (trigReady t ≠ 0) && (maskBits 4 (trigReady t)).all fun j => (headOf s k q e j).any (·.e)

/-- Every READY input has a head. -/
def allReady (s : State) (k q e : Nat) (t : BitVec 32) : Bool := (maskBits 4 (trigReady t)).all fun j => (headOf s k q e j).isSome

/-- Every READY head is a data token. -/
def allData (s : State) (k q e : Nat) (t : BitVec 32) : Bool := (maskBits 4 (trigReady t)).all fun j => (headOf s k q e j).all (!·.e)

/-- Entries of a request unit in use (12 R278, 07 R170). -/
def entriesUsed (l : List Req) : Nat := (l.filter (·.endX.isNone)).length

/-- F of R174: iterations in flight. -/
def EPly.inFlight (x : EPly) : Nat := popcount x.infl.toNat 16

/-- The arm MERGEU serves: true for B (07 R173). -/
def mergeuArm (m : MergeU) (a b : Option Token) : Option Bool :=
  let ca := a.isSome && !m.endA
  let cb := b.isSome && !m.endB
  if ca && cb then some (!m.lastB) else if ca then some false else if cb then some true else none

/-- The heads and the element's own state let rule r fire: R101 without SPACE, CARE and the ply's state. -/
def headsReady (s : State) (k q e r : Nat) (x : Rule) : Bool :=
  let el := (s.ply k q).elem e
  let h := headOf s k q e
  let t := x.trig
  match firesOf x.act with
  | .uniform => allReady s k q e t && (allData s k q e t || endHeads s k q e t)
  | .request =>
    allReady s k q e t && (endHeads s k q e t || (allData s k q e t && decide (entriesUsed ((s.core k).fab.reqsOf e) < 8)))
  | .plain => allReady s k q e t
  | .send => allReady s k q e t
  | .engine => allReady s k q e t
  | .merge di ti fi =>
    match h di with
    | none => false
    | some d =>
      if d.e then (h ti).isSome && (h fi).isSome
      else if bit d.data 0 then (h ti).isSome else (h fi).isSome
  | .mergeu ai bi => (mergeuArm (Tab.look {} el.mergeu r) (h ai) (h bi)).isSome
  | .permit ci di =>
    (h ci).isSome || (match h di with
      | none => false
      | some d => if d.e then decide (el.inFlight = 0) else decide (el.inFlight < el.k))
  | .red ri g => allReady s k q e t && !(bit el.redDone g) && decide (0 < (s.core k).fab.pool e ri)

/-- Predicate m of an element in a ply; p0 reads as 1 (05 R95). -/
def EPly.pred (x : EPly) (m : Nat) : Bool := decide (m = 0) || bit x.p m

/-- The predicates of CARE hold their VAL (05 R101). -/
def careHolds (x : EPly) (t : BitVec 32) : Bool :=
  (maskBits 8 (trigCare t)).all fun m => x.pred m == (trigVal t).testBit m

/-- No request or grant of the element and ply in flight will write a register that the rule reads (07 R182; 12 R278); a request that parks is in flight again from its re-issue (21 R380, R391). -/
def readsSettled (s : State) (k q e : Nat) (x : Rule) : Bool :=
  ((s.core k).fab.pushes.all fun y => decide (y.ply ≠ q) || decide (y.elem ≠ e) || (match y.op with
    | .grant _ _ _ _ (.d n) _ => !((readsOf x.act).contains (.d n))
    | _ => true)) &&
  ((s.core k).fab.reqsOf e ++ (s.core k).fab.park.filter fun y => decide (y.elem = e) && decide (y.st ≠ .held)).all fun y =>
    decide (y.ply ≠ q) || y.endX.isSome ||
    (match y.dst with
     | .d n => !((readsOf x.act).contains (.d n))
     | .null => true)

/-- A rule is eligible but for SPACE (05 R101). -/
def ruleReady (s : State) (k q e r : Nat) : Bool :=
  let p := s.ply k q
  let el := p.elem e
  match Tab.find (p.rulesOf e) r with
  | none => false
  | some x =>
    decide (p.st = .active) && !p.frozen && !el.stopped && !el.heldB && careHolds el x.trig && headsReady s k q e r x && readsSettled s k q e x &&
    !(actsOnRsv x.act && (s.core k).fab.granting q e)

/-- The outputs that SPACE of rule r names have room, after the responses due there and the marker of a cut (05 R107, 07 R180, 12 R278, 21 R387). -/
def ruleRoom (s : State) (k q e r : Nat) : Bool :=
  let x := s.ruleAt k q e r
  if trigSpace x.trig &&& ((s.ply k q).elem e).markDue ≠ 0 then false else
  let due := (((s.core k).fab.reqsOf e).filter fun y => decide (y.ply = q)).map fun y => trigEmit (s.ruleAt k q e y.rule).trig
  let cmd : Option EngCmd := if firesOf x.act = .send then some {} else none
  match due.foldlM (fun s m => emitMask s k q e (m &&& trigSpace x.trig) { ply := q } none) s with
  | none => false
  | some s => (emitMask s k q e (trigSpace x.trig) { ply := q } cmd).isSome

/-- Rule r of element e in ply q of core k is eligible (05 R101). -/
def eligible (s : State) (k q e r : Nat) : Bool := ruleReady s k q e r && ruleRoom s k q e r

/-- The rules of an element in a ply that are eligible, ascending. -/
def eligibleIn (s : State) (k q e : Nat) : Option Nat := (((s.ply k q).rulesOf e).map Prod.fst).find? (eligible s k q e)

/-- The firing an element selects: plies in the ply order, then the lowest rule (05 R102). -/
def selectFiring (s : State) (k e : Nat) : Option (Nat × Nat) :=
  (s.core k).fab.order.findSome? fun q => (eligibleIn s k q e).map fun r => (q, r)

/-- A request is not yet performed. -/
def Req.open_ (y : Req) : Bool := decide (y.st = .waiting) || decide (y.st = .held)

/-- A request whose response awaits room (12 R278). -/
def Req.answered (y : Req) : Bool :=
  match y.st with
  | .done _ | .failed => true
  | _ => false

/-- The requests of element e in ply q that have not answered: those in its unit and those parked (12 R278; 21 R391). -/
def Fabric.reqsIn (f : Fabric) (q e : Nat) : List Req :=
  (f.reqsOf e ++ f.park.filter fun y => decide (y.elem = e)).filter fun y => decide (y.ply = q)

/-- A response of an element in ply q is due on output j (12 R278). -/
def dueOn (s : State) (k q e j : Nat) : Bool :=
  ((s.core k).fab.reqsIn q e).any fun y => y.answered && (trigEmit (s.ruleAt k q e y.rule).trig).testBit j

/-- An element has a token that waits for room on output j: a response that is due there, or a rule of the ply that lacks room only (05 R437; 12 R278). -/
def elemWaits (s : State) (k q e j : Nat) : Bool :=
  dueOn s k q e j || ((s.ply k q).rulesOf e).any fun (r, x) => (trigSpace x.trig).testBit j && ruleReady s k q e r && !(ruleRoom s k q e r)

/-- SPACE of a stream's addresses. -/
def SDesc.space (d : SDesc) : Nat := bits d.base 60 4
/-- BASE without its space tag. -/
def SDesc.off (d : SDesc) : Nat := bits d.base 0 60

/-- Element e of an affine command, as an offset or an address without its space tag (12 R268). -/
def SDesc.elem (d : SDesc) (e : Nat) : Int :=
  (d.off : Int) + (e % d.n0 : Nat) * d.st0 + (e / d.n0 % d.n1 : Nat) * d.st1 + (e / (d.n0 * d.n1) : Nat) * d.st2

/-- An exact address as an access makes it (12 R268): one outside 64 bits lies above every address that translates, and is reported as its 64 bits (log 65). -/
def vaOf (a : Int) : Nat := if 0 ≤ a ∧ a < 2 ^ 64 then a.toNat else 2 ^ 64 + truncI a 64

/-- The tokens of a ply at a port, oldest first, up to a marker. -/
def SPort.given (p : SPort) (q : Nat) : List Token := (p.toks.filter fun t => decide (t.ply = q)).takeWhile fun t => decide (t.mark = .none)

/-- The line at the front of a read port's window once the lines before element e are consumed (11 R257). -/
def SPort.lineAt (p : SPort) (va : Nat) : List WLine := p.lines.dropWhile fun l => decide (l.va / 128 ≠ va / 128)

/-- Elements that a stream command moves, none where it runs until an end token (12 R268). -/
def SDesc.count (d : SDesc) : Option Nat := if d.ind then (if d.n0 = 0 then none else some d.n0) else some (d.n0 * d.n1 * d.n2)

/-- Stream port n has no room on its route for a token of ply q (05 R107). -/
def streamBlocked (s : State) (k q n : Nat) : Bool := (sendFrom s k q (.stream n) { ply := q } none).isNone

/-- A stream port has at hand the token that its command of ply q sends next (12 R269): an element that has been read or is there to be read, an end token, or the count of CTOK. -/
def streamHolds (p : SPort) (q : Nat) : Bool :=
  match p.run with
  | none => false
  | some r =>
    let d := r.cmd.desc
    decide (r.cmd.ply = q) && !p.faulted &&
    (if d.write then r.last && !r.eosDue && d.ctok && p.lines.isEmpty
     else if r.eosDue then true
     else if r.last then false
     else if d.ind then (p.given q).head?.any fun t => !t.e
     else decide (d.space ≠ 0) || !(p.lineAt (vaOf (d.elem r.e))).isEmpty)

/-- A stream port has a token of ply q that waits for space on its route (05 R437; 12 R269). -/
def streamWaits (s : State) (k q n : Nat) : Bool := streamHolds ((s.core k).stream n) q && streamBlocked s k q n

/-- The far outputs bound to an input of ply q of core k: their core, ply and record. -/
def farSources (s : State) (k q e ch : Nat) : List (Nat × Nat × Far) :=
  s.cores.flatMap fun (a, c) => c.fab.plies.flatMap fun (b, p) =>
    (p.fars.filter fun (_, x) => x.out && decide (x.bind = some { core := k, elem := e, ch := ch, ply := q })).map fun (_, x) => (a, b, x)

/-- A far route has a token to bring to its remote input (05 R108). -/
def farWaits (s : State) (a b : Nat) (x : Far) : Bool :=
  match x.passes.getLast? with
  | some l => !l.isEmpty
  | none =>
    match (s.ply a b).feeder (.far ((((s.ply a b).fars.find? fun (_, y) => decide (y = x)).map Prod.fst).getD 8)) with
    | some { src := .chan e j, .. } => elemWaits s a b e j
    | _ => false

/-- The route that feeds a channel in ply q has a token that waits for space (05 R437). -/
def routeWaits (s : State) (k q e ch : Nat) : Bool :=
  decide ((s.ply k q).st = .active) &&
  ((match (s.ply k q).feeder (.chan e ch) with
    | some { src := .chan a j, .. } => elemWaits s k q a j
    | some { src := .stream n, .. } => streamWaits s k q n
    | some { src := .engine n, .. } => ((s.core k).engine n).toks.any fun t => decide (t.ply = q)
    | _ => false) ||
   (farSources s k q e ch).any fun (a, b, x) => farWaits s a b x)

/-- A channel of ply q has a route or a far route as a producer. -/
def hasRoute (s : State) (k q e ch : Nat) : Bool :=
  ((s.ply k q).feeder (.chan e ch)).isSome || !(farSources s k q e ch).isEmpty

/-- A slice delivers tokens at the ENTRY of ply q of core k and has one to deliver (09 R221). -/
def sliceWaits (s : State) (k q : Nat) : Bool :=
  ((s.die (dieOf k)).slices).any fun (_, x) =>
    decide (x.core = k) && decide (x.ply = some q) && x.delivering && !(s.queue x.queue).toks.isEmpty

/-- The token fabric port has a token for a channel that waits for space (05 R437). -/
def portWaits (s : State) (k q e ch : Nat) : Bool :=
  let c := s.core k
  let p := c.fab.ply q
  decide (p.st = .active) &&
  ((match c.port.second with
    | some (d, t) => decide (d = .chan e ch) && decide (t.ply = q)
    | none => false) ||
   (match c.port.inbox with
    | m :: _ => m.entry.any fun w => decide (handlerTarget w = (q, e, ch))
    | [] => false) ||
   (decide (p.entry = some (.chan e ch)) &&
    (sliceWaits s k q ||
     (match (c.ctx p.ctx).region with
      | some r => decide ((c.ctx p.ctx).bound = some q) && r.strand && decide (r.state = .opened) &&
        (match r.running with
         | some b => (match r.blocks[b]? with
           | some x => !(s.queue (dieOf k * 4096 + x.queue)).toks.isEmpty
           | none => false)
         | none => false)
      | none => false))))

/-- The producer of an input channel that waits for space, in the ply order and a route before the port (05 R437). Producers are numbered as `Flight` says. -/
def waitingFor (s : State) (k e ch : Nat) : Option Nat :=
  (s.core k).fab.order.findSome? fun p => if routeWaits s k p e ch then some p else if portWaits s k p e ch then some 4 else none

/-- The producer that a freed slot is granted to (05 R437): one that waits, else the producer of the token that was popped (log 50). -/
def grantee (s : State) (k q e ch : Nat) (t : Token) : Option Nat :=
  match waitingFor s k e ch with
  | some p => some p
  | none => if t.port then some 4 else if hasRoute s k q e ch then some q else none

/-- A freed slot is granted (05 R437). A grant to the port is seen at once (log 50). -/
def grantSlot (s : State) (k q e ch : Nat) (t : Token) (s' : State) : State :=
  match grantee s k q e ch t with
  | some p => s'.modChan k (chanKey e ch) fun c => { c with grants := c.grants ++ [{ prod := p, seen := decide (p = 4) }] }
  | none => s'

/-- pop(c, q) of R103: the head of ply q leaves the channel and its slot is granted. -/
def popHead (s : State) (k q e ch : Nat) : State :=
  match headOf s k q e ch with
  | none => s
  | some t =>
    let s' := s.modChan k (chanKey e ch) fun c => { c with toks := c.toks.eraseP fun x => decide (x.ply = q) }
    grantSlot s k q e ch t (s'.modElem k q e fun x => { x with popped := Tab.set x.popped ch (Tab.look 0 x.popped ch + 1) })

/-- The inputs of a mask are popped, ascending. -/
def popMask (s : State) (k q e mask : Nat) : State := (maskBits 4 mask).foldl (fun s j => popHead s k q e j) s

/-- The trigger word of the rule that fires. -/
def State.trig (s : State) : BitVec 32 := (s.ruleAt s.actor.core s.actor.ply s.actor.elem s.actor.rule).trig
/-- The action word of the rule that fires. -/
def State.actionWord (s : State) : Code := (s.ruleAt s.actor.core s.actor.ply s.actor.elem s.actor.rule).word
/-- The state of the element that fires, in its ply. -/
def State.eply (s : State) : EPly := (s.ply s.actor.core s.actor.ply).elem s.actor.elem
/-- s with f applied to the element that fires. -/
def State.modEply (s : State) (f : EPly → EPly) : State := s.modElem s.actor.core s.actor.ply s.actor.elem f
/-- The head of input j at the element that fires. -/
def State.head (s : State) (j : Nat) : Option Token := headOf s s.actor.core s.actor.ply s.actor.elem j
/-- The firing is an end firing (05 R101). -/
def State.endFiring (s : State) : Bool := endHeads s s.actor.core s.actor.ply s.actor.elem s.trig
/-- The READY heads of the firing. -/
def State.heads (s : State) : List Token := readyHeads s s.actor.core s.actor.ply s.actor.elem s.trig
/-- OR of the X bits of the READY heads. -/
def State.headsX (s : State) : Bool := s.heads.any (·.x)
/-- tg of R103: the tag of the head of the lowest input in POP, or 0. -/
def State.tg (s : State) : Nat :=
  match maskBits 4 (trigPop s.trig) with
  | j :: _ => (s.head j).elim 0 (·.tag)
  | [] => 0

/-- A source of the element that fires (02 R46). -/
def State.src (s : State) (x : ESrc) : Word :=
  match x with
  | .d n => Tab.look 0 s.eply.d n.val
  | .i n => (s.head n.val).elim 0 (·.data)
  | .zero => 0
  | .coord => w64 (coordOf s.actor.core s.actor.elem)
  | .plyn => w64 s.actor.ply
  | .tag0 => w64 ((s.head 0).elim 0 (·.tag))

/-- What the firing reads descends from a ray delivery (13 R298). -/
def State.descends (s : State) (l : List ESrc) : Bool :=
  s.heads.any (·.ray) ||
  l.any (fun x => match x with
    | .d n => bit s.eply.dray n.val
    | _ => false) ||
  (maskBits 8 (trigCare s.trig)).any fun m => bit s.eply.pray m

/-- Writing D of an element (02 R46). -/
def EPly.setD (x : EPly) (d : EDst) (v : Word) (ray : Bool) : EPly :=
  match d with
  | .d n => { x with d := Tab.put 0 x.d n.val v, dray := setBit x.dray n.val ray }
  | .null => x

/-- Writing a predicate of an element; p0 discards (05 R95). -/
def EPly.setP (x : EPly) (p : Pred) (b ray : Bool) : EPly :=
  if p = 0 then x else { x with p := setBit x.p p.val b, pray := setBit x.pray p.val ray }

/-- The old value of D, 0 for null (07 R166, R167). -/
def State.oldD (s : State) (d : EDst) : Word :=
  match d with
  | .d n => Tab.look 0 s.eply.d n.val
  | .null => 0

/-- What every firing ends through: it pops the inputs of a mask and places each token on the outputs of its mask (05 R103). Without room the firing is not selected, and nothing changes. -/
def placeAll (s s1 : State) (pops : Nat) (outs : List (Nat × Token × Option EngCmd)) : Out :=
  let a := s.actor
  match outs.foldlM (fun s (m, t, c) => emitMask s a.core a.ply a.elem m t c) (popMask s1 a.core a.ply a.elem pops) with
  | some s' => .next s'
  | none => .next s

/-- The end branch of R103. -/
def endBranch (s : State) : Out :=
  placeAll s s (trigPop s.trig)
    [(trigEmit s.trig, { ply := s.actor.ply, e := true, x := s.headsX, ray := s.heads.any (·.ray) }, none)]

/-- The data branch of R103 with the tag and the masks the action gives: D and a predicate are written, POP popped, v emitted. -/
def fireTag (s s1 : State) (d : EDst) (l : List ESrc) (v : Word) (tag : Nat) (upd : Bool → EPly → EPly) : Out :=
  let ray := s.descends l
  placeAll s (s1.modEply fun x => upd ray (x.setD d v ray)) (trigPop s.trig)
    [(trigEmit s.trig, { data := v, tag := tag, ply := s.actor.ply, ray := ray }, none)]

/-- The firing of an action whose heads are all data or all ends: the end branch, or the data branch with the value v (05 R103). -/
def fire (s : State) (d : EDst) (l : List ESrc) (v : Word) : Out :=
  if s.endFiring then endBranch s else fireTag s s d l v s.tg fun _ x => x

/-- The same with a further write to a predicate (07 R159). -/
def fireP (s : State) (d : EDst) (l : List ESrc) (v : Word) (p : Pred) (b : Bool) : Out :=
  if s.endFiring then endBranch s else fireTag s s d l v s.tg fun ray x => x.setP p b ray

/-- The same with a value whose computation draws from the generator (06 R150). -/
def fireDraw (s : State) (d : EDst) (l : List ESrc) (f : State → Word × State) : Out :=
  if s.endFiring then endBranch s
  else let (v, s1) := f s; fireTag s s1 d l v s.tg fun _ x => x

end Sys2Proof.Machine
end

