-- ==== Sys2Proof/Machine/Faults.lean ====
section
/-! DEFINITION. Faults of a region: groups and their quiescence, usable cuts, raising a fault, containment, rollback, and the end of a region (05 R123, R124; 21 R373 to R390). -/
namespace Sys2Proof.Machine

/-- The node of an endpoint in the graph of a ply (21 R380): elements 0 to 63, stream ports from 64, engine ports from 80, far routes from 84, the selection port 92. -/
def nodeOf : Endpt → Nat
  | .chan e _ => e
  | .stream n => 64 + n
  | .engine n => 80 + n
  | .far n => 84 + n
  | .select => 92

/-- The joins of a ply's graph (21 R380); the selection port is no node of it. -/
def edgesOf (p : Ply) : List (Nat × Nat) := p.routes.flatMap fun r => (r.dests.filter fun d => decide (d ≠ .select)).map fun d => (nodeOf r.src, nodeOf d)

/-- The nodes that n rounds over the joins reach from g. -/
def growGroup (es : List (Nat × Nat)) : Nat → List Nat → List Nat
  | 0, g => g
  | n + 1, g =>
    let h := es.foldl (fun g (a, b) =>
      if g.contains a then (if g.contains b then g else g ++ [b]) else if g.contains b then g ++ [a] else g) g
    if h.length = g.length then g else growGroup es n h

/-- The group of a node (21 R380). -/
def groupOf (p : Ply) (n : Nat) : List Nat := growGroup (edgesOf p) 93 [n]

/-- The elements of a group. -/
def elemsOf (g : List Nat) : List Nat := g.filter (· < 64)
/-- The stream ports of a group. -/
def portsOf (g : List Nat) : List Nat := (g.filter fun n => decide (64 ≤ n ∧ n < 80)).map (· - 64)
/-- The engine ports of a group. -/
def enginesOf (g : List Nat) : List Nat := (g.filter fun n => decide (80 ≤ n ∧ n < 84)).map (· - 80)
/-- The far routes of a group. -/
def farsOf (g : List Nat) : List Nat := (g.filter fun n => decide (84 ≤ n ∧ n < 92)).map (· - 84)

/-- Every node of a ply that does work: it is joined, or holds rules. -/
def nodesOf (p : Ply) : List Nat :=
  ((edgesOf p).flatMap (fun (a, b) => [a, b]) ++ (p.rules.filter (fun (_, r) => !r.isEmpty)).map Prod.fst).eraseDups

/-- The writes that a port has entered in its window are performed, but for a line whose write-back has failed (11 R257; 21 R380). -/
def SPort.written (p : SPort) : Bool := p.lines.head?.all (·.stuck)

/-- What the command of ply q that a port runs needs for its next element is missing: the tokens that it pops, or room for the one that it sends; an end token ends it at once (12 R269). -/
def portStarved (s : State) (k q n : Nat) (r : SRun) : Bool :=
  let p := (s.core k).stream n
  let d := r.cmd.desc
  if r.eosDue then (if d.write then p.toks.all fun t => decide (t.ply ≠ q) else streamBlocked s k q n)
  else if r.last then d.write && d.ctok && streamBlocked s k q n
  else if d.write then (match p.given q with
    | [] => true
    | [t] => d.ind && !t.e
    | _ => false)
  else if d.ind then (match p.given q with
    | [] => true
    | t :: _ => !t.e && streamBlocked s k q n)
  else streamBlocked s k q n

/-- A stream port that makes no access now: idle, or with its writes performed and FAULTED or starved (12 R269; 21 R380). -/
def portQuiet (s : State) (k q n : Nat) : Bool :=
  let p := (s.core k).stream n
  match p.run with
  | none => true
  | some r => decide (r.cmd.ply ≠ q) || ((!r.cmd.desc.write || p.written) && (p.faulted || portStarved s k q n r))

/-- An engine port without a command of the ply in flight: none has begun (21 R380). -/
def engineQuiet (s : State) (k q n : Nat) : Bool := ((s.core k).engine n).cur.all fun c => !(c.of k q)

/-- The requests of an element in ply q that are in flight: neither held nor behind a held one whose response they wait for (21 R380). -/
def reqsFly (q : Nat) (l : List Req) : Bool :=
  ((l.filter fun y => decide (y.ply = q)).takeWhile fun y => decide (y.st ≠ .held)).any (fun _ => true) ||
  l.any fun y => decide (y.ply = q) && decide (y.st = .waiting)

/-- A group is quiescent (21 R380). -/
def groupQuiet (s : State) (k q : Nat) (g : List Nat) : Bool :=
  let f := (s.core k).fab
  (elemsOf g).all (fun e => (eligibleIn s k q e).isNone && !(reqsFly q (f.reqsOf e))) &&
  f.park.all (fun y => decide (y.ply ≠ q) || decide (y.st = .held) || !(g.contains y.elem)) && (elemsOf g).all (fun e => !(f.granting q e)) &&
  (portsOf g).all (portQuiet s k q) && (enginesOf g).all (engineQuiet s k q) &&
  f.flights.all fun x => !(decide (x.tok.ply = q) && g.contains (nodeOf x.dst))

/-- A handler-table entry leads into a group (05 R111; 21 R389). -/
def handlerInto (c : CoreSt) (q : Nat) (g : List Nat) : Bool :=
  c.port.handlers.any fun (_, w) => let (p, e, _) := handlerTarget w; decide (p = q) && g.contains e

/-- The input channels that stream port m feeds in a ply. -/
def streamDests (p : Ply) (m : Nat) : List Nat :=
  ((p.routeOf (.stream m)).elim [] (·.dests)).filterMap fun
    | .chan e ch => some (chanKey e ch)
    | _ => none

/-- A port's records allow cut n (21 R389), in the command that runs: of a write its own, of a read one index for all of its destinations. -/
def portHolds (p : Ply) (m : Nat) (y : SPort) (n : Nat) : Bool :=
  match y.run with
  | none => false
  | some r =>
    let held := y.cuts.filter fun c => decide (c.cut = n) && decide (c.cmd = r.cmd.id)
    if r.cmd.desc.write then held.any fun c => decide (c.dst = 256)
    else match held.filter fun c => (streamDests p m).contains c.dst with
      | [] => false
      | c :: cs => (cs.all fun d => decide (d.elem = c.elem)) && (streamDests p m).all fun d => (c :: cs).any fun x => decide (x.dst = d)

/-- The usable cut of a group (21 R389). -/
def usableCut (s : State) (k q : Nat) (g : List Nat) : Option Nat :=
  let c := s.core k
  let p := c.fab.ply q
  if (farsOf g).any (fun n => (Tab.find p.fars n).any fun x => !x.out) || handlerInto c q g then none
  else match elemsOf g with
    | [] => none
    | e :: es =>
      ((Tab.look [] p.snaps e).map (·.cut)).find? fun n =>
        es.all (fun e => (Tab.look [] p.snaps e).any fun x => decide (x.cut = n)) &&
        (portsOf g).all fun m => portHolds p m (c.stream m) n

/-- The slice that runs on a context, with its number on the die (09 R220, R221) (log 83). -/
def sliceOn (s : State) (k n : Nat) : Option (Nat × Slice) := (s.die (dieOf k)).slices.find? fun x => decide (x.2.core = k) && decide (x.2.ctx = n)

/-- The number that stands for the ply of a context that none is bound to: no ply has it (05 R97). -/
def noPly : Nat := 4

/-- What a fault is raised with (21 R374). -/
structure Raise where
  core : Nat
  ply : Nat
  ctx : Nat
  src : Nat
  unit : Nat := 0
  node : Nat := 92
  elem : Option Nat := none
  cause : Nat
  cls : Nat
  tval : Nat := 0
  detail : Nat := 0
  parked : Bool := false
  req : Option Nat := none
  rcb : Option Nat := none
  queue : Option Nat := none
  deriving DecidableEq, Repr

/-- The FAULT event of a record (21 R376); its ply field is 0 where no ply is bound to the context (log 49). -/
def faultEvent (s : State) (k n q cause seq rcb : Nat) : State :=
  postEvent s k (0x11 + n * 2 ^ 9 + q % 4 * 2 ^ 11 + cause * 2 ^ 13 + seq * 2 ^ 20) rcb

/-- A fault whose decision is still to be made, or has not committed (21 R378). -/
def FaultRef.undecided (f : FaultRef) : Bool := decide (f.verdict = 0) && !f.awaiting

/-- A fault of context n of core k finds a decision of its region pending, and joins it (21 R378). -/
def joinsFault (s : State) (k n : Nat) : Bool := (s.part (s.partOf k)).faults.any fun f => decide (f.core = k) && decide (f.ctx = n) && f.undecided && !f.saved

/-- A fault is raised for the region of a context (21 R373, R374, R376, R378, R379): a latched selection is discarded (05 R120), then the record, the FAULT event, the state of the region, its slice's queue and the element, and the decision that will follow; a fault that joins a decision and holds nothing has none of its own (log 49). -/
def raiseFault (s : State) (r : Raise) : State :=
  let s := discardStaged s r.core r.ctx
  let c := s.core r.core
  let rg := (c.ctx r.ctx).region
  let sl := sliceOn s r.core r.ctx
  let queue := match r.queue with
    | some x => some x
    | none => sl.map fun x => x.2.queue
  let rcb := r.rcb.getD ((rg.map (·.rcb.toNat)).getD 0)
  let info : FltInfo :=
    { part := s.partOf r.core, parked := r.parked, held := decide (r.cls = 1), src := r.src, ctx := r.ctx, ply := r.ply % 4
      nflt := (rg.map (·.nflt)).getD 0, unit := r.unit, cls := r.cls, cause := r.cause, tval := r.tval % 2 ^ 64
      place := (match r.elem with
        | some e => coordOf r.core e
        | none => placeOf r.core)
      rcb := rcb, detail := r.detail, dlc := (s.die (dieOf r.core)).dlc
      cut := (if (c.fab.ply r.ply).snaps.isEmpty then none else usableCut s r.core r.ply (groupOf (c.fab.ply r.ply) r.node)), queue := queue }
  let (s, seq, ok) := faultRecord s info
  let s := faultEvent s r.core r.ctx r.ply r.cause seq rcb
  let s := match queue with
    | some q => if r.cls = 5 then s else s.modQueue q fun x => { x with blocked := true }
    | none => s
  let s := if r.cls = 2 ∧ r.src = 1 then s.modElem r.core r.ply r.node fun x => { x with heldB := true } else s
  if r.cls = 3 ∧ joinsFault s r.core r.ctx then s
  else if r.cls = 5 then s.modCtx r.core r.ctx fun c => { c with region := c.region.map fun g => { g with cause := if g.cause = 0 then r.cause else g.cause } }
  else
    s.modPart (s.partOf r.core) fun p =>
      { p with faults := p.faults ++ [{ seq := seq, part := s.partOf r.core, core := r.core, ctx := r.ctx, ply := r.ply, cause := r.cause, cls := r.cls
                                        src := r.src, unit := r.unit, elem := r.node, req := r.req, written := ok, parked := r.parked, nflt := info.nflt
                                        word0 := fltWord0 info seq 0, slice := sl.map fun x => (dieOf r.core, x.1) }] }

/-- Delivery and class of a cause that a unit of the fabric raises (21 R373). -/
def fabricFault (s : State) (k q src unit node : Nat) (elem : Option Nat) (c : Cause) (tval detail : Nat) : State :=
  raiseFault s { core := k, ply := q, ctx := (s.ply k q).ctx, src := src, unit := unit, node := node, elem := elem, cause := c.code, cls := Cause.cls c, tval := tval, detail := detail }

/-- The cause that a code names (21 R373), for codes that a unit of the fabric raises on an access or a load. -/
def causeOf (code : Nat) : Cause :=
  match code with
  | 0x04 => .illegalOpcode
  | 0x05 => .reservedField
  | 0x06 => .dictUndefined
  | 0x07 => .dictShortFill
  | 0x09 => .wrongExecutor
  | 0x0A => .dictMismatch
  | 0x20 => .pageFaultRead
  | 0x21 => .pageFaultWrite
  | 0x22 => .permission
  | 0x24 => .misaligned
  | 0x25 => .bufferBounds
  | 0x26 => .bufferAccess
  | 0x27 => .tableFormat
  | 0x28 => .chunkReserveEmpty
  | 0x2F => .memUncorrectable
  | 0x30 => .cfgFormat
  | 0x32 => .regionState
  | 0x72 => .linkDown
  | _ => .none

/-- Every fault of a region that still awaits something is forgotten: the region is gone. One whose unit stands in an image waits for it. -/
def dropFaults (s : State) (k n : Nat) : State :=
  s.modPart (s.partOf k) fun p => { p with faults := p.faults.filter fun f => f.saved || !(decide (f.core = k) && decide (f.ctx = n)) }

/-- STATE of an RCB is stored; `user` where the access needs USR: one of a user-mode sequencer, and what a region writes at its end (05 R121; 11 R253; 13 R289) (log 25). -/
def storeState (s : State) (k : Nat) (rcb : Word) (v : Nat) (user : Bool) : Mr Unit :=
  vwrite s k ((rcb.toNat + 0x2C) % 2 ^ 64) (bytesLE v 4) user

/-- The REGION_DONE record (05 R124). -/
def regionDone (s : State) (k n q : Nat) (faulted : Bool) (cause : Nat) (rcb : Word) : State :=
  postEvent s k (0x10 + n * 2 ^ 9 + q * 2 ^ 11 + b2n faulted * 2 ^ 13 + cause * 2 ^ 14) rcb.toNat

/-- A context whose RGN.WAIT is over goes back to RUN (05 R137). -/
def Ctx.wakeRegion (c : Ctx) : Ctx := if c.run = .wait ∧ c.await = some .region then { c with run := .run, await := none } else c

/-- A slice is over (09 R221): its server is left as its context stands. -/
def dropSlice (s : State) (d id : Nat) : State := s.modDie d fun x => { x with slices := Tab.drop x.slices id }

/-- The server of an ended region is freed: the ply is dropped and the region unbound (09 R220, log 16). -/
def freeServer (s : State) (k n : Nat) : State :=
  let s := match (s.ctx k n).bound with
    | some q => freePly s k q
    | none => s
  dropFaults (s.modCtx k n fun c => { c with region := none, bound := none, rsv := {} }) k n

/-- A region is over (05 R123, R124; 21 R383): its state, REGION_DONE, RGN.WAIT ends. A region that the loader opened for a server frees it (log 16); one that RGN.OPEN opened stays bound (05 R136). The ply field of REGION_DONE is 0 where no ply is bound to the context (log 49). -/
def closeRegion (s : State) (k n : Nat) (faulted : Bool) (cause : Nat) : State :=
  let c := s.ctx k n
  match c.region with
  | none => s
  | some g =>
    let s := regionDone s k n (c.bound.getD 0) faulted cause g.rcb
    let s := s.modCtx k n fun c =>
      Ctx.wakeRegion { c with region := some { g with state := if faulted then .faulted else .done, cause := cause, slice := none } }
    let s := match sliceOn s k n with
      | some (id, x) => if x.messages then s else dropSlice s (dieOf k) id
      | none => s
    if g.served then freeServer s k n else s

/-- A region ends faulted: a latched selection is discarded, STATE takes 3 as a write of its ply, and a store that faults leaves it (05 R120, R123; 13 R289; 21 R383). -/
def endFaulted (s : State) (k n : Nat) (cause : Nat) : Out :=
  let s := discardStaged s k n
  match (s.ctx k n).region with
  | none => .next s
  | some g =>
    match storeState s k g.rcb 3 true with
    | .wait s => .next s
    | .ok _ s => .next (closeRegion s k n true cause)
    | .fault _ _ s => .next (closeRegion s k n true cause)

/-- s with f applied to far record n of ply q of core k, where there is one. -/
def State.modFar (s : State) (k q n : Nat) (f : Far → Far) : State :=
  s.modPly k q fun p => { p with fars := p.fars.map fun ((i, x) : Nat × Far) => (i, if i = n then f x else x) }

/-- The end token that a contained group sends on a far route, at once or as soon as there is room for it, and nothing more (21 R383). -/
def farEnd (s : State) (k q n : Nat) : State :=
  let t : Token := { ply := q, e := true, x := true }
  match sendTo s k q t none (.far n) with
  | some s => s.modFar k q n fun x => { x with ended := true }
  | none => s.modFar k q n fun x => { x with ended := true, tail := some t }

/-- The end token that waits at a far output sets out where it has room now (05 R108; 21 R383). -/
def sendTail (s : State) (k q n : Nat) (t : Token) : Option State :=
  (sendTo (s.modFar k q n fun x => { x with ended := false, tail := none }) k q t none (.far n)).map fun s => s.modFar k q n fun x => { x with ended := true }

/-- Tokens, flights and requests of a group in its ply are discarded (21 R383, R390). -/
def emptyGroup (s : State) (k q : Nat) (g : List Nat) : State :=
  s.modCore k fun c =>
    let gone (t : Token) (n : Nat) : Bool := decide (t.ply = q) && g.contains n
    { c with
      fab := { c.fab with
        chans := c.fab.chans.map fun (i, h) => (i, { h with toks := h.toks.filter fun t => !(gone t (i / 4)) })
        flights := c.fab.flights.filter fun x => !(gone x.tok (nodeOf x.dst))
        reqs := c.fab.reqs.map fun (i, l) => (i, if g.contains i then l.filter fun y => decide (y.ply ≠ q) else l)
        park := c.fab.park.filter fun y => !(decide (y.ply = q) && g.contains y.elem) }
      streams := c.streams.map fun (i, p) => (i, if g.contains (64 + i) then { p with toks := p.toks.filter fun t => decide (t.ply ≠ q) } else p)
      engines := c.engines.map fun (i, e) =>
        (i, if g.contains (80 + i) then { e with queue := e.queue.filter (fun x => !(x.of k q)), toks := e.toks.filter fun t => decide (t.ply ≠ q) } else e) }

/-- The ENGINE_DONE record of a command at engine n (17 R327). -/
def engineDone (s : State) (k n : Nat) (c : EngCmd) : State :=
  postEvent s k
    (0x28 + n * 2 ^ 9 + c.ply * 2 ^ 11 + b2n (decide (c.code ≠ 0)) * 2 ^ 13 + c.code * 2 ^ 14 + (c.elem % 64) * 2 ^ 21 + c.rule * 2 ^ 27 +
      b2n (decide (c.elem = 64)) * 2 ^ 31 + bits c.word 0 14 * 2 ^ 32)
    c.wrote

/-- EV of a command (17 R324, R335): a remote one always reports. -/
def EngCmd.ev (c : EngCmd) : Bool := decide (c.elem = 64) || bit c.word 18

/-- CT of a command (17 R324); a remote one never emits (R335). -/
def EngCmd.ct (c : EngCmd) : Bool := bit c.word 17 && decide (c.elem < 64)

/-- What a command reports at its end: its record, and its completion token, after a fault an end token with X (17 R327). -/
def report (s : State) (k n : Nat) (c : EngCmd) : State :=
  let s := if c.ev then engineDone s k n c else s
  if c.ct && !c.gone then
    s.modEngine k n fun e => { e with toks := e.toks ++ [{ data := w64 (bits c.word 0 14), ply := c.ply, e := decide (c.code ≠ 0), x := decide (c.code ≠ 0) }] }
  else s

/-- The failed commands of a ply at an engine are dropped, their completion reported with FAULTED (17 R327, R328). -/
def dropHeld (s : State) (k q n : Nat) : State :=
  let l := ((s.core k).engine n).held.filter fun c => c.of k q
  let s := l.foldl (fun s c => report s k n c) s
  s.modEngine k n fun x => { x with held := x.held.filter fun c => !(c.of k q) }

/-- KILL acts on a quiescent group (21 R383). -/
def containGroup (s : State) (k q : Nat) (g : List Nat) : State :=
  let p := s.ply k q
  let s := (elemsOf g).foldl (fun s e => returnSlots s (p.elem e).rv.queue (p.elem e).rv.count) s
  let s := emptyGroup s k q g
  let s := (elemsOf g).foldl (fun s e => s.modElem k q e fun x => { x with stopped := true, heldB := false, markDue := 0, rv := {} }) s
  let s := s.modPly k q fun p => { p with contained := p.contained ++ g.filter fun n => !(p.contained.contains n) }
  let s := (farsOf g).foldl (fun s n =>
    match Tab.find p.fars n with
    | some x => if x.out then farEnd s k q n else s.modPly k q fun p => { p with fars := Tab.set p.fars n { x with absorb := true } }
    | none => s) s
  let s := (portsOf g).foldl (fun s n => s.modStream k n fun x => { x with queue := x.queue.filter fun c => decide (c.ply ≠ q), run := none, faulted := false, err := true, lines := [], due := [], reached := none, builds := Tab.drop x.builds 0 }) s
  (enginesOf g).foldl (fun s n => dropHeld s k q n) s

/-- Every group of a ply is contained (21 R383). -/
def allContained (p : Ply) : Bool := (nodesOf p).all p.contained.contains

/-- The records of a port that are not of a cut newer than n; of each destination the newest stands first, and `at_` are those that have reached n (21 R390). -/
def cutsUpTo (n : Nat) : List Nat → List CutRec → List CutRec
  | _, [] => []
  | at_, c :: l => if c.cut = n ∨ at_.contains c.dst then c :: cutsUpTo n (c.dst :: at_) l else cutsUpTo n at_ l

/-- The snapshot of cut n of an element. -/
def Ply.snapOf (p : Ply) (e n : Nat) : Option Snap := (Tab.look [] p.snaps e).find? fun y => decide (y.cut = n)

/-- The open rounds of RED after a rollback of group g to cut n: the contributions of its elements are those of their snapshots (07 R179, R183; 21 R390). -/
def rollReds (p : Ply) (g : List Nat) (n : Nat) : Tab (List RedPart) :=
  let others := p.reds.map fun ((i, l) : Nat × List RedPart) => (i, l.filter fun r => !(g.contains r.elem))
  g.foldl (fun t e => ((p.snapOf e n).elim [] (·.reds)).foldl (fun t (i, r) => Tab.set t i (Tab.look [] t i ++ [r])) t) others

/-- The group that a RED rule belongs to (07 R179). -/
def redGroup : Instr → Option Nat
  | .redMin _ _ _ g => some g.val
  | .redMax _ _ _ g => some g.val
  | .redSum _ _ _ g => some g.val
  | _ => none

/-- The result input of a RED rule (07 R179). -/
def redInput : Instr → Nat
  | .redMin _ _ ri _ => ri.val
  | .redMax _ _ ri _ => ri.val
  | .redSum _ _ ri _ => ri.val
  | _ => 0

/-- The slots of element e for results of RED are those of the open rounds that it has contributed to, and no others (07 R179; 21 R390) (log 18). -/
def redSlots (s : State) (k q e : Nat) : State :=
  let p := s.ply k q
  let due := ((p.rulesOf e).filter fun (_, x) => (redGroup x.act).any fun g => bit (p.elem e).redDone g).map fun (_, x) => redInput x.act
  (List.range 4).foldl (fun s j => s.modChan k (chanKey e j) fun c =>
    { c with grants := (c.grants.filter fun g => decide (g.prod ≠ 8 + q)) ++ (due.filter fun i => decide (i = j)).map fun _ => { prod := 8 + q, seen := false } }) s

/-- The run of a port from element e on: past its last element it still owes its end token (12 R269). -/
def SRun.at_ (r : SRun) (e : Nat) : SRun :=
  let last := decide (r.cmd.desc.count = some e)
  { r with e := e, last := last, eosDue := last && r.cmd.desc.eos }

/-- Rollback of a quiescent group to a cut (21 R390): registers and hidden state but the reservation and K come back, ports resume at their records; lines that a write-back left in a window are written then. -/
def rollbackGroup (s : State) (k q : Nat) (g : List Nat) (n : Nat) : State :=
  let s := emptyGroup s k q g
  let s := s.modPly k q fun p =>
    { p with
      reds := rollReds p g n
      elems := p.elems.map fun (i, x) =>
        (i, if !(g.contains i) then x else match p.snapOf i n with
          | some y => { y.st with rv := x.rv, k := x.k, stopped := false, heldB := false, markDue := 0 }
          | none => x)
      snaps := p.snaps.map fun (i, l) => (i, if g.contains i then l.dropWhile fun y => decide (y.cut ≠ n) else l) }
  let s := (elemsOf g).foldl (fun s e => redSlots s k q e) s
  let s := (enginesOf g).foldl (fun s n => s.modEngine k n fun x => { x with held := x.held.filter fun c => !(c.of k q) }) s
  (portsOf g).foldl (fun s m => s.modStream k m fun p =>
    match p.cuts.find? (fun c => decide (c.cut = n)), p.run with
    | some c, some r =>
      { p with run := some (r.at_ c.elem), faulted := false, lines := if r.cmd.desc.write then p.lines.map fun l => { l with stuck := false } else []
               cuts := cutsUpTo n [] p.cuts, due := [], reached := none }
    | _, _ => p) s

/-- s with f applied to slice id of die d. -/
def State.modSlice (s : State) (d id : Nat) (f : Slice → Slice) : State := s.modDie d fun x => { x with slices := Tab.mod {} x.slices id f }

/-- s with one fault replaced, or forgotten. -/
def setFault (s : State) (f : FaultRef) (g : Option FaultRef) : State :=
  s.modPart f.part fun p => { p with faults := p.faults.flatMap fun x => if x = f then g.toList else [x] }

/-- RESTART of a held unit (21 R382, R391): the request of the fault is issued again and checked afresh, or every parked request of its region, in the order they parked; a port resumes at its element, an engine command runs again from its first access, a count restarts at 0. -/
def restartUnit (s : State) (f : FaultRef) : State :=
  let again (y : Req) : Req := { y with st := .waiting }
  match f.src with
  | 1 =>
    if f.parked then s.modFab f.core fun b => { b with park := b.park.map fun y => if y.ply = f.ply ∧ y.st = .held then again y else y }
    else s.modReqs f.core f.elem fun l => l.map fun y => if y.ply = f.ply ∧ y.st = .held ∧ some y.no = f.req then again y else y
  | 2 => s.modStream f.core f.unit fun p => { p with faulted := false, lines := p.lines.map fun l => { l with stuck := false } }
  | 3 => s.modEngine f.core f.unit fun e =>
      let mine := e.held.filter fun c => c.of f.core f.ply
      { e with held := e.held.filter fun c => !(c.of f.core f.ply)
               queue := mine.map (fun c => { c with prog := 0, wrote := 0, done := false, code := 0 }) ++ e.queue }
  | 5 =>
    let s := s.modCtx f.core f.ctx fun c => { c with region := c.region.map fun g => { g with start := s.cyc f.core, used := 0, exhausted := false, nflt := 0 } }
    match sliceOn s f.core f.ctx with
    | some (i, _) => s.modSlice (dieOf f.core) i fun x => { x with start := s.cyc f.core, used := 0, exhausted := false }
    | none => s
  | _ => s

/-- The unit of a fault is held still (21 R378, R379): one that was restarted, rolled back or contained meanwhile holds nothing. A firing that made no request (07 R181) and a read port that sent its token with an error (12 R271) keep nothing that could show it: their faults end with the region or with a rollback of the group. -/
def stillHeld (s : State) (f : FaultRef) : Bool :=
  let c := s.core f.core
  match f.cls, f.src with
  | 1, 1 =>
    f.req.isNone || (if f.parked then c.fab.park else c.fab.reqsOf f.elem).any fun y => decide (y.ply = f.ply) && decide (y.st = .held) && decide (some y.no = f.req)
  | 1, 2 => (c.stream f.unit).faulted
  | 2, 2 => (c.stream f.unit).faulted || decide (f.cause = 0x2F)
  | 1, 3 | 2, 3 => (c.engine f.unit).held.any fun x => x.of f.core f.ply
  | 1, 5 => ((c.ctx f.ctx).region.any (·.exhausted)) || (sliceOn s f.core f.ctx).any (·.2.exhausted)
  | 2, 1 => ((s.ply f.core f.ply).elem f.elem).heldB
  | _, _ => true

end Sys2Proof.Machine
end

