-- ==== Sys2Proof/Machine/ElemInt.lean ====
section
/-! DEFINITION. The integer actions of an element (07 R158 to R161). -/
namespace Sys2Proof.Machine

/-- ln(x, T, i) of R156: lane i as an unsigned number. -/
def laneU (t : Ty) (x : Word) (i : Nat) : Nat := bits x (i * t.width) t.width
/-- sl(x, T, i) of R156: lane i as a signed number. -/
def laneS (t : Ty) (x : Word) (i : Nat) : Int := sextN (laneU t x i) t.width
/-- Signed integer types (07 R156). -/
def tySignedLane : Ty → Bool
  | .i8 | .i16 | .i32 | .i64 => true
  | _ => false
/-- num(x, T, i) of R156 for integer types. -/
def laneI (t : Ty) (x : Word) (i : Nat) : Int := if tySignedLane t then laneS t x i else (laneU t x i : Int)

/-- n lanes of w bits, lane 0 lowest (06 R145). -/
def packLanes (w : Nat) : Nat → (Nat → Nat) → Nat
  | 0, _ => 0
  | n + 1, f => packLanes w n f + (f n % 2 ^ w) * 2 ^ (n * w)

/-- The loop of R158: every lane of T from f. -/
def lanesV (t : Ty) (f : Nat → Nat) : Word := w64 (packLanes t.width t.lanes f)
/-- The loop of R158 with an integer result. -/
def lanesI (t : Ty) (f : Nat → Int) : Word := lanesV t fun i => truncI (f i) t.width
/-- sat of R158 at width w. -/
def satLane (t : Ty) (w : Nat) (y : Int) : Int := if tySignedLane t then satS y w else satU y w

/-- A lane-by-lane action of two sources (07 R158). -/
def fire2 (s : State) (d : EDst) (a b : ESrc) (t : Ty) (f : Int → Int → Int) : Out :=
  fire s d [a, b] (lanesI t fun i => f (laneI t (s.src a) i) (laneI t (s.src b) i))

/-- sh of R158: the shift count of a lane. -/
def laneShift (t : Ty) (x : Word) (i : Nat) : Nat := laneU t x i % t.width

/-- VADD: a + b, wrapping (07 R158). -/
def execVadd (d : EDst) (a b : ESrc) (t : Ty) (s : State) : Out := fire2 s d a b t fun x y => x + y

/-- VSUB: a - b, wrapping (07 R158). -/
def execVsub (d : EDst) (a b : ESrc) (t : Ty) (s : State) : Out := fire2 s d a b t fun x y => x - y

/-- VADDS: a + b, saturating (07 R158). -/
def execVadds (d : EDst) (a b : ESrc) (t : Ty) (s : State) : Out := fire2 s d a b t fun x y => satLane t t.width (x + y)

/-- VSUBS: a - b, saturating (07 R158). -/
def execVsubs (d : EDst) (a b : ESrc) (t : Ty) (s : State) : Out := fire2 s d a b t fun x y => satLane t t.width (x - y)

/-- VMUL: the low half of the product (07 R158). -/
def execVmul (d : EDst) (a b : ESrc) (t : Ty) (s : State) : Out := fire2 s d a b t fun x y => x * y

/-- VMULH: the high half of the product (07 R158). -/
def execVmulh (d : EDst) (a b : ESrc) (t : Ty) (s : State) : Out := fire2 s d a b t fun x y => (x * y) / ((2 ^ t.width : Nat) : Int)

/-- VMIN (07 R158). -/
def execVmin (d : EDst) (a b : ESrc) (t : Ty) (s : State) : Out := fire2 s d a b t fun x y => if x ≤ y then x else y

/-- VMAX (07 R158). -/
def execVmax (d : EDst) (a b : ESrc) (t : Ty) (s : State) : Out := fire2 s d a b t fun x y => if x ≤ y then y else x

/-- VMAD: a × b + c (07 R158). -/
def execVmad (d : EDst) (a b c : ESrc) (t : Ty) (s : State) : Out := 
  fire s d [a, b, c] (lanesI t fun i => laneI t (s.src a) i * laneI t (s.src b) i + laneI t (s.src c) i)

/-- VABS: the most negative value wraps (07 R158). -/
def execVabs (d : EDst) (a : ESrc) (t : Ty) (s : State) : Out := fire s d [a] (lanesI t fun i => (laneI t (s.src a) i).natAbs)

/-- VNEG (07 R158). -/
def execVneg (d : EDst) (a : ESrc) (t : Ty) (s : State) : Out := fire s d [a] (lanesI t fun i => -(laneI t (s.src a) i))

/-- VAND on all 64 bits (07 R158). -/
def execVand (d : EDst) (a b : ESrc) (s : State) : Out := fire s d [a, b] (s.src a &&& s.src b)

/-- VOR on all 64 bits (07 R158). -/
def execVor (d : EDst) (a b : ESrc) (s : State) : Out := fire s d [a, b] (s.src a ||| s.src b)

/-- VXOR on all 64 bits (07 R158). -/
def execVxor (d : EDst) (a b : ESrc) (s : State) : Out := fire s d [a, b] (s.src a ^^^ s.src b)

/-- VANDN on all 64 bits (07 R158). -/
def execVandn (d : EDst) (a b : ESrc) (s : State) : Out := fire s d [a, b] (s.src a &&& ~~~(s.src b))

/-- VNOT (07 R158). -/
def execVnot (d : EDst) (a : ESrc) (s : State) : Out := fire s d [a] (~~~(s.src a))

/-- VSHL: by the count modulo the width (07 R158). -/
def execVshl (d : EDst) (a b : ESrc) (t : Ty) (s : State) : Out := fire s d [a, b] (lanesV t fun i => laneU t (s.src a) i * 2 ^ laneShift t (s.src b) i)

/-- VSHR: logical (07 R158). -/
def execVshr (d : EDst) (a b : ESrc) (t : Ty) (s : State) : Out := fire s d [a, b] (lanesV t fun i => laneU t (s.src a) i / 2 ^ laneShift t (s.src b) i)

/-- VSRA: arithmetic (07 R158). -/
def execVsra (d : EDst) (a b : ESrc) (t : Ty) (s : State) : Out := fire s d [a, b] (lanesI t fun i => laneS t (s.src a) i / ((2 ^ laneShift t (s.src b) i : Nat) : Int))

/-- VPOPC (07 R158). -/
def execVpopc (d : EDst) (a : ESrc) (t : Ty) (s : State) : Out := fire s d [a] (lanesV t fun i => popcount (laneU t (s.src a) i) t.width)

/-- VCLZ: the width for zero (07 R158). -/
def execVclz (d : EDst) (a : ESrc) (t : Ty) (s : State) : Out := fire s d [a] (lanesV t fun i => clz (laneU t (s.src a) i) t.width)

/-- The masks of a compare: all ones in a lane that holds (07 R159, R164). -/
def maskLanes (t : Ty) (m : Nat → Bool) : Word := lanesV t fun i => if m i then 2 ^ t.width - 1 else 0

/-- VCMP: masks in D, the condition of lane 0 in a predicate (07 R159). -/
def fireCmp (s : State) (d : EDst) (a b : ESrc) (t : Ty) (p : Pred) (f : Int → Int → Bool) : Out :=
  let m := fun i => f (laneI t (s.src a) i) (laneI t (s.src b) i)
  fireP s d [a, b] (maskLanes t m) p (m 0)

/-- VCMP.eq (07 R159). -/
def execVcmpEq (d : EDst) (a b : ESrc) (t : Ty) (p : Pred) (s : State) : Out := fireCmp s d a b t p fun x y => decide (x = y)

/-- VCMP.ne (07 R159). -/
def execVcmpNe (d : EDst) (a b : ESrc) (t : Ty) (p : Pred) (s : State) : Out := fireCmp s d a b t p fun x y => decide (x ≠ y)

/-- VCMP.lt (07 R159). -/
def execVcmpLt (d : EDst) (a b : ESrc) (t : Ty) (p : Pred) (s : State) : Out := fireCmp s d a b t p fun x y => decide (x < y)

/-- VCMP.le (07 R159). -/
def execVcmpLe (d : EDst) (a b : ESrc) (t : Ty) (p : Pred) (s : State) : Out := fireCmp s d a b t p fun x y => decide (x ≤ y)

/-- VCMP.gt (07 R159). -/
def execVcmpGt (d : EDst) (a b : ESrc) (t : Ty) (p : Pred) (s : State) : Out := fireCmp s d a b t p fun x y => decide (y < x)

/-- VCMP.ge (07 R159). -/
def execVcmpGe (d : EDst) (a b : ESrc) (t : Ty) (p : Pred) (s : State) : Out := fireCmp s d a b t p fun x y => decide (y ≤ x)

/-- VSEL: the bits of A where C is set, those of B elsewhere (07 R160). -/
def execVsel (d : EDst) (a b c : ESrc) (s : State) : Out := 
  fire s d [a, b, c] ((s.src a &&& s.src c) ||| (s.src b &&& ~~~(s.src c)))

/-- Byte j of VPERM (07 R160). -/
def permByte (a b c : Word) (j : Nat) : Nat :=
  if bit c (8 * j + 7) then 0
  else
    let k := bits c (8 * j) 4
    if k < 8 then bits a (8 * k) 8 else bits b (8 * (k - 8)) 8

/-- VPERM (07 R160). -/
def execVperm (d : EDst) (a b c : ESrc) (s : State) : Out := fire s d [a, b, c] (w64 (packLanes 8 8 (permByte (s.src a) (s.src b) (s.src c))))

/-- VPACK: the lanes of A, then those of B, at half their width, saturated (07 R161). -/
def execVpack (d : EDst) (a b : ESrc) (t : Ty) (s : State) : Out := 
  fire s d [a, b] (w64 (packLanes (t.width / 2) (2 * t.lanes) fun i =>
    truncI (satLane t (t.width / 2) (if i < t.lanes then laneI t (s.src a) i else laneI t (s.src b) (i - t.lanes))) (t.width / 2)))

/-- VUNPK: the low half of the lanes at twice their width (07 R161). -/
def execVunpk (d : EDst) (a : ESrc) (t : Ty) (s : State) : Out := 
  fire s d [a] (w64 (packLanes (2 * t.width) (t.lanes / 2) fun i => truncI (laneI t (s.src a) i) (2 * t.width)))

end Sys2Proof.Machine
end

