-- ==== Sys2Proof/Machine/Float.lean ====
section
/-! DEFINITION. Numbers that are exact in mathematics, floating-point formats, rounding, conversions and the stochastic-rounding generator (06 R142 to R152). -/
namespace Sys2Proof.Machine

/-- A floating-point format (06 R142): total bits, mantissa bits, bias, largest finite encoding, encoding of infinity where there is one, canonical NaN, and whether the top exponent field holds only infinity and NaN. -/
structure Fmt where
  bits : Nat
  man : Nat
  bias : Nat
  max : Nat
  inf : Option Nat
  nan : Nat
  top : Bool
  deriving DecidableEq, Repr

/-- FP64 (06 R142). -/
def fp64 : Fmt := { bits := 64, man := 52, bias := 1023, max := 0x7FEFFFFFFFFFFFFF, inf := some 0x7FF0000000000000, nan := 0x7FF8000000000000, top := true }
/-- FP32 (06 R142). -/
def fp32 : Fmt := { bits := 32, man := 23, bias := 127, max := 0x7F7FFFFF, inf := some 0x7F800000, nan := 0x7FC00000, top := true }
/-- FP16 (06 R142). -/
def fp16 : Fmt := { bits := 16, man := 10, bias := 15, max := 0x7BFF, inf := some 0x7C00, nan := 0x7E00, top := true }
/-- BF16 (06 R142). -/
def bf16 : Fmt := { bits := 16, man := 7, bias := 127, max := 0x7F7F, inf := some 0x7F80, nan := 0x7FC0, top := true }
/-- E5M2 (06 R142). -/
def e5m2 : Fmt := { bits := 8, man := 2, bias := 15, max := 0x7B, inf := some 0x7C, nan := 0x7E, top := true }
/-- E4M3: saturating, NaN only where every bit below the sign is set (06 R142, R143, R147). -/
def e4m3 : Fmt := { bits := 8, man := 3, bias := 7, max := 0x7E, inf := none, nan := 0x7F, top := false }
/-- E2M1: saturating, no NaN; a NaN converts to +0 (06 R142, R147, R152). -/
def e2m1 : Fmt := { bits := 4, man := 1, bias := 1, max := 0x7, inf := none, nan := 0, top := false }

/-- The format of a floating-point type; FP64 for others. -/
def fmtOf : Ty → Fmt
  | .f16 => fp16
  | .bf16 => bf16
  | .f32 => fp32
  | .e4m3 => e4m3
  | .e5m2 => e5m2
  | .e2m1 => e2m1
  | _ => fp64

/-- A floating-point type (02 R38). -/
def tyFloat : Ty → Bool
  | .f16 | .bf16 | .f32 | .f64 | .e4m3 | .e5m2 | .e2m1 => true
  | _ => false

/-- A value: NaN, an infinity, a signed zero, or ± m × 2^e with m above 0. `neg` is the sign. -/
inductive Num
  | nan
  | inf (neg : Bool)
  | zero (neg : Bool)
  | fin (neg : Bool) (m : Nat) (e : Int)
  deriving DecidableEq, Repr

/-- The value of an encoding (06 R143). -/
def decodeFp (f : Fmt) (x : Nat) : Num :=
  let neg := x.testBit (f.bits - 1)
  let y := x % 2 ^ (f.bits - 1)
  let e := y / 2 ^ f.man
  let m := y % 2 ^ f.man
  if f.top && decide (e = 2 ^ (f.bits - 1 - f.man) - 1) then (if m = 0 then .inf neg else .nan)
  else if !f.top && decide (f.bits = 8) && decide (y = f.nan) then .nan
  else if e = 0 then (if m = 0 then .zero neg else .fin neg m (1 - (f.bias : Int) - f.man))
  else .fin neg (2 ^ f.man + m) ((e : Int) - f.bias - f.man)

/-- An integer as a value. -/
def numOfInt (i : Int) : Num := if i = 0 then .zero false else .fin (decide (i < 0)) i.natAbs 0

/-- val of R156, and num of an integer type: lane i as a value. -/
def laneNum (t : Ty) (x : Word) (i : Nat) : Num := if tyFloat t then decodeFp (fmtOf t) (laneU t x i) else numOfInt (laneI t x i)

/-- Number of bits of a natural. -/
def bitLen (m : Nat) : Nat := if m = 0 then 0 else m.log2 + 1

/-- ± m × 2^e cut at 2^q: the whole multiples of 2^q below it, and the rest as a fraction r / 2^s. -/
def cutAt (m : Nat) (e q : Int) : Nat × Nat × Nat :=
  if q ≤ e then (m * 2 ^ (e - q).toNat, 0, 0)
  else
    let s := (q - e).toNat
    (m / 2 ^ s, m % 2 ^ s, s)

/-- The choice of R148 between the lower and the upper neighbour in magnitude: true for the upper. `even` says that the lower is even. -/
def roundUp (rm : Rm) (neg even : Bool) (r s draw : Nat) : Bool :=
  match rm with
  | .rne | .dyn => decide (2 ^ s < 2 * r) || (decide (2 * r = 2 ^ s) && !even)
  | .rna => decide (2 ^ s ≤ 2 * r)
  | .rtz => false
  | .rdn => neg
  | .rup => !neg
  | .sr => decide (draw < r * 2 ^ 24 / 2 ^ s)

/-- The choice of R148 where |x| ≥ OV: true for OV. -/
def roundUpOver (rm : Rm) (neg : Bool) : Bool :=
  match rm with
  | .rtz => false
  | .rdn => neg
  | .rup => !neg
  | _ => true

/-- Sign bit of a format. -/
def signOf (f : Fmt) (neg : Bool) : Nat := if neg then 2 ^ (f.bits - 1) else 0

/-- round(x, rm) of R148 into a format, as an encoding; `draw` is the draw of R150. -/
def roundFp (f : Fmt) (rm : Rm) (draw : Nat) (x : Num) : Nat :=
  match x with
  | .nan => f.nan
  | .inf neg => signOf f neg + f.inf.getD f.max
  | .zero neg => signOf f neg
  | .fin neg m e =>
    let emin : Int := 1 - f.bias
    let p : Int := e + bitLen m - 1
    let q : Int := (if p < emin then emin else p) - f.man
    let (k, r, s) := cutAt m e q
    let lo : Int := (q - (emin - f.man)) * ((2 ^ f.man : Nat) : Int) + k
    let past := signOf f neg + f.inf.getD f.max
    if (f.max : Int) < lo then (if roundUpOver rm neg then past else signOf f neg + f.max)
    else
      let y := lo.toNat + (if r ≠ 0 ∧ roundUp rm neg (decide (k % 2 = 0)) r s draw then 1 else 0)
      if f.max < y then past else signOf f neg + y

/-- x rounded to an integer (06 R151). -/
def roundInt (rm : Rm) (draw : Nat) (x : Num) : Int :=
  match x with
  | .fin neg m e =>
    let (k, r, s) := cutAt m e 0
    let y : Int := k + (if r ≠ 0 ∧ roundUp rm neg (decide (k % 2 = 0)) r s draw then 1 else 0)
    if neg then -y else y
  | _ => 0

/-- sat of an integer into a type of width w (06 R151). -/
def satTy (t : Ty) (y : Int) : Nat := truncI (satLane t t.width y) t.width

/-- A value as a lane of a type: round into a floating-point type, saturate into an integer type (06 R151, R152). -/
def convNum (t : Ty) (rm : Rm) (draw : Nat) (x : Num) : Nat :=
  if tyFloat t then roundFp (fmtOf t) rm draw x
  else match x with
    | .nan => 0
    | .inf true => satTy t (-(2 ^ 70))
    | .inf false => satTy t (2 ^ 70)
    | .zero _ => 0
    | .fin .. => satTy t (roundInt rm draw x)

/-- conv of R166: a lane of one type as a lane of another; types of one width and kind are copied, a NaN made canonical. -/
def convLane (ts td : Ty) (rm : Rm) (draw x : Nat) : Nat :=
  if ts = td ∧ !(tyFloat ts) then x
  else if tyFloat ts then convNum td rm draw (decodeFp (fmtOf ts) x)
  else convNum td rm draw (numOfInt (if tySignedLane ts then sextN x ts.width else x))

/-- The sign of an exact zero that is not a sum of zeros of one sign (06 R146). -/
def zeroSign (rm : Rm) : Bool := decide (rm = .rdn)

/-- Negation. -/
def Num.neg : Num → Num
  | .nan => .nan
  | .inf b => .inf (!b)
  | .zero b => .zero (!b)
  | .fin b m e => .fin (!b) m e

/-- A value with its sign as an integer at exponent e0, at most its own exponent. -/
def Num.atExp (e0 : Int) : Num → Int
  | .fin b m e => let v : Int := m * 2 ^ (e - e0).toNat; if b then -v else v
  | _ => 0

/-- Exponent of a value. -/
def Num.exp : Num → Option Int
  | .fin _ _ e => some e
  | _ => none

/-- An integer at exponent e0 as a value, an exact zero with the sign z. -/
def numAt (e0 : Int) (z : Bool) (v : Int) : Num := if v = 0 then .zero z else .fin (decide (v < 0)) v.natAbs e0

/-- The exact sum of a list of values (06 R146, R154; 07 R168): NaN, an infinity, or the sum; an exact zero is -0 where every member is -0, +0 where every member is +0, else as the mode says. -/
def sumNum (rm : Rm) (l : List Num) : Num :=
  if l.any (· = .nan) || (l.contains (.inf true) && l.contains (.inf false)) then .nan
  else if l.contains (.inf true) then .inf true
  else if l.contains (.inf false) then .inf false
  else
    let e0 := (l.filterMap Num.exp).foldl (fun a b => if b < a then b else a) 5000
    let z := if l.all (· = .zero true) then true else if l.all (· = .zero false) then false else zeroSign rm
    numAt e0 z ((l.map (Num.atExp e0)).foldl (· + ·) 0)

/-- The exact product (06 R146). -/
def mulNum (a b : Num) : Num :=
  match a, b with
  | .nan, _ | _, .nan => .nan
  | .inf _, .zero _ | .zero _, .inf _ => .nan
  | .inf x, .inf y | .inf x, .fin y _ _ | .fin x _ _, .inf y => .inf (x != y)
  | .zero x, .zero y | .zero x, .fin y _ _ | .fin x _ _, .zero y => .zero (x != y)
  | .fin x m e, .fin y n g => .fin (x != y) (m * n) (e + g)

/-- A value just above v × 2^e where v is not exact, or exactly that; a nonzero rest counts as half a unit, which no neighbour of R148 can tell from the true rest. -/
def sticky (neg : Bool) (v : Nat) (e : Int) (exact : Bool) : Num :=
  if exact then (if v = 0 then .zero neg else .fin neg v e) else .fin neg (2 * v + 1) (e - 1)

/-- The quotient (07 R162), exact or with a sticky unit 128 bits below its leading bit. -/
def divNum (a b : Num) : Num :=
  match a, b with
  | .nan, _ | _, .nan => .nan
  | .inf _, .inf _ | .zero _, .zero _ => .nan
  | .inf x, .zero y | .inf x, .fin y _ _ | .fin x _ _, .zero y => .inf (x != y)
  | .zero x, .inf y | .zero x, .fin y _ _ | .fin x _ _, .inf y => .zero (x != y)
  | .fin x m e, .fin y n g =>
    let k := bitLen n + 128
    sticky (x != y) (m * 2 ^ k / n) (e - g - k) (decide (m * 2 ^ k % n = 0))

/-- One Newton step towards the square root of n from above. -/
def isqrtStep (n : Nat) : Nat → Nat → Nat
  | 0, x => x
  | k + 1, x => let y := (x + n / x) / 2; if y < x then isqrtStep n k y else x

/-- floor(√n). -/
def isqrt (n : Nat) : Nat := if n = 0 then 0 else isqrtStep n 64 (2 ^ ((bitLen n + 1) / 2))

/-- The square root of m × 2^e, with at least 128 bits. -/
def sqrtFin (m : Nat) (e : Int) : Num :=
  let k : Nat := 256 + (if (e - 256) % 2 = 0 then 0 else 1)
  let n := m * 2 ^ k
  let r := isqrt n
  sticky false r ((e - k) / 2) (decide (r * r = n))

/-- FSQRT (07 R162). -/
def sqrtNum : Num → Num
  | .nan => .nan
  | .zero b => .zero b
  | .inf false => .inf false
  | .inf true => .nan
  | .fin true _ _ => .nan
  | .fin false m e => sqrtFin m e

/-- 1 / √(m × 2^e): floor(2^j / √n) is the root of floor(2^(2j) / n). -/
def rsqFin (m : Nat) (e : Int) : Num :=
  let (n, g) := if e % 2 = 0 then (m, e) else (2 * m, e - 1)
  let j := bitLen n + 128
  let r := isqrt (2 ^ (2 * j) / n)
  sticky false r (-(j : Int) - g / 2) (decide (r * r * n = 2 ^ (2 * j)))

/-- FRSQ (07 R162). -/
def rsqNum : Num → Num
  | .nan => .nan
  | .zero b => .inf b
  | .inf false => .zero false
  | .inf true => .nan
  | .fin true _ _ => .nan
  | .fin false m e => rsqFin m e

/-- Fraction bits that FEXP2 and FLOG2 work with (log 12). -/
def fxBits : Nat := 256

/-- The terms z^(2k+1) / (2k+1) from k on, n of them, added up; zp is the power at hand. -/
def atanhSum (z2 : Nat) : Nat → Nat → Nat → Nat
  | 0, _, _ => 0
  | n + 1, k, zp => zp / (2 * k + 1) + atanhSum z2 n (k + 1) (zp * z2 / 2 ^ fxBits)

/-- 2 × atanh(a / b) with `fxBits` fraction bits, for a / b up to 1/3: ln((b + a) / (b - a)). -/
def lnRatio (a b : Nat) : Nat :=
  let z := a * 2 ^ fxBits / b
  2 * atanhSum (z * z / 2 ^ fxBits) 90 0 z

/-- ln 2 with `fxBits` fraction bits. -/
def ln2 : Nat := lnRatio 1 3

/-- The terms x^k / k! from k on, n of them, added up; t is the term at hand. -/
def expSum (x : Nat) : Nat → Nat → Nat → Nat
  | 0, _, _ => 0
  | n + 1, k, t => t + expSum x n (k + 1) (t * x / 2 ^ fxBits / (k + 1))

/-- 2^a for a = ± m × 2^e (07 R162): a whole power exactly, else the first `fxBits` - 64 bits and a sticky unit (log 12). -/
def exp2Fin (neg : Bool) (m : Nat) (e : Int) : Num :=
  if (12 : Int) < e + bitLen m then .fin false 1 (if neg then -5000 else 5000)
  else
    let (k, r, s) := cutAt m e 0
    if r = 0 then .fin false 1 (if neg then -(k : Int) else k)
    else
      let i : Int := if neg then -(k : Int) - 1 else k
      let fr := if neg then 2 ^ s - r else r
      let v := expSum (fr * ln2 / 2 ^ s) 70 0 (2 ^ fxBits)
      sticky false (v / 2 ^ 64) (i - (fxBits - 64 : Nat)) false

/-- FEXP2 (07 R162). -/
def exp2Num : Num → Num
  | .nan => .nan
  | .inf true => .zero false
  | .inf false => .inf false
  | .zero _ => .fin false 1 0
  | .fin b m e => exp2Fin b m e

/-- log2 of m × 2^e (07 R162): exact for a power of two, else its first `fxBits` - 64 fraction bits and a sticky unit. -/
def log2Fin (m : Nat) (e : Int) : Num :=
  let n := m.log2
  let i : Int := e + n
  if m = 2 ^ n then (if i = 0 then .zero false else .fin (decide (i < 0)) i.natAbs 0)
  else
    let l := lnRatio (m - 2 ^ n) (m + 2 ^ n) * 2 ^ fxBits / ln2
    let p := fxBits - 64
    let t : Int := i * ((2 ^ p : Nat) : Int) + (l / 2 ^ 64 : Nat)
    if 0 ≤ t then sticky false t.toNat (-(p : Int)) false else sticky true (-t - 1).toNat (-(p : Int)) false

/-- FLOG2 (07 R162). -/
def log2Num : Num → Num
  | .nan => .nan
  | .zero _ => .inf true
  | .inf false => .inf false
  | .inf true => .nan
  | .fin true _ _ => .nan
  | .fin false m e => log2Fin m e

/-- One step of the generator and its draw (06 R149). -/
def srStep (g : Word) : Word × Nat :=
  let g := g ^^^ (g <<< 13)
  let g := g ^^^ (g >>> 7)
  let g := g ^^^ (g <<< 17)
  (g, bits g 40 24)

/-- n draws in order (06 R150) (log 82). -/
def srDraws : Nat → Word → List Nat × Word
  | 0, g => ([], g)
  | n + 1, g =>
    let (g, u) := srStep g
    let (us, g) := srDraws n g
    (u :: us, g)

/-- The draws that n rounded lanes take under a resolved mode (06 R150) (log 82). -/
def takeDraws (s : State) (rm : Rm) (n : Nat) : List Nat × State :=
  if rm = .sr then
    let (us, g) := srDraws n (s.core s.actor.core).seed
    (us, s.setSeed s.actor.core s.actor.elem g)
  else ([], s)

/-- The mode that FRM holds (01 R17). -/
def frmMode (n : Nat) : Rm := ([Rm.rne, .rtz, .rdn, .rup, .rna, .sr][n]?).getD .rne

/-- RM of the firing, DYN resolved to FRM of the context of its ply (01 R17, 07 R156). -/
def State.mode (s : State) (rm : Rm) : Rm :=
  if rm = .dyn then frmMode (s.ctx s.actor.core (s.ply s.actor.core s.actor.ply).ctx).frm else rm

end Sys2Proof.Machine
end

