-- ==== Sys2Proof/Machine/ElemFloat.lean ====
section
/-! DEFINITION. The floating-point actions of an element (07 R162 to R168). -/
namespace Sys2Proof.Machine

/-- A lane-by-lane action that rounds: f gives the exact result of a lane under the resolved mode (06 R150, 07 R162). -/
def fireF (s : State) (d : EDst) (l : List ESrc) (t : Ty) (rm : Rm) (f : Rm → Nat → Num) : Out :=
  fireDraw s d l fun s =>
    let (us, s') := takeDraws s (s.mode rm) t.lanes
    (lanesV t fun i => roundFp (fmtOf t) (s.mode rm) ((us[i]?).getD 0) (f (s.mode rm) i), s')

/-- A lane is NaN. -/
def isNan (t : Ty) (x : Nat) : Bool := decide (decodeFp (fmtOf t) x = .nan)
/-- Magnitude bits of a lane. -/
def magOf (t : Ty) (x : Nat) : Nat := x % 2 ^ (t.width - 1)
/-- Sign bit of a lane. -/
def negOf (t : Ty) (x : Nat) : Bool := x.testBit (t.width - 1)
/-- The order of encodings that are not NaN, -0 below +0 (07 R163). -/
def keyMin (t : Ty) (x : Nat) : Int := if negOf t x then -(magOf t x : Int) - 1 else magOf t x
/-- The order of encodings that are not NaN, -0 equal to +0 (07 R164). -/
def keyCmp (t : Ty) (x : Nat) : Int := if negOf t x then -(magOf t x : Int) else magOf t x

/-- A lane of FMIN, or of FMAX with mx (07 R163). -/
def minLane (t : Ty) (mx : Bool) (a b : Nat) : Nat :=
  if isNan t a then (if isNan t b then (fmtOf t).nan else b)
  else if isNan t b then a
  else if mx then (if keyMin t a ≤ keyMin t b then b else a)
  else if keyMin t a ≤ keyMin t b then a else b

/-- FCMP: masks in D and the condition of lane 0 in a predicate; `un` is the answer where an operand is NaN (07 R164). -/
def fireFcmp (s : State) (d : EDst) (a b : ESrc) (t : Ty) (p : Pred) (un : Bool) (f : Int → Int → Bool) : Out :=
  let m := fun i =>
    let x := laneU t (s.src a) i
    let y := laneU t (s.src b) i
    if isNan t x || isNan t y then un else f (keyCmp t x) (keyCmp t y)
  fireP s d [a, b] (maskLanes t m) p (m 0)

/-- The class mask of a lane (07 R165). -/
def classOf (t : Ty) (x : Nat) : Nat :=
  match decodeFp (fmtOf t) x with
  | .nan => 256
  | .inf b => if b then 1 else 128
  | .zero b => if b then 8 else 16
  | .fin b _ _ =>
    if magOf t x < 2 ^ (fmtOf t).man then (if b then 4 else 32) else (if b then 2 else 64)

/-- num of a lane for a firing's source. -/
def State.num (s : State) (t : Ty) (x : ESrc) (i : Nat) : Num := laneNum t (s.src x) i

/-- FADD (07 R162). -/
def execFadd (d : EDst) (a b : ESrc) (t : Ty) (rm : Rm) (s : State) : Out := fireF s d [a, b] t rm fun m i => sumNum m [s.num t a i, s.num t b i]

/-- FSUB (07 R162). -/
def execFsub (d : EDst) (a b : ESrc) (t : Ty) (rm : Rm) (s : State) : Out := fireF s d [a, b] t rm fun m i => sumNum m [s.num t a i, (s.num t b i).neg]

/-- FMUL (07 R162). -/
def execFmul (d : EDst) (a b : ESrc) (t : Ty) (rm : Rm) (s : State) : Out := fireF s d [a, b] t rm fun _ i => mulNum (s.num t a i) (s.num t b i)

/-- FFMA: one rounding (07 R162). -/
def execFfma (d : EDst) (a b c : ESrc) (t : Ty) (rm : Rm) (s : State) : Out := 
  fireF s d [a, b, c] t rm fun m i => sumNum m [mulNum (s.num t a i) (s.num t b i), s.num t c i]

/-- FMIN (07 R163). -/
def execFmin (d : EDst) (a b : ESrc) (t : Ty) (s : State) : Out := 
  fire s d [a, b] (lanesV t fun i => minLane t false (laneU t (s.src a) i) (laneU t (s.src b) i))

/-- FMAX (07 R163). -/
def execFmax (d : EDst) (a b : ESrc) (t : Ty) (s : State) : Out := 
  fire s d [a, b] (lanesV t fun i => minLane t true (laneU t (s.src a) i) (laneU t (s.src b) i))

/-- FABS: the sign bit cleared, every other bit kept (07 R162). -/
def execFabs (d : EDst) (a : ESrc) (t : Ty) (s : State) : Out := fire s d [a] (lanesV t fun i => magOf t (laneU t (s.src a) i))

/-- FNEG: the sign bit inverted, every other bit kept (07 R162). -/
def execFneg (d : EDst) (a : ESrc) (t : Ty) (s : State) : Out := fire s d [a] (lanesV t fun i => laneU t (s.src a) i + 2 ^ (t.width - 1))

/-- FCMP.eq (07 R164). -/
def execFcmpEq (d : EDst) (a b : ESrc) (t : Ty) (p : Pred) (s : State) : Out := fireFcmp s d a b t p false fun x y => decide (x = y)

/-- FCMP.ne (07 R164). -/
def execFcmpNe (d : EDst) (a b : ESrc) (t : Ty) (p : Pred) (s : State) : Out := fireFcmp s d a b t p true fun x y => decide (x ≠ y)

/-- FCMP.lt (07 R164). -/
def execFcmpLt (d : EDst) (a b : ESrc) (t : Ty) (p : Pred) (s : State) : Out := fireFcmp s d a b t p false fun x y => decide (x < y)

/-- FCMP.le (07 R164). -/
def execFcmpLe (d : EDst) (a b : ESrc) (t : Ty) (p : Pred) (s : State) : Out := fireFcmp s d a b t p false fun x y => decide (x ≤ y)

/-- FCMP.gt (07 R164). -/
def execFcmpGt (d : EDst) (a b : ESrc) (t : Ty) (p : Pred) (s : State) : Out := fireFcmp s d a b t p false fun x y => decide (y < x)

/-- FCMP.ge (07 R164). -/
def execFcmpGe (d : EDst) (a b : ESrc) (t : Ty) (p : Pred) (s : State) : Out := fireFcmp s d a b t p false fun x y => decide (y ≤ x)

/-- FCMP.un (07 R164). -/
def execFcmpUn (d : EDst) (a b : ESrc) (t : Ty) (p : Pred) (s : State) : Out := fireFcmp s d a b t p true fun _ _ => false

/-- FCLASS (07 R165). -/
def execFclass (d : EDst) (a : ESrc) (t : Ty) (s : State) : Out := fire s d [a] (lanesV t fun i => classOf t (laneU t (s.src a) i))

/-- FDIV (07 R162). -/
def execFdiv (d : EDst) (a b : ESrc) (t : Ty) (rm : Rm) (s : State) : Out := fireF s d [a, b] t rm fun _ i => divNum (s.num t a i) (s.num t b i)

/-- FSQRT (07 R162). -/
def execFsqrt (d : EDst) (a : ESrc) (t : Ty) (rm : Rm) (s : State) : Out := fireF s d [a] t rm fun _ i => sqrtNum (s.num t a i)

/-- FRSQ (07 R162). -/
def execFrsq (d : EDst) (a : ESrc) (t : Ty) (rm : Rm) (s : State) : Out := fireF s d [a] t rm fun _ i => rsqNum (s.num t a i)

/-- FEXP2 (07 R162). -/
def execFexp2 (d : EDst) (a : ESrc) (t : Ty) (rm : Rm) (s : State) : Out := fireF s d [a] t rm fun _ i => exp2Num (s.num t a i)

/-- FLOG2 (07 R162). -/
def execFlog2 (d : EDst) (a : ESrc) (t : Ty) (rm : Rm) (s : State) : Out := fireF s d [a] t rm fun _ i => log2Num (s.num t a i)

/-- FRCP (07 R162). -/
def execFrcp (d : EDst) (a : ESrc) (t : Ty) (rm : Rm) (s : State) : Out := fireF s d [a] t rm fun _ i => divNum (numOfInt 1) (s.num t a i)

/-- A floating-point type holds every value of another (06 R142, R151). -/
def tyHolds (ts td : Ty) : Bool :=
  match td with
  | .f64 => tyFloat ts
  | .f32 => tyFloat ts && decide (ts ≠ .f64)
  | .f16 | .bf16 => ts = td || [Ty.e4m3, .e5m2, .e2m1].contains ts
  | .e4m3 | .e5m2 => ts = td || decide (ts = .e2m1)
  | _ => decide (ts = td)

/-- A conversion rounds, and so draws under SR: not between integers, nor into a type that holds every value of the source (06 R150, R151). -/
def cvtRounds (ts td : Ty) : Bool := (tyFloat ts || tyFloat td) && !(tyFloat ts && tyFloat td && tyHolds ts td)

/-- The mode of an action that rounds (06 R150; 07 R156). -/
def roundsBy : Instr → Option Rm
  | .fadd _ _ _ _ rm | .fsub _ _ _ _ rm | .fmul _ _ _ _ rm | .ffma _ _ _ _ _ rm | .fdiv _ _ _ _ rm => some rm
  | .fsqrt _ _ _ rm | .frcp _ _ _ rm | .frsq _ _ _ rm | .fexp2 _ _ _ rm | .flog2 _ _ _ rm => some rm
  | .cvt _ _ ts td _ rm => if cvtRounds ts td then some rm else none
  | .crsub _ _ _ _ rm => some rm
  | .dot _ _ _ _ t rm => if tyFloat t then some rm else none
  | _ => none

/-- A firing may write in the present ac: one that draws does so after those of lower elements only (06 R150). -/
def drawsInOrder (s : State) (i : Instr) : Bool :=
  match roundsBy i with
  | some rm => decide (s.mode rm ≠ .sr) || s.mayDraw s.actor.core s.actor.elem
  | none => true

/-- CVT: lanes of one type into lanes of another, merged into the old D where the destination has more (07 R166). -/
def execCvt (d : EDst) (a : ESrc) (ts td : Ty) (off : BitVec 4) (rm : Rm) (s : State) : Out :=
  fireDraw s d ([a] ++ dstSrc d) fun s =>
    let m := s.mode rm
    let n := if ts.lanes < td.lanes then ts.lanes else td.lanes
    let (us, s') := if cvtRounds ts td then takeDraws s m n else ([], s)
    let o := off.toNat
    if ts.lanes < td.lanes then
      (lanesV td fun i =>
        if o ≤ i ∧ i < o + n then convLane ts td m ((us[i - o]?).getD 0) (laneU ts (s.src a) (i - o)) else laneU td (s.oldD d) i, s')
    else (lanesV td fun i => convLane ts td m ((us[i]?).getD 0) (laneU ts (s.src a) (o + i)), s')

/-- CRSUB: the exact FP64 difference rounded once into a lane of D (07 R167). -/
def execCrsub (d : EDst) (a b : ESrc) (lane : Bool) (rm : Rm) (s : State) : Out :=
  fireDraw s d ([a, b] ++ dstSrc d) fun s =>
    let m := s.mode rm
    let (us, s') := takeDraws s m 1
    let y := roundFp fp32 m (us.headD 0) (sumNum m [s.num .f64 a 0, (s.num .f64 b 0).neg])
    (lanesV .f32 fun i => if i = b2n lane then y else laneU .f32 (s.oldD d) i, s')

/-- The integer dot product of two sources (07 R168). -/
def dotInt (t : Ty) (a b : Word) : Int := ((List.range t.lanes).map fun i => laneI t a i * laneI t b i).foldl (· + ·) 0

/-- DOT: the products and lane 0 of C, summed exactly and rounded or saturated once; lane 1 of C passes (07 R168). -/
def execDot (d : EDst) (a b c : ESrc) (t : Ty) (rm : Rm) (s : State) : Out :=
  fireDraw s d [a, b, c] fun s =>
    let hi := bits (s.src c) 32 32 * 2 ^ 32
    if tyFloat t then
      let m := s.mode rm
      let (us, s') := takeDraws s m 1
      let x := sumNum m (laneNum .f32 (s.src c) 0 :: (List.range t.lanes).map fun i => mulNum (s.num t a i) (s.num t b i))
      (w64 (hi + roundFp fp32 m (us.headD 0) x), s')
    else (w64 (hi + truncI (satS (laneS .i32 (s.src c) 0 + dotInt t (s.src a) (s.src b)) 32) 32), s)

end Sys2Proof.Machine
end

