-- ==== Sys2Proof/Machine/Loader.lean ====
section
/-! DEFINITION. The loader: configuration images, the checks on them in their order, the configuration cache, and what a load leaves in a ply (03 R65; 05 R104, R106, R114 to R116; 07 R171 to R180; 17 R325). -/
namespace Sys2Proof.Machine

/-- n bytes at offset o. -/
def cut (bs : List Byte) (o n : Nat) : List Byte := (bs.drop o).take n
/-- The little-endian field of n bytes at offset o (05 R114). -/
def fld (bs : List Byte) (o n : Nat) : Nat := ofBytesLE (cut bs o n)
/-- Bytes that are all zero. -/
def allZero (bs : List Byte) : Bool := bs.all (· = 0)

/-- The offset of the first header field that R114 refuses; ENTRY names an input channel or nothing (05 R114, R115 step 3) (log 96). -/
def headerBad (h : List Byte) : Option Nat :=
  let size := fld h 0x10 4
  let entry := fld h 0x18 2
  (([(0x00, fld h 0x00 4 == 0x4F4E4346), (0x04, fld h 0x04 2 == 1), (0x06, decide (1 ≤ fld h 0x06 1 ∧ fld h 0x06 1 ≤ 64)),
     (0x07, decide (fld h 0x07 1 ≤ 64)), (0x0C, decide (fld h 0x0C 2 ≤ 256)), (0x0E, decide (fld h 0x0E 1 ≤ 8)), (0x0F, fld h 0x0F 1 == 0),
     (0x10, decide (size % 16 = 0 ∧ 80 ≤ size ∧ size ≤ 24576)), (0x16, decide (fld h 0x16 1 < 16)), (0x17, fld h 0x17 1 == 0),
     (0x18, entry == 0xFFFF || decide (entry < 0x1000 ∧ entry % 16 = 0)), (0x1A, allZero (cut h 0x1A 38))] : List (Nat × Bool)).find?
    fun (_, ok) => !ok).map Prod.fst

/-- The action of a rule record: the canonical word and what it decodes to, or a cause code (03 R65; 05 R114, R115 step 6). A short action in an image of dictionary ID 0 is found here, at its record (log 109). -/
def actionOf (did : Nat) (bank : Tab DictEntry) (r : List Byte) : Except Nat (Code × Instr) :=
  let form := fld r 4 1
  let size := match form with
    | 0 => 8
    | 1 => 2
    | _ => 4
  let tag := match form with
    | 0 => 2
    | 1 => 0
    | _ => 1
  if 2 < form ∨ !(allZero (cut r 5 3)) ∨ !(allZero (cut r (8 + size) (8 - size))) ∨ fld r 8 2 / 2 ^ 14 ≠ tag then .error 0x30
  else if form ≠ 0 ∧ did = 0 then .error 0x0A
  else
    match (match form with
      | 0 => Expanded.word (wordOfBytes (cut r 8 8))
      | 1 => expandS16 bank (fld r 8 2)
      | _ => expandS32 bank (fld r 8 2 * 65536 + fld r 10 2)) with
    | .bad c => .error c
    | .word w =>
      match decodeElem w with
      | .bad c => .error c.code
      | .ok _ i => .ok (w, i)

/-- A rule record as read: its address, its trigger word, its action. -/
structure RawRule where
  at_ : Nat
  trig : BitVec 32
  act : Except Nat (Code × Instr)

/-- An element record as read: its address, its header, its rules. -/
structure RawElem where
  at_ : Nat
  hdr : List Byte
  rules : List RawRule

/-- A route record as read: its address and its bytes. -/
structure RawRoute where
  at_ : Nat
  bytes : List Byte

/-- The element of an element record. -/
def RawElem.pos (x : RawElem) : Nat := fld x.hdr 0 1 % 8 * 8 + fld x.hdr 1 1 % 8
/-- The source endpoint of a route record. -/
def RawRoute.src (r : RawRoute) : Nat := fld r.bytes 0 2
/-- The destination endpoints of a route record. -/
def RawRoute.dests (r : RawRoute) : List Nat := (List.range (min 4 (fld r.bytes 2 1))).map fun i => fld r.bytes (4 + 2 * i) 2

/-- Rule record j of the element record whose rules begin at o. -/
def rawRule (bs : List Byte) (base did : Nat) (bank : Tab DictEntry) (o : Nat) : RawRule :=
  { at_ := base + o, trig := BitVec.ofNat 32 (fld bs o 4), act := actionOf did bank (cut bs o 16) }

/-- n element records from offset o on, and the offset after them. -/
def rawElems (bs : List Byte) (base did : Nat) (bank : Tab DictEntry) : Nat → Nat → List RawElem × Nat
  | 0, o => ([], o)
  | n + 1, o =>
    let k := fld bs (o + 2) 1
    let (l, e) := rawElems bs base did bank n (o + 16 + 16 * k)
    ({ at_ := base + o, hdr := cut bs o 16, rules := (List.range k).map fun j => rawRule bs base did bank (o + 16 + 16 * j) } :: l, e)

/-- The endpoint of an input or output channel (05 R114). -/
def chanCode (e ch : Nat) : Nat := e * 64 + ch * 16
/-- The endpoint of an engine port (05 R114). -/
def engineCode (n : Nat) : Nat := 0x2000 + n

/-- An endpoint of R114 as the source or the destination of a route; e3 and the selection port are no source (log 45). -/
def endptOf (c : Nat) (dest : Bool) : Option Endpt :=
  match c / 4096 with
  | 0 => if c % 16 = 0 then some (.chan (c / 64) (nbits c 4 2)) else none
  | 1 => if nbits c 4 8 = 0 then some (.stream (c % 16)) else none
  | 2 => if nbits c 4 8 = 0 ∧ c % 16 < (if dest then 4 else 3) then some (.engine (c % 16)) else none
  | 3 => if nbits c 4 8 = 0 ∧ c % 16 < 8 then some (.far (c % 16)) else none
  | 4 => if dest && decide (c % 4096 = 0) then some .select else none
  | _ => none

/-- A route of the image feeds an input. -/
def fedBy (rs : List RawRoute) (e ch : Nat) : Bool := rs.any fun r => r.dests.contains (chanCode e ch)
/-- A route of the image leaves an output. -/
def leavesFrom (rs : List RawRoute) (e ch : Nat) : Bool := rs.any fun r => decide (r.src = chanCode e ch)

/-- A mask lies within another. -/
def within (a b : Nat) : Bool := decide (a &&& b = a)

/-- What RED reduces: its operation, type, result input and group (07 R179). -/
def redOf : Instr → Option (Nat × Ty × Nat × Nat)
  | .redMin _ t ri g => some (0, t, ri.val, g.val)
  | .redMax _ t ri g => some (1, t, ri.val, g.val)
  | .redSum _ t ri g => some (2, t, ri.val, g.val)
  | _ => none

/-- The actions of an element record that decode. -/
def RawElem.acts (x : RawElem) : List Instr := x.rules.filterMap fun r => match r.act with
  | .ok (_, i) => some i
  | .error _ => none

/-- The inputs whose head an action reads, tag0 among them (02 R46; 05 R104). -/
def headsRead (i : Instr) : List Nat := (readsOf i).filterMap fun
  | .i n => some n.val
  | .tag0 => some 0
  | _ => none

/-- R104 on a rule. -/
def rule104 (rs : List RawRoute) (entry : Nat) (x : RawElem) (t : BitVec 32) (i : Instr) : Bool :=
  let e := x.pos
  let ri := x.acts.filterMap fun a => (redOf a).map fun r => r.2.2.1
  within (trigPop t) (trigReady t) && within (trigEmit t) (trigSpace t) &&
  (maskBits 4 (trigReady t)).all (fun j => fedBy rs e j || ri.contains j || decide (entry = chanCode e j)) &&
  (maskBits 4 (trigSpace t)).all (fun j => leavesFrom rs e j) &&
  (headsRead i).all fun j => (trigReady t).testBit j

/-- EMIT names one output, with a route that meets f (07 R180; 17 R325). -/
def emitsOn (rs : List RawRoute) (e : Nat) (t : BitVec 32) (f : RawRoute → Bool) : Bool :=
  match maskBits 4 (trigEmit t) with
  | [j] => rs.any fun r => decide (r.src = chanCode e j) && f r
  | _ => false

/-- EMIT names one output, and its route leads to engine port n alone (17 R325) (log 55). -/
def toPort (rs : List RawRoute) (e : Nat) (t : BitVec 32) (n : Nat) : Bool := emitsOn rs e t fun r => decide (r.dests = [engineCode n])

/-- A port of an engine command, and its outgoing route where CT asks for one (17 R325) (log 55). -/
def portOk (rs : List RawRoute) (e : Nat) (t : BitVec 32) (ct : Bool) (n : Nat) : Bool :=
  toPort rs e t n && (!ct || rs.any fun r => decide (r.src = engineCode n))

/-- The load checks of the actions' own rules (07 R171 to R182; 17 R325). -/
def actionLoads (rs : List RawRoute) (els : List RawElem) (x : RawElem) (t : BitVec 32) (i : Instr) : Bool :=
  let e := x.pos
  let names (m : Nat) : Bool := decide (trigReady t = m) && decide (trigPop t = m)
  match i with
  | .steer _ _ o =>
    decide (o.tmask &&& o.fmask = 0) && decide (o.tmask &&& o.dmask = 0) && decide (o.fmask &&& o.dmask = 0) &&
    decide ((o.tmask ||| o.fmask ||| o.dmask).toNat = trigEmit t)
  | .merge _ di ti fi => decide (di ≠ ti ∧ di ≠ fi ∧ ti ≠ fi) && names (2 ^ di.val + 2 ^ ti.val + 2 ^ fi.val)
  | .mergeu _ _ _ ai bi => decide (ai ≠ bi) && names (2 ^ ai.val + 2 ^ bi.val)
  | .permit _ ci di =>
    decide (ci ≠ di) && names (2 ^ ci.val + 2 ^ di.val) &&
    decide ((x.acts.filter fun | .permit _ _ _ => true | _ => false).length ≤ 1)
  | .gate _ _ cmask => within cmask.toNat (trigEmit t)
  | .sink _ a _ _ => (match a with
    | .i n => names (2 ^ n.val)
    | _ => false) && decide (trigEmit t = 0)
  | .send _ _ => emitsOn rs e t fun r => r.dests.contains (engineCode 3)
  | .cpy _ _ _ o | .gath _ _ _ o | .scat _ _ _ o | .fillb _ _ _ o => portOk rs e t o.ct 0
  | .coll _ _ _ o => portOk rs e t o.ct 1
  | .xfm _ _ _ o => portOk rs e t o.ct 2
  | .pub o => [0, 1, 2].any (portOk rs e t o.ct)
  | .pubDef _ _ _ _ | .pubDrop _ => [0, 1, 2].any (toPort rs e t)
  | _ =>
    match redOf i with
    | none => true
    | some (f, ty, ri, g) =>
      decide ((x.acts.filter fun a => (redOf a).any fun r => decide (r.2.2.2 = g)).length ≤ 1) && !(fedBy rs e ri) &&
      els.all fun y => y.acts.all fun a => (redOf a).all fun r => decide (r.2.2.2 ≠ g) || (decide (r.1 = f) && decide (r.2.1 = ty))

/-- The header of an element record, with the positions before it (05 R114). -/
def elemHeaderOk (seen : List Nat) (x : RawElem) : Bool :=
  decide (fld x.hdr 0 1 < 8) && decide (fld x.hdr 1 1 < 8) && decide (fld x.hdr 2 1 ≤ 16) && decide (fld x.hdr 3 1 % 2 = 0) &&
  decide (fld x.hdr 4 1 < 16) && allZero (x.hdr.drop 5) && !(seen.contains x.pos)

/-- The failing check of the element records, in order: a cause code and its TVAL (05 R115 step 6). -/
def elemsBad (rs : List RawRoute) (entry : Nat) (els : List RawElem) : List Nat → List RawElem → Option (Nat × Nat)
  | _, [] => none
  | seen, x :: xs =>
    if !(elemHeaderOk seen x) then some (0x30, x.at_)
    else
      match x.rules.findSome? fun r => match r.act with
        | .error c => some (c, r.at_)
        | .ok (_, i) => if rule104 rs entry x r.trig i && actionLoads rs els x r.trig i then none else some (0x30, r.at_) with
      | some f => some f
      | none => elemsBad rs entry els (seen ++ [x.pos]) xs

/-- The route of a route record, where its own fields are right (05 R114; 15 R314). -/
def routeOf (r : RawRoute) : Option Route :=
  let n := fld r.bytes 2 1
  if n < 1 ∨ 4 < n ∨ 1 < fld r.bytes 3 1 ∨ !(allZero (cut r.bytes (4 + 2 * n) (8 - 2 * n))) ∨ !(allZero (cut r.bytes 12 4)) then none
  else
    match endptOf r.src false, r.dests.mapM (endptOf · true) with
    | some x, some ds =>
      let isFar : Endpt → Bool
        | .far _ => true
        | _ => false
      let isChan : Endpt → Bool
        | .chan _ _ => true
        | _ => false
      if (isFar x || ds.any isFar) && !(decide (n = 1) && ((isFar x && ds.all isChan) || (isChan x && ds.all isFar))) then none
      else some { src := x, back := decide (fld r.bytes 3 1 = 1), dests := ds }
    | _, _ => none

/-- The place of an endpoint on the mesh, rows and columns counted from 1; ports lie beside it (05 R96). -/
def placeOn : Endpt → Nat × Nat
  | .chan e _ => (e / 8 + 1, e % 8 + 1)
  | .stream n => if n < 8 then (n + 1, 0) else (n - 7, 9)
  | .engine n => (9, 2 * n + 2)
  | .far _ => (0, 0)
  | .select => (0, 1)

/-- The steps from a to b. -/
def stepsTo (a b : Nat) : List (Nat × Nat) :=
  if a ≤ b then (List.range (b - a)).map fun i => (a + i, a + i + 1) else (List.range (a - b)).map fun i => (a - i, a - i - 1)

/-- The mesh links of a path, columns first, then rows (05 R106). -/
def meshLinks (p q : Nat × Nat) : List ((Nat × Nat) × (Nat × Nat)) :=
  let mesh (x : Nat × Nat) : Bool := decide (1 ≤ x.1 ∧ x.1 ≤ 8 ∧ 1 ≤ x.2 ∧ x.2 ≤ 8)
  (((stepsTo p.2 q.2).map fun x => ((p.1, x.1), (p.1, x.2))) ++ ((stepsTo p.1 q.1).map fun x => ((x.1, q.2), (x.2, q.2)))).filter
    fun l => mesh l.1 && mesh l.2

/-- The mesh links of a route, each once (05 R106). The hops between the mesh and a port beside it are no mesh links, and the path that takes them runs outside the mesh; a far route, whose path leads outside the core, has none (log 95). -/
def linksOfRoute (r : Route) : List ((Nat × Nat) × (Nat × Nat)) :=
  match r.src, r.dests with
  | .far _, _ => []
  | _, [.far _] => []
  | x, ds => (ds.flatMap fun d => meshLinks (placeOn x) (placeOn d)).eraseDups

/-- Where only one route may lead: an input channel, a stream port, a far index (05 R106; 15 R314, R315). -/
def oneFeeder : Endpt → Bool
  | .chan _ _ | .stream _ | .far _ => true
  | _ => false

/-- A route added to those before it breaks no limit of R106. -/
def routeFits (before : List Route) (r : Route) : Bool :=
  !(before.any fun y => decide (y.src = r.src)) && decide (r.dests.filter oneFeeder = (r.dests.filter oneFeeder).eraseDups) &&
  r.dests.all (fun d => !(oneFeeder d && before.any fun y => y.dests.contains d)) &&
  (match r.src, r.dests with
   | .far n, _ => !(before.any fun y => y.dests.contains (.far n))
   | _, [.far n] => !(before.any fun y => decide (y.src = .far n))
   | _, _ => true) &&
  (linksOfRoute r).all fun l => decide ((before.filter fun y => (linksOfRoute y).contains l).length < 8)

/-- The routes of an image in order, or the address of the first that fails (05 R115 step 7) (logs 45, 55). -/
def routesOf : List Route → List RawRoute → Except Nat (List Route)
  | before, [] => .ok before
  | before, r :: rs =>
    match routeOf r with
    | some x => if routeFits before x then routesOf (before ++ [x]) rs else .error r.at_
    | none => .error r.at_

/-- A far record: its index and what it declares, where it is right (05 R114; 15 R314). -/
def farOf (rs : List Route) (bs : List Byte) : Option (Nat × Far) :=
  let i := fld bs 0 1
  let out := decide (fld bs 1 1 = 0)
  match endptOf (fld bs 2 2) true with
  | some (.chan e ch) =>
    let ep := Endpt.chan e ch
    if i < 8 ∧ fld bs 1 1 < 2 ∧ allZero (cut bs 4 4) ∧
        (rs.any fun r => if out then decide (r.src = ep ∧ r.dests = [.far i]) else decide (r.src = .far i ∧ r.dests = [ep]))
      then some (i, { out := out, ep := ep })
    else none
  | _ => none

/-- n far records from offset o on, or the address of the first that fails (05 R115 step 8). -/
def farsFrom (bs : List Byte) (base : Nat) (rs : List Route) : Nat → Nat → Tab Far → Except Nat (Tab Far)
  | 0, _, t => .ok t
  | n + 1, o, t =>
    match farOf rs (cut bs o 8) with
    | some (i, x) => if (Tab.find t i).isSome then .error (base + o) else farsFrom bs base rs n (o + 8) (Tab.set t i x)
    | none => .error (base + o)

/-- A far endpoint of a route that no far record declares (15 R314). -/
def farMissing (t : Tab Far) (r : Route) : Bool :=
  (r.src :: r.dests).any fun
    | .far n => (Tab.find t n).isNone
    | _ => false

/-- An element as a load leaves it (05 R95, R114). -/
def freshElem (x : RawElem) : EPly := { p := BitVec.ofNat 8 (fld x.hdr 3 1) ||| 1, k := max 1 (fld x.hdr 4 1 % 16) }

/-- The rules of an element record, numbered from 0 (05 R114). -/
def rulesFrom (x : RawElem) : Tab Rule :=
  (x.rules.zipIdx.filterMap fun (r, j) => match r.act with
    | .ok (w, i) => some (j, { trig := r.trig, word := w, act := i : Rule })
    | .error _ => none)

/-- The checks of R115 from step 5 on, and the STAGED ply that the image gives on behalf of context n; or a cause code and its TVAL. A SIZE that is not the sum of the records fails first (log 97). -/
def parseImage (bs : List Byte) (base : Nat) (bank : Tab DictEntry) (activeId n : Nat) : Except (Nat × Nat) Ply :=
  let did := fld bs 8 4
  let nroute := fld bs 0x0C 2
  let nfar := fld bs 0x0E 1
  let entry := fld bs 0x18 2
  let (els, o) := rawElems bs base did bank (fld bs 6 1) 64
  let fo := o + 16 * nroute
  let rs := (List.range nroute).map fun i => ({ at_ := base + o + 16 * i, bytes := cut bs (o + 16 * i) 16 } : RawRoute)
  if fo + 8 * nfar + 8 * (nfar % 2) ≠ fld bs 0x10 4 then .error (0x30, base + 0x10)
  else if did ≠ 0 ∧ did ≠ activeId then .error (0x0A, base + 8)
  else
    match elemsBad rs entry els [] els with
    | some f => .error f
    | none =>
      match routesOf [] rs with
      | .error a => .error (0x30, a)
      | .ok routes =>
        match farsFrom bs base routes nfar fo [] with
        | .error a => .error (0x30, a)
        | .ok fars =>
          if !(allZero (cut bs (fo + 8 * nfar) (8 * (nfar % 2)))) then .error (0x30, base + fo + 8 * nfar)
          else
            match (rs.zip routes).find? fun (_, r) => farMissing fars r with
            | some (r, _) => .error (0x30, r.at_)
            | none =>
              .ok { st := .staged, ctx := n, image := w64 base, routes := routes, fars := fars, sports := fld bs 0x14 2, eports := fld bs 0x16 1
                    entry := if entry = 0xFFFF then none else endptOf entry true
                    nsink := fld bs 7 1
                    rules := els.foldl (fun t x => Tab.set t x.pos (rulesFrom x)) []
                    elems := els.foldl (fun t x => Tab.set t x.pos (freshElem x)) [] }

/-- The entry of the configuration cache for an image (05 R116) (log 26). One that is to be removed serves until then. -/
def cachedImage (c : CoreSt) (addr : Word) (part : Nat) : Option CfgImage :=
  c.fab.cfg.find? fun x => decide (x.addr = addr) && decide (x.part = part)

/-- An image enters the configuration cache; the one loaded longest ago that is not being read makes room (05 R116) (log 26). -/
def cacheImage (c : CoreSt) (addr : Word) (part : Nat) (bs : List Byte) : CoreSt :=
  let l := c.fab.cfg
  let put (slot : Nat) (l : List CfgImage) : CoreSt := c.modFab fun f => { f with cfg := l ++ [{ slot := slot, addr := addr, part := part, bytes := bs }] }
  match firstBelow 8 fun i => !(l.any fun x => decide (x.slot = i)) with
  | some i => put i l
  | none => match l.find? fun x => !(c.fab.reads x) with
    | some v => put v.slot (l.filter fun x => decide (x.slot ≠ v.slot))
    | none => c

/-- The bytes of an image, from the cache or from memory: steps 1 to 4 of R115. The image stays in the cache also where a later check of the load fails (log 94). -/
def fetchImage (s : State) (k : Nat) (addr : Word) (user : Bool) : Mr (List Byte) :=
  let a := addr.toNat
  if a % 64 ≠ 0 then .fault 0x24 a s
  else
    match cachedImage (s.core k) addr (s.partOf k) with
    | some x => .ok x.bytes s
    | none =>
      (vread s k a 64 .read user).andThen fun h s =>
        match headerBad h with
        | some o => .fault 0x30 (a + o) s
        | none =>
          let size := fld h 0x10 4
          (vreadMany k .read user 64 ((size - 1) / 64) (a + 64) s).andThen fun rest s =>
            .ok ((h ++ rest).take size) (s.modCore k fun c => cacheImage c addr (s.partOf k) ((h ++ rest).take size))

/-- A load on behalf of context n of core k: the STAGED ply that it gives, or the cause that it fails with (05 R115). -/
def loadImage (s : State) (k n : Nat) (addr : Word) (user : Bool) : Mr Ply :=
  (fetchImage s k addr user).andThen fun bs s =>
    let d := (s.ctx k n).dict
    match parseImage bs addr.toNat d.active d.activeId.toNat n with
    | .ok p => .ok p s
    | .error (c, t) => .fault c t s

end Sys2Proof.Machine
end

