-- ==== Sys2Proof/Machine/Queues.lean ====
section
/-! DEFINITION. Hardware work queues and deadlines (05 R127, R128; 09 R207 to R213, R216). -/
namespace Sys2Proof.Machine

/-- KIND of a deadline word (09 R209). -/
def dlKind (w : Word) : Nat := bits w 62 2

/-- A deadline word that R209 refuses: KIND 3 or a non-zero reserved bit. -/
def dlBad (w : Word) : Bool :=
  decide (dlKind w = 3) || decide (bits w 48 12 ≠ 0) || (decide (dlKind w ≠ 2) && decide (bits w 60 2 ≠ 0))

/-- The line counters of a head as a die mirrors them (09 R207). -/
def Die.lines (d : Die) (h : Nat) : LineMirror := Tab.look {} d.heads h

/-- A deadline word as it arrives at a die (09 R210). -/
def arrive (d : Die) (w : Word) : Deadline :=
  match dlKind w with
  | 1 => { kind := 1, abs := d.dlc + bits w 0 48 }
  | 2 => { kind := 2, head := bits w 60 2, abs := (d.lines (bits w 60 2)).line + bits w 0 48, gen := (d.lines (bits w 60 2)).lgen }
  | _ => {}

/-- A head is enabled (19 R352). -/
def headOn (s : State) (h : Nat) : Bool := bit (s.iod.head h).hctl 0

/-- key(d) of R210 at a die, saturated to 64 signed bits. -/
def keyOf (s : State) (d : Nat) (x : Deadline) : Int :=
  let die := s.die d
  match x.kind with
  | 1 => satS (x.abs - die.dlc) 64
  | 2 =>
    if x.gen ≠ (die.lines x.head).lgen || !(headOn s x.head) then 0
    else satS ((x.abs - (die.lines x.head).line) * (die.lines x.head).lper) 64
  | _ => 2 ^ 63 - 1

/-- A deadline that moves from die a to die b (09 R211). -/
def moveDl (s : State) (a b : Nat) (x : Deadline) : Deadline :=
  if a = b then x
  else if x.kind = 1 then { x with abs := (s.die b).dlc + keyOf s a x }
  else x

/-- INH of a queue (09 R212). -/
def Queue.inh (q : Queue) : Bool := q.ctl.testBit 2
/-- FC of a queue. -/
def Queue.fc (q : Queue) : Bool := q.ctl.testBit 1
/-- ING of a queue. -/
def Queue.ing (q : Queue) : Bool := q.ctl.testBit 3
/-- CLASS of a queue. -/
def Queue.class_ (q : Queue) : Nat := nbits q.ctl 4 4
/-- PRIO of a queue. -/
def Queue.prio (q : Queue) : Nat := nbits q.ctl 8 8
/-- HOME of a queue. -/
def Queue.home (q : Queue) : Nat := nbits q.ctl 28 3
/-- CAP - OCC (05 R127). -/
def Queue.room (q : Queue) : Nat := q.cap - q.occ

/-- The deadline that a device push gives its token (09 R213): the queue's, or under INH that of the pushing region. -/
def pushDl (s : State) (k q : Nat) (g : Option Deadline) : Deadline :=
  let x := s.queue q
  let own := arrive (s.die (q / 4096)) x.deadline
  if x.inh then
    match g with
    | some d => moveDl s (dieOf k) (q / 4096) d
    | none => own
  else own

/-- A token of a device push takes up a reserved slot of its queue (05 R127, R141; 07 R182; 09 R213). -/
def pushToken (s : State) (k q : Nat) (g : Option Deadline) (t : Wide) : State :=
  let d := pushDl s k q g
  s.modQueue q fun x => { x with toks := x.toks ++ [{ tok := t, dl := d }], reserved := x.reserved - 1 }

/-- A pending push reaches its queue once every request of its element and ply that was selected before it is performed (13 R299). -/
def Push.ready (f : Fabric) (x : Push) : Bool := (f.reqsIn x.ply x.elem).all fun y => decide (x.before ≤ y.no) || !y.open_

/-- The way of a message from core k to a queue of its own or another die (23 R405, R406). -/
def queueWay (s : State) (k q : Nat) : Crossing := crossing s (accessDie k) (q / 4096)

/-- n slots of a queue are reserved (05 R127). -/
def reserveSlots (s : State) (q n : Nat) : State := s.modQueue q fun x => { x with reserved := x.reserved + n }

/-- A reservation of n slots in queue q for an element's reservation rv: in full or not at all; an AMPLIFY has released rv before (05 R127; 07 R182). -/
def grantRsv (s : State) (rv : Rsv) (amp : Bool) (q n : Nat) : Option (Rsv × State) :=
  if (amp ∨ rv.count + n ≤ 256) ∧ n ≤ (s.queue q).room then
    some (if amp then { queue := q, count := n, amp := true } else { rv with queue := q, count := rv.count + n }, reserveSlots s q n)
  else none

/-- A queue operation reaches its queue; none where the answer to a grant has no room on its outputs (07 R182). A push without a path of links faults its region, and its slot is free again (23 R406) (log 57). -/
def landPush (s : State) (k : Nat) (x : Push) : Option State :=
  let down := decide (queueWay s k x.queue = .down)
  let lost (s : State) : State := fabricFault s k x.ply 7 0 x.elem (some x.elem) .linkDown x.queue 0
  match x.op with
  | .token => some (if down then lost (returnSlots s x.queue 1) else pushToken s k x.queue x.dl x.tok)
  | .release n => some (returnSlots s x.queue n)
  | .grant amp n mask tag d ray =>
    if down then some (lost s)
    else
      let g := grantRsv s ((s.ply k x.ply).elem x.elem).rv amp x.queue n
      let s := match g with
        | some (rv, s) => s.modElem k x.ply x.elem fun y => { y with rv := rv }
        | none => s
      let v := w64 (if g.isSome then n else 0)
      emitMask (s.modElem k x.ply x.elem fun y => y.setD d v ray) k x.ply x.elem mask { data := v, tag := tag, ply := x.ply, ray := ray } none

/-- The queue operations of element e in a list reach their queues in order, with those that stay: one waits for the requests before it, while flits are held, and behind another of its ply; `held` are the plies with one that stays (07 R182; 13 R299; 23 R405). -/
def landPushes (k e : Nat) : List Nat → List Push → State → List Push × State
  | _, [], s => ([], s)
  | held, x :: l, s =>
    let stays : List Push × State :=
      let r := landPushes k e (if x.elem = e then x.ply :: held else held) l s
      (x :: r.1, r.2)
    if x.elem ≠ e ∨ held.contains x.ply ∨ !(x.ready (s.core k).fab) ∨ queueWay s k x.queue = .held then stays
    else match landPush s k x with
      | some s => landPushes k e held l s
      | none => stays

/-- What element e of core k has sent and is ready reaches its queues, in the order of the firings (07 R182; 13 R299). -/
def flushPushes (s : State) (k e : Nat) : State :=
  let r := landPushes k e [] (s.core k).fab.pushes s
  r.2.modFab k fun f => { f with pushes := r.1 }

/-- A queue belongs to the partition of core k (05 R127). -/
def ownsQueue (s : State) (k q : Nat) : Bool := decide ((s.queue q).partid = s.partOf k) && decide (s.partOf k ≠ 0)

/-- A launch token (09 R216). -/
def isLaunch (t : Wide) : Bool := decide (msgKind t = 5) && decide (msgIndex t = 1)

/-- The region of ply q of core k. -/
def plyRegion (s : State) (k q : Nat) : Option Region :=
  let c := s.ctx k (s.ply k q).ctx
  if c.bound = some q then c.region else none

end Sys2Proof.Machine
end

