-- ==== Sys2Proof/Machine/Select.lean ====
section
/-! DEFINITION. Selections, drain markers and the commit; the release of parked messages; opening a region from its RCB path (05 R112, R113, R117 to R122, R125; 21 R392). -/
namespace Sys2Proof.Machine

/-- A drain marker sets out for an input of ply q; it stays behind the tokens on their way there (05 R117, R118). -/
def sendMarker (s : State) (k q : Nat) (d : Endpt) : State :=
  s.modFab k fun f => { f with flights := f.flights ++ [{ dst := d, tok := { ply := q, mark := .drain }, prod := q }] }

/-- The inputs of a ply that get a marker at once: those of its far incoming routes, and ENTRY (05 R118). -/
def markedAtOnce (p : Ply) : List Endpt :=
  (p.fars.filterMap fun (_, x) => if x.out then none else some x.ep) ++ p.entry.toList

/-- A selection latches for context n of core k, and the ply that is bound begins to drain; `commit` is the address after the CFG.COMMIT that waits (05 R117, R118). -/
def latchPly (s : State) (k n q : Nat) (commit : Option Word) : State :=
  let s := s.modCtx k n fun c => { c with latch := some { ply := q, commit := commit }, hold := c.hold || commit.isSome }
  match (s.ctx k n).bound with
  | none => s
  | some old =>
    let s := s.modPly k old fun p => { p with draining := true, forwarded := [] }
    (markedAtOnce (s.ply k old)).foldl (fun s d => sendMarker s k old d) s

/-- A ply that is STAGED on behalf of context n (05 R117). -/
def stagedFor (s : State) (k n q : Nat) : Bool := decide ((s.ply k q).st = .staged) && decide ((s.ply k q).ctx = n)

/-- A ply of context n that is STAGED or ACTIVE (05 R139). -/
def heldBy (s : State) (k n q : Nat) : Bool :=
  decide ((s.ply k q).ctx = n) && (decide ((s.ply k q).st = .staged) || decide ((s.ply k q).st = .active))

/-- A message parks in the order of arrival, with the valid entry that it found then; the ninth faults the partition and is discarded (05 R112, R113). -/
def parkMessage (s : State) (k : Nat) (m : PortMsg) : State :=
  if 8 ≤ (s.core k).port.unbound.length then partFault s (s.partOf k) .unboundOverflow (msgIndex m.msg) 4 (placeOf k)
  else s.modPort k fun p => { p with unbound := insertMsg m p.unbound }

/-- A message is dropped and counted (05 R109). -/
def dropMessage (s : State) (k n : Nat) : State := s.modPort k fun p => { p with tokdrop := min (2 ^ 32 - 1) (p.tokdrop + n) }

/-- Every node of a ply that markers pass: the endpoints of its routes and the element of ENTRY (05 R118). -/
def drainNodes (p : Ply) : List Nat :=
  ((p.routes.flatMap fun r => (r.src :: r.dests).map nodeOf) ++ (p.entry.map nodeOf).toList).eraseDups

/-- A node puts markers on: an element, or a port that is the source of a route (05 R118). -/
def putsMarkers (p : Ply) (n : Nat) : Bool := decide (n < 64) || (p.routes.any fun r => decide (nodeOf r.src = n) && decide (n < 84))

/-- A drain marker is on its way, or waits where one has still to pass it on (05 R118). -/
def markersLeft (c : CoreSt) (q : Nat) : Bool :=
  let is (t : Token) : Bool := decide (t.ply = q) && decide (t.mark = .drain)
  c.fab.chans.any (fun (_, h) => h.toks.any is) || c.streams.any (fun (_, p) => p.toks.any is)

/-- A draining ply is quiescent (05 R118; 13 R301): every source of markers has put them, all have reached their ends, and nothing of the ply is on its way or in its request units, its far passes and its engines (log 92). -/
def plyQuiet (s : State) (k q : Nat) : Bool :=
  let c := s.core k
  let p := c.fab.ply q
  ((drainNodes p).filter (putsMarkers p)).all (fun n => p.forwarded.contains n) && !(markersLeft c q) &&
  c.fab.flights.all (fun f => decide (f.tok.ply ≠ q)) && p.fars.all (fun (_, x) => x.passes.all List.isEmpty) &&
  c.fab.reqs.all (fun (_, l) => l.all fun y => decide (y.ply ≠ q)) && c.fab.park.all (fun y => decide (y.ply ≠ q)) && c.fab.pushes.all (fun x => decide (x.ply ≠ q) || !x.isGrant) &&
  c.engines.all fun (_, e) => (e.queue ++ e.cur.toList ++ e.held).all fun x => !(x.of k q)

/-- The ply order after a commit (21 R392). -/
def orderAfter (l : List Nat) (old : Option Nat) (q : Nat) : List Nat :=
  match old with
  | some o => l.map fun x => if x = o then q else if x = q then o else x
  | none => l.filter (· ≠ q) ++ [q]

/-- The commit of ply q for context n of core k (05 R117, R119; 21 R392): the old ply is FREE, the new one ACTIVE and bound; what waits at the selection port stays there. -/
def commitPly (s : State) (k n q : Nat) : State :=
  let old := (s.ctx k n).bound
  let s := s.modFab k fun f => { f with order := orderAfter f.order old q }
  let waiting := (s.core k).fab.selq
  let s := match old with
    | some o => (freePly s k o).modFab k fun f => { f with selq := waiting }
    | none => s
  let s := (s.modPly k q fun p => { p with st := .active }).modCtx k n fun c => { c with bound := some q, latch := none }
  releaseParked s k

/-- The RCBs of a path, this one first (05 R122): nine answer a path that is too long. -/
def rcbPath (k : Nat) (user : Bool) : Nat → Nat → State → Mr (List (List Byte))
  | 0, _, s => .ok [[]] s
  | n + 1, a, s =>
    if a % 256 ≠ 0 then .fault 0x32 0 s
    else
      (vreadMany k .read user 128 2 a s).andThen fun b s =>
        if fld b 0 8 = 0 then .ok [b] s
        else (rcbPath k user n (fld b 0 8) s).andThen fun l s => .ok (b :: l) s

/-- The RCB that supplies an inherited field: the nearest with override bit i (05 R122). -/
def supplier (l : List (List Byte)) (i : Nat) : Option (List Byte) := l.find? fun b => (fld b 0x10 4).testBit i

/-- The reserved fields of an RCB are zero (05 R121, R122). -/
def rcbClean (b : List Byte) : Bool := decide (fld b 0x10 4 < 256) && allZero (cut b 0x4C 52)

/-- The inherited values are in range (05 R122); bits of PRIO and FDOM above their fields must be zero there (log 99). -/
def inheritedOk (l : List (List Byte)) : Bool :=
  (supplier l 0).all (fun b => decide (1 ≤ fld b 0x18 8 ∧ fld b 0x18 8 ≤ 2 ^ 48)) && (supplier l 1).all (fun b => decide (fld b 0x14 4 < 256)) &&
  (supplier l 2).all (fun b => decide (fld b 0x28 4 < 65536)) && (supplier l 3).all fun b => !(dlBad (w64 (fld b 0x20 8)))

/-- One entry of the block table (05 R125). -/
def blockOf (b : List Byte) : Option Block :=
  if fld b 8 2 < 4096 ∧ 1 ≤ fld b 10 2 ∧ fld b 10 2 ≤ 4096 ∧ fld b 12 4 = 0 then
    some { image := w64 (fld b 0 8), queue := fld b 8 2, thresh := fld b 10 2 }
  else none

/-- The block table of a strand region; a field out of range gives REGION_STATE (05 R121, R125) (log 98). -/
def readBlocks (s : State) (k : Nat) (user : Bool) (b : List Byte) : Mr (List Block) :=
  let n := fld b 0x48 4
  if n < 1 ∨ 16 < n then .fault 0x32 0 s
  else
    (vreadMany k .read user 1 (16 * n) (fld b 0x40 8) s).andThen fun bs s =>
      match (List.range n).mapM fun i => blockOf (cut bs (16 * i) 16) with
      | some l => .ok l s
      | none => .fault 0x32 0 s

/-- A region as its RCB path describes it (05 R121, R122, R125; 09 R210). -/
def regionOf (s : State) (k : Nat) (rcb : Word) (l : List (List Byte)) (blocks : List Block) : Region :=
  let b := l.headD []
  { rcb := rcb, image := w64 (fld b 8 8), scope := nbits (fld b 0x10 4) 5 3, strand := (fld b 0x10 4).testBit 4
    budget := (supplier l 0).map fun b => fld b 0x18 8
    prio := ((supplier l 1).map fun b => fld b 0x14 4).getD 0
    fdom := ((supplier l 2).map fun b => fld b 0x28 4).getD 0
    deadline := (supplier l 3).bind fun b => if dlKind (w64 (fld b 0x20 8)) = 0 then none else some (arrive (s.die (dieOf k)) (w64 (fld b 0x20 8)))
    doneva := w64 (fld b 0x30 8), doneval := w64 (fld b 0x38 8), blocks := blocks, start := s.cyc k }

/-- The image of a context's ACTIVE ply. -/
def activeImage (s : State) (k n : Nat) : Option Word := (s.ctx k n).bound.map fun q => (s.ply k q).image

/-- Opening a region from an RCB on context n of core k (05 R122, R136): the checks, STATE := 1, then the region is bound. -/
def openRegion (s : State) (k n : Nat) (rcb : Word) (user : Bool) : Mr Unit :=
  if rcb.toNat % 256 ≠ 0 then .fault 0x24 rcb.toNat s
  else if (s.ctx k n).region.isSome then .fault 0x32 0 s
  else
    (rcbPath k user 8 rcb.toNat s).andThen fun l s =>
      let b := l.headD []
      let strand := (fld b 0x10 4).testBit 4
      if 8 < l.length ∨ !(l.all rcbClean) ∨ !(inheritedOk l) ∨ (!strand ∧ activeImage s k n ≠ some (w64 (fld b 8 8))) then .fault 0x32 0 s
      else
        (if strand then readBlocks s k user b else .ok [] s).andThen fun blocks s =>
          (storeState s k rcb 1 user).andThen fun _ s => .ok () (s.modCtx k n fun c => { c with region := some (regionOf s k rcb l blocks) })

end Sys2Proof.Machine
end

