-- ==== Sys2Proof/Machine/EvPower.lean ====
section
/-! DEFINITION. Events of the edge meter, the power coordinator, the links and the package (23 R405 to R415; 24 R427, R431). -/
namespace Sys2Proof.Machine

/-- The lower non-zero limit of two, 0 where both are (23 R410) (log 58). -/
def lowerLimit (a b : Nat) : Nat := if a = 0 then b else if b = 0 then a else min a b

/-- CUR of EDGEMET (23 R410) (log 58). -/
def edgeCur (s : State) (k : Nat) : Nat := lowerLimit (s.core k).regs.edgeRate s.iod.power.limit

/-- A source of a core may inject a token in this window (23 R410). -/
def meterOpen (s : State) (k : Nat) : Bool :=
  decide ((s.core k).regs.edgeLimit = 0) || decide ((s.core k).regs.edgeCount < (s.core k).regs.edgeLimit)

/-- A source of a core has injected a token (23 R410). -/
def meterCount (s : State) (k : Nat) : State := s.modCore k fun c => { c with regs := { c.regs with edgeCount := c.regs.edgeCount + 1 } }

/-- The cores of a cluster for which a window of the edge meter begins as its plain's clock stands (23 R410). -/
def meterDue (s : State) (d c : Nat) : List Nat :=
  ((List.range 16).map fun i => d * 128 + c * 16 + i).filter fun k => decide (s.cyc k / 256 ≠ (s.core k).regs.edgeWin)

/-- A window of the edge meter begins at a multiple of 256 of CYC (23 R410): the clock that makes it one brings this row as the next turn (Issue). -/
def execEdgeMeterWindow (core : Nat) (s : State) : Out :=
  let w := s.cyc core / 256
  if w = (s.core core).regs.edgeWin then .next s
  else
    let cur := edgeCur s core
    .next (s.modCore core fun c => { c with regs := { c.regs with edgeWin := w, edgeCount := 0, edgeLimit := cur } })

/-- CAP of PWRCFG (23 R411). -/
def powerCap (p : Power) : Nat := bits p.pwrcfg 32 16
/-- FLOOR of PWRCFG. -/
def powerFloor (p : Power) : Nat := bits p.pwrcfg 16 16
/-- GRANTEN of PWRCFG. -/
def powerGranten (p : Power) : Bool := bit p.pwrcfg 0
/-- G: the grant in force, or FLOOR (23 R411). -/
def powerG (p : Power) : Nat := (p.grant.map Prod.fst).getD (powerFloor p)
/-- BUDGET (23 R411). -/
def powerBudget (p : Power) : Nat := if powerGranten p then min (powerCap p) (powerG p + p.borr - p.lent) else powerCap p

/-- s with f applied to the power coordinator. -/
def State.modPower (s : State) (f : Power → Power) : State := s.modIod fun i => { i with power := f i.power }

/-- The 20 plains: die and cluster. -/
def allPlains : List (Nat × Nat) := (List.range 4).flatMap fun d => (List.range 5).map fun k => (d, k)

/-- Every plain goes to the operating point that MIN and the points slowed give; a plain that changes stands until its clock resumes (23 R408, R409, R413). -/
def setPoints (s : State) : State :=
  allPlains.foldl (fun s (d, k) =>
    s.modDie d fun x => { x with plains := Tab.mod {} x.plains k fun p =>
      let n := min 3 (p.min + s.iod.power.slowed)
      if n = p.point then p else { p with point := n, stopped := true } }) s

/-- Every plain stands at point 3 (23 R413). -/
def allSlow (s : State) : Bool := allPlains.all fun (d, k) => decide (3 ≤ (s.plain d k).point)

/-- DEGRADE on every die (23 R413). -/
def setDegrade (s : State) (b : Bool) : State := (List.range 4).foldl (fun s d => s.modDie d fun x => { x with degrade := b }) s

/-- Step 2 of R413: each plain slows by one operating point, down to point 3 where MIN allows it. The junction limit takes it whatever the budget (23 R413, R415). -/
def slowPlains (s : State) : State := if allSlow s then s else setPoints (s.modPower fun p => { p with slowed := p.slowed + 1 })

/-- One step of R413, from the top down. -/
def powerStep (s : State) : State :=
  let p := s.iod.power
  if p.limit ≠ 8 then s.modPower fun p => { p with limit := if p.limit = 0 then 64 else p.limit / 2 }
  else if !(allSlow s) then slowPlains s
  else if (s.die 0).degrade then s
  else (setDegrade s true).modPower fun p => { p with count := min 65535 (p.count + 1) }

/-- One step of R413 undone, from the bottom up. -/
def powerUndo (s : State) : State :=
  let p := s.iod.power
  if (s.die 0).degrade then setDegrade s false
  else if 0 < p.slowed then setPoints (s.modPower fun p => { p with slowed := p.slowed - 1 })
  else if p.limit = 0 then s
  else s.modPower fun p => { p with limit := if 64 ≤ p.limit then 0 else p.limit * 2 }

/-- The coordinator samples MEAS and acts (23 R413). -/
def execPowerSample (meas : Nat) (s : State) : Out :=
  let m := meas % 65536
  let b := powerBudget s.iod.power
  let s := s.modPower fun p =>
    { p with meas := m, above := if b < m then p.above + 1 else 0, under := if 10 * m ≤ 9 * b then p.under + 1 else 0 }
  if 3 ≤ s.iod.power.above then .next (powerStep s)
  else if 10 ≤ s.iod.power.under then .next (powerUndo s)
  else .next s

/-- A plain's clock resumes at its new point (23 R409). -/
def execPlainClockResume (die cluster : Nat) (s : State) : Out :=
  if s.iod.thermal then .next s
  else .next (s.modDie die fun x => { x with plains := Tab.mod {} x.plains cluster fun p => { p with stopped := false } })

/-- WATTS of a power message (23 R412). -/
def powerWatts (m : Wide) : Nat := nbits (msgOperand m) 0 16
/-- LEASE of a power message (23 R412). -/
def powerLease (m : Wide) : Nat := nbits (msgOperand m) 16 16

/-- The periods of DLC in n ms (09 R207). -/
def dlcMs (n : Nat) : Nat := 700000 * n

/-- A power message reaches the coordinator: GRANT or LEND, for its lease by the receiver's DLC, or it is dropped (23 R411, R412). -/
def powerMessage (s : State) (m : Wide) : Option State :=
  if !(powerGranten s.iod.power) ∨ powerLease m = 0 then none
  else
    let till := s.iod.dlc + dlcMs (powerLease m)
    match msgIndex m with
    | 0 => some (s.modPower fun p => { p with grant := some (powerWatts m, till) })
    | 1 => some (s.modPower fun p => { p with borr := p.borr + powerWatts m, borrows := p.borrows ++ [(powerWatts m, till)] })
    | _ => none

/-- The core that a continuation of TYPE 0 or 2 names (05 R110; 24 R424). -/
def contCore (m : Wide) : Nat := nbits (msgCont m) 14 2 * 128 + nbits (msgCont m) 7 7

/-- A power message over a Thonazon port; a dropped one is counted at the port it names (23 R412). -/
def powerArrival (s : State) (m : Wide) : State := (powerMessage s m).getD (dropMessage s (contCore m) 1)

/-- GRANT arrives (23 R412). -/
def execPowerGrant (msg : BitVec 128) (s : State) : Out :=
  if msgKind msg = 6 ∧ msgIndex msg = 0 then .next (powerArrival s msg) else .next s

/-- LEND arrives (23 R412). -/
def execPowerLend (msg : BitVec 128) (s : State) : Out :=
  if msgKind msg = 6 ∧ msgIndex msg ≠ 0 then .next (powerArrival s msg) else .next s

/-- A lease, of watts with the DLC at which it ends, is over (23 R412). -/
def leaseOver (s : State) (x : Nat × Nat) : Bool := decide (x.2 ≤ s.iod.dlc)

/-- The lease of the grant in force ends, when its time has come: G reverts to FLOOR (23 R412). -/
def execGrantLeaseEnd (s : State) : Out :=
  if s.iod.power.grant.any (leaseOver s) then .next (s.modPower fun p => { p with grant := none }) else .next s

/-- The lease of watts borrowed ends, when its time has come (23 R412). -/
def execLendLeaseEnd (n : Nat) (s : State) : Out :=
  match s.iod.power.borrows[n]? with
  | some x => if leaseOver s x then .next (s.modPower fun p => { p with borr := p.borr - x.1, borrows := p.borrows.eraseIdx n }) else .next s
  | none => .next s

/-- The watts of a loan come back to the lender LEASE + ceil(LEASE / 64) + 1 ms after it sent, whatever became of the message (23 R412). -/
def execLentReturn (n : Nat) (s : State) : Out :=
  match s.iod.power.lends[n]? with
  | some x => if leaseOver s x then .next (s.modPower fun p => { p with lent := p.lent - x.1, lends := p.lends.eraseIdx n }) else .next s
  | none => .next s

/-- The rows of R412 that are due as the coordinator's DLC stands; of several loans that end at once, the last in its list first. -/
noncomputable def leaseEnds (s : State) : List Instr :=
  let p := s.iod.power
  let due (l : List (Nat × Nat)) : List Nat := ((List.range l.length).filter fun n => (l[n]?).any (leaseOver s)).reverse
  (if p.grant.any (leaseOver s) then [Instr.grantLeaseEnd] else []) ++ (due p.borrows).map .lendLeaseEnd ++ (due p.lends).map .lentReturn

/-- The coordinator lends: only when G - LENT - WATTS is at least MEAS; LENT rises before the message leaves (23 R412). -/
def execSendLend (_pkg watts lease : Nat) (s : State) : Out :=
  let p := s.iod.power
  if powerGranten p ∧ 1 ≤ lease ∧ lease < 65536 ∧ watts < 65536 ∧ p.lent + watts + p.meas ≤ powerG p then
    .next (s.modPower fun p => { p with lent := p.lent + watts, lends := p.lends ++ [(watts, s.iod.dlc + dlcMs (lease + cdiv lease 64 + 1))] })
  else .next s

/-- s with f applied to a link. -/
def State.modLink (s : State) (n : Nat) (f : Link → Link) : State := s.modIod fun i => { i with links := Tab.mod {} i.links n f }

/-- A flit fails its CRC: it is replayed, and after eight replays of the one flit the link is retrained; the link's flits are held meanwhile (23 R405; 24 R427) (log 59). -/
def execFlitCrcFail (link : Nat) (s : State) : Out :=
  .next (s.modLink link fun l =>
    if l.down || l.retraining then l
    else if l.replays < 8 then { l with replays := l.replays + 1 }
    else { l with replays := 0, retraining := true })

/-- A link is retrained and carries flits again (23 R405; 24 R427) (log 59). -/
def execLinkRetrained (link : Nat) (s : State) : Out :=
  .next (flushWaits (s.modLink link fun l => if l.retraining then { l with retraining := false } else l))

/-- The flit that a link replays passes its CRC: it and the flits behind it go on (23 R405). -/
def passFlit (link : Nat) (s : State) : State := flushWaits (s.modLink link fun l => { l with replays := 0 })

/-- The compute dies at the ends of a Porey link, or of a port of PL4 or PL5 (23 R404). -/
def linkEnds : Nat → List Nat
  | 0 => [0, 1]
  | 1 => [0, 2]
  | 2 => [1, 3]
  | 3 => [2, 3]
  | n => if n < 8 then [n - 4] else []

/-- A P record for each of some partitions. -/
def recordAll (s : State) (ps : List Nat) (c : Cause) : State := ps.foldl (fun s p => partFault s p c 0 7 0) s

/-- The partitions that exist, ascending. -/
def livePartitions (s : State) : List Nat := (s.parts.filter fun (_, p) => bit p.partclu 63).map Prod.fst

/-- A link whose retrain fails is down until package reset; every partition with a cluster on either end gets a record (23 R405). -/
def execLinkDown (link : Nat) (s : State) : Out :=
  if (Tab.look {} s.iod.links link).retraining then
    let s := flushWaits (s.modLink link fun l => { l with retraining := false, down := true })
    .next (recordAll s ((livePartitions s).filter fun p => (linkEnds link).any fun d => ownsDie (s.part p) d) .linkDown)
  else .next s

/-- The host link fails: a record for every partition; what needs the link waits from then on (24 R431). -/
def execHostLinkDown (s : State) : Out :=
  if s.iod.linkDown then .next s
  else .next (recordAll (s.modIod fun i => { i with linkDown := true }) (livePartitions s) .hostLinkDown)

/-- An IDE integrity check fails (24 R431). -/
def execIdeIntegrity (s : State) : Out :=
  if s.iod.linkDown then .next s
  else .next (recordAll (s.modIod fun i => { i with linkDown := true }) (livePartitions s) .ideIntegrity)

/-- A die sensor reaches 115 degrees: every plain stops and the package holds in reset until power is cycled (23 R415). -/
def execThermalTrip (s : State) : Out :=
  .next (allPlains.foldl (fun s (d, k) =>
    s.modDie d fun x => { x with plains := Tab.mod {} x.plains k fun p => { p with stopped := true } }) (s.modIod fun i => { i with thermal := true }))

end Sys2Proof.Machine
end

