-- ==== Sys2Proof/Machine/SeqSys.lean ====
section
/-! DEFINITION. The system instructions, events and the cycle counter of the sequencer (04 R86 to R93; 01 R16 to R21). YIELD stands with the scheduler. -/
namespace Sys2Proof.Machine

/-- NOP (04 R86). -/
def execNop (s : State) : Out := retire s

/-- The pending failure that the next matrix or DS instruction, or a HALT, traps with (08 R189, 19 R361). -/
def pendingFault (s : State) : Option (Cause × Word) :=
  if s.actor.core = dsCore then s.iod.dsFault else s.me.mx.fault

/-- s with the pending failure delivered. -/
def clearPending (s : State) : State :=
  if s.actor.core = dsCore then s.modIod fun i => { i with dsFault := none }
  else s.modMe fun c => { c with mx := { c.mx with fault := none } }

/-- HALT: retires and the context enters OFF; with a pending failure it traps with it instead (04 R86, 01 R24, 08 R189, 19 R361). -/
def execHalt (s : State) : Out :=
  match pendingFault s with
  | some (c, v) => trap (clearPending s) c.code v
  | none => .next (stopContext (s.modMe fun c => { c with pc := s.nextPc, resume := none }) s.actor.core s.actor.ctx)

/-- BRK: with the debug stop enable of its context set the context enters OFF at the BRK, otherwise BREAKPOINT (04 R87). -/
def execBrk (code : BitVec 16) (s : State) : Out :=
  if (s.core s.actor.core).regs.dbgstop.testBit s.actor.ctx then
    .next (stopContext (s.modMe fun c => { c with pc := s.actor.pc }) s.actor.core s.actor.ctx)
  else trap s 0x01 (code.setWidth 64)

/-- TRAP: SOFTWARE_TRAP with the immediate in TVAL (04 R88). -/
def execTrap (imm : BitVec 32) (s : State) : Out := trap s 0x02 (imm.setWidth 64)

/-- ERET: returns from a trap; in user mode PERMISSION. A pending external trap is taken then (04 R89, 01 R29, 21 R377). -/
def execEret (s : State) : Out :=
  if s.user then trap s 0x22 s.actor.bits
  else .next (takePending (s.modMe Ctx.eret) s.actor.core s.actor.ctx)

/-- POLSTAT of a partition (10 R243). -/
def polstat (p : Part) : Word :=
  let q := p.policy
  w64 (q.ovr * 2 ^ 40 + q.badv * 2 ^ 16 + q.gen * 2 ^ 8 + b2n (decide (q.staged ≠ .empty)) * 8 + b2n q.swp * 4 +
    b2n (match q.active with
      | .prog _ => true
      | _ => false) * 2)

/-- PFLOOR as it reads (23 R414). The IOD has no DEGRADE bit of its own, and DEGNOW reads 0 on the display sequencer (log 89). -/
def pfloorRead (s : State) (k : Nat) (c : Ctx) : Word := (c.pfloor &&& 0x101) ||| w64 (b2n ((s.die (dieOf k)).degrade && decide (k ≠ dsCore)) * 512)

/-- CYC as a register (01 R21). -/
def cycWord (s : State) : Word := w64 (s.cyc s.actor.core)

/-- The value of a control register (01 R16). -/
def ctrlRead (s : State) (idx : Nat) : Word :=
  let c := s.me
  let p := s.part (s.partOf s.actor.core)
  match idx with
  | 0x000 => w64 (b2n c.priv)
  | 0x001 => c.tr.cause
  | 0x002 => c.tr.epc
  | 0x003 => c.tr.tval
  | 0x004 => c.tr.tstat
  | 0x005 => c.tr.tvec
  | 0x008 => w64 c.frm
  | 0x009 => s.seedRead s.actor.core
  | 0x010 => c.dict.gen.setWidth 64
  | 0x011 => ctxId s.actor.core s.actor.ctx
  | 0x012 => w64 (s.partOf s.actor.core)
  | 0x013 => p.dutyctl
  | 0x014 => p.schedctl
  | 0x015 => polstat p
  | 0x016 => pfloorRead s s.actor.core c
  | 0x020 => cycWord s
  | _ => 0

/-- Registers that user mode may not read or write (01 R16). -/
def ctrlSuper (idx : Nat) : Bool := decide (1 ≤ idx ∧ idx ≤ 5)

/-- Registers that no CRW may write (01 R16). -/
def ctrlReadOnly (idx : Nat) : Bool := [0x000, 0x010, 0x011, 0x012, 0x013, 0x014, 0x015, 0x020].contains idx

/-- The bits of CAUSE and TSTAT that a CRW writes (01 R18, R19). -/
def causeMask : Word := 0xFF
/-- See `causeMask`. -/
def tstatMask : Word := 0xFFFFFFFF00FFED01

/-- A control register written, reserved bits ignored (00 R5, 01 R16 to R19, 06 R149, 23 R414). -/
def ctrlWrite (s : State) (idx : Nat) (v : Word) : State :=
  match idx with
  | 0x001 => s.modMe fun c => { c with tr := { c.tr with cause := v &&& causeMask } }
  | 0x002 => s.modMe fun c => { c with tr := { c.tr with epc := v } }
  | 0x003 => s.modMe fun c => { c with tr := { c.tr with tval := v } }
  | 0x004 => s.modMe fun c => { c with tr := { c.tr with tstat := v &&& tstatMask } }
  | 0x005 => s.modMe fun c => { c with tr := { c.tr with tvec := v &&& ~~~(1 : Word) } }
  | 0x008 => s.modMe fun c => { c with frm := v.toNat % 8 }
  | 0x009 => s.setSeed s.actor.core 65 (if v = 0 then 0x2545F4914F6CDD1D else v)
  | 0x016 => s.modMe fun c => { c with pfloor := (v &&& 1) ||| (if bit v 8 then 0 else c.pfloor &&& 0x100) }
  | _ => s

/-- CRR: reads a control register (04 R90, 01 R16) (log 20). -/
def execCrr (d : Reg) (idx : BitVec 12) (s : State) : Out :=
  if !(ctrlIndex idx) then trap s 0x05 s.actor.bits
  else if s.user && ctrlSuper idx.toNat then trap s 0x22 s.actor.bits
  else retireWith s d (ctrlRead s idx.toNat)

/-- CRW: writes a control register; FRM refuses 6 and 7; clearing TIN lets a pending external trap be taken (04 R90, 01 R16, R17, 21 R377) (log 10). -/
def execCrw (idx : BitVec 12) (a : Reg) (s : State) : Out :=
  if !(ctrlIndex idx) then trap s 0x05 s.actor.bits
  else if ctrlReadOnly idx.toNat || (s.user && ctrlSuper idx.toNat) then trap s 0x22 s.actor.bits
  else if idx.toNat = 0x008 ∧ 6 ≤ (s.reg a).toNat % 8 then trap s 0x05 s.actor.bits
  else .next (takePending ((ctrlWrite s idx.toNat (s.reg a)).modMe fun c => { c with pc := s.nextPc, resume := none }) s.actor.core s.actor.ctx)

/-- The oldest event record leaves the acting core's queue into D and A (04 R91, R92). -/
def popEvent (s : State) (d a : Reg) (r : Wide) (rest : List Wide) : Out :=
  retire (((s.modCore s.actor.core fun c => { c with evq := rest }).setReg d (r.setWidth 64)).setReg a ((r >>> 64).setWidth 64))

/-- EVPOP: the oldest record, or zeros where the queue is empty (04 R92). -/
def execEvpop (d a : Reg) (s : State) : Out :=
  match (s.core s.actor.core).evq with
  | r :: rest => popEvent s d a r rest
  | [] => retire ((s.setReg d 0).setReg a 0)

/-- EVWAIT: the oldest record; on an empty queue the context enters WAIT (04 R92, 01 R22). -/
def execEvwait (d a : Reg) (s : State) : Out :=
  match (s.core s.actor.core).evq with
  | r :: rest => popEvent s d a r rest
  | [] => waitFor s .event

/-- CYC: the cycle counter (04 R93, 01 R21). -/
def execCyc (d : Reg) (s : State) : Out := retireWith s d (cycWord s)

end Sys2Proof.Machine
end

