-- ==== Sys2Proof/Machine/Matrix.lean ====
section
/-! DEFINITION. The matrix instructions of the sequencer: their issue checks and their entry into the matrix queue (08 R186 to R203). -/
namespace Sys2Proof.Machine

/-- P: products of a cell in one ac (08 R186). -/
def MTy.p : MTy → Nat
  | .bf16 | .f16 => 1
  | .e4m3 | .e5m2 | .i8 => 2
  | .e2m1 | .i4 => 4

/-- KS: the depth of a slice (08 R186). -/
def MTy.ks (t : MTy) : Nat := 128 * MTy.p t

/-- The float class (08 R186). -/
def MTy.float : MTy → Bool
  | .i8 | .i4 => false
  | _ => true

/-- Bits of an element (08 R186). -/
def MTy.bits (t : MTy) : Nat := 16 / MTy.p t

/-- Types that take block scales (08 R186). -/
def MTy.scaled : MTy → Bool
  | .e4m3 | .e5m2 | .e2m1 => true
  | _ => false

/-- A types and B types that may be paired (08 R186). -/
def pairable (a b : MTy) : Bool := decide (MTy.float a = MTy.float b) && decide (MTy.p a = MTy.p b)

/-- Matrix state of context n of core k. -/
def State.modMxCtx (s : State) (k n : Nat) (f : MxCtx → MxCtx) : State := s.modCtx k n fun c => { c with mx := f c.mx }

/-- A matrix instruction issues: a pending fault traps first (08 R189), then a failed issue check, TVAL the register's value (08 R187); then it enters the queue, and with the queue full it waits. -/
def enterMatrix (s : State) (i : Instr) (bad : Option Word) (a b : Word) (rm : Rm) : Out :=
  let k := s.actor.core
  match s.me.mx.fault, bad with
  | some (c, v), _ => trap (s.modMe fun c => { c with mx := { c.mx with fault := none } }) c.code v
  | none, some v => trap s 0x51 v
  | none, none =>
    if 16 ≤ (s.core k).mx.queue.length then .next s
    else
      let gone := match (s.core k).mx.gang with
        | some g => !(Tab.look {} (s.die (dieOf k)).gangs g.gid).left.isEmpty
        | none => false
      let op : MxOp := { ctx := s.actor.ctx, word := (encode s.actor.guard i).getD 0, act := i, a := a, b := b, rm := rm, late := gone }
      retire ((s.modMx k fun m => { m with queue := m.queue ++ [op] }).modMe fun c => { c with mx := { c.mx with outstanding := c.mx.outstanding + 1 } })

/-- The last byte of AB and WB. -/
def bufLast : Nat := 0x5FFFF

/-- A buffer address in a register (08 R191). -/
def bufAddr (a : Word) : Nat := bits a 0 19

/-- The issue check of MX.LDB, and of MX.SCALE with BEN (08 R191, R192). -/
def unaligned64 (v : Word) : Option Word := if bufAddr v % 64 ≠ 0 then some v else none

/-- MX.LDB (08 R191). -/
def execMxLdb (a : Reg) (sl : Fin 2) (bt : MTy) (s : State) : Out := enterMatrix s (.mxLdb a sl bt) (unaligned64 (s.reg a)) (s.reg a) 0 .rne

/-- MX.SCALE (08 R192). -/
def execMxScale (a : Reg) (sl : Fin 2) (aen ben : Bool) (s : State) : Out :=
  enterMatrix s (.mxScale a sl aen ben) (if ben then unaligned64 (s.reg a) else none) (s.reg a) 0 .rne

/-- An FP32 that is a NaN or below 0 (08 R196, R197). -/
def badBound (v : Word) : Bool :=
  match decodeFp fp32 (bits v 0 32) with
  | .nan => true
  | .inf b => b
  | .fin b _ _ => b
  | .zero _ => false

/-- The issue check of MX.THR and MX.SAMP (08 R196, R197). -/
def boundBad (v : Word) : Option Word := if badBound v then some v else none

/-- THR as MX.THR sets it: -0 is taken as 0 (08 R196). -/
def thrOf (v : Word) : BitVec 32 := if bits v 0 32 = 0x80000000 then 0 else v.setWidth 32

/-- MX.THR: THR for the products of its context that enter the queue after it; it acts in its place in the queue, where it may still be discarded (08 R189, R196). -/
def execMxThr (a : Reg) (s : State) : Out := enterMatrix s (.mxThr a) (boundBad (s.reg a)) (s.reg a) 0 .rne

/-- MX.SAMP (08 R197). -/
def execMxSamp (a b : Reg) (s : State) : Out :=
  enterMatrix s (.mxSamp a b) (boundBad (s.reg b)) (s.reg a) (s.reg b) .rne

/-- M of a C descriptor (08 R193). -/
def cRows (b : Word) : Nat := bits b 8 8 + 1
/-- ROW0 of a C descriptor (08 R193). -/
def cRow0 (b : Word) : Nat := bits b 0 7
/-- ASTRIDE of an A descriptor (08 R193). -/
def aStride (a : Word) : Nat := bits a 20 11
/-- ASCB of an A descriptor (08 R193). -/
def aScales (a : Word) : Nat := bits a 32 19

/-- The issue checks of MM, MMZ and MMR (08 R193); M - 1 holds 1 to 128 rows. -/
def mmBad (a b : Word) : Option Word :=
  if bufAddr a % 256 ≠ 0 ∨ aScales a % 32 ≠ 0 ∨ 1535 < aStride a then some a
  else if 128 < cRows b ∨ 128 < cRow0 b + cRows b then some b
  else if bufLast < bufAddr a + 256 * aStride a * (cRows b - 1) + 255 then some a
  else none

/-- MM (08 R193, R194). -/
def execMm (a b : Reg) (o : MmOpts) (s : State) : Out := enterMatrix s (.mm a b o) (mmBad (s.reg a) (s.reg b)) (s.reg a) (s.reg b) .rne
/-- MMZ (08 R193, R194). -/
def execMmz (a b : Reg) (o : MmOpts) (s : State) : Out := enterMatrix s (.mmz a b o) (mmBad (s.reg a) (s.reg b)) (s.reg a) (s.reg b) .rne
/-- MMR (08 R193, R194, R198). -/
def execMmr (a b : Reg) (z : Bool) (o : MmOpts) (s : State) : Out := enterMatrix s (.mmr a b z o) (mmBad (s.reg a) (s.reg b)) (s.reg a) (s.reg b) .rne

/-- Row size of a drain (08 R199). -/
def drainRow : DrainTy → Nat
  | .bf16 | .f16 => 256
  | .e4m3 | .e5m2 | .i8 => 128
  | .e2m1 => 64
  | .raw => 512

/-- The issue checks of MX.DRAIN (08 R199). -/
def drainBad (a b : Word) (dt : DrainTy) : Option Word :=
  if bufAddr a % drainRow dt ≠ 0 then some a
  else if 128 < cRows b ∨ 128 < cRow0 b + cRows b then some b
  else if bufLast < bufAddr a + drainRow dt * cRows b - 1 then some a
  else none

/-- MX.DRAIN; DYN takes FRM at issue (08 R199). -/
def execMxDrain (a b : Reg) (rm : Rm) (clr mark : Bool) (bank : Fin 2) (dt : DrainTy) (s : State) : Out :=
  enterMatrix s (.mxDrain a b rm clr mark bank dt) (drainBad (s.reg a) (s.reg b) dt) (s.reg a) (s.reg b) (if rm = .dyn then frmMode s.me.frm else rm)

/-- MX.WAIT: waits until at most N operations of the context are outstanding; a pending fault traps (08 R189, R200). -/
def execMxWait (n : BitVec 5) (s : State) : Out :=
  match s.me.mx.fault with
  | some (c, v) => trap (s.modMe fun c => { c with mx := { c.mx with fault := none } }) c.code v
  | none => if s.me.mx.outstanding ≤ n.toNat then retire s else waitFor s (.matrix n.toNat)

/-- The shape and place that MX.GANG asks for: GID, GR, GC, ROW, COL (08 R201). -/
def gangAsk (a : Word) : Nat × Nat × Nat × Nat × Nat := (bits a 0 4, bits a 4 2 + 1, bits a 6 3 + 1, bits a 9 2, bits a 11 3)

/-- The issue check of MX.GANG (08 R201). -/
def gangBad (v : Word) : Option Word :=
  let (_, gr, gc, row, col) := gangAsk v
  if gr ≤ row ∨ gc ≤ col then some v else none

/-- MX.GANG (08 R201). -/
def execMxGang (a : Reg) (s : State) : Out := enterMatrix s (.mxGang a) (gangBad (s.reg a)) (s.reg a) 0 .rne

/-- MX.GANG.leave (08 R201). -/
def execMxGangLeave (s : State) : Out := enterMatrix s .mxGangLeave none 0 0 .rne

/-- The issue checks of MX.EDGE (08 R203). -/
def edgeBad (a b : Word) (g ne : Nat) : Option Word :=
  if bufAddr a % 16 ≠ 0 ∨ bufLast < bufAddr a + 16 * ne - 1 then some a
  else if bufAddr b % 32 ≠ 0 ∨ bufLast < bufAddr b + 32 * (ne / g) - 1 then some b
  else none

/-- MX.EDGE (08 R203). -/
def execMxEdge (a b : Reg) (sx sy : BitVec 8) (g : Fin 4) (ne : BitVec 7) (s : State) : Out :=
  enterMatrix s (.mxEdge a b sx sy g ne) (edgeBad (s.reg a) (s.reg b) (g.val + 1) (ne.toNat + 1)) (s.reg a) (s.reg b) .rne

/-- What the issue check of an instruction that enters the matrix queue answers for the registers of a context; none for every other instruction (08 R187). -/
def matrixCheck (c : Ctx) (i : Instr) : Option (Option Word) :=
  match i with
  | .mxLdb a _ _ => some (unaligned64 (c.reg a))
  | .mxScale a _ _ ben => some (if ben then unaligned64 (c.reg a) else none)
  | .mxThr a => some (boundBad (c.reg a))
  | .mxSamp _ b => some (boundBad (c.reg b))
  | .mm a b _ => some (mmBad (c.reg a) (c.reg b))
  | .mmz a b _ => some (mmBad (c.reg a) (c.reg b))
  | .mmr a b _ _ => some (mmBad (c.reg a) (c.reg b))
  | .mxDrain a b _ _ _ _ dt => some (drainBad (c.reg a) (c.reg b) dt)
  | .mxGang a => some (gangBad (c.reg a))
  | .mxGangLeave => some none
  | .mxEdge a b _ _ g ne => some (edgeBad (c.reg a) (c.reg b) (g.val + 1) (ne.toNat + 1))
  | _ => none

end Sys2Proof.Machine
end

