-- ==== Sys2Proof/Machine/Buffers.lean ====
section
/-! DEFINITION. The typed buffers of a core and the shadow windows over them (11 R248 to R251; 17 R333). -/
namespace Sys2Proof.Machine

/-- Size of a typed buffer by its SPACE: 1 AB, 2 WB, 3 CB, 4 TS (11 R249). -/
def bufSize : Nat → Nat
  | 1 | 2 => 0x60000
  | 3 => 0x20000
  | 4 => 0x40000
  | _ => 0

/-- The bytes of a typed buffer by its SPACE. -/
def CoreSt.buf (c : CoreSt) : Nat → Tab Byte
  | 1 => c.ab
  | 2 => c.wb
  | 3 => c.cb
  | _ => c.ts

/-- A core with a typed buffer replaced. -/
def CoreSt.setBuf (c : CoreSt) (sp : Nat) (b : Tab Byte) : CoreSt :=
  match sp with
  | 1 => { c with ab := b }
  | 2 => { c with wb := b }
  | 3 => { c with cb := b }
  | _ => { c with ts := b }

/-- n bytes of a table of bytes from a on. -/
def getBytes (t : Tab Byte) (a : Nat) : Nat → List Byte
  | 0 => []
  | n + 1 => Tab.look 0 t a :: getBytes t (a + 1) n

/-- A shadow window that is VALID and of a buffer (17 R333). -/
def CoreSt.windows (c : CoreSt) (sp : Nat) : List Shadow := (c.shadows.map Prod.snd).filter fun w => w.valid && decide (w.space = sp)

/-- Where an offset of a buffer lies under the shadow windows: a target offset reaches the half that FLIP names, and no access reaches the other half (17 R333). -/
def mapBuf (c : CoreSt) (sp off : Nat) : Option Nat :=
  let ws := c.windows sp
  match ws.find? (fun w => decide (w.base ≤ off) && decide (off < w.base + w.len)) with
  | some w => some (if w.flip then w.alt + (off - w.base) else off)
  | none => if ws.any fun w => decide (w.alt ≤ off) && decide (off < w.alt + w.len) then none else some off

/-- An offset under the shadow windows, itself where no window leads anywhere. -/
def mapped (c : CoreSt) (sp off : Nat) : Nat := (mapBuf c sp off).getD off

/-- The pieces of n bytes from off on, at most f of them, each within one block of 256 bytes: windows are multiples of 256, so each lies wholly under one mapping (17 R333). -/
def bufRuns : Nat → Nat → Nat → List (Nat × Nat)
  | 0, _, _ => []
  | f + 1, off, n =>
    if n = 0 then []
    else let m := min n (256 - off % 256); (off, m) :: bufRuns f (off + m) (n - m)

/-- The pieces of n bytes of a buffer from off on. -/
def bufPieces (off n : Nat) : List (Nat × Nat) := bufRuns (n / 256 + 2) off n

/-- n bytes of a typed buffer of core k (17 R333). -/
def bufRead (s : State) (k sp off n : Nat) : List Byte :=
  (bufPieces off n).flatMap fun (o, m) => getBytes ((s.core k).buf sp) (mapped (s.core k) sp o) m

/-- Writing bytes of a typed buffer of core k. -/
def bufPut (s : State) (k sp off : Nat) (bs : List Byte) : State :=
  s.modCore k fun c => c.setBuf sp ((bufPieces off bs.length).foldl (fun t (o, m) => putBytes t (mapped c sp o) ((bs.drop (o - off)).take m)) (c.buf sp))

/-- An uncorrectable byte among n of a typed buffer (08 R189; 12 R271) (log 13). -/
def bufBad (s : State) (k sp off n : Nat) : Bool :=
  (bufPieces off n).any fun (o, m) => (List.range m).any fun i => Tab.look false (s.core k).bad (sp * 2 ^ 20 + mapped (s.core k) sp o + i)

/-- A byte among n of a typed buffer lies in the half of a window that no access reaches (17 R333). -/
def bufShut (c : CoreSt) (sp off n : Nat) : Bool := (bufPieces off n).any fun x => (mapBuf c sp x.1).isNone

/-- The writer of a byte of AB or WB that is not performed yet: a stream port, or engine 0 to 2 from 16 on (08 R204). -/
def engWriter (n : Nat) : Nat := 16 + n

/-- The bytes that an element's, a stream's or an engine's write leaves: the first value of each that the array may still see until the write's command completes (08 R204) (log 102). -/
def keepOlds (s : State) (k sp off n w : Nat) : State :=
  if sp ≠ 1 ∧ sp ≠ 2 then s
  else s.modCore k fun c =>
    { c with olds := (bufPieces off n).foldl (fun t (o, m) => (List.range m).foldl (fun t i =>
        let a := mapped c sp o + i
        if (Tab.find t (sp * 2 ^ 20 + a)).isSome then t else Tab.set t (sp * 2 ^ 20 + a) (w, Tab.look 0 (c.buf sp) a)) t) c.olds }

/-- The writes of a command are performed: nobody sees what they replaced (08 R204). -/
def dropOlds (s : State) (k w : Nat) : State := s.modCore k fun c => { c with olds := c.olds.filter fun x => decide (x.2.1 ≠ w) }

/-- The bytes of a row of AB whose FULL bit is set are ordered before a read that waits for it, where the shadow windows map the row to (08 R204; 17 R333) (log 102). -/
def settleOlds (s : State) (k row : Nat) : State :=
  s.modCore k fun c =>
    let lo := 2 ^ 20 + mapped c 1 (256 * row)
    { c with olds := c.olds.filter fun x => !(decide (lo ≤ x.1) && decide (x.1 < lo + 256)) }

/-- n bytes of AB or WB as the array reads them: of a byte whose write is not performed, what it replaced may be seen, each byte for itself, a free choice (08 R204) (log 102). -/
def bufSeen (s : State) (k sp off n : Nat) : List Byte :=
  let c := s.core k
  if c.olds.isEmpty then bufRead s k sp off n
  else (bufPieces off n).flatMap fun (o, m) => (List.range m).map fun i =>
    let a := mapped c sp o + i
    match Tab.find c.olds (sp * 2 ^ 20 + a) with
    | some (_, b) => if (Config.freeByte s.fresh (sp * 2 ^ 20 + a)).getLsbD 0 then b else Tab.look 0 (c.buf sp) a
    | none => Tab.look 0 (c.buf sp) a

/-- The choices of such a read are used up. -/
def seenOnce (s : State) (k : Nat) : State := if (s.core k).olds.isEmpty then s else { s with fresh := s.fresh + 1 }

/-- A space-tagged address (11 R248). -/
def tagged (sp off : Nat) : Nat := sp * 2 ^ 60 + off

/-- The checks of R249 on one offset of a space-tagged address to a buffer, for an agent that may reach the buffers `ok`: the cause, or the space and offset. -/
def bufCheck (c : CoreSt) (ok : List Nat) (a : Nat) : Nat × Nat × Nat :=
  let sp := nbits a 60 4
  let off := nbits a 0 19
  if !(ok.contains sp) || decide (nbits a 19 41 ≠ 0) then (0x26, sp, off)
  else if bufSize sp ≤ off then (0x25, sp, off)
  else if (mapBuf c sp off).isNone then (0x26, sp, off)
  else (0, sp, off)

end Sys2Proof.Machine
end

