-- ==== Sys2Proof/Machine/Streams.lean ====
section
/-! DEFINITION. Stream descriptors and commands: the STR and WIN instructions, and where a stream's unified accesses lead (11 R256; 12 R267, R268, R272 to R277). -/
namespace Sys2Proof.Machine

/-- The ply for which a context owns a stream port: its ACTIVE ply, else one STAGED on its behalf, that lists the port (12 R267, R273). -/
def portPly (s : State) (k n port : Nat) : Option Nat :=
  let lists (q : Nat) : Bool := (s.ply k q).sports.testBit port
  match (s.ctx k n).bound.filter lists with
  | some q => some q
  | none => firstBelow 4 fun q => stagedFor s k n q && lists q

/-- A descriptor that keeps every field of R268 in range, with BASE and strides multiples of the element size (12 R268, R273 step 3). -/
def descOk (ind : Bool) (b : List Byte) : Bool :=
  let esz := 2 ^ (fld b 0x30 1 % 4)
  let count (v : Nat) : Bool := decide (1 ≤ v ∧ v ≤ 2 ^ 24)
  decide (fld b 0x30 1 < 4) && decide (fld b 0x31 1 < 2) && decide (fld b 0x32 1 < 32) && decide (fld b 0x33 1 < 16) && allZero (cut b 0x14 4) &&
  allZero (cut b 0x35 11) && decide (fld b 0 8 % esz = 0) &&
  (if ind then decide (fld b 8 4 ≤ 2 ^ 24) && allZero (cut b 0x0C 8) && allZero (cut b 0x18 24) && decide (fld b 0x34 1 < 16)
   else count (fld b 8 4) && count (fld b 0x0C 4) && count (fld b 0x10 4) && decide (fld b 0x34 1 = 0) &&
    [0x18, 0x20, 0x28].all fun o => decide (fld b o 8 % esz = 0))

/-- The fields of a descriptor (12 R268). -/
def descOf (ind : Bool) (b : List Byte) : SDesc :=
  let fl := fld b 0x33 1
  { ind := ind, base := w64 (fld b 0 8), n0 := fld b 8 4, n1 := fld b 0x0C 4, n2 := fld b 0x10 4
    st0 := sextN (fld b 0x18 8) 64, st1 := sextN (fld b 0x20 8) 64, st2 := sextN (fld b 0x28 8) 64
    esz := 2 ^ (fld b 0x30 1 % 4), write := decide (fld b 0x31 1 = 1), ord := fld b 0x32 1 % 4, sc := fld b 0x32 1 / 4
    eos := fl.testBit 0, mark := fl.testBit 1, ctok := fl.testBit 2, sext := fl.testBit 3
    shift := fld b 0x34 1 % 8, iw := (fld b 0x34 1).testBit 3 }

/-- The 64 bytes of a descriptor (12 R268). -/
def descBytes (d : SDesc) : List Byte :=
  bytesLE d.base.toNat 8 ++ bytesLE d.n0 4 ++ bytesLE d.n1 4 ++ bytesLE d.n2 4 ++ bytesLE 0 4 ++ bytesLE (truncI d.st0 64) 8 ++ bytesLE (truncI d.st1 64) 8 ++
  bytesLE (truncI d.st2 64) 8 ++ bytesLE (Nat.log2 d.esz) 1 ++ bytesLE (b2n d.write) 1 ++ bytesLE (d.ord + 4 * d.sc) 1 ++
  bytesLE (b2n d.eos + 2 * b2n d.mark + 4 * b2n d.ctok + 8 * b2n d.sext) 1 ++ bytesLE (d.shift + 8 * b2n d.iw) 1 ++ List.replicate 11 0

/-- The buffers that a stream port may reach in a direction (11 R249). -/
def streamSpaces (write : Bool) : List Nat := if write then [1, 2] else [1, 4]

/-- BASE names a space that the port may use in its direction, with no bit that must be zero (11 R249; 12 R273 step 4). -/
def baseOk (d : SDesc) : Bool :=
  if d.space = 0 then decide (bits d.base 55 5 = 0) else (streamSpaces d.write).contains d.space && decide (bits d.base 19 41 = 0)

/-- STR.AFF and STR.IND: the checks of R273 in their order, then the port is armed. -/
def armPort (ind : Bool) (a : Reg) (port : Nat) (s : State) : Out :=
  let k := s.actor.core
  let ea := bits (s.reg a) 0 14
  let b := localBytes (s.core k) ea 64
  if ea % 64 ≠ 0 then trap s 0x24 (w64 ea)
  else match portPly s k s.actor.ctx port with
    | none => trap s 0x37 (w64 port)
    | some q =>
      if (List.range 64).any (fun i => Tab.look false (s.core k).bad (ea + i)) then trap s 0x2F (w64 ea)
      else
        let p := s.ply k q
        let fits := if ind ∨ fld b 0x31 1 = 1 then (p.feeder (.stream port)).isSome else (p.routeOf (.stream port)).isSome
        if !fits then trap s 0x37 (w64 port)
        else if !(descOk ind b) then trap s 0x38 (w64 ea)
        else if !(baseOk (descOf ind b)) then trap s 0x26 (descOf ind b).base
        else retire (s.modStream k port fun p => { p with armed := some (descOf ind b, q) })

/-- STR.AFF (12 R273). -/
def execStrAff (a : Reg) (port : Fin 16) (s : State) : Out := armPort false a port.val s
/-- STR.IND (12 R273). -/
def execStrInd (a : Reg) (port : Fin 16) (s : State) : Out := armPort true a port.val s

/-- The BASE of a queued command: its offset moves, its space tag stays (12 R274). -/
def goBase (d : SDesc) (a : Word) : Word := w64 (d.space * 2 ^ 60 + bits (d.base + a) 0 60)

/-- The least and the greatest element address of an affine command, without the space tag (12 R268). -/
def SDesc.span (d : SDesc) : Int × Int :=
  let part (n : Nat) (st : Int) : Int := ((n : Int) - 1) * st
  let l := [part d.n0 d.st0, part d.n1 d.st1, part d.n2 d.st2]
  (d.off + (l.map fun x => min 0 x).sum, d.off + (l.map fun x => max 0 x).sum)

/-- The address of R274 that an affine command on a buffer may not reach: the lower of the least and the greatest that lies outside (log 30). -/
def goOutside (d : SDesc) : Option Int :=
  let out (x : Int) : Bool := decide (x < 0) || decide ((bufSize d.space : Int) ≤ x)
  if d.space = 0 ∨ d.ind then none
  else if out d.span.1 then some d.span.1
  else if out d.span.2 then some d.span.2
  else none

/-- What STR.GO traps with, by the checks of R274 (log 30). -/
def goFault (s : State) (k n port : Nat) (a : Word) : Option (Nat × Word) :=
  match ((s.core k).stream port).armed with
  | none => some (0x37, w64 port)
  | some (d, q) =>
    if portPly s k n port = some q ∨ (stagedFor s k n q ∧ (s.ply k q).sports.testBit port) then
      if bits (goBase d a) 0 60 % d.esz ≠ 0 then some (0x24, goBase d a)
      else match goOutside { d with base := goBase d a } with
        | some x => some (0x25, w64 (d.space * 2 ^ 60 + truncI x 60))
        | none => none
    else some (0x37, w64 port)

/-- The release part of a stream command, at a scope wider than its own agent (12 R270; 13 R290). -/
def goReleases (d : SDesc) : Bool := d.ord.testBit 1 && decide (d.sc ≠ 0)

/-- A command with the release part waits for the stores that the acting context has issued before its STR.GO; one without it is unordered with them (12 R270) (log 4). -/
def oweStores (s : State) (k : Nat) (rel : Bool) (id : Nat) : State :=
  s.modMem fun m => { m with late := m.late.map fun x =>
    if x.core = k ∧ x.ctx = s.actor.ctx then (if rel then { x with owed := id :: x.owed } else { x with loose := true }) else x }

/-- STR.GO: the armed descriptor is queued at its new BASE (12 R274, R275). With four commands queued it waits before it issues. -/
def execStrGo (a : Reg) (port : Fin 16) (s : State) : Out :=
  let k := s.actor.core
  match goFault s k s.actor.ctx port.val (s.reg a), ((s.core k).stream port.val).armed with
  | some (c, v), _ => trap s c v
  | none, some (d, q) =>
    if 4 ≤ ((s.core k).stream port.val).queue.length then .next s
    else
      retire ((oweStores s k (goReleases d) (s.core k).nextCmd |>.modStream k port.val fun p =>
        { p with queue := p.queue ++ [{ desc := { d with base := goBase d (s.reg a) }, ply := q, id := (s.core k).nextCmd, after := p.bar }] }).modCore k fun c =>
          { c with nextCmd := c.nextCmd + 1 })
  | none, none => trap s 0x37 (w64 port.val)

/-- The numbers of the commands that a port has queued or runs. -/
def SPort.ids (p : SPort) : List Nat := p.run.toList.map (·.cmd.id) ++ p.queue.map (·.id)

/-- STR.BAR: commands queued later on a port of MASK wait for those queued before on all of them (12 R275). -/
def execStrBar (mask : BitVec 16) (s : State) : Out :=
  let k := s.actor.core
  let ps := maskBits 16 mask.toNat
  let open_ := (List.range 16).flatMap fun n => ((s.core k).stream n).ids
  let ids := ps.flatMap fun n => ((s.core k).stream n).ids
  retire (ps.foldl (fun s n => s.modStream k n fun p => { p with bar := (p.bar.filter open_.contains) ++ ids }) s)

/-- A port has an empty queue and is not in RUN or FAULTED (12 R276). -/
def streamIdle (s : State) (k n : Nat) : Bool := ((s.core k).stream n).queue.isEmpty && ((s.core k).stream n).run.isNone

/-- STR.WAIT: once every port of MASK is idle it answers and clears their ERR (12 R276). -/
def execStrWait (d : Reg) (mask : BitVec 16) (s : State) : Out :=
  let k := s.actor.core
  let ps := maskBits 16 mask.toNat
  if ps.all (streamIdle s k) then
    let errs := ps.filter fun n => ((s.core k).stream n).err
    retireWith (ps.foldl (fun s n => s.modStream k n fun p => { p with err := false }) s) d (w64 (errs.map fun n => 2 ^ n).sum)
  else waitFor s (.streams mask)

/-- The 64 KiB page that maps a virtual address: its leaf, and the address of the page or of its descriptor (11 R253, R256). -/
def pageOf (e vpn va : Nat) : Nat := if e.testBit 7 then entryAddr e else entryAddr e + (va / 65536 - vpn) * 65536

/-- A later page with leaf f, mapped from page fvpn on, joins the run of a window whose first page has leaf e and lies at base: page i of the run from the page of va (11 R256). -/
def leafJoins (e base va i f fvpn : Nat) : Bool :=
  let v := va + 65536 * i
  decide (v < 2 ^ 55) && f.testBit 6 && f.testBit 8 && decide (f.testBit 3 = e.testBit 3) && decide (f.testBit 4 = e.testBit 4) &&
  decide (f.testBit 7 = e.testBit 7) && (!(e.testBit 4 && e.testBit 9) || f.testBit 9) && decide (pageOf f fvpn v = base + 65536 * i)

/-- Page i joins the run of a window, by a walk of its own (11 R256; 00 R8) (log 63). -/
def pageJoins (s : State) (k e base va i : Nat) : Mr Bool :=
  (probePage s k (va + 65536 * i)).andThen fun r s =>
    match r with
    | some (f, fvpn, _) => .ok (leafJoins e base va i f fvpn) s
    | none => .ok false s

/-- Pages of a run from page i on, n more at most, and whether the next one awaits the host (11 R256) (log 63). -/
def runPages (k e base va : Nat) : Nat → Nat → State → (Nat × Bool) × State
  | 0, i, s => ((i, false), s)
  | n + 1, i, s =>
    match pageJoins s k e base va i with
    | .ok true s => runPages k e base va n (i + 1) s
    | .ok false s => ((i, false), s)
    | .fault _ _ s => ((i, false), s)
    | .wait s => ((i, true), s)

/-- The pages that a window may map (11 R256). -/
def maxPages : Nat := 2 ^ 26

/-- The window that entry `slot` of a port's builds has begun over the run from the page of va goes on to n pages at most; it is kept while a page awaits the host (11 R256; 00 R8) (log 63). -/
def windowFrom (s : State) (k port slot : Nat) (b : WinBuild) (va n : Nat) : Mr Win :=
  let base := pageOf b.leaf b.vpn va
  let keep (s : State) (l : Tab WinBuild → Tab WinBuild) : State := s.modStream k port fun p => { p with builds := l p.builds }
  match runPages k b.leaf base va (min n maxPages - b.npg) b.npg s with
  | ((i, true), s) => .wait (keep s fun t => Tab.set t slot { b with npg := i })
  | ((i, false), s) =>
    .ok { vbase := va / 65536, pbase := base, npg := i, rd := b.leaf.testBit 3, w := b.leaf.testBit 4 && b.leaf.testBit 9, cmp := b.leaf.testBit 7 }
      (keep s fun t => Tab.drop t slot)

/-- The window over the run from the page of va, and the leaf of its first page with the first page that this maps: begun by a walk that passes `ok`, or gone on with. A first page whose leaf has A = 0, which only the host can answer, gives no window (11 R256) (log 63). -/
def windowWalk (s : State) (k port slot va n : Nat) (acc : Acc) (ok : Nat → Bool) : Mr (Option Win × Nat × Nat) :=
  match (Tab.find ((s.core k).stream port).builds slot).filter fun b => decide (b.page = va / 65536) && ok b.leaf with
  | some b => (windowFrom s k port slot b va n).andThen fun w s => .ok (some w, b.leaf, b.vpn) s
  | none =>
    (hostWalk s k va acc ok).andThen fun r s =>
      if r.1.testBit 8 then
        (windowFrom s k port slot { page := va / 65536, leaf := r.1, vpn := r.2.1 } va n).andThen fun w s => .ok (some w, r.1, r.2.1) s
      else .ok (none, r.1, r.2.1) s

/-- A stamp later than every use of the port's windows. -/
def SPort.stamp (p : SPort) : Nat := (p.wins.map fun x => x.2.used).foldl max 0 + 1

/-- A window takes entry i of its port. -/
def SPort.setWin (p : SPort) (i : Nat) (w : Win) : SPort := { p with wins := Tab.set p.wins i { w with used := p.stamp } }

/-- The entry that a new window takes: an empty one, else the least recently used (11 R256). -/
def SPort.victim (p : SPort) : Nat :=
  match firstBelow 4 fun i => (Tab.find p.wins i).isNone with
  | some i => i
  | none => ((p.wins.foldl (fun a x => match a with
    | none => some x
    | some y => if x.2.used < y.2.used then some x else some y) none).map Prod.fst).getD 0

/-- Pages that WIN.SET may install (12 R277). -/
def winPages (a b : Word) : Nat := min maxPages (cdiv (bits a 0 16 + b.toNat) 65536)

/-- WIN.SET: walks a range and installs it as a window (11 R256; 12 R277). -/
def execWinSet (d a b : Reg) (entry : Fin 4) (port : Fin 16) (s : State) : Out :=
  let k := s.actor.core
  let va := (s.reg a).toNat
  if (portPly s k s.actor.ctx port.val).isNone then trap s 0x37 (w64 port.val)
  else if s.reg b = 0 then retireWith s d 0
  else if 2 ^ 55 ≤ va then trap s 0x20 (s.reg a)
  else
    (windowWalk s k port.val 1 va (winPages (s.reg a) (s.reg b)) .read fun e => e.testBit 6).seq fun r s =>
      match r.1 with
      | some w => retireWith (s.modStream k port.val fun p => p.setWin entry.val w) d (w64 w.npg)
      | none => retireWith s d 0

/-- WIN.CLR: empties an entry, or all of them (12 R277). -/
def execWinClr (all : Bool) (entry : Fin 4) (port : Fin 16) (s : State) : Out :=
  if (portPly s s.actor.core s.actor.ctx port.val).isNone then trap s 0x37 (w64 port.val)
  else retire (s.modStream s.actor.core port.val fun p => { p with wins := if all then [] else Tab.drop p.wins entry.val })

/-- The window that serves an access (11 R256). -/
def SPort.hit (p : SPort) (va : Nat) (write : Bool) : Option (Nat × Win) :=
  p.wins.find? fun (_, w) => decide (w.vbase ≤ va / 65536) && decide (va / 65536 < w.vbase + w.npg) && (if write then w.w else w.rd)

/-- Where a virtual byte lies under a window. -/
def Win.loc (w : Win) (va : Nat) : Loc :=
  let page := w.pbase + (va / 65536 - w.vbase) * 65536
  if w.cmp then .comp page (va % 65536) else .plain (page + va % 65536)

/-- Translating an access of a stream port, by a window or by a walk that installs one up to the page of address `last` (11 R256). -/
def streamReach (s : State) (k port va last : Nat) (write : Bool) : Mr Loc :=
  let acc : Acc := if write then .write else .read
  if 2 ^ 55 ≤ va then .fault (pfCode acc) va s
  else match ((s.core k).stream port).hit va write with
    | some (i, w) => .ok (w.loc va) (s.modStream k port fun p => p.setWin i w)
    | none =>
      (windowWalk s k port 0 va (last / 65536 - va / 65536 + 1) acc fun e => permits e acc true).andThen fun r s =>
        match r.1 with
        | some w => .ok (w.loc va) (s.modStream k port fun p => p.setWin p.victim w)
        | none => .ok (leafLoc r.2.1 r.2.2 va) s

end Sys2Proof.Machine
end

