-- ==== Sys2Proof/Machine/Issue.lean ====
section
/-! DEFINITION. What a turn brings to execution: fetching and decoding a parcel, choosing the context that issues, the element that fires, the policy instruction that runs, and the clocks (01 R12, R13, R22, R25, R28; 02 R31 to R35; 05 R102; 10 R230). -/
namespace Sys2Proof.Machine

/-- What a context's next parcel is: not yet there, an instruction with its guard, or a parcel that traps (01 R13, R28). -/
inductive Peeked
  | notYet
  | run (g : Guard) (i : Instr) (psz : Fin 4) (bits : Word)
  | bad (c : Cause) (fetch : Bool) (psz : Fin 4) (tval : Word)

/-- The size of a parcel by the first two bits of its first halfword (02 R31, R33). -/
def pszOf (h : Nat) : Fin 4 :=
  match h / 2 ^ 14 with
  | 0 => 0
  | 1 => 1
  | 2 => 2
  | _ => 0

/-- One halfword of a parcel (01 R12; 02 R32): as the context has prefetched it, where it has (04 R85). -/
def fetchHalf (s : State) (k : Nat) (c : Ctx) (a : Word) : Mr Nat :=
  (vread s k a.toNat 2 .fetch (!c.priv)).andThen fun bs s => .ok ((Tab.find c.pre a.toNat).getD (ofBytesLE bs)) s

/-- Context n of core k, which runs, prefetches the halfword at an address, where it may fetch it (04 R85). -/
def prefetch (k n a : Nat) (s : State) : State :=
  if (s.ctx k n).run ≠ .run then s
  else
    match fetchHalf s k { s.ctx k n with pre := [] } (pcOf (w64 a)) with
    | .ok h s => s.modCtx k n fun c => { c with pre := Tab.set c.pre (pcOf (w64 a)).toNat h }
    | _ => s

/-- The halfwords of a parcel after its first, n of them, the most significant first (02 R32). -/
def fetchRest (k : Nat) (c : Ctx) : Nat → Word → Nat → State → Mr Nat
  | 0, _, v, s => .ok v s
  | n + 1, a, v, s => (fetchHalf s k c a).andThen fun h s => fetchRest k c n (pcOf (a + 2)) (v * 65536 + h) s

/-- The executor class of a core's sequencer (02 R48) (log 8). -/
def executorOf (k : Nat) : Executor := if k = dsCore then .display else .core

/-- Decoding a parcel: expansion first, then the canonical word (02 R31; 03 R56; 01 R28). -/
noncomputable def decodeParcel (ex : Executor) (bank : Tab DictEntry) (psz : Fin 4) (v : Nat) : Peeked :=
  let e : Expanded := match psz with
    | 0 => expandS16 bank v
    | 1 => expandS32 bank v
    | _ => .word (w64 v)
  match e with
  | .bad c => .bad (causeOf c) false psz (w64 v)
  | .word w =>
    match decode ex w with
    | .ok g i => .run g i psz (w64 v)
    | .bad c => .bad c false psz (w64 v)

/-- The next parcel of a context, fetched and decoded (01 R12, R13, R28). -/
noncomputable def peek (s : State) (k n : Nat) : Peeked × State :=
  let c := s.ctx k n
  match fetchHalf s k c c.pc with
  | .wait s => (.notYet, s)
  | .fault e t s => (.bad (causeOf e) true 3 (w64 t), s)
  | .ok h s =>
    if h / 2 ^ 14 = 3 then (.bad .illegalParcel false 0 (w64 h), s)
    else
      match fetchRest k c (parcelSize (pszOf h).val / 2 - 1) (pcOf (c.pc + 2)) h s with
      | .wait s => (.notYet, s)
      | .fault e t s => (.bad (causeOf e) true (pszOf h) (w64 t), s)
      | .ok v s => (decodeParcel (executorOf k) c.dict.active (pszOf h) v, s)

/-- The guard of an instruction holds (02 R35). -/
def guardHolds (c : Ctx) (g : Guard) : Bool :=
  match g with
  | none => true
  | some (n, p) => c.pred p != n

/-- PERMISSION of a privileged instruction or of a control register, which R28 counts among the checks of decoding (01 R16, R19, R28; 04 R89, R90; 10 R244): it is taken whatever the guard (log 19). -/
def modeRefuses (c : Ctx) (i : Instr) : Bool :=
  match i with
  | .eret => !c.priv
  | .policyLd _ => !c.priv
  | .policySwap _ => !c.priv
  | .crr _ idx => !c.priv && ctrlSuper idx.toNat
  | .crw idx _ => ctrlReadOnly idx.toNat || (!c.priv && ctrlSuper idx.toNat)
  | _ => false

/-- A parcel that is held without having issued: it would wait, and would not trap (01 R25). A display instruction that finds its queue full waits in its meaning, which is the same with one context (19 R361) (log 53). -/
def heldBack (s : State) (k n : Nat) (i : Instr) : Bool :=
  match i with
  | .cfgCommit _ => (s.ctx k n).latch.isSome
  | .strGo a port => decide (4 ≤ ((s.core k).stream port.val).queue.length) && (goFault s k n port.val ((s.ctx k n).reg a)).isNone
  | _ =>
    decide (16 ≤ (s.core k).mx.queue.length) && (s.ctx k n).mx.fault.isNone &&
    match matrixCheck (s.ctx k n) i with
    | some none => true
    | _ => false

/-- A context may issue what was fetched for it (01 R25) (log 53). -/
def mayIssue (s : State) (k n : Nat) (x : Peeked) : Bool :=
  let c := s.ctx k n
  decide (c.run = .run) && !c.hold && c.going.isNone &&
  match x with
  | .notYet => false
  | .bad .. => true
  | .run g i _ _ => !(guardHolds c g && heldBack s k n i)

/-- What a context in WAIT awaits has come about, for the waits whose end no other step announces (01 R22; 08 R189, R200; 12 R276; 19 R361, R363). -/
def waitOver (s : State) (k : Nat) (c : Ctx) : Bool :=
  match c.await with
  | some (.streams m) => (maskBits 16 m.toNat).all fun n => streamIdle s k n
  | some (.matrix n) => decide (c.mx.outstanding ≤ n) || c.mx.fault.isSome
  | some (.line h t) => decide (t ≤ (s.iod.head h).line) || s.iod.dsFault.isSome
  | _ => false

/-- A context before issue: a stop acts, a pending external trap is taken, or its wait ends (01 R22; 21 R377; 24 R421). -/
def settle (s : State) (k n : Nat) : State :=
  let s := takePending (takeStop s k n) k n
  let c := s.ctx k n
  if c.run = .wait ∧ waitOver s k c then s.setCtx k n { c with run := .run, await := none } else s

/-- What a turn brings: an instruction to execute, or a step that is done. -/
inductive Pick
  | run (i : Instr) (s : State)
  | out (o : Out)

/-- The contexts in the order in which a core searches them (01 R25). -/
def searchOrder (last : Nat) : List Nat := (List.range 4).map fun i => (last + 1 + i) % 4

/-- Fetching for one context on the search for the one that issues (01 R25); none that is switched out (21 R395, R398). -/
noncomputable def tryIssue (k n : Nat) (s : State) : Option Peeked × State :=
  if (s.ctx k n).run = .run ∧ (s.ctx k n).switch.isNone ∧ (s.core k).regs.csw.isNone then
    let (x, s) := peek s k n
    if mayIssue s k n x then (some x, s) else (none, s)
  else (none, s)

/-- The first context in an order that may issue, with its parcel (01 R25). -/
noncomputable def firstIssue (k : Nat) : List Nat → State → Option (Nat × Peeked) × State
  | [], s => (none, s)
  | n :: ns, s =>
    match tryIssue k n s with
    | (some x, s) => (some (n, x), s)
    | (none, s) => firstIssue k ns s

/-- The sequencer of core k issues one instruction (01 R25, R28; 02 R35). One that its mode refuses is executed whatever its guard, and traps (log 19). -/
noncomputable def issuePick (k : Nat) (s : State) : Pick :=
  match firstIssue k (searchOrder (s.core k).last) ((List.range 4).foldl (fun s n => settle s k n) s) with
  | (none, s) => .out (.next s)
  | (some (n, x), s) =>
    let at_ (psz : Fin 4) (bits : Word) (g : Guard) (i : Instr) : State :=
      { (s.modCore k fun c => { c with last := n }) with actor := { core := k, ctx := n, pc := (s.ctx k n).pc, psz := psz.val, bits := bits, guard := g, act := i } }
    match x with
    | .notYet => .out (.next s)
    | .bad c f psz t => .run (.illegalParcel c f psz t) (at_ psz t none .nop)
    | .run g i psz bits => if guardHolds (s.ctx k n) g || modeRefuses (s.ctx k n) i then .run i (at_ psz bits g i) else .out (retire (at_ psz bits g i))

/-- An instruction that has issued and waits to retire goes on: it takes no issue slot, and its guard is not tested again (01 R25). -/
def resumePick (k n : Nat) (s : State) : Pick :=
  match (s.ctx k n).going with
  | some g => .run g.act { s with actor := { core := k, ctx := n, pc := (s.ctx k n).pc, psz := g.psz, bits := g.bits, act := g.act } }
  | none => .out (.next s)

/-- Element e of core k fires the rule it selects (05 R102), in an ac in which its draws come in order (06 R150). -/
def firePick (k e : Nat) (s : State) : Pick :=
  match selectFiring s k e with
  | none => .out (.next s)
  | some (q, r) =>
    let s1 := { s with actor := { core := k, elem := e, ply := q, rule := r } }
    if drawsInOrder s1 (s.ruleAt k q e r).act then .run (s.ruleAt k q e r).act s1 else .out (.next s)

/-- A decision of a dispatcher, by its place among those in flight (09 R217). -/
def State.decision (s : State) (d c n : Nat) : Option Decision := ((Tab.look {} (s.die d).disps c).decs)[n]?

/-- A decision's program runs: no verdict yet, the host not asked, its budget not used up (10 R230). -/
def Decision.running (x : Decision) : Bool := x.verdict.isNone && x.host.isNone && x.prog.any fun p => decide (x.time < p.budget)

/-- The policy unit runs the next instruction of a decision's program (10 R229, R230). -/
def policyPick (d c n : Nat) (s : State) : Pick :=
  match s.decision d c n with
  | none => .out (.next s)
  | some x =>
    match x.prog.bind fun p => (p.code[x.ix]?).bind decodePolicy with
    | some i => if x.running then .run i { s with actor := { die := d, cluster := c, dec := n } } else .out (.next s)
    | none => .out (.next s)

/-- What follows at once is the next to act, before all else (log 2). -/
def State.before (s : State) (l : List Instr) : State := { s with agenda := l.map .ev ++ s.agenda }

/-- A clock ticks (00 R4; 09 R207; 23 R408, R409) (log 3); the windows of edge meters that begin then, and the leases that end then, are the next turns (23 R410, R412). The IOD is die 4. -/
noncomputable def tick (c : Clock) (s : State) : State :=
  match c with
  | .plain d k =>
    let s := s.modDie d fun x => { x with plains := Tab.mod {} x.plains k fun p => if p.stopped then p else { p with ac := p.ac + 1 } }
    s.before ((meterDue s d k).map .edgeMeterWindow)
  | .die d =>
    if d = 4 then
      let s := s.modIod fun i => { i with dlc := i.dlc + 1 }
      s.before (leaseEnds s)
    else s.modDie d fun x => { x with dlc := (x.dlc + 1) % 2 ^ 64 }
  | .dse => s.modIod fun i => { i with dsac := i.dsac + 1 }

/-- TRAP of a parcel that was not fetched or decoded (01 R13, R27 to R29; 02 R33, R49, R50). -/
def execIllegalParcel (cause : Cause) (fetch : Bool) (psz : Fin 4) (tval : Word) (s : State) : Out :=
  .next (enterTrap (s.modMe fun c => { c with resume := none }) s.actor.core s.actor.ctx
    { code := cause.code, val := tval, at_ := s.actor.pc, psz := psz.val, fetch := fetch })

end Sys2Proof.Machine
end

