-- ==== Sys2Proof/Machine/Policy.lean ====
section
/-! DEFINITION. The policy bytecode: one instruction of a decision's program (10 R229 to R236). -/
namespace Sys2Proof.Machine

/-- s with f applied to a decision of a dispatcher. -/
def State.modDec (s : State) (d c n : Nat) (f : Decision → Decision) : State :=
  s.modDie d fun x => { x with disps := Tab.mod {} x.disps c fun p => { p with decs := p.decs.modify n f } }

/-- The policy unit runs one instruction that takes t ac, and then stands at the next; one whose budget ends before its last ac is stopped in it and stays the program's index (10 R229, R230, R241) (log 23). -/
def policyStep (s : State) (t : Nat) (f : Decision → Decision) : Out :=
  let a := s.actor
  match s.decision a.die a.cluster a.dec with
  | none => .next s
  | some x =>
    if !x.running then .next s
    else if x.prog.any (fun p => decide (p.budget < x.time + t)) then .next (s.modDec a.die a.cluster a.dec fun x => { x with time := x.time + t })
    else .next (s.modDec a.die a.cluster a.dec fun x => f { x with ix := x.ix + 1, time := x.time + t })

/-- A register of the policy unit (10 R229). -/
def Decision.reg (x : Decision) (i : PReg) : Word := Tab.look 0 x.v i.val
/-- Writing a register of the policy unit. -/
def Decision.setReg (x : Decision) (i : PReg) (v : Word) : Decision := { x with v := Tab.put 0 x.v i.val v }

/-- An instruction that writes a register. -/
def policySet (s : State) (d : PReg) (f : Decision → Word) : Out := policyStep s 1 fun x => x.setReg d (f x)

/-- Field f of candidate i, 0 where there is none (10 R232, R234). -/
def Decision.field (x : Decision) (i f : Nat) : Word := (((x.cands[i]?).getD [])[f]?).getD 0

/-- IMM (10 R234). -/
def execImm (d : PReg) (i : BitVec 8) (s : State) : Out := policySet s d fun _ => i.signExtend 64
/-- KLD (10 R234). -/
def execKld (d : PReg) (k : Fin 8) (s : State) : Out := policySet s d fun x => (((x.prog.getD {}).consts)[k.val]?).getD 0
/-- ENV (10 R233, R234). -/
def execEnv (d : PReg) (e : BitVec 5) (s : State) : Out := policySet s d fun x => (x.env[e.toNat]?).getD 0
/-- CAND (10 R232, R234). -/
def execCand (d r : PReg) (f : BitVec 5) (s : State) : Out :=
  policySet s d fun x => if (x.reg r).toNat < x.cands.length then x.field (x.reg r).toNat f.toNat else 0
/-- SUBJ (10 R232, R234). -/
def execSubj (d : PReg) (f : BitVec 5) (s : State) : Out := policySet s d fun x => (x.subj[f.toNat]?).getD 0
/-- COPY (10 R234). -/
def execCopy (d r : PReg) (s : State) : Out := policySet s d fun x => x.reg r
/-- ADDIV (10 R234). -/
def execAddiv (d : PReg) (i : BitVec 8) (s : State) : Out := policySet s d fun x => x.reg d + i.signExtend 64
/-- ADDV (10 R235). -/
def execAddv (d r : PReg) (s : State) : Out := policySet s d fun x => x.reg d + x.reg r
/-- SUBV (10 R235). -/
def execSubv (d r : PReg) (s : State) : Out := policySet s d fun x => x.reg d - x.reg r
/-- ANDV (10 R235). -/
def execAndv (d r : PReg) (s : State) : Out := policySet s d fun x => x.reg d &&& x.reg r
/-- ORV (10 R235). -/
def execOrv (d r : PReg) (s : State) : Out := policySet s d fun x => x.reg d ||| x.reg r
/-- MINV (10 R235). -/
def execMinv (d r : PReg) (s : State) : Out := policySet s d fun x => if (x.reg d).slt (x.reg r) then x.reg d else x.reg r
/-- MAXV (10 R235). -/
def execMaxv (d r : PReg) (s : State) : Out := policySet s d fun x => if (x.reg d).slt (x.reg r) then x.reg r else x.reg d
/-- SHLV (10 R235). -/
def execShlv (d r : PReg) (s : State) : Out := policySet s d fun x => x.reg d <<< bits (x.reg r) 0 6
/-- SHRV (10 R235). -/
def execShrv (d r : PReg) (s : State) : Out := policySet s d fun x => x.reg d >>> bits (x.reg r) 0 6

/-- The mask of R229: bit i for each candidate. -/
def fullMask (n : Nat) : BitVec 32 := BitVec.ofNat 32 (2 ^ n - 1)

/-- MALL (10 R234). -/
def execMall (s : State) : Out := policyStep s 1 fun x => { x with m := fullMask x.cands.length }

/-- MKEEP: bit i of M goes where field f of candidate i fails the condition (10 R234, R235). -/
def maskKeep (s : State) (r : PReg) (f : BitVec 5) (c : Word → Word → Bool) : Out :=
  policyStep s 1 fun x =>
    { x with m := (List.range x.cands.length).foldl (fun m i => if c (x.field i f.toNat) (x.reg r) then m else setBit m i false) x.m }

/-- MKEEP.eq (10 R234). -/
def execMkeepEq (r : PReg) (f : BitVec 5) (s : State) : Out := maskKeep s r f fun a b => decide (a = b)
/-- MKEEP.ne (10 R234). -/
def execMkeepNe (r : PReg) (f : BitVec 5) (s : State) : Out := maskKeep s r f fun a b => decide (a ≠ b)
/-- MKEEP.lt (10 R234). -/
def execMkeepLt (r : PReg) (f : BitVec 5) (s : State) : Out := maskKeep s r f fun a b => a.slt b
/-- MKEEP.ge (10 R234). -/
def execMkeepGe (r : PReg) (f : BitVec 5) (s : State) : Out := maskKeep s r f fun a b => !(a.slt b)
/-- MCNT (10 R234). -/
def execMcnt (d : PReg) (s : State) : Out := policySet s d fun x => w64 (popcount x.m.toNat 32)

/-- The index that SCAN finds: the best by `better`, ties to the lower index (10 R235). -/
def scanIndex (x : Decision) (f : Nat) (better : Word → Word → Bool) : Word :=
  let l := (maskBits 32 x.m.toNat).map fun i => (i, x.field i f)
  match l with
  | [] => ~~~(0 : Word)
  | a :: rest => w64 (rest.foldl (fun a b => if better b.2 a.2 then b else a) a).1

/-- SCAN.min (10 R235). -/
def execScanMin (d : PReg) (f : BitVec 5) (s : State) : Out := policyStep s 4 fun x => x.setReg d (scanIndex x f.toNat fun a b => a.slt b)
/-- SCAN.max (10 R235). -/
def execScanMax (d : PReg) (f : BitVec 5) (s : State) : Out := policyStep s 4 fun x => x.setReg d (scanIndex x f.toNat fun a b => b.slt a)

/-- A jump of `o` instructions beyond the next where c holds (10 R234). -/
def policyJump (s : State) (o : Nat) (c : Decision → Bool) : Out := policyStep s 1 fun x => if c x then { x with ix := x.ix + o } else x

/-- JEQ (10 R234). -/
def execJeq (a r : PReg) (o : BitVec 5) (s : State) : Out := policyJump s o.toNat fun x => decide (x.reg a = x.reg r)
/-- JNE (10 R234). -/
def execJne (a r : PReg) (o : BitVec 5) (s : State) : Out := policyJump s o.toNat fun x => decide (x.reg a ≠ x.reg r)
/-- JLT (10 R234). -/
def execJlt (a r : PReg) (o : BitVec 5) (s : State) : Out := policyJump s o.toNat fun x => (x.reg a).slt (x.reg r)
/-- JGE (10 R234). -/
def execJge (a r : PReg) (o : BitVec 5) (s : State) : Out := policyJump s o.toNat fun x => !((x.reg a).slt (x.reg r))
/-- JFW (10 R234). -/
def execJfw (o : BitVec 8) (s : State) : Out := policyJump s o.toNat fun _ => true

/-- A verdict ends the program; IX stays at it (10 R230, R236, R241). -/
def policyVerdict (s : State) (code : Nat) (f : Decision → Nat) : Out :=
  policyStep s 1 fun x => { x with ix := x.ix - 1, verdict := some (code, f x), byProg := true }

/-- PICK (10 R236). -/
def execPick (r : PReg) (s : State) : Out := policyVerdict s 0 fun x => (x.reg r).toNat
/-- IDLE (10 R236). -/
def execIdle (s : State) : Out := policyVerdict s 1 fun _ => 0
/-- PREEMPT (10 R236). -/
def execPreempt (r : PReg) (s : State) : Out := policyVerdict s 2 fun x => (x.reg r).toNat
/-- KEEP (10 R236). -/
def execKeep (s : State) : Out := policyVerdict s 3 fun _ => 0
/-- RESTART (10 R236). -/
def execRestart (s : State) : Out := policyVerdict s 4 fun _ => 0
/-- KILL (10 R236). -/
def execKill (s : State) : Out := policyVerdict s 5 fun _ => 0
/-- HOST (10 R236). -/
def execHost (s : State) : Out := policyVerdict s 6 fun _ => 0
/-- MIGRATE: the target die in bits [1:0] (10 R236). -/
def execMigrate (r : PReg) (s : State) : Out := policyVerdict s 7 fun x => bits (x.reg r) 0 2

end Sys2Proof.Machine
end

