-- ==== Sys2Proof/Machine/SeqFabric.lean ====
section
/-! DEFINITION. The configuration, region, port and queue instructions of the sequencer (05 R131 to R141). -/
namespace Sys2Proof.Machine

/-- The ply that CFG.LD takes: PLY where it is FREE, or with AUTO the context's own number, else the lowest FREE one (05 R132). -/
def plyToLoad (s : State) (k n : Nat) (auto : Bool) (ply : Nat) : Option Nat :=
  let free (q : Nat) : Bool := decide ((s.ply k q).st = .free)
  if auto then (if free n then some n else firstBelow 4 free) else if free ply then some ply else none

/-- The ply that a CFG.LD of context n is loading: one that waits for the host is LOADING (05 R97). -/
def plyUnderLoad (s : State) (k n : Nat) : Option Nat :=
  firstBelow 4 fun q => decide ((s.ply k q).st = .loading) && (s.ply k q).byInstr && decide ((s.ply k q).ctx = n)

/-- CFG.LD: loads an image into a ply on behalf of the context; the ply is LOADING until the load ends, and FREE again where it fails (05 R97, R132) (log 21). -/
def execCfgLd (d a : Reg) (auto : Bool) (ply : Fin 4) (s : State) : Out :=
  let k := s.actor.core
  let n := s.actor.ctx
  match (plyUnderLoad s k n).orElse fun _ => plyToLoad s k n auto ply.val with
  | none => trap s 0x31 0
  | some q =>
    match loadImage s k n (s.reg a) s.user with
    | .ok p s => retireWith (fillPly (settleCore s k) k q p) d (w64 q)
    | .fault c t s => trap (freePly s k q) c (w64 t)
    | .wait s => .next (s.modPly k q fun _ => { st := .loading, ctx := n, image := s.reg a, byInstr := true }).stay

/-- CFG.COMMIT: selects PLY; it retires with the commit (05 R133, R117, R119). -/
def execCfgCommit (ply : Fin 4) (s : State) : Out :=
  if s.me.region.any (!·.strand) then trap s 0x32 0
  else if stagedFor s s.actor.core s.actor.ctx ply.val then
    .next (latchPly s s.actor.core s.actor.ctx ply.val (some s.nextPc))
  else trap s 0x31 0

/-- CFG.DROP: a STAGED ply of the context, or its ACTIVE ply with no region bound, becomes FREE; where a selection of the STAGED ply is latched, that selection is called off (05 R134) (log 93). -/
def execCfgDrop (ply : Fin 4) (s : State) : Out :=
  let k := s.actor.core
  let n := s.actor.ctx
  if stagedFor s k n ply.val then
    retire (if s.me.latch.any fun l => decide (l.ply = ply.val) then discardStaged s k n else freePly s k ply.val)
  else if s.me.bound = some ply.val ∧ s.me.region.isNone then retire (freePly s k ply.val)
  else trap s 0x31 0

/-- CFG.DROP.img: the cache entry of an image is removed, at the end of a load that is reading it (05 R134) (log 21). -/
def execCfgDropImg (a : Reg) (s : State) : Out :=
  let k := s.actor.core
  let part := s.partOf k
  retire (s.modFab k fun f =>
    Fabric.sweep { f with cfg := f.cfg.map fun x => if x.addr = s.reg a ∧ x.part = part then { x with doomed := true } else x })

/-- The code of a ply state (05 R135). -/
def plyCode : PlySt → Nat
  | .free => 0
  | .loading => 1
  | .staged => 2
  | .active => 3

/-- What CFG.Q.ply answers for context n of core k (05 R135). -/
def plyStatus (s : State) (k n : Nat) : Nat :=
  let c := s.ctx k n
  ((List.range 4).map fun q =>
    let p := s.ply k q
    (plyCode p.st + b2n (decide (p.st ≠ .free) && decide (p.ctx = n)) * 4 + b2n (c.latch.any fun l => decide (l.ply = q)) * 8) * 16 ^ q).sum +
  (c.bound.elim 0 fun q => q * 2 ^ 16 + 2 ^ 18)

/-- CFG.Q.ply (05 R135). -/
def execCfgQPly (d : Reg) (s : State) : Out := retireWith s d (w64 (plyStatus s s.actor.core s.actor.ctx))

/-- CFG.Q.img: whether an image is in the cache, and its entry (05 R135). -/
def execCfgQImg (d a : Reg) (s : State) : Out :=
  retireWith s d (match cachedImage (s.core s.actor.core) (s.reg a) (s.partOf s.actor.core) with
    | some x => w64 (256 + x.slot)
    | none => 0)

/-- CFG.Q.rsv: the context's reservation (05 R128, R135). -/
def execCfgQRsv (d : Reg) (s : State) : Out := retireWith s d (w64 (s.me.rsv.queue * 256 + s.me.rsv.count))

/-- RGN.OPEN (05 R136). -/
def execRgnOpen (a : Reg) (s : State) : Out :=
  (openRegion s s.actor.core s.actor.ctx (s.reg a) s.user).seq fun _ s => retire s

/-- RGN.WAIT: waits for the end of the region and answers its status (05 R137). -/
def execRgnWait (d : Reg) (s : State) : Out :=
  match s.me.region with
  | none => trap s 0x32 0
  | some g =>
    match g.state with
    | .opened => waitFor s .region
    | .done => retireWith s d 0
    | .faulted => retireWith s d (w64 (0x100 + g.cause))

/-- The region of context n of core k is unbound (05 R136, R138). -/
def unbindRegion (s : State) (k n : Nat) : State := dropFaults (s.modCtx k n fun c => { c with region := none }) k n

/-- RGN.CLOSE: unbinds a region that has ended (05 R138). -/
def execRgnClose (s : State) : Out :=
  match s.me.region with
  | none => trap s 0x32 0
  | some g => if g.state = .opened then trap s 0x32 0 else retire (unbindRegion s s.actor.core s.actor.ctx)

/-- The plies of context n among those that satisfy f become FREE. -/
def freeWhere (s : State) (k n : Nat) (f : Ply → Bool) : State :=
  (List.range 4).foldl (fun s q => if (s.ply k q).ctx = n ∧ f (s.ply k q) then freePly s k q else s) s

/-- What the block scheduler loads or has latched for context n is given up (05 R126, R138). -/
def freeLoads (s : State) (k n : Nat) : State := freeWhere (discardStaged s k n) k n fun p => decide (p.st = .loading) && !p.byInstr

/-- Every ply that is LOADING or STAGED on behalf of context n becomes FREE (21 R395 step 1). -/
def freeStaged (s : State) (k n : Nat) : State := freeWhere (discardStaged s k n) k n fun p => decide (p.st = .loading) || decide (p.st = .staged)

/-- The end of an open region by RGN.CLOSE.abort, after its store to STATE (05 R138); the ply field of REGION_DONE is 0 where no ply is bound to the context (log 49). -/
def abortRegion (s : State) (k n : Nat) (g : Region) : State :=
  let q := (s.ctx k n).bound.getD 0
  let s := if g.strand then freeLoads s k n else s
  let s := match (s.ctx k n).bound with
    | some q => freePly s k q
    | none => s
  let s := regionDone s k n q true 0 g.rcb
  let s := match sliceOn s k n with
    | some (id, _) => dropSlice s (dieOf k) id
    | none => s
  unbindRegion s k n

/-- RGN.CLOSE.abort: checks and makes its store to STATE, then ends the region as an abort (05 R138). -/
def execRgnCloseAbort (s : State) : Out :=
  match s.me.region with
  | none => trap s 0x32 0
  | some g =>
    if g.state = .opened then
      (storeState s s.actor.core g.rcb 3 s.user).seq fun _ s => retire (abortRegion s s.actor.core s.actor.ctx g)
    else retire (unbindRegion s s.actor.core s.actor.ctx)

/-- The entry of the handler table that reg(B) names (05 R139). -/
def handlerIndex (v : Word) : Nat := bits v 0 8

/-- PORT.BIND.hnd: writes an entry of the handler table; parked messages that it takes are released (05 R111 to R113, R139) (log 10). -/
def execPortBindHnd (a b : Reg) (s : State) : Out :=
  let w := s.reg a
  if bits w 14 50 ≠ 0 ∨ bits w 2 2 ≠ 0 ∨ bits w 12 2 = 3 then trap s 0x05 s.actor.bits
  else
    let k := s.actor.core
    retire (releaseParked (s.modPort k fun p => { p with handlers := Tab.set p.handlers (handlerIndex (s.reg b)) w }) k)

/-- PORT.UNBIND.hnd: clears an entry of the handler table (05 R139). -/
def execPortUnbindHnd (b : Reg) (s : State) : Out :=
  retire (s.modPort s.actor.core fun p => { p with handlers := Tab.drop p.handlers (handlerIndex (s.reg b)) })

/-- An outgoing far index of a ply that the context holds (05 R139). -/
def farOutgoing (s : State) (q i : Nat) : Bool :=
  heldBy s s.actor.core s.actor.ctx q && (Tab.find (s.ply s.actor.core q).fars i).any (·.out)

/-- The remote input that reg(A) of PORT.BIND.far names (05 R139). -/
def remoteOf (k : Nat) (w : Word) : FarBind :=
  { core := dieOf k * 128 + bits w 10 7, elem := bits w 7 3 * 8 + bits w 4 3, ch := bits w 2 2, ply := bits w 0 2 }

/-- The input is declared incoming in a ply that is STAGED or ACTIVE (05 R139). -/
def declaredIncoming (s : State) (b : FarBind) : Bool :=
  let p := s.ply b.core b.ply
  (decide (p.st = .staged) || decide (p.st = .active)) && (p.farIn b.elem b.ch).isSome

/-- PORT.BIND.far: joins a far output to a remote input of the die and partition (05 R108, R139); tokens that a restore put in its passes stay (21 R396) (log 78). -/
def execPortBindFar (a b : Reg) (ply : Fin 4) (s : State) : Out :=
  let k := s.actor.core
  let i := bits (s.reg b) 0 3
  let r := remoteOf k (s.reg a)
  if !(farOutgoing s ply.val i) then trap s 0x31 0
  else if 80 ≤ coreIn r.core ∨ s.partOf r.core ≠ s.partOf k then trap s 0x22 0
  else if !(declaredIncoming s r) then trap s 0x31 0
  else
    retire (s.modPly k ply.val fun p =>
      { p with fars := Tab.mod {} p.fars i fun x =>
        { x with bind := some r, passes := match List.replicate (borders k r.core) [] with
                  | [] => []
                  | _ :: ls => (if x.bind.isNone then x.passes.flatten else []) :: ls } })

/-- PORT.UNBIND.far: the far output is bound no longer (05 R139) (log 78). -/
def execPortUnbindFar (b : Reg) (ply : Fin 4) (s : State) : Out :=
  let i := bits (s.reg b) 0 3
  if !(farOutgoing s ply.val i) then trap s 0x31 0
  else
    retire (s.modPly s.actor.core ply.val fun p => { p with fars := Tab.mod {} p.fars i fun x => { x with bind := none, passes := [] } })

/-- PERMIT.K: sets K of an element of the context's ACTIVE ply (05 R140). -/
def execPermitK (a : Reg) (kn : BitVec 4) (s : State) : Out :=
  match s.me.bound with
  | none => trap s 0x31 0
  | some q => retire (s.modElem s.actor.core q (bits (s.reg a) 0 6) fun x => { x with k := kn.toNat })

/-- What a sequencer sends to queue q crosses the links: it waits while flits are held, and with no path left it traps (23 R405, R406) (log 57). -/
def acrossTo (s : State) (q : Nat) (go : Out) : Out :=
  match queueWay s s.actor.core q with
  | .clear => go
  | .held => .next s.stay
  | .down => trap s 0x72 (w64 q)

/-- QRSV: n slots for the context's reservation, in full or not at all (05 R127, R141); TVAL of PERMISSION is the queue number (log 110). -/
def execQrsv (d a : Reg) (n : BitVec 5) (s : State) : Out :=
  let q := bits (s.reg a) 0 14
  let rv := s.me.rsv
  if 0 < rv.count ∧ rv.queue ≠ q then trap s 0x33 0
  else if !(ownsQueue s s.actor.core q) then trap s 0x22 (w64 q)
  else acrossTo s q <|
    if rv.count + n.toNat ≤ 255 ∧ n.toNat ≤ (s.queue q).room then
      retireWith ((reserveSlots s q n.toNat).modMe fun c => { c with rsv := { queue := q, count := rv.count + n.toNat } }) d (w64 n.toNat)
    else retireWith s d 0

/-- QPUSH: a token takes up a reserved slot (05 R127, R141; 09 R213). -/
def execQpush (a b c : Reg) (s : State) : Out :=
  let q := bits (s.reg a) 0 14
  let rv := s.me.rsv
  if rv.queue ≠ q ∨ rv.count = 0 then trap s 0x33 0
  else acrossTo s q <|
    retire ((pushToken (settleCore s s.actor.core) s.actor.core q (s.me.region.bind (·.deadline)) (s.reg b ++ s.reg c)).modMe fun x => { x with rsv := { x.rsv with count := rv.count - 1 } })

end Sys2Proof.Machine
end

