-- ==== Sys2Proof/Machine/PolicyLoad.lean ====
section
/-! DEFINITION. Loading and swapping policy programs (10 R237 to R239, R242 to R246). -/
namespace Sys2Proof.Machine

/-- The offset of the first header field of a policy image that R237 refuses. -/
def policyHeaderBad (h : List Byte) : Option Nat :=
  if fld h 0 4 ≠ 0x4F4E504C then some 0
  else if fld h 4 2 ≠ 1 then some 4
  else if fld h 6 1 < 1 ∨ 96 < fld h 6 1 then some 6
  else if fld h 7 1 < 16 ∨ 128 < fld h 7 1 then some 7
  else if !(allZero (cut h 8 24)) then some 8
  else none

/-- How far a policy jump goes beyond the next instruction. -/
def policyOffset : Instr → Nat
  | .jeq _ _ o | .jne _ _ o | .jlt _ _ o | .jge _ _ o => o.toNat
  | .jfw o => o.toNat
  | _ => 0

/-- A policy verdict (10 R236). -/
def isVerdict : Instr → Bool
  | .pick .. | .idle | .preempt .. | .keep | .restart | .kill | .host | .migrate .. => true
  | _ => false

/-- Instruction i of n passes the checks of R238 steps 5 and 6. -/
def policyCodeOk (n i : Nat) (h : BitVec 16) : Bool :=
  match decodePolicy h with
  | none => false
  | some x => decide (isVerdict x ∨ i + 1 + policyOffset x ≤ n - 1) && (decide (i + 1 ≠ n) || isVerdict x)

/-- The halfwords of a program. -/
def policyCode (bs : List Byte) (n : Nat) : List (BitVec 16) := (List.range n).map fun i => BitVec.ofNat 16 (fld bs (2 * i) 2)

/-- A policy image is read and checked (10 R238, R239). -/
def readPolicy (s : State) (k a : Nat) (user : Bool) : Mr Program :=
  if a % 64 ≠ 0 then .fault 0x24 a s
  else
    (vreadMany k .read user 32 3 a s).andThen fun h s =>
      match policyHeaderBad h with
      | some o => .fault 0x41 (a + o) s
      | none =>
        let n := fld h 6 1
        (vreadMany k .read user 2 n (a + 0x60) s).andThen fun bs s =>
          let code := policyCode bs n
          match (code.zipIdx).find? fun x => !(policyCodeOk n x.2 x.1) with
          | some x => .fault 0x41 (a + 0x60 + 2 * x.2) s
          | none => .ok { budget := fld h 7 1, consts := (List.range 8).map fun i => w64 (fld h (0x20 + 8 * i) 8), code := code } s

/-- s with f applied to the policy state of a partition. -/
def State.modPolicy (s : State) (p : Nat) (f : Policy → Policy) : State := s.modPart p fun x => { x with policy := f x.policy }

/-- POLICY.LD: stages a program, or with x0 the built-in policy (10 R244, R245). -/
def execPolicyLd (a : Reg) (s : State) : Out :=
  let k := s.actor.core
  let p := s.partOf k
  if s.user then trap s 0x22 s.actor.bits
  else if (s.part p).policy.swp then trap s 0x42 0
  else if a = 0 then retire (s.modPolicy p fun x => { x with staged := .builtin })
  else (readPolicy s k (s.reg a).toNat s.user).seq fun g s => retire ((settleCore s k).modPolicy p fun x => { x with staged := .prog g })

/-- The generation that a swap brings (10 R246). -/
def Policy.nextGen (x : Policy) : Nat := (x.gen + 1) % 256

/-- POLICY.SWAP: the swap begins (10 R244, R246). -/
def execPolicySwap (d : Reg) (s : State) : Out :=
  let k := s.actor.core
  let p := s.partOf k
  let x := (s.part p).policy
  if s.user then trap s 0x22 s.actor.bits
  else if x.staged = .empty ∨ x.swp then trap s 0x42 0
  else retireWith (s.modPolicy p fun x => { x with swp := true, switched := [], acked := [], swapper := some k }) d (w64 x.nextGen)

/-- The dies that hold a cluster of a partition. -/
def partDies (s : State) (p : Nat) : List Nat := [0, 1, 2, 3].filter fun d => ownsDie (s.part p) d

/-- A swap token reaches a die: its dispatchers of the partition switch (10 R246). -/
def execSwapTokenArrival (part die : Nat) (s : State) : Out :=
  let x := (s.part part).policy
  if x.swp ∧ (partDies s part).contains die ∧ !(x.switched.contains die) then
    .next (s.modPolicy part fun x => { x with switched := x.switched ++ [die] })
  else .next s

/-- The decisions in flight of a partition on a die. -/
def decisionsOf (s : State) (p d : Nat) : List Decision := ((s.die d).disps.flatMap fun x => x.2.decs).filter fun x => decide (x.part = p)

/-- A die acknowledges once every decision that it started on the old program has committed (10 R246). -/
def execSwapDieAck (part die : Nat) (s : State) : Out :=
  let x := (s.part part).policy
  if x.swp ∧ x.switched.contains die ∧ !(x.acked.contains die) ∧ (decisionsOf s part die).all (fun y => decide (y.gen = x.nextGen)) then
    .next (s.modPolicy part fun x => { x with acked := x.acked ++ [die] })
  else .next s

/-- The swap completes when every die has acknowledged; POLICY_SWAPPED is posted (10 R242, R246). -/
def execSwapComplete (part : Nat) (s : State) : Out :=
  let x := (s.part part).policy
  if x.swp ∧ (partDies s part).all fun d => x.acked.contains d then
    .next (partEvent (s.modPolicy part fun x => { x with gen := x.nextGen, active := x.staged, staged := .empty, swp := false, switched := [], acked := [] }) part
      (0x19 + x.nextGen * 2 ^ 16) 0)
  else .next s

/-- The program that decisions of a partition which start on a die run, with its generation: the staged one once the die has switched (10 R246). -/
def activeProgram (s : State) (p d : Nat) : PolSlot × Nat :=
  let x := (s.part p).policy
  if x.swp ∧ x.switched.contains d then (x.staged, x.nextGen) else (x.active, x.gen)

end Sys2Proof.Machine
end

