-- ==== Sys2Proof/Machine/ElemFlow.lean ====
section
/-! DEFINITION. The dataflow actions of an element: moves, tags, steering, merging, bounded iteration, ends, sinks, markers, reduction, messages and queues (07 R169 to R182). -/
namespace Sys2Proof.Machine

/-- A token of the firing's ply. -/
def State.token (s : State) (v : Word) (tag : Nat) (ray : Bool) : Token := { data := v, tag := tag, ply := s.actor.ply, ray := ray }
/-- An end token of the firing's ply (05 R98). -/
def State.endToken (s : State) (v : Word) (tag : Nat) (x ray : Bool) : Token := { data := v, tag := tag, ply := s.actor.ply, e := true, x := x, ray := ray }

/-- MOV (07 R169). -/
def execMov (d : EDst) (a : ESrc) (s : State) : Out := fire s d [a] (s.src a)

/-- CONST (07 R169). -/
def execConst (d : EDst) (ti : Ti) (imm : BitVec 32) (s : State) : Out := fire s d [] (immOf ti imm)

/-- TAGI: the tag is n, or tg + n (07 R169). -/
def execTagi (d : EDst) (a : ESrc) (add : Bool) (n : BitVec 4) (s : State) : Out :=
  if s.endFiring then endBranch s
  else fireTag s s d [a] (s.src a) (if add then (s.tg + n.toNat) % 16 else n.toNat) fun _ x => x

/-- The condition of STEER (07 R171). -/
def steerCond (s : State) (o : SteerOpts) : Bool :=
  match o.sel with
  | .pred p => s.eply.pred p.val
  | .reg b => bit (s.src b) 0

/-- Sources of STEER's condition. -/
def steerReads (o : SteerOpts) : List ESrc :=
  match o.sel with
  | .pred _ => []
  | .reg b => [b]

/-- STEER: the value to one arm, the decider to its outputs (07 R171). -/
def execSteer (d : EDst) (a : ESrc) (o : SteerOpts) (s : State) : Out :=
  if s.endFiring then endBranch s
  else
    let c := steerCond s o
    let ray := s.descends (a :: steerReads o)
    placeAll s (s.modEply fun x => x.setD d (s.src a) ray) (trigPop s.trig)
      [((if c then o.tmask else o.fmask).toNat, s.token (s.src a) s.tg ray, none), (o.dmask.toNat, s.token (w64 (b2n c)) s.tg ray, none)]

/-- MERGE: the arm its decider names; the end of the decider takes both arms' ends, and the end token has tag 0 (07 R172) (log 106). -/
def execMerge (d : EDst) (di ti fi : Fin 4) (s : State) : Out :=
  match s.head di.val with
  | none => .next s
  | some h =>
    if h.e then
      match s.head ti.val, s.head fi.val with
      | some t, some f =>
        placeAll s s (2 ^ di.val + 2 ^ ti.val + 2 ^ fi.val)
          [(trigEmit s.trig, s.endToken 0 0 (h.x || t.x || f.x || !t.e || !f.e) (h.ray || t.ray || f.ray), none)]
      | _, _ => .next s
    else
      let arm := if bit h.data 0 then ti else fi
      match s.head arm.val with
      | none => .next s
      | some t =>
        let ray := h.ray || t.ray
        if t.e then placeAll s s (2 ^ di.val + 2 ^ arm.val) [(trigEmit s.trig, s.endToken 0 0 true ray, none)]
        else
          placeAll s (s.modEply fun x => x.setD d t.data ray) (2 ^ di.val + 2 ^ arm.val)
            [(trigEmit s.trig, s.token t.data t.tag ray, none)]

/-- s with f applied to the MERGEU state of the firing rule. -/
def modMergeu (s : State) (f : MergeU → MergeU) : State := s.modEply fun x => { x with mergeu := Tab.mod {} x.mergeu s.actor.rule f }

/-- MERGEU; its end token has tag 0 (07 R173) (log 106). -/
def execMergeu (d : EDst) (tagb taga : BitVec 4) (ai bi : Fin 4) (s : State) : Out :=
  let m := Tab.look {} s.eply.mergeu s.actor.rule
  match mergeuArm m (s.head ai.val) (s.head bi.val) with
  | none => .next s
  | some b =>
    let i := if b then bi else ai
    match s.head i.val with
    | none => .next s
    | some t =>
      if t.e then
        let m := if b then { m with endB := true, xB := t.x } else { m with endA := true, xA := t.x }
        if m.endA && m.endB then
          placeAll s (modMergeu s fun _ => { lastB := m.lastB }) (2 ^ i.val) [(trigEmit s.trig, s.endToken 0 0 (m.xA || m.xB) t.ray, none)]
        else placeAll s (modMergeu s fun _ => m) (2 ^ i.val) []
      else
        placeAll s ((modMergeu s fun m => { m with lastB := b }).modEply fun x => x.setD d t.data t.ray) (2 ^ i.val)
          [(trigEmit s.trig, s.token t.data (if b then tagb else taga).toNat t.ray, none)]

/-- GATE: the value leaves, and a credit on each output of CMASK (07 R175). -/
def execGate (d : EDst) (a : ESrc) (cmask : BitVec 4) (s : State) : Out :=
  let rest := trigEmit s.trig &&& (15 - cmask.toNat)
  if s.endFiring then placeAll s s (trigPop s.trig) [(rest, s.endToken 0 0 s.headsX (s.heads.any (·.ray)), none)]
  else
    let ray := s.descends [a]
    placeAll s (s.modEply fun x => x.setD d (s.src a) ray) (trigPop s.trig)
      [(rest, s.token (s.src a) s.tg ray, none), (cmask.toNat, s.token 0 s.tg ray, none)]

/-- The tag an admission takes: the first at or after NT that is not in flight (07 R174). -/
def nextTag (x : EPly) : Nat := (((List.range 16).map fun i => (x.nt + i) % 16).find? fun t => !(bit x.infl t)).getD x.nt

/-- PERMIT: a credit, an admission, or the end, whose token has tag 0 (07 R174) (log 106). -/
def execPermit (d : EDst) (ci di : Fin 4) (s : State) : Out :=
  match s.head ci.val with
  | some c =>
    placeAll s (if c.e then s else s.modEply fun x => { x with infl := setBit x.infl (c.tag % 16) false }) (2 ^ ci.val) []
  | none =>
    match s.head di.val with
    | none => .next s
    | some t =>
      if t.e then
        if s.eply.inFlight = 0 then placeAll s s (2 ^ di.val) [(trigEmit s.trig, s.endToken t.data 0 t.x t.ray, none)] else .next s
      else if s.eply.inFlight < s.eply.k then
        let n := nextTag s.eply
        placeAll s (s.modEply fun x => { x.setD d t.data t.ray with infl := setBit x.infl n true, nt := (n + 1) % 16 }) (2 ^ di.val)
          [(trigEmit s.trig, s.token t.data n t.ray, none)]
      else .next s

/-- EOS: an end token whatever the heads are (07 R176). -/
def execEos (d : EDst) (a : ESrc) (xv : Bool) (s : State) : Out :=
  let ray := s.descends [a]
  placeAll s (s.modEply fun x => x.setD d (s.src a) ray) (trigPop s.trig)
    [(trigEmit s.trig, s.endToken (s.src a) s.tg (xv || s.headsX) ray, none)]

/-- NSINK of the image of ply q of core k. -/
def State.nsink (s : State) (k q : Nat) : Nat := (s.ply k q).nsink

/-- A sink report (05 R123; 07 R177): one beyond NSINK is ignored, and the last one of a region that saw an error gives STREAM_ERROR unless it holds a cause (log 40). A region in strand mode counts none (log 107). -/
def sinkReport (s : State) (k q : Nat) (err : Bool) : State :=
  let n := (s.ply k q).ctx
  match plyRegion s k q with
  | none => s
  | some g =>
    if g.strand || decide (g.state ≠ .opened) || decide (s.nsink k q ≤ g.sinks) then s
    else
      let c := s.core k
      let mark := if g.sinks + 1 = s.nsink k q then some (c.fab.reqNo, c.streams.filterMap fun (_, p) => p.run.map (·.cmd.id), c.nextEng) else none
      let s := s.modCtx k n fun c => { c with region := some { g with sinks := g.sinks + 1, err := g.err || err, mark := mark } }
      if g.sinks + 1 = s.nsink k q ∧ (g.err || err) ∧ g.cause = 0 then
        raiseFault s { core := k, ply := q, ctx := n, src := 0, cause := Cause.streamError.code, cls := 5 }
      else s

/-- SINK: data are consumed, ends counted, and the N-th end makes a report (07 R177). -/
def execSink (d : EDst) (a : ESrc) (keep : Bool) (n : BitVec 8) (s : State) : Out :=
  match s.heads with
  | [] => .next s
  | t :: _ =>
    if t.e then
      let k := Tab.look {} s.eply.sinks s.actor.rule
      let err := k.err || t.x
      if n.toNat + 1 ≤ k.count + 1 then
        let s1 := s.modEply fun x => { x with sinks := Tab.set x.sinks s.actor.rule {} }
        placeAll s (sinkReport s1 s.actor.core s.actor.ply err) (trigPop s.trig) []
      else placeAll s (s.modEply fun x => { x with sinks := Tab.set x.sinks s.actor.rule { count := k.count + 1, err := err } }) (trigPop s.trig) []
    else placeAll s (if keep then s.modEply fun x => x.setD d (s.src a) (s.descends [a]) else s) (trigPop s.trig) []

/-- The routed inputs of an element that are not BACK, with what feeds each (21 R387). -/
def cutInputs (p : Ply) (e : Nat) : List (Nat × Endpt) :=
  (List.range 4).filterMap fun j => (p.feeder (.chan e j)).bind fun r => if r.back then none else some (j, r.src)

/-- The inputs among them that an element feeds: those on which markers come (21 R387). -/
def markInputs (p : Ply) (e : Nat) : List Nat :=
  (cutInputs p e).filterMap fun x => match x.2 with
    | .chan _ _ => some x.1
    | _ => none

/-- The inputs of an element that a stream port feeds, each with the port (21 R387). -/
def portInputs (p : Ply) (e : Nat) : List (Nat × Nat) :=
  (List.range 4).filterMap fun j => (p.feeder (.chan e j)).bind fun r => match r.src with
    | .stream m => some (j, m)
    | _ => none

/-- A record of a cut at a port, beside those of other destinations; of each destination the two newest are kept, as its element keeps its two newest snapshots (21 R388) (log 18). -/
def addCut (p : SPort) (c : CutRec) : SPort :=
  let mine (d : CutRec) : Bool := decide (d.dst = c.dst)
  { p with cuts := c :: (((p.cuts.filter mine).filter fun d => decide (d.cut ≠ c.cut)).take 1 ++ p.cuts.filter fun d => !(mine d)) }

/-- Tokens of ply q that their route has sent to input j of element e and that are not popped. -/
def unpopped (f : Fabric) (q e j : Nat) : Nat :=
  ((f.chan (chanKey e j)).toks.filter fun t => decide (t.ply = q) && !t.port && decide (t.mark = .none)).length +
  (f.flights.filter fun x => decide (x.dst = .chan e j) && decide (x.tok.ply = q) && decide (x.tok.mark = .none)).length

/-- The tokens that a run of a read port has sent: one for each element, and the end token of EOS (12 R269, R271). -/
def SRun.sent (r : SRun) : Nat := r.e + b2n (r.last && !r.eosDue && r.cmd.desc.eos && !r.cmd.desc.write)

/-- A read port records a cut for input channel dst, with u tokens of its route unpopped there (21 R388): the element of the first of them, in the command that runs, in the one that ended last, or the first of the next. -/
def cutAtRead (y : SPort) (n dst u : Nat) : SPort :=
  match y.run with
  | some r =>
    if u ≤ r.sent then addCut y { cut := n, cmd := r.cmd.id, elem := min r.e (r.sent - u), dst := dst }
    else match y.past with
      | some (id, sent) => addCut y { cut := n, cmd := id, elem := sent - (u - r.sent), dst := dst }
      | none => y
  | none =>
    match u, y.past with
    | 0, _ => { y with due := { cut := n, elem := 0, dst := dst } :: y.due }
    | u + 1, some (id, sent) => addCut y { cut := n, cmd := id, elem := sent - (u + 1), dst := dst }
    | _ + 1, none => y

/-- Contributions of an element to the open rounds of RED, by group (07 R179, R183). -/
def redsOf (p : Ply) (e : Nat) : Tab RedPart := p.reds.filterMap fun (g, l) => (l.find? fun x => decide (x.elem = e)).map fun x => (g, x)

/-- Element e of ply q saves cut n (21 R387, R388): its registers and hidden state, and at each read port that feeds it the index of the first element it has not popped. The two newest cuts are kept (log 18). -/
def saveCut (s : State) (k q e n : Nat) : State :=
  let f := (s.core k).fab
  let p := f.ply q
  let s := s.modPly k q fun p => { p with snaps := Tab.mod [] p.snaps e fun l => ({ cut := n, st := p.elem e, reds := redsOf p e } :: l.filter fun x => decide (x.cut ≠ n)).take 2 }
  (portInputs p e).foldl (fun s x => s.modStream k x.2 fun y => cutAtRead y n (chanKey e x.1) (unpopped f q e x.1)) s

/-- MARK: a snapshot marker with its cut number (07 R178). An element that no element feeds saves the cut as it fires (21 R387, log 18). -/
def execMark (a : ESrc) (s : State) : Out :=
  let n := bits (s.src a) 0 16
  let x := s.actor
  match emitMask (popMask s x.core x.ply x.elem (trigPop s.trig)) x.core x.ply x.elem (trigEmit s.trig) { s.token (w64 n) 0 false with mark := .snap } none with
  | none => .next s
  | some s1 => .next (if (markInputs (s.ply x.core x.ply) x.elem).isEmpty then saveCut s1 x.core x.ply x.elem n else s1)

/-- The cut of a snapshot marker at the front of an input. -/
def cutAtHead (f : Fabric) (q e j : Nat) : Option Nat :=
  match (f.chan (chanKey e j)).toks.find? fun t => decide (t.ply = q) with
  | some t => if t.mark = .snap then some (bits t.data 0 16) else none
  | none => none

/-- The markers of a saved cut go onto the outputs that are still due theirs, each as soon as its route has room (21 R387). -/
def placeMarks (s : State) (k q e : Nat) : State :=
  let x := (s.ply k q).elem e
  (maskBits 4 x.markDue).foldl (fun s j =>
    match sendFrom s k q (.chan e j) { data := w64 x.markCut, ply := q, mark := .snap } none with
    | some t => t.modElem k q e fun y => { y with markDue := y.markDue - 2 ^ j }
    | none => s) s

/-- The firings of a ply that are in flight at an element: its requests that are not answered or wait for room, those that were parked and are issued again among them (12 R278; 21 R380, R387, R391). -/
def Fabric.firingsAt (f : Fabric) (q e : Nat) : List Req :=
  (f.reqsOf e ++ f.park.filter fun y => decide (y.elem = e) && decide (y.st ≠ .held)).filter fun y => decide (y.ply = q)

/-- An element whose marked inputs all hold a marker of one cut, with no firing of the ply in flight, saves it, pops the markers, and places one on every routed output, now or ahead of any later token there; a later cut waits for the markers that are due (12 R278; 21 R387). -/
def execSnapshotSave (core ply elem : Nat) (s : State) : Out :=
  let s := if (s.ply core ply).frozen then s else placeMarks s core ply elem
  let f := (s.core core).fab
  let p := f.ply ply
  let ins := markInputs p elem
  match ins.head?.bind (cutAtHead f ply elem) with
  | none => .next s
  | some n =>
    if p.st ≠ .active ∨ p.frozen ∨ (p.elem elem).markDue ≠ 0 ∨ !(f.firingsAt ply elem).isEmpty ∨ !(ins.all fun j => decide (cutAtHead f ply elem j = some n)) then .next s
    else
      let s1 := ins.foldl (fun s j => s.modChan core (chanKey elem j) fun c => { c with toks := c.toks.eraseP fun t => decide (t.ply = ply) }) (saveCut s core ply elem n)
      .next (placeMarks (s1.modElem core ply elem fun x => { x with markDue := 15, markCut := n }) core ply elem)

/-- The participants of group g: element and result input (07 R179). -/
def redMembers (p : Ply) (g : Nat) : List (Nat × Nat) :=
  p.rules.flatMap fun (e, rs) => (rs.filter fun (_, x) => decide (redGroup x.act = some g)).map fun (_, x) => (e, redInput x.act)

/-- The result of a round as a token (07 R179): an end token where any contribution was made on end heads. -/
def redToken (q : Nat) (l : List RedPart) (f : List Word → Word) : Token :=
  if l.any (·.e) then { ply := q, e := true, x := if l.all (·.e) then l.any (·.x) else true }
  else { data := f (l.map (·.data)), ply := q }

/-- The round's result sets out for the RI input of every participant, in the slot its contribution reserved (07 R179). -/
def redDeliver (s : State) (k q g : Nat) (t : Token) : State :=
  (redMembers (s.ply k q) g).foldl (fun s (e, ri) =>
    (s.modElem k q e fun x => { x with redDone := setBit x.redDone g false }).modFab k fun b =>
      { (b.modChan (chanKey e ri) fun c => { c with grants := c.grants.eraseP fun x => decide (x.prod = 8 + q) }) with
        flights := b.flights ++ [{ dst := .chan e ri, tok := t, prod := q }] }) s

/-- RED: a contribution, and the result once every participant has made one (07 R179). -/
def fireRed (s : State) (a : ESrc) (ri : Fin 4) (g : Fin 8) (f : List Word → Word) : Out :=
  let k := s.actor.core
  let q := s.actor.ply
  let part : RedPart := { elem := s.actor.elem, data := if s.endFiring then 0 else s.src a, e := s.endFiring, x := s.endFiring && s.headsX }
  let l := Tab.look [] (s.ply k q).reds g.val ++ [part]
  let s1 := (s.modEply fun x => { x with redDone := setBit x.redDone g.val true }).modChan k (chanKey s.actor.elem ri.val) fun c =>
    { c with grants := c.grants ++ [{ prod := 8 + q, seen := false }] }
  let s2 := popMask s1 k q s.actor.elem (trigPop s.trig)
  if (redMembers (s.ply k q) g.val).all fun (e, _) => l.any fun x => decide (x.elem = e) then
    .next ((redDeliver s2 k q g.val (redToken q l f)).modPly k q fun p => { p with reds := Tab.drop p.reds g.val })
  else .next (s2.modPly k q fun p => { p with reds := Tab.set p.reds g.val l })

/-- Folding the lanes of several words with a choice of lanes (07 R179). -/
def redLanes (t : Ty) (f : Nat → Nat → Nat) (l : List Word) : Word :=
  lanesV t fun i =>
    match l.map fun x => laneU t x i with
    | [] => 0
    | y :: ys => ys.foldl f y

/-- The smaller or the larger of two lanes: of integers by value, of floating-point lanes as R163. -/
def pickLane (t : Ty) (mx : Bool) (a b : Nat) : Nat :=
  if tyFloat t then minLane t mx a b
  else
    let v (x : Nat) : Int := if tySignedLane t then sextN x t.width else x
    if mx then (if v a ≤ v b then b else a) else if v a ≤ v b then a else b

/-- The sum of a round: floating-point lanes exact and rounded once with RNE, integer lanes wrapping (07 R179). -/
def redSumLanes (t : Ty) (l : List Word) : Word :=
  if tyFloat t then lanesV t fun i => roundFp (fmtOf t) .rne 0 (sumNum .rne (l.map fun x => laneNum t x i))
  else lanesI t fun i => (l.map fun x => laneI t x i).foldl (· + ·) 0

/-- RED.min (07 R179). -/
def execRedMin (a : ESrc) (t : Ty) (ri : Fin 4) (g : Fin 8) (s : State) : Out := fireRed s a ri g (redLanes t (pickLane t false))
/-- RED.max (07 R179). -/
def execRedMax (a : ESrc) (t : Ty) (ri : Fin 4) (g : Fin 8) (s : State) : Out := fireRed s a ri g (redLanes t (pickLane t true))
/-- RED.sum (07 R179). -/
def execRedSum (a : ESrc) (t : Ty) (ri : Fin 4) (g : Fin 8) (s : State) : Out := fireRed s a ri g (redSumLanes t)

/-- SEND: both halves of a message to the token fabric port, behind the requests of its element and ply; on end heads nothing is sent (07 R180; 13 R299). -/
def execSend (a b : ESrc) (s : State) : Out :=
  if s.endFiring then placeAll s s (trigPop s.trig) []
  else
    placeAll s s (trigPop s.trig)
      [(trigEmit s.trig, s.token (s.src a) 0 false,
        some { a := s.src a, b := s.src b, core := s.actor.core, ply := s.actor.ply, elem := s.actor.elem, rule := s.actor.rule
               before := (s.core s.actor.core).fab.reqNo })]

/-- A firing that faults (07 R156): POP is popped, nothing is emitted or written, and the fault is raised for the region. -/
def fireFault (s : State) (c : Cause) (tval : Nat) : Out :=
  let a := s.actor
  .next (fabricFault (popMask s a.core a.ply a.elem (trigPop s.trig)) a.core a.ply 1 a.rule a.elem (some a.elem) c tval s.actionWord.toNat)

/-- What an element sends to queue q crosses the links: its firing waits while flits are held, and faults with no path left (23 R405, R406) (log 57). -/
def fireAcross (s : State) (q : Nat) (go : Out) : Out :=
  match queueWay s s.actor.core q with
  | .clear => go
  | .held => .next s
  | .down => fireFault s .linkDown q

/-- Something that element and ply of the firing have sent to a queue still waits (07 R182). -/
def State.queueWaits (s : State) : Bool :=
  let a := s.actor
  (s.core a.core).fab.pushes.any fun x => decide (x.elem = a.elem) && decide (x.ply = a.ply)

/-- A queue operation of the firing waits behind those before it (07 R182). -/
def State.queueOp (s : State) (q : Nat) (op : QueueOp) : State :=
  s.modFab s.actor.core fun f => { f with pushes := f.pushes ++ [{ op := op, elem := s.actor.elem, ply := s.actor.ply, queue := q }] }

/-- The slots of the element's reservation go back to their queue, behind what the element has sent before (07 R182). -/
def releaseRsv (s : State) : State :=
  let rv := s.eply.rv
  if s.queueWaits && decide (0 < rv.count) then s.queueOp rv.queue (.release rv.count) else returnSlots s rv.queue rv.count

/-- A reservation that holds nothing (07 R182). -/
def Rsv.cleared (x : Rsv) : Rsv := { x with count := 0, amp := false, excess := false }

/-- The grant of n slots of queue q after s1, which D and EMIT answer: now, or behind what the element has sent before (07 R182). -/
def fireGrant (s s1 : State) (d : EDst) (a : ESrc) (amp : Bool) (q n : Nat) : Out :=
  if s1.queueWaits then
    placeAll s (s1.queueOp q (.grant amp n (trigEmit s.trig) s.tg d (s.descends [a]))) (trigPop s.trig) []
  else match grantRsv s1 s1.eply.rv amp q n with
    | some (rv, s2) => fireTag s s2 d [a] (w64 n) s.tg fun _ x => { x with rv := rv }
    | none => fireTag s s1 d [a] 0 s.tg fun _ x => x

/-- RSV: n slots for the element's reservation, in full or not at all (07 R181, R182). -/
def execRsv (d : EDst) (a : ESrc) (n : BitVec 5) (s : State) : Out :=
  let q := bits (s.src a) 0 14
  let rv := s.eply.rv
  if 0 < rv.count ∧ rv.queue ≠ q then fireFault s .queueUnreserved q
  else if !(ownsQueue s s.actor.core q) then fireFault s .permission q
  else fireAcross s q <|
    fireGrant s s d a false q n.toNat

/-- AMPLIFY: the old reservation is released, then m slots are taken or none (07 R181, R182). -/
def execAmplify (d : EDst) (a : ESrc) (m : BitVec 9) (s : State) : Out :=
  let q := bits (s.src a) 0 14
  if !(ownsQueue s s.actor.core q) then fireFault s .permission q
  else fireAcross s q <|
    fireGrant s ((releaseRsv s).modEply fun x => { x with rv := x.rv.cleared }) d a true q m.toNat

/-- The push of an ENQ: it reaches the queue behind the pushes before it, and once the requests of its element and ply that were selected before are performed (07 R182; 13 R299). -/
def sendPush (s : State) (t : Wide) : State :=
  let a := s.actor
  let x : Push :=
    { elem := a.elem, ply := a.ply, before := (s.core a.core).fab.reqNo, queue := s.eply.rv.queue
      dl := (plyRegion s a.core a.ply).bind (·.deadline), tok := t }
  flushPushes (s.modFab a.core fun f => { f with pushes := f.pushes ++ [x] }) a.core a.elem

/-- ENQ: a token takes a reserved slot; an end releases the rest; an excess token of an amplification is dropped (07 R182) (log 44). -/
def execEnq (d : EDst) (a b : ESrc) (s : State) : Out :=
  let rv := s.eply.rv
  let k := s.actor.core
  let q := s.actor.ply
  if s.endFiring then
    let s1 := (releaseRsv s).modEply fun x => { x with rv := x.rv.cleared }
    placeAll s s1 (trigPop s.trig) [(trigEmit s.trig, s.endToken 0 0 s.headsX (s.heads.any (·.ray)), none)]
  else if 0 < rv.count then
    fireTag s (sendPush s (s.src a ++ s.src b)) d [a, b] (w64 (rv.count - 1)) s.tg fun _ x =>
      { x with rv := { x.rv with count := rv.count - 1 } }
  else if rv.amp then
    let s1 := s.modEply fun x => { x with rv := { x.rv with excess := true } }
    match placeAll s s1 (trigPop s.trig) [(trigEmit s.trig, s.endToken 0 s.tg true false, none)] with
    | .next s2 =>
      if rv.excess then .next s2
      else .next (fabricFault s2 k q 1 s.actor.rule s.actor.elem (some s.actor.elem) .amplifyOverflow rv.queue s.actionWord.toNat)
    | o => o
  else fireFault s .queueUnreserved 0

end Sys2Proof.Machine
end

