-- ==== Sys2Proof/Machine/ElemMem.lean ====
section
/-! DEFINITION. The memory requests of an element: LDQ, STQ, AMOQ, XLATE and OCCL, their performance and their responses (12 R278 to R283; 07 R170; 21 R391). -/
namespace Sys2Proof.Machine

/-- A request enters the request unit: POP is popped and the operands are kept; an end firing waits behind the requests before it (12 R278; 07 R170). -/
def fireReq (s : State) (kind : ReqKind) (d : EDst) (l : List ESrc) (ea opnd : Word) : Out :=
  let a := s.actor
  let y : Req :=
    { ply := a.ply, rule := a.rule, word := s.actionWord, kind := kind, dst := d, ea := ea, opnd := opnd, tag := s.tg
      ray := s.descends l, parkable := s.heads.any (·.ray), elem := a.elem, no := (s.core a.core).fab.reqNo }
  let s1 := (popMask s a.core a.ply a.elem (trigPop s.trig)).modFab a.core fun b => { b with reqNo := b.reqNo + 1 }
  if s.endFiring then
    if ((s.core a.core).fab.reqsOf a.elem).isEmpty then endBranch s
    else .next (s1.modReqs a.core a.elem fun l => l ++ [{ y with endX := some s.headsX, ray := s.heads.any (·.ray), st := .done 0 }])
  else .next (s1.modReqs a.core a.elem fun l => l ++ [y])

/-- LDQ: a load request (12 R280). -/
def execLdq (d : EDst) (base index : ESrc) (sz : Sz) (sc : Scope) (ord : Ord) (off : BitVec 22) (s : State) : Out :=
  ordered (fireReq s (.load sz) d [base, index] (eaIndexed (s.src base) (s.src index) off) 0) sc ord

/-- STQ: a store request of the register that D names (12 R280). -/
def execStq (d base index : ESrc) (sz : Sz) (sc : Scope) (ord : Ord) (off : BitVec 22) (s : State) : Out :=
  ordered (fireReq s (.store sz) .null [d, base, index] (eaIndexed (s.src base) (s.src index) off) (s.src d)) sc ord

/-- AMOQ.add: an atomic request with the index field as its operand (12 R280). -/
def execAmoqAdd (d : EDst) (base index : ESrc) (sz : Sz) (sc : Scope) (ord : Ord) (off : BitVec 22) (s : State) : Out :=
  ordered (fireReq s (.amo 0 sz) d [base, index] (eaOf (s.src base) off) (s.src index)) sc ord

/-- AMOQ.and: an atomic request with the index field as its operand (12 R280). -/
def execAmoqAnd (d : EDst) (base index : ESrc) (sz : Sz) (sc : Scope) (ord : Ord) (off : BitVec 22) (s : State) : Out :=
  ordered (fireReq s (.amo 1 sz) d [base, index] (eaOf (s.src base) off) (s.src index)) sc ord

/-- AMOQ.or: an atomic request with the index field as its operand (12 R280). -/
def execAmoqOr (d : EDst) (base index : ESrc) (sz : Sz) (sc : Scope) (ord : Ord) (off : BitVec 22) (s : State) : Out :=
  ordered (fireReq s (.amo 2 sz) d [base, index] (eaOf (s.src base) off) (s.src index)) sc ord

/-- AMOQ.xor: an atomic request with the index field as its operand (12 R280). -/
def execAmoqXor (d : EDst) (base index : ESrc) (sz : Sz) (sc : Scope) (ord : Ord) (off : BitVec 22) (s : State) : Out :=
  ordered (fireReq s (.amo 3 sz) d [base, index] (eaOf (s.src base) off) (s.src index)) sc ord

/-- AMOQ.min: an atomic request with the index field as its operand (12 R280). -/
def execAmoqMin (d : EDst) (base index : ESrc) (sz : Sz) (sc : Scope) (ord : Ord) (off : BitVec 22) (s : State) : Out :=
  ordered (fireReq s (.amo 4 sz) d [base, index] (eaOf (s.src base) off) (s.src index)) sc ord

/-- AMOQ.max: an atomic request with the index field as its operand (12 R280). -/
def execAmoqMax (d : EDst) (base index : ESrc) (sz : Sz) (sc : Scope) (ord : Ord) (off : BitVec 22) (s : State) : Out :=
  ordered (fireReq s (.amo 5 sz) d [base, index] (eaOf (s.src base) off) (s.src index)) sc ord

/-- AMOQ.minu: an atomic request with the index field as its operand (12 R280). -/
def execAmoqMinu (d : EDst) (base index : ESrc) (sz : Sz) (sc : Scope) (ord : Ord) (off : BitVec 22) (s : State) : Out :=
  ordered (fireReq s (.amo 6 sz) d [base, index] (eaOf (s.src base) off) (s.src index)) sc ord

/-- AMOQ.maxu: an atomic request with the index field as its operand (12 R280). -/
def execAmoqMaxu (d : EDst) (base index : ESrc) (sz : Sz) (sc : Scope) (ord : Ord) (off : BitVec 22) (s : State) : Out :=
  ordered (fireReq s (.amo 7 sz) d [base, index] (eaOf (s.src base) off) (s.src index)) sc ord

/-- AMOQ.swap: an atomic request with the index field as its operand (12 R280). -/
def execAmoqSwap (d : EDst) (base index : ESrc) (sz : Sz) (sc : Scope) (ord : Ord) (off : BitVec 22) (s : State) : Out :=
  ordered (fireReq s (.amo 8 sz) d [base, index] (eaOf (s.src base) off) (s.src index)) sc ord

/-- XLATE: checks bytes of unified space (12 R282). -/
def execXlate (d : EDst) (a b : ESrc) (wr : Bool) (s : State) : Out := fireReq s (.xlate wr) d [a, b] (s.src a) (s.src b)

/-- OCCL: an addition to an occlusion slot (12 R283). -/
def execOccl (d : EDst) (a b : ESrc) (s : State) : Out := fireReq s .occl d [a, b] (s.src a) (s.src b)

/-- What performing a request answers: its completion data, a failing check, or a wait with the request as far as it got. -/
inductive Perf
  | done (v : Word) (s : State)
  | failed (code tval : Nat) (s : State)
  | wait (y : Req) (s : State)

/-- The answer of an access as that of its request. -/
def Perf.of {α : Type} (y : Req) (r : Mr α) (f : α → Word) : Perf :=
  match r with
  | .ok v s => .done (f v) s
  | .fault c t s => .failed c t s
  | .wait s => .wait y s

/-- The atomic operation of a number (04 R80, 12 R280). -/
def amoOf (op : Nat) (o : Word) : Sz → Nat → Option Nat :=
  match op with
  | 0 => amoAdd o
  | 1 => amoAnd o
  | 2 => amoOr o
  | 3 => amoXor o
  | 4 => amoMin o
  | 5 => amoMax o
  | 6 => amoMinu o
  | 7 => amoMaxu o
  | _ => amoSwap o

/-- Completion data of XLATE with OK = 1 (12 R282): `marks` has W in bit 1 and CMP in bit 0. -/
def xlateOk (n marks : Nat) : Word := w64 (2 ^ 63 + marks * 2 ^ 61 + n)

/-- XLATE from page npg on, n pages left (12 R282): pages are verified with the access that WR asks for; the first that is not ends the count (log 52). -/
def xlateRun (k : Nat) (wr : Bool) : Nat → Req → State → Perf
  | 0, y, s => .done (xlateOk y.npg y.marks) s
  | n + 1, y, s =>
    let va := (y.ea.toNat / 65536 + y.npg) * 65536
    let stop (c : Nat) (s : State) : Perf := .done (if y.npg = 0 then w64 (c * 2 ^ 32) else xlateOk y.npg y.marks) s
    let acc : Acc := if wr then .amo else .read
    match reach s k va acc true with
    | .wait s => .wait y s
    | .fault c _ s => stop c s
    | .ok _ s =>
      let e := ((xlatHit (s.core k) va .read).map (·.leaf)).getD 0
      let marks := (if bit e 4 then y.marks / 2 * 2 else 0) + (if bit e 7 then 1 else y.marks % 2)
      xlateRun k wr n { y with npg := y.npg + 1, marks := marks } s

/-- The pages that a range of XLATE touches; a length of 0 counts as 1 byte (12 R282). -/
def xlatePages (a b : Word) : Nat :=
  let len := max 1 (bits b 0 32)
  (a.toNat + len - 1) / 65536 - a.toNat / 65536 + 1

/-- Performing a request of core k (12 R279 to R282; 04 R79, R80). -/
def performReq (s : State) (k : Nat) (y : Req) : Perf :=
  let a := y.ea.toNat
  match y.kind with
  | .load sz =>
    if a % szBytes sz ≠ 0 then .failed 0x24 a s
    else Perf.of y (vread s k a (szBytes sz) .read true false) fun bs => extend sz (ofBytesLE bs)
  | .store sz =>
    if a % szBytes sz ≠ 0 then .failed 0x24 a s
    else Perf.of y (vwrite s k a (bytesLE y.opnd.toNat (szBytes sz)) true) fun _ => 0
  | .amo op sz =>
    if a % szBytes sz ≠ 0 then .failed 0x24 a s
    else Perf.of y (vamo s k a (szBytes sz) true (amoOf op y.opnd sz)) fun old => extend sz old
  | .xlate wr => xlateRun k wr (xlatePages y.ea y.opnd - y.npg) y s
  | .occl => .done 0 s

/-- A cause is raised for a request (12 R281; 21 R391). -/
def raiseReq (s : State) (k : Nat) (y : Req) (c : Cause) (tval : Nat) (parked : Bool) : State :=
  raiseFault s { core := k, ply := y.ply, ctx := (s.ply k y.ply).ctx, src := 1, unit := y.rule, node := y.elem, elem := some y.elem
                 cause := c.code, cls := Cause.cls c, tval := tval, detail := y.word.toNat, parked := parked, req := some y.no }

/-- Checks of R79 steps 2 and 3, which a ray's request may park on (21 R391): all but alignment, an empty chunk reserve, an uncorrectable error and a link that is down. -/
def parksOn (y : Req) (code : Nat) : Bool :=
  y.parkable && !([0x24, 0x28, 0x2F, 0x72].contains code) &&
  match y.kind with
  | .load _ | .store _ | .amo _ _ => true
  | _ => false

/-- A request that failed a check: held in its entry, parked, or with an uncorrectable error answered by an end token (12 R281; 21 R391). `put` puts the request back where it was, or takes it away. -/
def failReq (s : State) (k : Nat) (y : Req) (code tval : Nat) (put : Option Req → State → State) : State :=
  if code = 0x2F then raiseReq (put (some { y with st := .failed }) s) k y .memUncorrectable tval false
  else if parksOn y code then
    if (s.core k).fab.park.length < 32 then
      raiseReq ((put none s).modFab k fun b => { b with park := b.park ++ [{ y with st := .held }] }) k y (causeOf code) tval true
    else raiseReq (put (some { y with st := .held }) s) k y .rayParkFull tval false
  else raiseReq (put (some { y with st := .held }) s) k y (causeOf code) tval false

/-- ORD of a request has the acquire part (12 R279; 02 R41). -/
def Req.acq (y : Req) : Bool := match y.kind with
  | .xlate _ | .occl => false
  | _ => bit y.word 22
/-- ORD of a request has the release part (12 R279; 02 R41). -/
def Req.rel (y : Req) : Bool := match y.kind with
  | .xlate _ | .occl => false
  | _ => bit y.word 23

/-- The order rules of R279 let a request be performed, with l the requests of its element and ply: none selected before it is unperformed that has the acquire part, or before which its own release part comes. -/
def reqFree (l : List Req) (y : Req) : Bool := l.all fun z => decide (y.no ≤ z.no) || !z.open_ || (!z.acq && !y.rel)

/-- A request of core k may be performed now (12 R279; 21 R391). -/
def reqMay (s : State) (k : Nat) (y : Req) : Bool := decide (y.st = .waiting) && reqFree ((s.core k).fab.reqsIn y.ply y.elem) y

/-- The requests of an element that may be performed now, with their places, the oldest first; OCCL is performed by its slot (12 R279; 18 R346). -/
def mayReqs (s : State) (k e : Nat) : List (Req × Nat) := ((s.core k).fab.reqsOf e).zipIdx.filter fun (y, _) => decide (y.kind ≠ .occl) && reqMay s k y

/-- The next request of an element to be performed (12 R279). -/
def nextReq (s : State) (k e : Nat) : Option (Nat × Req) := (mayReqs s k e).head?.map fun (y, i) => (i, y)

/-- The response of a request: D is written and EMIT gets the completion token; none where there is no room (12 R278, R281; 07 R170). -/
def respond (s : State) (k : Nat) (y : Req) : Option State :=
  let mask := trigEmit (s.ruleAt k y.ply y.elem y.rule).trig
  if mask &&& ((s.ply k y.ply).elem y.elem).markDue ≠ 0 then none else
  match y.st, y.endX with
  | .done _, some x => emitMask s k y.ply y.elem mask { ply := y.ply, e := true, x := x, ray := y.ray } none
  | .done v, none =>
    emitMask (s.modElem k y.ply y.elem fun e => e.setD y.dst v y.ray) k y.ply y.elem mask { data := v, tag := y.tag, ply := y.ply, ray := y.ray } none
  | .failed, _ => emitMask s k y.ply y.elem mask { ply := y.ply, e := true, x := true, ray := y.ray } none
  | _, _ => none

/-- One request is performed, and put back by `put` as what became of it. -/
def performOne (s : State) (k : Nat) (y : Req) (put : Option Req → State → State) : State :=
  match performReq s k y with
  | .done v s => put (some { y with st := .done v }) s
  | .failed c t s => failReq s k y c t put
  | .wait y s => put (some y) s

/-- Request i of element e replaced or taken away. -/
def putReq (k e i : Nat) (y : Option Req) (s : State) : State :=
  s.modReqs k e fun l => match y with
    | some y => l.set i y
    | none => l.eraseIdx i

/-- The first of some requests of an element that is not waiting for the host or a link is performed: other work continues (00 R9; 12 R279). -/
def performFirst (k e : Nat) : List (Req × Nat) → State → State
  | [], s => s
  | (y, i) :: l, s =>
    match performReq s k y with
    | .wait y s => performFirst k e l (putReq k e i (some y) s)
    | _ => performOne s k y (putReq k e i)

/-- Parked request i replaced or taken away. -/
def putParked (k i : Nat) (y : Option Req) (s : State) : State :=
  s.modFab k fun b => { b with park := match y with
    | some y => b.park.set i y
    | none => b.park.eraseIdx i }

/-- A parked request by its number, with its place (21 R391). -/
def parkedReq (s : State) (k no : Nat) : Option (Nat × Req) :=
  ((s.core k).fab.park.zipIdx.find? fun (y, _) => decide (y.no = no)).map fun (y, i) => (i, y)

/-- A response at the head of an element's requests leaves where it has room (12 R278). -/
def respondHead (s : State) (k e : Nat) : State :=
  match (s.core k).fab.reqsOf e with
  | [] => s
  | y :: ys => match respond s k y with
    | some s => s.modReqs k e fun _ => ys
    | none => s

/-- A parked request that was performed answers in the first step in which it has room (21 R391). -/
def respondParked (s : State) (k no : Nat) : State :=
  match parkedReq s k no with
  | some (i, y) => match respond s k y with
    | some s => putParked k i none s
    | none => s
  | none => s

/-- A parked request that was issued again is performed, where its order lets it, and answers (21 R391). -/
def serveParked (s : State) (k no : Nat) : State :=
  match parkedReq s k no with
  | some (i, y) => respondParked (if reqMay s k y then performOne s k y (putParked k i) else s) k no
  | none => s

/-- The requests of an element that parked and were issued again, in the order they parked, each on its own (21 R391). -/
def serveAllParked (s : State) (k e : Nat) : State :=
  (((s.core k).fab.park.filter fun y => decide (y.elem = e) && decide (y.st ≠ .held)).map (·.no)).foldl (fun s no => serveParked s k no) s

/-- A request of an element is performed and the oldest response emitted; parked requests that were issued again are served first, and no other waits for them but as R279 says; then the pushes that waited for them go (12 R278 to R281; 13 R299; 21 R391). -/
def execRequestResponse (core elem : Nat) (s : State) : Out :=
  let s := serveAllParked s core elem
  let s := performFirst core elem (mayReqs s core elem) s
  .next (flushPushes (respondHead s core elem) core elem)

/-- The owner of an occlusion slot group: EN in [12] and PART in [11:0] (18 R345). -/
def Die.occOwner (d : Die) (g : Nat) : Nat := Tab.look 0 d.regs.owners g
/-- Partition p owns an occlusion slot of a die (18 R345). -/
def Die.ownsOcc (d : Die) (p slot : Nat) : Bool := (d.occOwner (slot / 64)).testBit 12 && decide (nbits (d.occOwner (slot / 64)) 0 12 = p)

/-- The addition of an OCCL at its slot, saturating; a slot not owned faults with its number within the die (12 R279, R283; 18 R345, R346) (log 31). -/
def execOcclSlotAdd (core elem n : Nat) (s : State) : Out :=
  match ((s.core core).fab.reqsOf elem)[n]? with
  | none => .next s
  | some y =>
    if y.kind = .occl ∧ reqMay s core y then
      let slot := bits y.ea 0 14
      if (s.die (slot / 4096)).ownsOcc (s.partOf core) (slot % 4096) then
        let sum := min 0xFFFFFFFE (Tab.look 0 (s.die (slot / 4096)).regs.occs (slot % 4096) + bits y.opnd 0 32)
        let s := s.modDie (slot / 4096) fun d => { d with regs := { d.regs with occs := Tab.put 0 d.regs.occs (slot % 4096) sum } }
        .next (flushPushes (putReq core elem n (some { y with st := .done 0 }) s) core elem)
      else .next (failReq s core y 0x22 (slot % 4096) (putReq core elem n))
    else .next s

end Sys2Proof.Machine
end

