-- ==== Sys2Proof/Machine/Tile.lean ====
section
/-! DEFINITION. The tile store actions and the tile unit's ordered blend (11 R251; 12 R284 to R288). -/
namespace Sys2Proof.Machine

/-- The address of the header of a tile slot (11 R251). -/
def headerAt (slot : Nat) : Nat := 0x38000 + 64 * slot

/-- NEXT of a tile slot (11 R251). -/
def tileNext (s : State) (k slot : Nat) : Nat := ofBytesLE (bufRead s k 4 (headerAt slot) 4)

/-- s with f applied to the tile unit of core k. -/
def State.modTile (s : State) (k : Nat) (f : Tile → Tile) : State := s.modCore k fun c => { c with tile := f c.tile }

/-- SEQ, SLOT and PIXEL of a tile request (12 R286). -/
def TileReq.seq (r : TileReq) : Nat := bits r.a 32 32
/-- SLOT of a tile request. -/
def TileReq.slot (r : TileReq) : Nat := bits r.a 8 6
/-- PIXEL of a tile request. -/
def TileReq.pixel (r : TileReq) : Nat := bits r.a 0 8

/-- The address of the pixel of a tile request (11 R251). -/
def TileReq.pixelAt (r : TileReq) : Nat := 4096 * r.slot + 16 * r.pixel

/-- A fault of the tile unit, raised for the region of the ply that fired the request, whatever that ply holds by now (12 R286; 18 R344; 21 R374). -/
def tileFault (s : State) (k : Nat) (r : TileReq) (c : Cause) : State :=
  raiseFault s { core := k, ply := r.ply, ctx := r.ctx, src := 6, unit := r.rule, node := r.elem, cause := c.code, cls := Cause.cls c }

/-- One lane of a blend (12 R287) (log 32). -/
def blendLane (m : BlendMode) (src dst : Word) (i : Nat) : Nat :=
  let si := laneNum .f16 src i
  let di := laneNum .f16 dst i
  roundFp fp16 .rne 0
    (match m with
     | .rep => si
     | .srcOver => sumNum .rne [si, mulNum di (sumNum .rne [numOfInt 1, (laneNum .f16 src 3).neg])]
     | .add => sumNum .rne [si, di])

/-- Writing bytes of the tile store without its header rule. -/
def tsPut (s : State) (k off : Nat) (bs : List Byte) : State := bufPut s k 4 off bs

/-- COLOUR of a pixel after a blend (12 R287; 11 R251). -/
def blendInto (s : State) (k : Nat) (r : TileReq) : State :=
  let at_ := r.pixelAt
  let old := w64 (ofBytesLE (bufRead s k 4 at_ 8))
  tsPut s k at_ (bytesLE (lanesV .f16 (blendLane r.mode r.b old)).toNat 8)

/-- BCNT of a slot (12 R286). -/
def Tile.count (t : Tile) (slot : Nat) : Nat := Tab.look 0 t.bcnt slot

/-- The while loop of R286 has a further turn: DN holds a value and BCNT is equal to it. -/
def tileFull (s : State) (k slot : Nat) : Bool :=
  let t := (s.core k).tile
  decide (Tab.find t.dn slot = some (t.count slot))

/-- NEXT of a slot advances, BCNT and DN start anew (12 R286). -/
def tileAdvance (s : State) (k slot : Nat) : State :=
  (tsPut s k (headerAt slot) (bytesLE (tileNext s k slot + 1) 4)).modTile k fun t =>
    { t with bcnt := Tab.put 0 t.bcnt slot 0, dn := Tab.drop t.dn slot }

/-- The application of one request without the loop that follows it (12 R286). -/
def tileApplyOne (s : State) (k : Nat) (r : TileReq) : State :=
  let t := (s.core k).tile
  match r.done, Tab.find t.dn r.slot with
  | false, d =>
    if d.any fun n => decide (n < t.count r.slot + 1) then tileFault s k r .tileSeq
    else if (mapBuf (s.core k) 4 r.pixelAt).isNone then tileFault s k r .bufferAccess
    else (blendInto s k r).modTile k fun t => { t with bcnt := Tab.put 0 t.bcnt r.slot (t.count r.slot + 1) }
  | true, some _ => tileFault s k r .tileSeq
  | true, none =>
    if bits r.b 0 9 < t.count r.slot then tileFault s k r .tileSeq
    else s.modTile k fun t => { t with dn := Tab.set t.dn r.slot (bits r.b 0 9) }

/-- How far a request is ahead of NEXT of its slot (12 R286). -/
def tileAhead (s : State) (k : Nat) (r : TileReq) : Int := sextN (r.seq + 2 ^ 32 - tileNext s k r.slot) 32

/-- The first parked request of a slot whose SEQ is NEXT leaves the park (12 R286). -/
def tileTake (s : State) (k slot : Nat) : Option (TileReq × State) :=
  match (s.core k).tile.park.find? (fun r => decide (r.slot = slot) && decide (r.seq = tileNext s k slot)) with
  | some r => some (r, s.modTile k fun t => { t with park := t.park.erase r })
  | none => none

/-- The loop of R286 at one slot: NEXT advances while its sequence number is complete, and parked requests for NEXT are applied in arrival order; n turns at most (log 51). -/
def tileRun (k slot : Nat) : Nat → State → State
  | 0, s => s
  | n + 1, s =>
    if tileFull s k slot then tileRun k slot n (tileAdvance s k slot)
    else match tileTake s k slot with
      | some (r, s) => tileRun k slot n (tileApplyOne s k r)
      | none => s

/-- apply(r, k) of R286: every turn of its loop takes a parked request or advances NEXT past one. -/
def tileApply (s : State) (k : Nat) (r : TileReq) : State :=
  tileRun k r.slot (2 * (s.core k).tile.park.length + 2) (tileApplyOne s k r)

/-- arrive(r, k) of R286 (log 51). -/
def tileArrive (s : State) (k : Nat) (r : TileReq) : State :=
  if tileAhead s k r < 0 then tileFault s k r .tileSeq
  else if 0 < tileAhead s k r then
    if 256 ≤ (s.core k).tile.park.length then tileFault s k r .tileParkFull
    else s.modTile k fun t => { t with park := t.park ++ [r] }
  else tileApply s k r

/-- A slot's header was written: BCNT and DN clear, and its parked requests arrive anew in their order (12 R288). -/
def headerWritten (s : State) (k slot : Nat) : State :=
  let l := (s.core k).tile.park.filter fun r => decide (r.slot = slot)
  let s := s.modTile k fun t =>
    { bcnt := Tab.put 0 t.bcnt slot 0, dn := Tab.drop t.dn slot, park := t.park.filter fun r => decide (r.slot ≠ slot) }
  l.foldl (fun s r => tileArrive s k r) s

/-- The slots whose headers n bytes from off on touch (11 R251). -/
def headersIn (off n : Nat) : List Nat :=
  (List.range 56).filter fun i => decide (headerAt i < off + n) && decide (off < headerAt i + 64)

/-- Writing bytes of the tile store, with the header rule of R288. -/
def tsWrite (s : State) (k off : Nat) (bs : List Byte) : State :=
  (headersIn off bs.length).foldl (fun s i => headerWritten s k i) (tsPut s k off bs)

/-- The TS address of an action (12 R284). -/
def tsAddr (a : Word) (off : BitVec 18) : Nat := bits a 0 18 + off.toNat

/-- The checks of R284 on a TS address, and of R333 on a shadow, then the action. -/
def atTs (s : State) (off : Nat) (f : Out) : Out :=
  if s.endFiring then endBranch s
  else if off % 8 ≠ 0 then fireFault s .misaligned (tagged 4 off)
  else if 0x40000 ≤ off then fireFault s .bufferBounds (tagged 4 off)
  else if (mapBuf (s.core s.actor.core) 4 off).isNone then fireFault s .bufferAccess (tagged 4 off)
  else f

/-- The 8-byte word of the tile store at an address. -/
def tsWord (s : State) (off : Nat) : Word := w64 (ofBytesLE (bufRead s s.actor.core 4 off 8))

/-- TS.LD (12 R284). -/
def execTsLd (d : EDst) (a : ESrc) (off : BitVec 18) (s : State) : Out :=
  atTs s (tsAddr (s.src a) off) (fireTag s s d [a] (tsWord s (tsAddr (s.src a) off)) s.tg fun _ x => x)

/-- TS.ST (12 R284, R288). -/
def execTsSt (a b : ESrc) (off : BitVec 18) (s : State) : Out :=
  atTs s (tsAddr (s.src a) off)
    (fireTag s (tsWrite s s.actor.core (tsAddr (s.src a) off) (bytesLE (s.src b).toNat 8)) .null [a, b] 0 s.tg fun _ x => x)

/-- The key of VBMIN: its depth clamped to [+0, 1.0] (12 R285). -/
def clampKey (k : Word) : Word :=
  let h := bits k 32 32
  match decodeFp fp32 h with
  | .nan => w64 (2 ^ 64 - 1)
  | _ =>
    let h := if h.testBit 31 then 0 else if 0x3F800000 < h then 0x3F800000 else h
    w64 (h * 2 ^ 32 + bits k 0 32)

/-- VBMIN: the smaller of the key and the word, atomically; the old word is the result (12 R285). -/
def execVbmin (d : EDst) (a b : ESrc) (s : State) : Out :=
  let off := tsAddr (s.src b) 0
  let old := tsWord s off
  let key := clampKey (s.src a)
  atTs s off (fireTag s (tsWrite s s.actor.core off (bytesLE (if key.toNat < old.toNat then key else old).toNat 8)) d [a, b] old s.tg fun _ x => x)

/-- A tile request of the firing. -/
def State.tileReq (s : State) (done : Bool) (m : BlendMode) (a b : Word) : TileReq :=
  { done := done, a := a, b := b, mode := m, elem := s.actor.elem, ply := s.actor.ply, rule := s.actor.rule, word := s.actionWord
    ctx := (s.ply s.actor.core s.actor.ply).ctx }

/-- TS.BLEND: a fragment for a slot (12 R286, R287). -/
def execTsBlend (a b : ESrc) (mode : BlendMode) (s : State) : Out :=
  let r := s.tileReq false mode (s.src a) (s.src b)
  if s.endFiring then endBranch s
  else if 55 < r.slot then fireFault s .bufferBounds (tagged 4 r.pixelAt)
  else fireTag s (tileArrive s s.actor.core r) .null [a, b] 0 s.tg fun _ x => x

/-- TS.DONE: the fragment count of a sequence number (12 R286). -/
def execTsDone (a b : ESrc) (s : State) : Out :=
  let r := s.tileReq true .rep (s.src a) (s.src b)
  if s.endFiring then endBranch s
  else if 55 < r.slot then fireFault s .bufferBounds (tagged 4 (4096 * r.slot))
  else if 256 < bits (s.src b) 0 9 then fireFault s .tileSeq 0
  else fireTag s (tileArrive s s.actor.core r) .null [a, b] 0 s.tg fun _ x => x

end Sys2Proof.Machine
end

