-- ==== Sys2Proof/Machine/Engine.lean ====
section
/-! DEFINITION. The asynchronous engines: the commands an element sends, their acceptance, checks, accesses and reports; shadow windows, publishing and collectives (17 R322 to R335; 24 R428). -/
namespace Sys2Proof.Machine

/-- A firing of an engine command: POP is popped, and unless a READY head is an end token the command leaves on EMIT (17 R326). -/
def fireEngine (s : State) (kind : EngKind) (a b c : Word) : Out :=
  let x := s.actor
  if s.heads.any (·.e) then placeAll s s (trigPop s.trig) []
  else
    placeAll s s (trigPop s.trig)
      [(trigEmit s.trig, { ply := x.ply },
        some { word := s.actionWord, kind := kind, a := a, b := b, c := c, core := x.core, ply := x.ply, elem := x.elem, rule := x.rule
               before := (s.core x.core).fab.reqNo })]

/-- CPY (17 R323). -/
def execCpy (a b c : ESrc) (o : EngOpts) (s : State) : Out := fireEngine s (.cpy o) (s.src a) (s.src b) (s.src c)
/-- GATH (17 R323). -/
def execGath (a b c : ESrc) (o : EngOpts) (s : State) : Out := fireEngine s (.gath o) (s.src a) (s.src b) (s.src c)
/-- SCAT (17 R323). -/
def execScat (a b c : ESrc) (o : EngOpts) (s : State) : Out := fireEngine s (.scat o) (s.src a) (s.src b) (s.src c)
/-- FILLB (17 R323). -/
def execFillb (a b c : ESrc) (o : EngOpts) (s : State) : Out := fireEngine s (.fillb o) (s.src a) (s.src b) (s.src c)
/-- COLL (17 R323). -/
def execColl (a b c : ESrc) (o : EngOpts) (s : State) : Out := fireEngine s (.coll o) (s.src a) (s.src b) (s.src c)
/-- PUB, a publish (17 R323, R324). -/
def execPub (o : PubOpts) (s : State) : Out := fireEngine s (.pub o) 0 0 0
/-- PUB.def (17 R323, R333). -/
def execPubDef (a b c : ESrc) (o : PubOpts) (s : State) : Out := fireEngine s (.pubDef o) (s.src a) (s.src b) (s.src c)
/-- PUB.drop (17 R323, R334). -/
def execPubDrop (o : PubOpts) (s : State) : Out := fireEngine s (.pubDrop o) 0 0 0

/-- The rounding mode field of XFM (17 R324). -/
def xfmMode (o : EngOpts) : Rm := ([Rm.rne, .rtz, .rdn, .rup, .rna, .sr, .dyn][o.cf.toNat]?).getD .rne

/-- XFM: DYN takes FRM as it stands at the selection of the firing (17 R323, R331; 01 R17). -/
def execXfm (a b c : ESrc) (o : EngOpts) (s : State) : Out := fireEngine s (.xfm o (s.mode (xfmMode o))) (s.src a) (s.src b) (s.src c)

/-- GROUP of COLL (17 R332). -/
def collGroup (c : EngCmd) : Nat := bits c.c 40 12

/-- A command enters the queue of engine e of core k: it takes its place in acceptance order, and a COLL its number on its group (17 R322, R332, R334). -/
def acceptCmd (s : State) (k e : Nat) (c : EngCmd) : State :=
  let put (c : EngCmd) (x : Engine) : Engine := { x with queue := x.queue ++ [{ c with acc := (s.core k).nextEng }] }
  let s := s.modEngine k e fun x =>
    match c.kind with
    | .coll _ =>
      let n := Tab.look 0 x.colls (collGroup c)
      { put { c with num := n } x with colls := Tab.set x.colls (collGroup c) (n + 1) }
    | _ => put c x
  s.modCore k fun y => { y with nextEng := y.nextEng + 1 }

/-- A command enters its queue and takes its place in acceptance order, unless its ply is switched out (17 R322, R334; 21 R395). -/
def execEngineCommandAccept (core n : Nat) (s : State) : Out :=
  let fl := (s.core core).fab.flights
  match fl[n]? with
  | some { dst := .engine e, cmd := some c, .. } =>
    if e < 3 ∧ !(s.ply core c.ply).frozen ∧ (fl.take n).all (fun f => decide (f.dst ≠ .engine e)) then
      .next (acceptCmd (s.modFab core fun b => { b with flights := b.flights.eraseIdx n }) core e c)
    else .next s
  | _ => .next s

/-- The buffers an engine may read and write (11 R249). -/
def engReads : Nat → List Nat
  | 0 => [1, 2, 3, 4]
  | 1 => [1, 2, 3]
  | _ => [1, 4]
/-- See `engReads`. -/
def engWrites : Nat → List Nat
  | 0 => [1, 2, 4]
  | 1 => [1, 3]
  | _ => [1, 2]

/-- A space-tagged address with SPACE 0 whose bits [59:55] are zero (11 R248). -/
def unifiedOk (a : Nat) : Bool := decide (nbits a 55 5 = 0)

/-- One byte read by engine n of core k (11 R249; 04 R79). -/
def engByte (k n a : Nat) (s : State) : Mr Byte :=
  if nbits a 60 4 = 0 then
    if unifiedOk a then (vread s k a 1 .read true).andThen fun bs s => .ok (bs.headD 0) s else .fault 0x26 a s
  else
    let (c, sp, off) := bufCheck (s.core k) (engReads n) a
    if c ≠ 0 then .fault c a s
    else if bufBad s k sp off 1 then .fault 0x2F a s
    else .ok ((bufRead s k sp off 1).headD 0) s

/-- Bytes read by an engine, one after the other. -/
def engBytes (k n : Nat) : Nat → Nat → State → Mr (List Byte)
  | 0, _, s => .ok [] s
  | m + 1, a, s => (engByte k n a s).andThen fun b s => (engBytes k n m (a + 1) s).andThen fun bs s => .ok (b :: bs) s

/-- The VALID window whose target holds a space-tagged address, by its number; an address that R249 refuses lies in none (11 R249; 17 R333). -/
def windowOf (c : CoreSt) (a : Nat) : Option (Nat × Shadow) :=
  c.shadows.find? fun (_, w) => w.valid && decide (nbits a 19 41 = 0) && decide (nbits a 60 4 = w.space) && decide (w.base ≤ nbits a 0 19) && decide (nbits a 0 19 < w.base + w.len)

/-- The command that engine n of core k executes has written m bytes more (17 R327). -/
def wroteMore (s : State) (k n m : Nat) : State := s.modEngine k n fun e => { e with cur := e.cur.map fun c => { c with wrote := c.wrote + m } }

/-- A write of bytes within one aligned 8-byte word by engine n of core k; `win` is the window of a shadow write (11 R249, R250; 17 R333, R334) (log 22). -/
def engStore (k n : Nat) (win : Option Nat) (bs : List Byte) (a : Nat) (s : State) : Mr Unit :=
  match win with
  | some w =>
    if nbits a 60 4 ≠ 0 ∧ nbits a 19 41 ≠ 0 then .fault 0x26 a s else
    match windowOf (s.core k) a with
    | some (i, x) =>
      if i ≠ w then .fault 0x3A a s
      else if !((engWrites n).contains x.space) then .fault 0x26 a s
      else
        let off := nbits a 0 19
        let half := if x.flip then off else x.alt + (off - x.base)
        .ok () (s.modCore k fun c => c.setBuf x.space (putBytes (c.buf x.space) half bs))
    | none => .fault 0x3A a s
  | none =>
    if nbits a 60 4 = 0 then (if unifiedOk a then vwrite s k a bs true else .fault 0x26 a s)
    else
      let (c, sp, off) := bufCheck (s.core k) (engWrites n) a
      if c ≠ 0 then .fault c a s
      else .ok () (if sp = 4 then tsWrite s k off bs else bufPut (keepOlds s k sp off bs.length (engWriter n)) k sp off bs)

/-- Such a write, which counts among the bytes written once it is performed (17 R327). -/
def engPut (k n : Nat) (win : Option Nat) (bs : List Byte) (a : Nat) (s : State) : Mr Unit :=
  (engStore k n win bs a s).andThen fun _ s => .ok () (wroteMore s k n bs.length)

/-- A write of bytes by an engine, cut at aligned 8-byte words, in m pieces at most (log 22). -/
def engWrite (k n : Nat) (win : Option Nat) : Nat → List Byte → Nat → State → Mr Unit
  | 0, _, _, s => .ok () s
  | m + 1, bs, a, s =>
    if bs.isEmpty then .ok () s
    else
      let c := 8 - a % 8
      (engPut k n win (bs.take c) a s).andThen fun _ s => engWrite k n win m (bs.drop c) (a + c) s

/-- Two ranges of space-tagged addresses overlap (17 R328). -/
def overlaps (a n b m : Nat) : Bool := decide (0 < n) && decide (0 < m) && decide (a < b + m) && decide (b < a + n)

/-- SH of a command (17 R324). -/
def EngCmd.sh (c : EngCmd) : Bool :=
  match c.kind with
  | .cpy o | .gath o | .scat o | .fillb o | .coll o | .xfm o _ => o.sh
  | _ => false
/-- The release part of a command (17 R326); a publish has one (13 R304; 17 R334). -/
def EngCmd.rel (c : EngCmd) : Bool :=
  match c.kind with
  | .pub _ => true
  | .cpy o | .gath o | .scat o | .fillb o | .coll o | .xfm o _ => o.ord == .rel || o.ord == .ar
  | _ => false

/-- N of GATH and SCAT (17 R330). -/
def gathN (c : EngCmd) : Nat := bits c.c 40 24 + 1
/-- Bytes of an element of GATH and SCAT (17 R330). -/
def gathE (o : EngOpts) : Nat := 2 ^ (o.cf.toNat % 4)
/-- Bytes of an index of GATH and SCAT (17 R324, R330). -/
def gathIw (o : EngOpts) : Nat := if o.cf.toNat / 4 = 1 then 8 else 4

/-- COLS, ROWS, SPITCH, DPITCH and TR of XFM (17 R331). -/
def xfmShape (c : Word) : Nat × Nat × Nat × Nat × Bool := (bits c 0 12 + 1, bits c 12 12 + 1, bits c 24 15, bits c 39 15, bit c 54)
/-- A type code of XFM (17 R331). -/
def xfmTy (n : Nat) : Option Ty := if n < 14 then tyOf (BitVec.ofNat 4 n) else none
/-- Bytes of an element of a type. -/
def tyBytes (t : Ty) : Nat := t.width / 8

/-- Bytes an XFM reads from, and writes to, the start of its ranges on (17 R331). -/
def xfmSpans (c : Word) (es ed : Nat) : Nat × Nat :=
  let (cols, rows, sp, dp, tr) := xfmShape c
  ((rows - 1) * sp + cols * es, if tr then (cols - 1) * dp + rows * ed else (rows - 1) * dp + cols * ed)

/-- The whole destination of a shadow write lies in one VALID window, at its place (17 R334). -/
def shadowFits (c : CoreSt) (a n : Nat) : Bool :=
  match windowOf c a, windowOf c (a + n - 1) with
  | some (i, _), some (j, _) => decide (i = j)
  | _, _ => false

/-- The checks a shadow write to n bytes from a on begins with; an address that R249 refuses fails as an access, when that is made (17 R328, R334). -/
def shadowCheck (c : CoreSt) (x : EngCmd) (a n : Nat) : Option (Cause × Nat) :=
  if x.sh && (decide (nbits a 60 4 = 0) || decide (nbits a 19 41 = 0)) && !(shadowFits c a n) then some (.engineState, a) else none

/-- The first of two checks that fails. -/
def orElseCheck (a b : Option (Cause × Nat)) : Option (Cause × Nat) := if a.isSome then a else b

/-- The checks of CPY (17 R328, R329). -/
def cpyCheck (c : CoreSt) (x : EngCmd) : Option (Cause × Nat) :=
  if bits x.c 0 32 = 0 ∨ bits x.c 32 32 ≠ 0 then some (.engineFormat, x.c.toNat)
  else if overlaps x.a.toNat (bits x.c 0 32) x.b.toNat (bits x.c 0 32) then some (.engineFormat, x.a.toNat)
  else shadowCheck c x x.a.toNat (bits x.c 0 32)

/-- The checks of FILLB (17 R329). -/
def fillCheck (c : CoreSt) (x : EngCmd) : Option (Cause × Nat) :=
  if x.a.toNat % 8 ≠ 0 then some (.misaligned, x.a.toNat)
  else if bits x.c 0 32 % 8 ≠ 0 then some (.misaligned, x.c.toNat)
  else if bits x.c 0 32 = 0 ∨ bits x.c 32 32 ≠ 0 then some (.engineFormat, x.c.toNat)
  else shadowCheck c x x.a.toNat (bits x.c 0 32)

/-- The checks of GATH and SCAT before their first access (17 R330). -/
def gathForm (x : EngCmd) (o : EngOpts) : Option (Cause × Nat) :=
  if bits x.c 19 21 ≠ 0 then some (.engineFormat, x.c.toNat)
  else if bits x.c 0 19 % gathIw o ≠ 0 then some (.misaligned, tagged 1 (bits x.c 0 19))
  else none

/-- The address of element 0 of a SCAT, by the index that its list holds (17 R330). -/
def scatFirst (c : CoreSt) (x : EngCmd) (o : EngOpts) : Nat :=
  truncI ((x.a.toNat : Int) + sextN (ofBytesLE (getBytes c.ab (mapped c 1 (bits x.c 0 19)) (gathIw o))) (8 * gathIw o) * gathE o) 64

/-- The checks of XFM (17 R331). -/
def xfmCheck (c : CoreSt) (x : EngCmd) (rm : Rm) : Option (Cause × Nat) :=
  match xfmTy (bits x.c 56 4), xfmTy (bits x.c 60 4) with
  | some ts, some td =>
    let (n, m) := xfmSpans x.c (tyBytes ts) (tyBytes td)
    if bit x.c 55 ∨ rm = .sr then some (.engineFormat, x.c.toNat)
    else if overlaps x.a.toNat m x.b.toNat n then some (.engineFormat, x.a.toNat)
    else shadowCheck c x x.a.toNat m
  | _, _ => some (.engineFormat, x.c.toNat)

/-- A window as PUB.def sets it (17 R333). -/
def defWindow (x : EngCmd) : Shadow :=
  { valid := true, space := bits x.a 60 4, base := bits x.a 0 19, alt := bits x.c 0 19, len := bits x.b 0 19 }

/-- Two windows share a byte of a half. -/
def windowsMeet (a b : Shadow) : Bool :=
  decide (a.space = b.space) &&
  (overlaps a.base a.len b.base b.len || overlaps a.base a.len b.alt b.len || overlaps a.alt a.len b.base b.len || overlaps a.alt a.len b.alt b.len)

/-- The checks of PUB.def (17 R333). -/
def defCheck (c : CoreSt) (x : EngCmd) (w : Nat) : Option (Cause × Nat) :=
  let y := defWindow x
  if (Tab.look {} c.shadows w).valid then some (.engineState, x.a.toNat)
  else if !([1, 2, 4].contains y.space) ∨ bits x.a 19 41 ≠ 0 ∨ y.base % 256 ≠ 0 then some (.engineFormat, x.a.toNat)
  else if bits x.b 19 45 ≠ 0 ∨ y.len % 256 ≠ 0 ∨ y.len = 0 ∨ bufSize y.space < y.base + y.len then some (.engineFormat, x.b.toNat)
  else if bits x.c 19 45 ≠ 0 ∨ y.alt % 256 ≠ 0 ∨ bufSize y.space < y.alt + y.len ∨ overlaps y.base y.len y.alt y.len ∨
      (c.shadows.any fun (_, z) => z.valid && windowsMeet y z) then some (.engineFormat, x.c.toNat)
  else none

/-- The checks on register values that a command begins with (17 R328); the elements of a SCAT are held to their window as they are written (R334). A publish of a window that is not VALID is refused as a use of it would be. -/
def beginCheck (c : CoreSt) (x : EngCmd) : Option (Cause × Nat) :=
  match x.kind with
  | .cpy _ => cpyCheck c x
  | .fillb _ => fillCheck c x
  | .gath o => orElseCheck (gathForm x o) (shadowCheck c x x.a.toNat (gathN x * gathE o))
  | .scat o => gathForm x o
  | .xfm _ rm => xfmCheck c x rm
  | .pubDef o => defCheck c x o.w.val
  | .pub o | .pubDrop o => if (Tab.look {} c.shadows o.w.val).valid then none else some (.engineState, o.w.val)
  | .coll _ | .none => none

/-- The window that a publish or a drop acts on, and those a command writes the shadow of (17 R334). -/
def EngCmd.pubs (x : EngCmd) : Option Nat :=
  match x.kind with
  | .pub o | .pubDrop o => some o.w.val
  | _ => none
/-- The window whose shadow a command with SH writes: that of its first destination byte, which for a SCAT is that of element 0, and none of the four, numbered 4, where that lies in none (17 R334) (log 79). -/
def EngCmd.shadows (c : CoreSt) (x : EngCmd) : Option Nat :=
  if x.sh then some (((windowOf c (match x.kind with
    | .scat o => scatFirst c x o
    | _ => x.a.toNat)).map Prod.fst).getD 4) else none

/-- The commands of a core that are accepted and not complete. -/
def engOpen (c : CoreSt) : List EngCmd := (c.engines.map Prod.snd).flatMap fun e => e.queue ++ e.cur.toList ++ e.held

/-- A command waits for another of the core by R334: a publish for earlier shadow writes, a shadow write for an earlier publish. -/
def shadowWaits (c : CoreSt) (x : EngCmd) : Bool :=
  (engOpen c).any fun y => decide (y.acc < x.acc) &&
    ((x.pubs.isSome && decide (y.shadows c = x.pubs)) || (y.pubs.isSome && decide (x.shadows c = y.pubs)))

/-- Every request of its element and ply that was selected before a command is performed (13 R299; 17 R326). -/
def EngCmd.after (f : Fabric) (x : EngCmd) : Bool := (f.reqsIn x.ply x.elem).all fun y => decide (x.before ≤ y.no) || !y.open_

/-- A command's release part is met: the requests of its element and ply that were selected before it have left, with their completion tokens (17 R326). -/
def releaseMet (c : CoreSt) (x : EngCmd) : Bool := !x.rel || (c.fab.reqsIn x.ply x.elem).all fun y => decide (x.before ≤ y.no)

/-- The next command of an engine's queue: the first whose ply has no failed command there (17 R322, R328). -/
def nextCmd (e : Engine) : Option (Nat × EngCmd) :=
  (e.queue.zipIdx.find? fun (c, _) => !(e.held.any fun h => decide (h.ply = c.ply) && decide (c.elem < 64))).map fun (c, i) => (i, c)

/-- Command i of an engine's queue begins. -/
def beginCmd (s : State) (k n i : Nat) (c : EngCmd) : State :=
  s.modEngine k n fun e => { e with queue := e.queue.eraseIdx i, cur := some c }

/-- A command fails: its cause is raised for the region of its ply and it awaits the decision; a remote one, or one whose ply is gone, only reports (17 R328, R335). -/
def failCmd (s : State) (k n : Nat) (c : EngCmd) (code : Cause) (tval : Nat) : State :=
  let s := s.modEngine k n fun e => { e with cur := none }
  let x := { c with code := code.code, prog := 0, done := false, res := [], peers := [], peerFault := none }
  if c.elem = 64 ∨ c.gone then report s k n x
  else
    raiseFault (s.modEngine k n fun e => { e with held := e.held ++ [x] })
      { core := k, ply := c.ply, ctx := (s.ply k c.ply).ctx, src := 3, unit := n, node := c.elem, elem := some c.elem
        cause := code.code, cls := Cause.cls code, tval := tval, detail := bits c.word 0 14 }

/-- The entry of a collective group: NMEM and the members' words (24 R428). -/
def groupEntry (s : State) (p g : Nat) : List Nat × State :=
  let base := (s.part p).collbase.toNat + 256 * g
  let (bs, s) := iodRead s base 256
  let n := ((bs[0]?).map (·.toNat)).getD 0
  ((List.range n).map fun i => ofBytesLE ((bs.drop (16 + 4 * i)).take 4), s)

/-- A member's word names a core of this package (24 R428) (log 79). -/
def memberCore (w : Nat) : Option Nat := if w.testBit 31 then none else some (nbits w 14 2 * 128 + nbits w 7 7)

/-- The way of core k's engine to the entry of a collective group (23 R406; 24 R428). -/
def groupWay (s : State) (k g : Nat) : Crossing := reaching s (dieOf k) ((s.part (s.partOf k)).collbase.toNat + 256 * g)

/-- An engine begins its next command: release part, shadow order, then the checks of R328. A collective only shows here that the core is no member (17 R322, R326, R328, R332, R334). -/
def execEngineCommandBegin (core eng : Nat) (s : State) : Out :=
  let e := (s.core core).engine eng
  match e.cur, nextCmd e with
  | none, some (i, c) =>
    if !(releaseMet (s.core core) c) || shadowWaits (s.core core) c then .next s
    else
      match c.kind with
      | .coll _ =>
        if groupWay s core (collGroup c) = .held then .next s
        else if groupWay s core (collGroup c) = .down then .next (failCmd (beginCmd s core eng i c) core eng c .linkDown c.c.toNat) else
        let (ms, s) := groupEntry s (s.partOf core) (collGroup c)
        if ms.any fun w => decide (memberCore w = some core) then .next s
        else .next (failCmd (beginCmd s core eng i c) core eng c .engineState c.c.toNat)
      | _ =>
        match beginCheck (s.core core) c with
        | some (x, v) => .next (failCmd (beginCmd s core eng i c) core eng c x v)
        | none => .next (beginCmd s core eng i c)
  | _, _ => .next s

/-- The answer of an engine's accesses: done, failed, or a wait with the command as far as it got. -/
inductive EngRes
  | done (c : EngCmd) (s : State)
  | failed (code tval : Nat) (c : EngCmd) (s : State)
  | wait (c : EngCmd) (s : State)

/-- The units of a command from its progress on, m of them at most (17 R328). -/
def engUnits (unit : Nat → State → Mr Unit) : Nat → EngCmd → State → EngRes
  | 0, c, s => .done c s
  | m + 1, c, s =>
    match unit c.prog s with
    | .ok _ s => engUnits unit m { c with prog := c.prog + 1 } s
    | .fault x t s => .failed x t c s
    | .wait s => .wait c s

/-- Piece i of a run of n bytes from a on, cut at aligned 8-byte words: its offset in the run and its length. -/
def pieceOf (a n i : Nat) : Nat × Nat :=
  let lo := if i = 0 then 0 else 8 * i - a % 8
  (lo, min n (8 * (i + 1) - a % 8) - lo)
/-- The pieces of a run. -/
def pieces (a n : Nat) : Nat := cdiv (a % 8 + n) 8

/-- One piece of CPY (17 R329). -/
def cpyUnit (k n : Nat) (win : Option Nat) (c : EngCmd) (i : Nat) (s : State) : Mr Unit :=
  let (lo, len) := pieceOf c.a.toNat (bits c.c 0 32) i
  (engBytes k n len (c.b.toNat + lo) s).andThen fun bs s => engPut k n win bs (c.a.toNat + lo) s

/-- One word of FILLB (17 R329). -/
def fillUnit8 (k n : Nat) (win : Option Nat) (c : EngCmd) (i : Nat) (s : State) : Mr Unit :=
  engPut k n win (bytesLE c.b.toNat 8) (c.a.toNat + 8 * i) s

/-- Index i of GATH or SCAT (17 R330). -/
def gathIndex (k n : Nat) (c : EngCmd) (o : EngOpts) (i : Nat) (s : State) : Mr Int :=
  (engBytes k n (gathIw o) (tagged 1 (bits c.c 0 19) + i * gathIw o) s).andThen fun bs s => .ok (sextN (ofBytesLE bs) (8 * gathIw o)) s

/-- One element of GATH or SCAT: its destination must not meet what the command reads, which is its source, the whole list and a SCAT's whole source, nor its source what a GATH writes (17 R328, R330) (log 79). -/
def gathUnit (k n : Nat) (win : Option Nat) (c : EngCmd) (o : EngOpts) (scat : Bool) (i : Nat) (s : State) : Mr Unit :=
  (gathIndex k n c o i s).andThen fun x s =>
    let e := gathE o
    let far := truncI ((if scat then c.a.toNat else c.b.toNat : Nat) + x * e) 64
    let near := (if scat then c.b.toNat else c.a.toNat) + i * e
    let (dst, src) := if scat then (far, near) else (near, far)
    let whole := if scat then c.b.toNat else c.a.toNat
    if overlaps far e whole (gathN c * e) || overlaps dst e (tagged 1 (bits c.c 0 19)) (gathN c * gathIw o) then .fault 0x39 c.a.toNat s
    else (engBytes k n e src s).andThen fun bs s => engWrite k n win 9 bs dst s

/-- One element of XFM (17 R331). -/
def xfmUnit (k n : Nat) (win : Option Nat) (c : EngCmd) (rm : Rm) (ts td : Ty) (i : Nat) (s : State) : Mr Unit :=
  let (cols, _, sp, dp, tr) := xfmShape c.c
  let r := i / cols
  let q := i % cols
  let dst := c.a.toNat + (if tr then q * dp + r * tyBytes td else r * dp + q * tyBytes td)
  (engBytes k n (tyBytes ts) (c.b.toNat + r * sp + q * tyBytes ts) s).andThen fun bs s =>
    engWrite k n win 9 (bytesLE (convLane ts td rm 0 (ofBytesLE bs)) (tyBytes td)) dst s

/-- One piece of a collective's result, written at a member (17 R332). -/
def collUnit (k n : Nat) (win : Option Nat) (c : EngCmd) (i : Nat) (s : State) : Mr Unit :=
  let (lo, len) := pieceOf c.a.toNat c.res.length i
  engPut k n win ((c.res.drop lo).take len) (c.a.toNat + lo) s

/-- The accesses of a command that has begun (17 R329 to R331, R333, R334). -/
def engRun (k n : Nat) (c : EngCmd) (s : State) : EngRes :=
  let win := c.shadows (s.core k)
  match c.kind with
  | .cpy _ => engUnits (cpyUnit k n win c) (pieces c.a.toNat (bits c.c 0 32) - c.prog) c s
  | .fillb _ => engUnits (fillUnit8 k n win c) (bits c.c 0 32 / 8 - c.prog) c s
  | .gath o => engUnits (gathUnit k n win c o false) (gathN c - c.prog) c s
  | .scat o => engUnits (gathUnit k n win c o true) (gathN c - c.prog) c s
  | .xfm _ rm =>
    match xfmTy (bits c.c 56 4), xfmTy (bits c.c 60 4) with
    | some ts, some td =>
      let (cols, rows, _) := xfmShape c.c
      engUnits (xfmUnit k n win c rm ts td) (cols * rows - c.prog) c s
    | _, _ => .done c s
  | .pubDef o => .done c (s.modCore k fun x => { x with shadows := Tab.set x.shadows o.w.val (defWindow c) })
  | .pubDrop o => .done c (s.modCore k fun x => { x with shadows := Tab.mod {} x.shadows o.w.val fun w => { w with valid := false } })
  | .coll _ =>
    let m := pieces c.a.toNat c.res.length
    (match c.peerFault with
     | none => engUnits (collUnit k n win c) (m - c.prog) c s
     | some f => (match engUnits (collUnit k n win c) (min f m - c.prog) c s with
       | .done c s => .failed 0x3A c.a.toNat c s
       | r => r))
  | .pub _ | .none => if c.done then .done c s else .wait c s

/-- Completion tokens leave by the outgoing route where it has room (17 R327). -/
def flushTokens (s : State) (k n : Nat) : State :=
  match ((s.core k).engine n).toks with
  | [] => s
  | t :: ts =>
    match sendFrom s k t.ply (.engine n) t none with
    | some s => s.modEngine k n fun e => { e with toks := ts }
    | none => s

/-- The bytes that the command of an engine has written (17 R327). -/
def wroteAt (s : State) (k n : Nat) : Nat := (((s.core k).engine n).cur.map (·.wrote)).getD 0

/-- The members of a collective but core k that still execute it, with their commands (17 R332). -/
def collOthers (s : State) (k : Nat) (c : EngCmd) : List (Nat × EngCmd) :=
  (c.peers.filter (· ≠ k)).filterMap fun p => ((s.core p).engine 1).cur.bind fun d =>
    if d.peers = c.peers ∧ d.num = c.num ∧ collGroup d = collGroup c then some (p, d) else none

/-- The cause of a failed access of an engine. -/
def engCause (x : Nat) : Cause := if x = 0x39 then .engineFormat else if x = 0x3A then .engineState else causeOf x

/-- TVAL of a failed access: the faulting address, or the offending register for ENGINE_FORMAT and ENGINE_STATE, the destination's (17 R328). -/
def engTval (x t : Nat) (c : EngCmd) : Nat := if x = 0x39 ∨ x = 0x3A then c.a.toNat else t

/-- Commands fail, each named by its core and engine, with its cause and TVAL, in ascending core order (21 R378). -/
def failInOrder (s : State) (l : List (Nat × Nat × EngCmd × Cause × Nat)) : State :=
  (sortBy (fun a b => decide (a.1 < b.1)) l).foldl (fun s (k, n, c, x, t) => failCmd s k n c x t) s

/-- A command fails in its accesses, and with it every other member of its collective (17 R328, R332). -/
def failAll (s : State) (k n : Nat) (c : EngCmd) (x t : Nat) : State :=
  failInOrder s ((k, n, c, engCause x, engTval x t c) :: (collOthers s k c).map fun y => (y.1, 1, { y.2 with wrote := wroteAt s y.1 1 }, .engineState, y.2.c.toNat))

/-- A command completes: what it wrote is performed, and it reports (08 R204; 17 R326, R327). -/
def completeCmd (s : State) (k n : Nat) (c : EngCmd) : State :=
  flushTokens (report ((dropOlds s k (engWriter n)).modEngine k n fun e => { e with cur := none }) k n c) k n

/-- A command runs to its end and reports, or fails; a member of a collective waits for the others to have written; a completion token that waited for room leaves (17 R326 to R328, R332). -/
def execEngineCommandComplete (core eng : Nat) (s : State) : Out :=
  let s := flushTokens s core eng
  match ((s.core core).engine eng).cur with
  | none => .next s
  | some c =>
    match engRun core eng c s with
    | .done c s =>
      let c := { c with wrote := wroteAt s core eng, done := true }
      if (collOthers s core c).all (·.2.done) then .next (completeCmd s core eng c)
      else .next (s.modEngine core eng fun e => { e with cur := some c })
    | .failed x t c s => .next (failAll s core eng { c with wrote := wroteAt s core eng } x t)
    | .wait c s => .next (s.modEngine core eng fun e => { e with cur := some { c with wrote := wroteAt s core eng } })

/-- The target of a window is written in one: of the tile store, the slots whose headers lie in it take the header rule (12 R288; 13 R304). -/
def publishHeaders (s : State) (k : Nat) (w : Shadow) : State :=
  if w.space = 4 then (headersIn w.base w.len).foldl (fun s i => headerWritten s k i) s else s

/-- A publish that has begun inverts FLIP of its window, once the shadow writes before it are complete (12 R288; 17 R334). -/
def execPubFlip (core eng : Nat) (s : State) : Out :=
  match ((s.core core).engine eng).cur with
  | some c =>
    match c.kind with
    | .pub o =>
      if c.done then .next s
      else
        .next (publishHeaders
          ((s.modCore core fun x => { x with shadows := Tab.mod {} x.shadows o.w.val fun w => { w with flip := !w.flip } }).modEngine core eng
            fun e => { e with cur := some { c with done := true } }) core (Tab.look {} (s.core core).shadows o.w.val))
    | _ => .next s
  | none => .next s

/-- The operation of a COLL (17 R324). -/
def collOp (c : EngCmd) : Nat :=
  match c.kind with
  | .coll o => o.cf.toNat
  | _ => 0

/-- What the members of a collective must agree on: operation, T, LEN and ROOT (17 R332). -/
def collShape (c : EngCmd) : Nat × Nat × Nat × Nat := (collOp c, bits c.c 56 4, bits c.c 0 32, bits c.c 32 8)

/-- The checks on the register values of a collective of n members (17 R332). -/
def collCheck (k : CoreSt) (c : EngCmd) (n : Nat) : Option (Cause × Nat) :=
  let (op, t, len, root) := collShape c
  let out := if op = 1 then len * n else len
  if bits c.c 52 4 ≠ 0 ∨ bits c.c 60 4 ≠ 0 then some (.engineFormat, c.c.toNat)
  else if op = 0 ∧ n ≤ root then some (.engineFormat, c.c.toNat)
  else if 2 ≤ op ∧ (0xB < t ∨ len % 8 ≠ 0) then some (.engineFormat, c.c.toNat)
  else if overlaps c.a.toNat out c.b.toNat len then some (.engineFormat, c.a.toNat)
  else shadowCheck k c c.a.toNat out

/-- The way to a member in another package: the port that PEERRT names for it, which a route that is not valid leaves without (24 R420, R427) (log 79). -/
def peerWay (s : State) (w : Nat) : Crossing :=
  if w.testBit 31 then (let r := Tab.look 0 s.iod.peerrt (nbits w 16 12); if r.testBit 4 then portWay s (nbits r 0 4) else .down) else .clear

/-- The command of each member of a group in member order: none for a member in another package (24 R428). -/
def collMembers (ms : List Nat) (l : List (Nat × EngCmd)) : List (Option (Nat × EngCmd)) :=
  ms.map fun w => (memberCore w).bind fun k => l.find? fun x => decide (x.1 = k)

/-- What the members in other packages bring to a collective as it begins: 0 where a command of theirs is still to come, 1 where theirs differs in what is exchanged, 2 where a member of theirs will fail, after so many pieces of the result here; 3 where nothing stands against it. With no such member it is 3 (24 R428; free, log 79). -/
def peersSay (far : Bool) (s : State) : Nat × Option Nat × State :=
  if far then
    let (bs, s) := freeBytes s 5
    let v := ofBytesLE (bs.take 1) % 4
    (v, if v = 2 then some (ofBytesLE (bs.drop 1)) else none, s)
  else (3, none, s)

/-- The sources of the members, read in member order: each failure names its member. What a member in another package sends is free (17 R332; 24 R428) (log 79). -/
def collRead (len : Nat) : List (Option (Nat × EngCmd)) → State → Sum (List (List Byte) × State) (Option (Nat × Nat × Nat) × State)
  | [], s => .inl ([], s)
  | none :: l, s =>
    let (bs, s) := freeBytes s len
    (match collRead len l s with
     | .inl (r, s) => .inl (bs :: r, s)
     | .inr e => .inr e)
  | some (k, c) :: l, s =>
    match engBytes k 1 (bits c.c 0 32) c.b.toNat s with
    | .wait s => .inr (none, s)
    | .fault x t s => .inr (some (k, x, t), s)
    | .ok bs s =>
      match collRead len l s with
      | .inl (r, s) => .inl (bs :: r, s)
      | .inr e => .inr e

/-- Lane by lane over the doublewords of every source (07 R179; 17 R332). -/
def collReduce (op : Nat) (t : Ty) (l : List (List Byte)) (n : Nat) : List Byte :=
  (List.range n).flatMap fun i =>
    let ws := l.map fun bs => w64 (ofBytesLE ((bs.drop (8 * i)).take 8))
    bytesLE (if op = 2 then redSumLanes t ws else redLanes t (pickLane t (decide (op = 4))) ws).toNat 8

/-- The result that every member gets (17 R332). -/
def collResult (c : EngCmd) (l : List (List Byte)) : List Byte :=
  let (op, t, len, root) := collShape c
  match op with
  | 0 => (l[root]?).getD []
  | 1 => l.flatten
  | _ => collReduce op ((tyOf (BitVec.ofNat 4 t)).getD .i8) l (len / 8)

/-- Every member's command leaves its queue as the one that has begun, with the result, the members and the fault that a member in another package will have (17 R332; 24 R428). -/
def collBegin (s : State) (l : List (Nat × EngCmd)) (res : List Byte) (pf : Option Nat) : State :=
  l.foldl (fun s (k, c) => s.modEngine k 1 fun e => { e with queue := e.queue.erase c, cur := some { c with res := res, peers := l.map Prod.fst, peerFault := pf } }) s

/-- Every member fails: the one named with its own cause, the others with a common one (17 R332). -/
def collFail (s : State) (l : List (Nat × EngCmd)) (own : Option (Nat × Cause × Nat)) (rest : Cause) : State :=
  failInOrder (collBegin s l [] none) (l.map fun (k, c) =>
    match own with
    | some (m, x, t) => if m = k then (k, 1, c, x, t) else (k, 1, c, rest, c.c.toNat)
    | none => (k, 1, c, rest, c.c.toNat))

/-- The next command of the collective engine of a core where it is a COLL on group g whose release part is met (17 R326, R332) (log 79). -/
def collReady (s : State) (g k : Nat) : Option (Nat × EngCmd) :=
  let e := (s.core k).engine 1
  match e.cur, nextCmd e with
  | none, some (_, c) =>
    (match c.kind with
     | .coll _ => if collGroup c = g ∧ releaseMet (s.core k) c ∧ !(shadowWaits (s.core k) c) ∧ groupWay s k g = .clear then some (k, c) else none
     | _ => none)
  | _, _ => none

/-- A collective whose members of this package agree, and whose peers have no objection: it is checked, every source is read, and it begins (17 R332; 24 R428). -/
def collStart (s1 : State) (ms : List Nat) (l : List (Nat × EngCmd)) (c : EngCmd) (pf : Option Nat) : State :=
  match l.findSome? (fun (k, d) => (collCheck (s1.core k) d ms.length).map fun x => (k, x)) with
  | some x => collFail s1 l (some x) .engineState
  | none =>
    match collRead (bits c.c 0 32) (collMembers ms l) s1 with
    | .inr (none, s) => s
    | .inr (some (k, x, t), s) => collFail s l (some (k, engCause x, t)) .engineState
    | .inl (src, s) => collBegin s l (collResult c src) pf

/-- A collective begins when every member's command of one number has been accepted: the members are checked and every source is read; each member then writes the result. A local member that is no core of the partition is not waited for: every member fails. Members of other packages exchange theirs over the peer ports (17 R332; 24 R427, R428) (log 79). -/
def execCollectiveBegin (part group : Nat) (s : State) : Out :=
  let (ms, s1) := groupEntry s part group
  let cores := ms.filterMap memberCore
  let own := cores.filter fun k => decide (s1.partOf k = part)
  let l := own.filterMap (collReady s1 group)
  if own = [] ∨ l.length ≠ own.length then .next s
  else
    match l with
    | [] => .next s
    | (_, c) :: _ =>
      if l.any fun (_, d) => decide (d.num ≠ c.num) then .next s
      else if own.length ≠ cores.length then .next (collFail s1 l none .engineState)
      else if ms.any fun w => decide (peerWay s1 w = .held) then .next s
      else if ms.any fun w => decide (peerWay s1 w = .down) then .next (collFail s1 l none .linkDown)
      else if l.any fun (_, d) => decide (collShape d ≠ collShape c) then .next (collFail s1 l none .collMismatch)
      else
        let (say, pf, s2) := peersSay (decide (cores.length ≠ ms.length)) s1
        if say = 0 then .next { s with fresh := s2.fresh }
        else if say = 1 then .next (collFail s2 l none .collMismatch)
        else .next (collStart s2 ms l c pf)

end Sys2Proof.Machine
end

