-- ==== Sys2Proof/Machine/EvStream.lean ====
section
/-! DEFINITION. Events of the stream ports: elements, fills and write-backs of their windows, and the end of a command (11 R256, R257; 12 R267 to R271; 13 R303; 15 R315). -/
namespace Sys2Proof.Machine

/-- Elements from e on, in its row, that lie in the line of address a (12 R268; 11 R257). -/
def SDesc.inLine (d : SDesc) (e : Nat) (a : Int) : Nat :=
  let row := d.n0 - e % d.n0
  let o := (a % 128).toNat
  if d.st0 = 0 then row
  else if 0 < d.st0 then min row ((127 - o) / d.st0.toNat + 1)
  else min row (o / (-d.st0).toNat + 1)

/-- The first element from e on that lies outside the line (11 R257; 13 R303). -/
def SDesc.afterLine (d : SDesc) (line : Int) : Nat → Nat → Nat
  | 0, e => e
  | n + 1, e =>
    if d.elem e / 128 = line ∧ e < d.n0 * d.n1 * d.n2 then SDesc.afterLine d line n (e + d.inLine e (d.elem e)) else e

/-- A port fails at its element: FAULTED, and the cause goes to the region (12 R271; 21 R379). -/
def streamFault (s : State) (k n : Nat) (r : SRun) (code tval : Nat) : State :=
  fabricFault (s.modStream k n fun p => { p with faulted := true }) k r.cmd.ply 2 n (64 + n) none (causeOf code) tval r.e

/-- The end of an access of a stream port: go on, fail at the element, or stay where a host or a page lock is awaited. -/
def Mr.stream {α : Type} (x : Mr α) (k n : Nat) (r : SRun) (f : α → State → Out) : Out :=
  match x with
  | .ok v s => f v s
  | .fault c t s => .next (streamFault s k n r c t)
  | .wait s => .next s

/-- A port puts a token on its outgoing route, where that and the edge meter have room (05 R107; 23 R410). -/
def streamSend (s : State) (k n q : Nat) (t : Token) : Option State :=
  if meterOpen s k then (sendFrom s k q (.stream n) t none).map fun s => meterCount s k else none

/-- The run of a port after element e: its last element, and whether an end token is then due (12 R269). -/
def SRun.past (r : SRun) : SRun :=
  let last := decide (r.cmd.desc.count = some (r.e + 1))
  { r with e := r.e + 1, last := last, eosDue := last && r.cmd.desc.eos }

/-- The run of a port that an end token ends early (12 R269). -/
def SRun.cut (r : SRun) : SRun := { r with last := true, eosDue := r.cmd.desc.eos && !r.cmd.desc.write }

/-- s with the run of a port replaced. -/
def setRun (s : State) (k n : Nat) (r : SRun) : State := s.modStream k n fun p => { p with run := some r }

/-- s with ERR of a port set where x holds. -/
def setErr (s : State) (k n : Nat) (x : Bool) : State := s.modStream k n fun p => { p with err := p.err || x }

/-- The oldest token of a ply leaves a port, which then translates afresh (15 R315). -/
def popStream (s : State) (k n q : Nat) : State := s.modStream k n fun p => { p with toks := p.toks.eraseP (fun t => decide (t.ply = q)), reached := none }

/-- An end token that ends the command early is popped (12 R269). -/
def endEarly (s : State) (k n : Nat) (r : SRun) (t : Token) : State := setRun (setErr (popStream s k n r.cmd.ply) k n t.x) k n r.cut

/-- The data of a token that an element's bytes become (12 R269). -/
def streamData (d : SDesc) (bs : List Byte) : Word := if d.sext then wI (sextN (ofBytesLE bs) (8 * d.esz)) else w64 (ofBytesLE bs)

/-- An element read: its token leaves; with an uncorrectable byte an end token with X leaves in its place, ERR is set and the cause goes to the region (12 R269, R271). -/
def sendElem (s s0 : State) (k n : Nat) (r : SRun) (bs : List Byte) (bad : Bool) (tval : Nat) : Out :=
  let t : Token := if bad then { ply := r.cmd.ply, e := true, x := true } else { data := streamData r.cmd.desc bs, ply := r.cmd.ply }
  match streamSend s k n r.cmd.ply t with
  | none => .next s0
  | some s =>
    let s := setRun s k n r.past
    if bad then .next (fabricFault (setErr s k n true) k r.cmd.ply 2 n (64 + n) none .memUncorrectable tval r.e) else .next s

/-- The check of n bytes of a buffer at the tagged address a (11 R249). -/
def bufSpan (c : CoreSt) (ok : List Nat) (a n : Nat) : Nat × Nat × Nat :=
  match bufCheck c ok a with
  | (0, sp, off) => match bufCheck c ok (a + n - 1) with
    | (0, _, _) => (0, sp, off)
    | (e, _, _) => (e, sp, off)
  | r => r

/-- Where n bytes at an exact offset of space sp lie for a stream port, with the address that a fault reports: an offset outside 60 bits sets bits that the tagged address requires to be zero (11 R249; 12 R268, R271). -/
def streamSpan (c : CoreSt) (write : Bool) (sp : Nat) (a : Int) (n : Nat) : (Nat × Nat × Nat) × Nat :=
  let ta := tagged sp (truncI a 60)
  (if 0 ≤ a ∧ a < 2 ^ 60 then bufSpan c (streamSpaces write) ta n else (0x26, sp, 0), ta)

/-- An element of an affine read (12 R269; 13 R303). -/
def readElem (s : State) (k n : Nat) (r : SRun) : Out :=
  let d := r.cmd.desc
  let a := d.elem r.e
  if d.space = 0 then
    let ls := ((s.core k).stream n).lineAt (vaOf a)
    match ls with
    | [] => .next s
    | l :: _ =>
      let o := vaOf a % 128
      sendElem (s.modStream k n fun p => { p with lines := ls }) s k n r (getBytes l.bytes o d.esz) ((List.range d.esz).any fun i => l.bad.contains (o + i)) (vaOf a)
  else
    match streamSpan (s.core k) false d.space a d.esz with
    | ((0, sp, off), ta) => sendElem s s k n r (bufRead s k sp off d.esz) (bufBad s k sp off d.esz) ta
    | ((c, _, _), ta) => .next (streamFault s k n r c ta)

/-- The start of the line that holds a location. -/
def Loc.line : Loc → Loc
  | .plain pa => .plain (pa / 128 * 128)
  | .comp d o => .comp d (o / 128 * 128)

/-- A line of a window at a location. -/
def lineOf (va : Nat) (l : Loc) : WLine :=
  match l.line with
  | .plain pa => { va := va / 128 * 128, at_ := pa }
  | .comp d o => { va := va / 128 * 128, cmp := true, at_ := d, off := o }

/-- Where the bytes of a line lie. -/
def WLine.loc (l : WLine) : Loc := if l.cmp then .comp l.at_ l.off else .plain l.at_

/-- Lines that a window of 4 KiB holds (11 R257). -/
def windowLines : Nat := 32

/-- A page that a write may enter: not BROKEN, and waited for while locked (11 R262, R263). -/
def writeOpen (s : State) (k va : Nat) (l : Loc) : Mr Unit :=
  match l with
  | .plain _ => .ok () s
  | .comp d o => (cmpCheck s k d o va).andThen fun _ s => .ok () s

/-- Bytes that a write enters in a line, zeros listed too. -/
def enterBytes (t : Tab Byte) (a : Nat) : List Byte → Tab Byte
  | [] => t
  | b :: bs => enterBytes (Tab.set t a b) (a + 1) bs

/-- Bytes enter the window of a write port at its HEAD (11 R257); none where it is full. -/
def intoWindow (p : SPort) (va : Nat) (l : Loc) (bs : List Byte) : Option SPort :=
  let put (x : WLine) : WLine := { x with bytes := enterBytes x.bytes (va % 128) bs }
  match p.lines.getLast? with
  | some x =>
    if x.va = va / 128 * 128 then some { p with lines := p.lines.dropLast ++ [put x] }
    else if windowLines ≤ p.lines.length then none
    else some { p with lines := p.lines ++ [put (lineOf va l)] }
  | none => some { p with lines := [put (lineOf va l)] }

/-- FULL bits that a write of n bytes of AB with MARK sets (08 R185; 12 R269). -/
def markFull (s : State) (k off n : Nat) : State :=
  ((List.range n).filter fun i => decide ((off + i) % 256 = 255)).foldl (fun s i => s.modMx k fun m => { m with full := Tab.put false m.full ((off + i) / 256) true }) s

/-- Bytes that port n writes go into a typed buffer (08 R204; 12 R269). -/
def streamBuf (s : State) (k n : Nat) (d : SDesc) (off : Nat) (bs : List Byte) : State :=
  let s := bufPut (keepOlds s k d.space off bs.length n) k d.space off bs
  if d.mark ∧ d.space = 1 then markFull s k off bs.length else s

/-- The index of an indirect element from its token (12 R268). -/
def indexOf (d : SDesc) (t : Token) : Int := if d.iw then sextN t.data.toNat 64 else sextN t.data.toNat 32

/-- The pieces of n bytes at va, each within one line. -/
def linePieces (va n : Nat) : List (Nat × Nat) :=
  let m := min n (128 - va % 128)
  if m = n then [(va, n)] else [(va, m), (va + m, n - m)]

/-- Where each piece of an indirect element lies (11 R256). -/
def reachPieces (k n : Nat) (write : Bool) : List (Nat × Nat) → State → Mr (List (Nat × Loc × Nat))
  | [], s => .ok [] s
  | (va, m) :: rest, s =>
    (streamReach s k n va va write).andThen fun l s =>
      (if write then writeOpen s k va l else .ok () s).andThen fun _ s =>
        (reachPieces k n write rest s).andThen fun ls s => .ok ((va, l, m) :: ls) s

/-- Where the next element of a write goes: translated already, or now; the translation stands until the element's token is popped (15 R315). -/
def reachOnce (s : State) (k n : Nat) (f : State → Mr (List (Nat × Loc × Nat))) : Mr (List (Nat × Loc × Nat)) :=
  match ((s.core k).stream n).reached with
  | some l => .ok l s
  | none => (f s).andThen fun l s => .ok l (s.modStream k n fun p => { p with reached := some l })

/-- An element of an affine write: its address translates first, then its token is popped (12 R269; 15 R315). -/
def writeElem (s : State) (k n : Nat) (r : SRun) : Out :=
  let d := r.cmd.desc
  let q := r.cmd.ply
  let a := d.elem r.e
  let take (s : State) (f : List Byte → Option State) : Out :=
    match ((s.core k).stream n).given q with
    | [] => .next s
    | t :: _ => if t.e then .next (endEarly s k n r t) else match f (bytesLE t.data.toNat d.esz) with
      | some s => .next (setRun (popStream s k n q) k n r.past)
      | none => .next s
  if d.space = 0 then
    (reachOnce s k n fun s =>
      (streamReach s k n (vaOf a) (vaOf d.span.2) true).andThen fun l s => (writeOpen s k (vaOf a) l).andThen fun _ s => .ok [(vaOf a, l, d.esz)] s).stream k n r fun ls s =>
        take s fun bs => (ls.head?.bind fun x => intoWindow ((s.core k).stream n) (vaOf a) x.2.1 bs).map fun p => s.modStream k n fun _ => p
  else
    match streamSpan (s.core k) true d.space a d.esz with
    | ((0, _, off), _) => take s fun bs => some (streamBuf s k n d off bs)
    | ((c, _, _), ta) => .next (streamFault s k n r c ta)

/-- Reading the pieces: their bytes, and whether one is uncorrectable (12 R270, R271). -/
def fetchPieces (k : Nat) : List (Nat × Loc × Nat) → State → Mr (List Byte × Bool)
  | [], s => .ok ([], false) s
  | (va, l, m) :: rest, s =>
    (locFetch s k va l m false).andThen fun bs s => (fetchPieces k rest s).andThen fun r s => .ok (bs ++ r.1, locBad s l m || r.2) s

/-- Writing the pieces. -/
def storePieces (k : Nat) : List (Nat × Loc × Nat) → List Byte → State → Mr Unit
  | [], _, s => .ok () s
  | (va, l, m) :: rest, bs, s => (locWrite s k va l (bs.take m)).andThen fun _ s => storePieces k rest (bs.drop m) s

/-- An element of an indirect command: its index comes first; a write translates before it pops the element's data (12 R269, R270; 13 R303; 15 R315). -/
def indirectElem (s : State) (k n : Nat) (r : SRun) : Out :=
  let d := r.cmd.desc
  let q := r.cmd.ply
  match ((s.core k).stream n).given q with
  | [] => .next s
  | i :: rest =>
    if i.e then .next (endEarly s k n r i)
    else
      let a := (d.off : Int) + indexOf d i * 2 ^ d.shift
      let va := vaOf a
      let span := streamSpan (s.core k) d.write d.space a d.esz
      if !d.write then
        if d.space = 0 then
          (reachPieces k n false (linePieces va d.esz) s).stream k n r fun ls s1 =>
            (fetchPieces k ls s1).stream k n r fun x s1 => sendElem (popStream s1 k n q) s k n r x.1 x.2 va
        else
          match span with
          | ((0, sp, off), ta) => sendElem (popStream s k n q) s k n r (bufRead s k sp off d.esz) (bufBad s k sp off d.esz) ta
          | ((c, _, _), ta) => .next (streamFault s k n r c ta)
      else
        let take (s : State) (f : List Byte → State → Out) : Out :=
          match rest with
          | [] => .next s
          | t :: _ => if t.e then .next (endEarly (popStream s k n q) k n r t) else f (bytesLE t.data.toNat d.esz) s
        let fin (s : State) : Out := .next (setRun (popStream (popStream s k n q) k n q) k n r.past)
        if d.space = 0 then
          (reachOnce s k n (reachPieces k n true (linePieces va d.esz))).stream k n r fun ls s =>
            take s fun bs s => (storePieces k ls bs s).stream k n r fun _ s => fin s
        else
          match span with
          | ((0, _, off), _) => take s fun bs s => fin (streamBuf s k n d off bs)
          | ((c, _, _), ta) => .next (streamFault s k n r c ta)

/-- The end token that EOS asks for: a read sends it, a write pops it where it stands next (12 R269). -/
def eosElem (s : State) (k n : Nat) (r : SRun) : Out :=
  let p := (s.core k).stream n
  let q := r.cmd.ply
  let over_ := { r with eosDue := false }
  if r.cmd.desc.write then
    match p.toks.find? fun t => decide (t.ply = q) with
    | none => .next s
    | some t => if t.mark = .none ∧ t.e then .next (setRun (setErr (popStream s k n q) k n t.x) k n over_) else .next (setRun s k n over_)
  else
    match streamSend s k n q { data := w64 r.e, ply := q, e := true, x := p.err } with
    | some s => .next (setRun s k n over_)
    | none => .next s

/-- A port takes up its next command, with a release part once the older stores of its context are performed (12 R270), and records the cuts that lie in it (21 R387, R388): one of its ACTIVE ply, after the commands that a STR.BAR puts before it; in a draining ply a port that no route but a BACK one feeds, or that has put its marker, takes up none (05 R118; 12 R267, R275). A window that an earlier access of the port was building is dropped (11 R256). -/
def takeCommand (s : State) (k n : Nat) : Out :=
  let p := (s.core k).stream n
  match p.queue with
  | [] => .next s
  | c :: rest =>
    let y := s.ply k c.ply
    let open_ := (List.range 16).flatMap fun n => ((s.core k).stream n).ids
    let shut := (y.feeder (.stream n)).all (·.back) || y.forwarded.contains (64 + n)
    if y.st ≠ .active ∨ y.frozen ∨ (y.draining ∧ shut) ∨ c.after.any open_.contains then .next s
    else .next ((dropOlds (performStores s fun x => decide (x.core = k) && x.owed.contains c.id) k n).modStream k n fun p =>
      p.due.reverse.foldl (fun p x => addCut p { x with cmd := c.id }) { p with queue := rest, run := some { cmd := c }, lines := [], due := [], reached := none, builds := Tab.drop p.builds 0 })

/-- One element of a stream port, or its next command (12 R267, R269). While its ply is switched out no further element begins, but for tokens that already stand at an affine write (21 R395). -/
def streamStep (core port : Nat) (s : State) : Out :=
  let p := (s.core core).stream port
  match p.run with
  | none => takeCommand s core port
  | some r =>
    if p.faulted ∨ ((s.ply core r.cmd.ply).frozen ∧ (!r.cmd.desc.write ∨ r.cmd.desc.ind)) then .next s
    else if r.eosDue then eosElem s core port r
    else if r.last then .next s
    else if r.cmd.desc.ind then indirectElem s core port r
    else if r.cmd.desc.write then writeElem s core port r
    else readElem s core port r

/-- A command completes: its writes are performed, its tokens have left, and with CTOK its count leaves now (12 R269, R276). -/
def streamEnd (core port : Nat) (s : State) : Out :=
  let p := (s.core core).stream port
  match p.run with
  | none => .next s
  | some r =>
    let d := r.cmd.desc
    if !r.last ∨ r.eosDue ∨ p.faulted ∨ (d.write ∧ !p.lines.isEmpty) then .next s
    else
      let done (s : State) : State := (dropOlds s core port).modStream core port fun p => { p with run := none, lines := [], past := some (r.cmd.id, r.sent) }
      if d.write ∧ d.ctok then
        match streamSend s core port r.cmd.ply { data := w64 r.e, ply := r.cmd.ply } with
        | some s => .next (done s)
        | none => .next s
      else .next (done s)

/-- A step of a stream port injects a token (23 R410). -/
def injects (s : State) (k : Nat) : Out → Bool
  | .next t => decide ((t.core k).regs.edgeCount ≠ (s.core k).regs.edgeCount)
  | _ => false

/-- A stream port would inject a token now: an element's, an end token, or the count of CTOK (23 R410). -/
def wouldInject (s : State) (k n : Nat) : Bool := injects s k (streamStep k n s) || injects s k (streamEnd k n s)

/-- Under a limit, a stream port before the first n would inject a token, and so goes first (23 R410). -/
def meterBehind (s : State) (k n : Nat) : Bool :=
  decide ((s.core k).regs.edgeLimit ≠ 0) && (List.range n).any fun m => ((s.core k).stream m).run.isSome && wouldInject s k m

/-- A step of a stream port in the order of the sources: one that injects a token goes behind the ports before it (23 R410). -/
def inTurn (core port : Nat) (s : State) (o : Out) : Out := if injects s core o && meterBehind s core port then .next s else o

/-- A stream port moves one element, or takes up its next command (12 R267, R269). -/
def execStreamElement (core port : Nat) (s : State) : Out := inTurn core port s (streamStep core port s)

/-- A fill brings the line at HEAD into the window of an affine read; one that would fail waits until its element is the next (11 R257; 12 R271; 13 R303) (log 65). -/
def execWindowFill (core port : Nat) (s : State) : Out :=
  let p := (s.core core).stream port
  match p.run with
  | none => .next s
  | some r =>
    let d := r.cmd.desc
    let total := d.n0 * d.n1 * d.n2
    let lines := if r.e < total ∧ !d.ind then p.lineAt (vaOf (d.elem r.e)) else []
    let f := (lines.getLast?.map (·.upto)).getD r.e
    if d.ind ∨ d.write ∨ d.space ≠ 0 ∨ p.faulted ∨ r.last ∨ total ≤ f ∨ windowLines ≤ lines.length ∨ (s.ply core r.cmd.ply).frozen then .next s
    else
      let va := vaOf (d.elem f)
      let x := (streamReach s core port va (vaOf d.span.2) false).andThen fun l s =>
        (locFetch s core va l.line 128 false).andThen fun bs s =>
          let bad := (List.range 128).filter fun i => match l.line with
            | .plain pa => physBad s (pa + i) 1
            | .comp d o => cmpBad s.mem d (o + i)
          .ok { lineOf va l with bytes := putBytes [] 0 bs, bad := bad, upto := d.afterLine (d.elem f / 128) (d.n1 * d.n2 + 1) f } s
      match x with
      | .ok l s => .next (s.modStream core port fun p => { p with lines := lines ++ [l] })
      | .wait s => .next s
      | .fault c t s => if f = r.e then .next (streamFault s core port r c t) else .next s

/-- The runs of consecutive bytes of a table. -/
def byteRuns : Tab Byte → List (Nat × List Byte)
  | [] => []
  | (i, b) :: t =>
    match byteRuns t with
    | (j, bs) :: rest => if j = i + 1 then (i, b :: bs) :: rest else (i, [b]) :: (j, bs) :: rest
    | [] => [(i, [b])]

/-- The bytes that a write command wrote in a line, those of value 0 among them. -/
def writeRuns (k va : Nat) (l : Loc) : List (Nat × List Byte) → State → Mr Unit
  | [], s => .ok () s
  | (o, bs) :: rest, s =>
    (locWrite s k (va + o) (match l with
      | .plain pa => .plain (pa + o)
      | .comp d x => .comp d (x + o)) bs).andThen fun _ s => writeRuns k va l rest s

/-- The line at TAIL of a write port is written back; only the bytes that the command wrote are merged; one that fails stays there until a decision (11 R257; 12 R271; 13 R303) (log 65). -/
def execStreamLineWriteback (core port : Nat) (s : State) : Out :=
  let p := (s.core core).stream port
  match p.run, p.lines with
  | some r, l :: rest =>
    if !r.cmd.desc.write ∨ l.stuck then .next s
    else match writeRuns core l.va l.loc (byteRuns l.bytes) s with
      | .ok _ s => .next (s.modStream core port fun p => { p with lines := rest })
      | .fault c t s => .next (streamFault (s.modStream core port fun p => { p with lines := { l with stuck := true } :: rest }) core port r c t)
      | .wait s => .next s
  | _, _ => .next s

/-- A command completes (12 R269, R276); the token of CTOK is injected in the order of the sources (23 R410). -/
def execStreamCommandComplete (core port : Nat) (s : State) : Out := inTurn core port s (streamEnd core port s)

end Sys2Proof.Machine
end

