-- ==== Sys2Proof/Machine/Messages.lean ====
section
/-! DEFINITION. Active messages: sending them, their arrival by kind, delivery through the handler table, and engine commands from memory (05 R109 to R113, R437; 07 R180; 17 R335; 18 R348; 24 R424). -/
namespace Sys2Proof.Machine

/-- Where a continuation leads (05 R110; 24 R424). -/
inductive MsgTo
  | core (k : Nat)
  | host (mailbox : Nat)
  | peer (pkg : Nat)
  | nowhere
  deriving DecidableEq, Repr

/-- The way leads to a peer package (24 R424). -/
def MsgTo.far : MsgTo → Bool
  | .peer _ => true
  | _ => false

/-- The layout of a continuation (05 R110; 24 R424); a bit that must be zero, a reserved type or a core that no die has lead nowhere (log 56). -/
def msgTo (m : Wide) : MsgTo :=
  let c := msgCont m
  let port : Bool := decide (nbits c 0 7 = 0) && decide (nbits c 7 7 < 80)
  match nbits c 45 3 with
  | 0 => if port ∧ nbits c 16 29 = 0 then .core (contCore m) else .nowhere
  | 1 => if nbits c 3 42 = 0 then .host (nbits c 0 3) else .nowhere
  | 2 => if port ∧ nbits c 28 17 = 0 then .peer (nbits c 16 12) else .nowhere
  | _ => .nowhere

/-- A message of ply q goes onto the token fabric from the port of core k, with the beats that travel with it (05 R109; 18 R348). -/
def putMessage (s : State) (k q : Nat) (m : Wide) (rest : List Wide) : State :=
  { s with net := s.net ++ [{ src := k, msg := m, rest := rest, part := s.partOf k, ply := q, rcb := (plyRegion s k q).map (·.rcb) }] }

/-- The beat index of a message of kind 3 (18 R347). -/
def beatIndex (m : Wide) : Nat := bits m 121 3

/-- A message that ply q and element e of core k have sent (05 R109; 07 R180). The beats of a ray are held until beat 3 arrives and go as one unit; a beat that breaks the sequence drops the partial ray with it (18 R348). -/
def sendMessage (s : State) (k q e : Nat) (m : Wide) : State :=
  if msgKind m ≠ 3 then putMessage s k q m []
  else
    let key := q * 128 + e
    let held := Tab.look [] (s.core k).port.rays key
    if beatIndex m ≠ held.length then
      dropMessage (s.modPort k fun p => { p with rays := Tab.drop p.rays key }) k (held.length + 1)
    else
      match held with
      | h :: t => if t.length = 2 then putMessage (s.modPort k fun p => { p with rays := Tab.drop p.rays key }) k q h (t ++ [m])
        else s.modPort k fun p => { p with rays := Tab.set p.rays key (held ++ [m]) }
      | [] => s.modPort k fun p => { p with rays := Tab.set p.rays key [m] }

/-- What the token fabric port of core k does with a message that arrives from this package, with the slice whose token it is (05 R109, R112, R113; 09 R220). The coordinator takes power messages over Thonazon ports alone (23 R412) (log 56). -/
def portMessage (s : State) (k : Nat) (m : Wide) (slice : Option Nat) : State :=
  let x : PortMsg := { msg := m, no := (s.core k).port.arrivals, entry := Tab.find (s.core k).port.handlers (msgIndex m), slice := slice }
  let s := s.modPort k fun p => { p with arrivals := p.arrivals + 1 }
  match msgKind m with
  | 2 => if nbits (msgIndex m) 0 2 = 3 then dropMessage s k 1 else s.modPort k fun p => { p with remote := p.remote ++ [x] }
  | 6 => dropMessage s k 1
  | 0 | 1 | 3 | 4 | 7 => if x.entry.any (entryOpen s k) then s.modPort k fun p => { p with inbox := p.inbox ++ [x] } else parkMessage s k x
  | _ => dropMessage s k 1

/-- A message for which no path of links is left faults the region that sent it, while that runs, and else its partition (23 R406) (log 57). -/
def loseMessage (s : State) (x : Msg) : State :=
  if x.rcb.isSome ∧ (plyRegion s x.src x.ply).map (·.rcb) = x.rcb then fabricFault s x.src x.ply 7 0 92 none .linkDown 0 0
  else partFault s x.part .linkDown 0 7 (placeOf x.src)

/-- A message of the token fabric reaches where it goes: a port, a mailbox ring of the sender's partition, or a port to a peer package. Messages of one core to one place arrive in the order they were sent, and those to one peer leave its port so whichever core sent them (05 R109, R110; 23 R406; 24 R424, R427) (log 56). -/
def execMessageArrival (n : Nat) (s : State) : Out :=
  match s.net[n]? with
  | none => .next s
  | some x =>
    if (s.net.take n).any fun y => decide (msgTo y.msg = msgTo x.msg) && (decide (y.src = x.src) || (msgTo x.msg).far) then .next s
    else
      let all := x.msg :: x.rest
      let s1 := { s with net := s.net.eraseIdx n }
      match msgTo x.msg with
      | .core k =>
        (match crossing s (accessDie x.src) (dieOf k) with
         | .clear => .next (all.foldl (fun s m => portMessage s k m none) s1)
         | .held => .next s
         | .down => .next (loseMessage s1 x))
      | .host b =>
        if s.iod.linkDown ∨ crossing s (accessDie x.src) 4 = .held then .next s
        else if crossing s (accessDie x.src) 4 = .down then .next (loseMessage s1 x)
        else .next (all.foldl (fun s m => (partRing s x.part (b + 2) (bytesLE m.toNat 16)).1) s1)
      | .peer p =>
        if crossing s (accessDie x.src) 4 = .held then .next s
        else if crossing s (accessDie x.src) 4 = .down then .next (loseMessage s1 x)
        else
          let r := Tab.look 0 s.iod.peerrt p
          if !(r.testBit 4) then .next (dropMessage s1 x.src all.length)
          else match portWay s (nbits r 0 4) with
            | .clear => .next s1
            | .held => .next s
            | .down => .next (loseMessage s1 x)
      | .nowhere => .next (dropMessage s1 x.src all.length)

/-- The tokens that a handler entry makes of a message: the first, and the second of modes 1 and 2 (05 R111). -/
def handlerTokens (w : Word) (m : Wide) : Token × Option Token :=
  let (q, _, _) := handlerTarget w
  let t (v : Word) : Token := { data := v, ply := q, ray := decide (msgKind m = 3), port := true }
  match bits w 12 2 with
  | 0 => (t (w64 (msgOperand m)), none)
  | 1 => (t (w64 (msgOperand m)), some (t (w64 (msgCont m))))
  | _ => (t (m.extractLsb' 64 64), some (t (m.extractLsb' 0 64)))

/-- The token fabric port puts a token into an input channel, where a slot is free for it; it injects after the stream ports (05 R111, R437; 23 R410). -/
def portPut (s : State) (k e ch : Nat) (t : Token) : Option State :=
  if !(meterOpen s k) || meterBehind s k 16 then none
  else
    match (s.core k).fab.takeSlot e ch 4 with
    | none => none
    | some f => some (meterCount (s.modFab k fun _ => f.modChan (chanKey e ch) fun c => { c with toks := c.toks ++ [t] }) k)

/-- The port delivers: the second token of the message under way, else the message at its front. A message whose ply has begun to drain parks, and the elements of a contained group absorb theirs (05 R111, R112, R118; 21 R383). -/
def execHandlerDelivery (core : Nat) (s : State) : Out :=
  let p := (s.core core).port
  match p.second with
  | some (.chan e ch, t) =>
    let s0 := s.modPort core fun p => { p with second := none, secondOf := none }
    if (s.ply core t.ply).st ≠ .active ∨ ((s.ply core t.ply).elem e).stopped then .next s0
    else .next ((portPut s0 core e ch t).getD s)
  | some _ => .next (s.modPort core fun p => { p with second := none, secondOf := none })
  | none =>
    match p.inbox with
    | [] => .next s
    | m :: rest =>
      let w := m.entry.getD 0
      let (q, e, ch) := handlerTarget w
      let s0 := s.modPort core fun p => { p with inbox := rest }
      if !(entryOpen s core w) then .next (parkMessage s0 core m)
      else if ((s.ply core q).elem e).stopped then .next s0
      else
        let (t, u) := handlerTokens w m.msg
        match portPut s0 core e ch t with
        | none => .next s
        | some s1 => .next (s1.modPort core fun p => { p with second := u.map fun u => (.chan e ch, u), secondOf := u.bind fun _ => m.slice })

/-- What an engine command of the action map does, and the ports it may use (17 R323, R325). -/
def engKindOf : Instr → Option (EngKind × List Nat)
  | .cpy _ _ _ o => some (.cpy o, [0])
  | .gath _ _ _ o => some (.gath o, [0])
  | .scat _ _ _ o => some (.scat o, [0])
  | .fillb _ _ _ o => some (.fillb o, [0])
  | .coll _ _ _ o => some (.coll o, [1])
  | .xfm _ _ _ o => some (.xfm o (match xfmMode o with
    | .dyn => .rne
    | r => r), [2])
  | .pub o => some (.pub o, [0, 1, 2])
  | .pubDef _ _ _ o => some (.pubDef o, [0, 1, 2])
  | .pubDrop o => some (.pubDrop o, [0, 1, 2])
  | _ => none

/-- The command that a record of 32 bytes holds for engine n of core k (17 R335). -/
def remoteCmd (k n : Nat) (bs : List Byte) : Option EngCmd :=
  match decodeElem (wordOfBytes (cut bs 0 8)) with
  | .bad _ => none
  | .ok _ i =>
    match engKindOf i with
    | some (kd, ports) =>
      if ports.contains n then
        some { word := wordOfBytes (cut bs 0 8), kind := kd, a := w64 (fld bs 8 8), b := w64 (fld bs 16 8), c := w64 (fld bs 24 8), core := k, elem := 64 }
      else none
    | none => none

/-- An engine command arrives in a message of kind 2: its record is read and checked, and it enters the queue; one that fails is dropped and counted (17 R335). -/
def execRemoteEngineCommand (core : Nat) (s : State) : Out :=
  match (s.core core).port.remote with
  | [] => .next s
  | m :: rest =>
    let n := nbits (msgIndex m.msg) 0 2
    if 8 ≤ ((s.core core).engine n).queue.length + (s.core core).fab.coming (.engine n) then .next s
    else
      let drop (s : State) : State := s.modPort core fun p => { p with remote := rest }
      match vreadMany core .read true 1 32 (msgCont m.msg) s with
      | .wait s => .next s
      | .fault _ _ s => .next (dropMessage (drop s) core 1)
      | .ok bs s =>
        match remoteCmd core n bs with
        | none => .next (dropMessage (drop s) core 1)
        | some c =>
          .next (acceptCmd (drop s) core n c)

end Sys2Proof.Machine
end

