-- ==== Sys2Proof/Machine/EvFabric.lean ====
section
/-! DEFINITION. Events of the fabric: arrivals, credits, passes, drain and commit, strands, block scheduling, the end of regions and of loads (05 R105 to R126, R437; 21 R383, R384, R388). -/
namespace Sys2Proof.Machine

/-- An X end token that enters over a far incoming route gives the region LOADER_LOST, unless it holds a cause (21 R384) (log 40). -/
def loaderLost (s : State) (k q : Nat) : State :=
  match plyRegion s k q with
  | some g =>
    if g.state = .opened ∧ g.cause = 0 then
      raiseFault s { core := k, ply := q, ctx := (s.ply k q).ctx, src := 0, cause := Cause.loaderLost.code, cls := 5 }
    else s
  | none => s

/-- A token enters an input channel; a marker on a BACK route is discarded (05 R107, R118; 21 R384, R387). -/
def arriveChan (s : State) (k e ch : Nat) (t : Token) : State :=
  if t.mark ≠ .none ∧ (s.ply k t.ply).backInput (.chan e ch) then s
  else
    let s := s.modChan k (chanKey e ch) fun c => { c with toks := c.toks ++ [t] }
    if t.mark = .none ∧ t.e ∧ t.x ∧ ((s.ply k t.ply).farIn e ch).isSome then loaderLost s k t.ply else s

/-- A write port records a cut with n elements of its route still to come before it (21 R387): in the command that runs, in the one queued next, or in the next it takes up. -/
def cutAtWrite (p : SPort) (cut n : Nat) : SPort :=
  let next (n : Nat) : SPort := match p.queue with
    | c :: _ => addCut p { cut := cut, cmd := c.id, elem := n }
    | [] => { p with due := { cut := cut, elem := n } :: p.due }
  match p.run with
  | some r =>
    if !r.cmd.desc.write then p
    else
      let room := if r.last then some 0 else r.cmd.desc.count.map fun c => c - r.e
      if (room.any fun m => decide (m < n)) || (r.last && !r.eosDue) then next (n - room.getD 0) else addCut p { cut := cut, cmd := r.cmd.id, elem := r.e + n }
  | none => next n

/-- The elements that tokens of a ply waiting at a write port make (12 R269). -/
def elemsAhead (p : SPort) (q : Nat) : Nat :=
  let n := (p.toks.filter fun t => decide (t.ply = q) && decide (t.mark = .none) && !t.e).length
  if p.run.any fun r => r.cmd.desc.ind then n / 2 else n

/-- A token reaches a stream port; a snapshot marker records its element index there (12 R269; 15 R315; 21 R387). -/
def arriveStream (s : State) (k n : Nat) (t : Token) : State :=
  if t.mark = .drain ∧ (s.ply k t.ply).backInput (.stream n) then s
  else s.modStream k n fun p => if t.mark = .snap then cutAtWrite p (bits t.data 0 16) (elemsAhead p t.ply) else { p with toks := p.toks ++ [t] }

/-- A token reaches the token fabric port: two plain tokens of a ply make a message, as a SEND does at once (07 R180). -/
def arriveSend (s : State) (k : Nat) (f : Flight) : State :=
  match f.cmd with
  | some c => sendMessage s k f.tok.ply c.elem (c.a ++ c.b)
  | none =>
    if f.tok.mark ≠ .none then s
    else
      match Tab.find (s.core k).port.half f.tok.ply with
      | some h => sendMessage (s.modPort k fun p => { p with half := Tab.drop p.half f.tok.ply }) k f.tok.ply 64 (h ++ f.tok.data)
      | none => s.modPort k fun p => { p with half := Tab.set p.half f.tok.ply f.tok.data }

/-- A token on its way arrives at its destination; tokens of a ply to one destination arrive in the order they left (05 R99, R107). Engine commands arrive as they are accepted, in a step of their own, and a message is sent once the requests before it are performed (13 R299). -/
def execTokenArrival (core n : Nat) (s : State) : Out :=
  let fl := (s.core core).fab.flights
  match fl[n]? with
  | none => .next s
  | some f =>
    if (fl.take n).any fun g => decide (g.dst = f.dst) && decide (g.tok.ply = f.tok.ply) then .next s
    else
      let s1 := s.modFab core fun b => { b with flights := b.flights.eraseIdx n }
      let t := f.tok
      match f.dst with
      | .chan e ch => .next (arriveChan s1 core e ch t)
      | .stream p => .next (arriveStream s1 core p t)
      | .engine p => if p = 3 then (if f.cmd.all fun c => c.after (s.core core).fab then .next (arriveSend s1 core f) else .next s)
          else if f.cmd.isSome then .next s else .next s1
      | .far i =>
        if t.mark ≠ .none then .next s1
        else .next (s1.modPly core t.ply fun p => { p with fars := Tab.mod {} p.fars i fun x => { x with passes := match x.passes with
          | l :: ls => (l ++ [t]) :: ls
          | [] => [] } })
      | .select => if t.mark ≠ .none then .next s1 else .next (s1.modFab core fun b => { b with selq := b.selq ++ [(t, (b.ply t.ply).ctx)] })

/-- A slot granted to a producer is seen by it (05 R107, R437). -/
def execCreditReturn (core chan n : Nat) (s : State) : Out :=
  match ((s.core core).fab.chan chan).grants[n]? with
  | none => .next s
  | some g => .next (s.modChan core chan fun c => { c with grants := c.grants.set n { g with seen := true } })

/-- A slot that its producer has not used returns to its channel and is granted again to a producer that waits (05 R437). -/
def execSlotGrantTimeout (core chan n : Nat) (s : State) : Out :=
  match ((s.core core).fab.chan chan).grants[n]? with
  | none => .next s
  | some g =>
    if !g.seen ∨ 5 ≤ g.prod then .next s
    else
      .next (s.modChan core chan fun c =>
        { c with grants := c.grants.eraseIdx n ++ ((waitingFor s core (chan / 4) (chan % 4)).map fun p => { prod := p, seen := decide (p = 4) }).toList })

/-- A pass forwards its oldest token to the next pass, or at the last one to the remote input (05 R108); the stage after the last stands for the end token of a contained group that waits at the output (21 R383). -/
def execPassForward (core ply far stage : Nat) (s : State) : Out :=
  match Tab.find (s.ply core ply).fars far with
  | none => .next s
  | some x =>
    match x.pass stage with
    | [] => (match x.tail with
      | some t => .next (if stage = x.passes.length then (sendTail s core ply far t).getD s else s)
      | none => .next s)
    | t :: rest =>
      let took := s.modPly core ply fun p => { p with fars := Tab.set p.fars far { x with passes := x.passes.set stage rest } }
      if stage + 1 < x.passes.length then
        if (x.pass (stage + 1)).length < 8 then
          .next (s.modPly core ply fun p =>
            { p with fars := Tab.set p.fars far { x with passes := (x.passes.set stage rest).set (stage + 1) (x.pass (stage + 1) ++ [t]) } })
        else .next s
      else match x.bind with
        | none => .next s
        | some b => .next ((sendRemote took b t).getD s)

/-- Firings selected on a wrong prediction are squashed: they have no effect on any state (05 R105). -/
def execFiringSquash (_core _elem : Nat) (s : State) : Out := .next s

/-- The open strand region of a context. -/
def strandOf (s : State) (k n : Nat) : Option Region := (s.ctx k n).region.filter fun g => g.strand && decide (g.state = .opened)

/-- A selection that names no block to load faults the region of its context (05 R117). -/
def selectionFault (s : State) (k n : Nat) : State :=
  raiseFault s { core := k, ply := (s.ctx k n).bound.getD noPly, ctx := n, src := 4, cause := Cause.plyState.code, cls := Cause.cls .plyState }

/-- A token at the selection port names the block of the next choice of the context that its ply served, in place of one named before; without such a block or a strand region the selection faults the region. While a selection is latched it waits (05 R117, R126) (log 90). -/
def execSelectionPortToken (core : Nat) (s : State) : Out :=
  match (s.core core).fab.selq with
  | [] => .next s
  | (t, n) :: rest =>
    let s1 := s.modFab core fun b => { b with selq := rest }
    if (s.ctx core n).latch.isSome then .next s
    else match strandOf s core n with
      | some g =>
        if bits t.data 0 4 < g.blocks.length then
          .next (s1.modCtx core n fun c => { c with region := some { g with override := some (bits t.data 0 4) } })
        else .next (selectionFault s1 core n)
      | none => .next (if (s.ctx core n).region.any fun g => decide (g.state = .opened) then selectionFault s1 core n else s1)

/-- The drain markers of an endpoint set out on its route: into channels and stream ports, and no further at other ends (05 R118) (log 77). -/
def putMarkers (s : State) (k q : Nat) (x : Endpt) : Option State :=
  match (s.ply k q).routeOf x with
  | none => some s
  | some r => (r.dests.filter fun
      | .chan _ _ | .stream _ => true
      | _ => false).foldlM (fun s d => sendTo s k q { ply := q, mark := .drain } none d) s

/-- The oldest entry of ply q in a channel is a drain marker. -/
def markerAtHead (c : Chan) (q : Nat) : Bool := (c.toks.find? fun t => decide (t.ply = q)).any fun t => decide (t.mark = .drain)

/-- The inputs of element e that a marker must have reached: routed ones that are not BACK, and ENTRY (05 R118). -/
def markedInputs (p : Ply) (e : Nat) : List Nat :=
  (List.range 4).filter fun j => ((p.feeder (.chan e j)).any fun r => !r.back) || decide (p.entry = some (.chan e j))

/-- An element passes its markers on (05 R118) (log 77). -/
def forwardElem (s : State) (k q e : Nat) : Option State :=
  let p := s.ply k q
  let f := (s.core k).fab
  let ins := markedInputs p e
  if (p.elem e).markDue = 0 ∧ ins.all (fun j => markerAtHead (f.chan (chanKey e j)) q) ∧ (eligibleIn s k q e).isNone ∧
      (f.reqsOf e).all (fun y => decide (y.ply ≠ q)) ∧ f.park.all (fun y => decide (y.ply ≠ q ∨ y.elem ≠ e)) ∧ !(f.granting q e) then
    let s := ins.foldl (fun s j => s.modChan k (chanKey e j) fun c => { c with toks := c.toks.eraseP fun t => decide (t.ply = q) }) s
    (List.range 4).foldlM (fun s j => putMarkers s k q (.chan e j)) s
  else none

/-- A stream port that drains: one that a route feeds takes the marker once every command of the ply has completed and puts its own; one that only feeds a route puts its marker once its command has ended (05 R118; 13 R301). -/
def forwardStream (s : State) (k q n : Nat) : Option State :=
  let p := (s.core k).stream n
  let fed := ((s.ply k q).feeder (.stream n)).any fun r => !r.back
  if p.run.any fun r => decide (r.cmd.ply = q) then none
  else if fed then
    if (p.toks.find? fun t => decide (t.ply = q)).any (fun t => decide (t.mark = .drain)) ∧ p.queue.all (fun c => decide (c.ply ≠ q)) then
      putMarkers (s.modStream k n fun p => { p with toks := p.toks.eraseP fun t => decide (t.ply = q) }) k q (.stream n)
    else none
  else if (s.ply k q).forwarded.contains (64 + n) then none
  else putMarkers s k q (.stream n)

/-- An engine port that drains puts its marker behind the completion tokens of the ply's commands (05 R118; 17 R327). -/
def forwardEngine (s : State) (k q n : Nat) : Option State :=
  let e := (s.core k).engine n
  let f := (s.core k).fab
  if (e.queue ++ e.cur.toList ++ e.held).any (fun c => c.of k q) ∨ e.toks.any (fun t => decide (t.ply = q)) ∨
      f.flights.any (fun x => decide (x.dst = .engine n) && decide (x.tok.ply = q)) ∨ (s.ply k q).forwarded.contains (80 + n) then none
  else putMarkers s k q (.engine n)

/-- A node of a draining ply puts or passes on its markers: elements 0 to 63, stream ports from 64, engine ports from 80 (05 R118). -/
def execDrainMarkerForward (core ply elem : Nat) (s : State) : Out :=
  let p := s.ply core ply
  if !p.draining ∨ !((drainNodes p).contains elem) then .next s
  else
    let r := if elem < 64 then (if p.forwarded.contains elem then none else forwardElem s core ply elem)
      else if elem < 80 then forwardStream s core ply (elem - 64)
      else if elem < 84 then forwardEngine s core ply (elem - 80)
      else none
    match r with
    | some s => .next (s.modPly core ply fun p => { p with forwarded := if p.forwarded.contains elem then p.forwarded else p.forwarded ++ [elem] })
    | none => .next s

/-- The commit of a latched selection (05 R119): after quiescence of the old ply; the CFG.COMMIT that waits retires, and a strand region runs its new block. -/
def execPlyCommit (core ctx : Nat) (s : State) : Out :=
  let c := s.ctx core ctx
  match c.latch with
  | none => .next s
  | some l =>
    if !(stagedFor s core ctx l.ply) ∨ !(c.bound.all fun q => plyQuiet s core q) then .next s
    else
      let blk := (s.ply core l.ply).loader
      let s := commitPly s core ctx l.ply
      .next (s.modCtx core ctx fun c =>
        let c := match l.commit with
          | some pc => { c with hold := false, pc := pc, resume := none }
          | none => c
        { c with region := c.region.map fun g => if g.strand ∧ g.state = .opened then { g with running := blk } else g })

/-- The number of a queue of the die of core k. -/
def localQueue (k q : Nat) : Nat := dieOf k * 4096 + q

/-- Strands that wait for a block (05 R126). -/
def strandsOf (s : State) (k : Nat) (b : Block) : Nat := (s.queue (localQueue k b.queue)).toks.length

/-- The first block with the most waiting strands among those that satisfy f (05 R126). -/
def mostStrands (s : State) (k : Nat) (f : Block → Nat → Bool) : List (Block × Nat) → Option (Nat × Nat)
  | [] => none
  | (b, i) :: rest =>
    let n := strandsOf s k b
    match mostStrands s k f rest with
    | some (m, j) => if f b n && decide (m ≤ n) then some (n, i) else some (m, j)
    | none => if f b n then some (n, i) else none

/-- The block that the scheduler chooses (05 R126). -/
def chooseBlock (s : State) (k : Nat) (g : Region) : Option Nat :=
  match g.override with
  | some b => some b
  | none =>
    match mostStrands s k (fun b n => decide (b.thresh ≤ n)) g.blocks.zipIdx with
    | some (_, i) => some i
    | none => (mostStrands s k (fun _ n => decide (0 < n)) g.blocks.zipIdx).map Prod.snd

/-- The running block of a region. -/
def Region.block (g : Region) : Option Block := g.running.bind fun i => g.blocks[i]?

/-- The block scheduler chooses a block and begins its load; a block that runs already needs none, and with no ply FREE the load of the block chosen waits for one (05 R126; 18 R344) (log 91). -/
def execBlockChoice (core ctx : Nat) (s : State) : Out :=
  let c := s.ctx core ctx
  match c.region with
  | none => .next s
  | some g =>
    let loading := (List.range 4).any fun q => decide ((s.ply core q).st = .loading) && decide ((s.ply core q).ctx = ctx)
    if !g.strand ∨ g.state ≠ .opened ∨ c.latch.isSome ∨ loading ∨ (g.choice.isNone ∧ !(g.block.all fun b => decide (strandsOf s core b = 0))) then .next s
    else
      match g.choice.orElse (fun _ => chooseBlock s core g) with
      | none => .next s
      | some i =>
        if g.running = some i ∧ g.choice.isNone then .next (s.modCtx core ctx fun c => { c with region := some { g with override := none } })
        else
          match plyToLoad s core ctx true 0, g.blocks[i]? with
          | some q, some b =>
            let s := s.modPly core q fun _ => { st := .loading, ctx := ctx, image := b.image, loader := some i }
            .next (s.modCtx core ctx fun c => { c with region := some { g with override := if g.choice.isSome then g.override else none, choice := none } })
          | _, _ => .next (s.modCtx core ctx fun c => { c with region := some { g with override := if g.choice.isSome then g.override else none, choice := some i } })

/-- A strand of the running block's entry queue is delivered at ENTRY; a token that is no task goes to the port as its kind says (05 R109, R125, R437). -/
def execStrandDelivery (core ctx : Nat) (s : State) : Out :=
  let c := s.ctx core ctx
  match c.region, c.bound with
  | some g, some q =>
    let p := s.ply core q
    match g.block, p.entry with
    | some b, some (.chan e ch) =>
      if g.state ≠ .opened ∨ g.exhausted ∨ p.st ≠ .active ∨ p.draining ∨ p.frozen then .next s
      else
        let n := localQueue core b.queue
        match (s.queue n).toks with
        | [] => .next s
        | t :: rest =>
          let s0 := s.modQueue n fun x => { x with toks := rest }
          if msgKind t.tok = 0 then .next ((portPut s0 core e ch { data := w64 (msgOperand t.tok), ply := q, port := true }).getD s)
          else .next (portMessage s0 core t.tok none)
    | _, _ => .next s
  | _, _ => .next s

/-- Accesses that the last sink report found made or started are performed (05 R123 step 1) (log 27). -/
def accessesDone (s : State) (k q : Nat) (m : Nat × List Nat × Nat) : Bool :=
  let c := s.core k
  c.fab.reqs.all (fun (_, l) => l.all fun y => decide (y.ply ≠ q) || decide (m.1 ≤ y.no) || !y.open_) &&
  c.fab.park.all (fun y => decide (y.ply ≠ q) || decide (m.1 ≤ y.no) || !y.open_) &&
  c.streams.all (fun (_, p) => p.run.all fun r => decide (r.cmd.ply ≠ q) || !(m.2.1.contains r.cmd.id)) &&
  (engOpen c).all fun x => !(x.of k q) || decide (m.2.2 ≤ x.acc)

/-- Steps 2 to 5 of R123, as writes of the region's ply (13 R289); a store that faults ends the region as faulted with its cause, and a faulting store to STATE is not made again. DONEVAL is stored once, also where the store to STATE waits (log 27). -/
def finishRegion (s : State) (k n : Nat) (g : Region) : Out :=
  let done : Mr Unit :=
    if g.doneva = 0 ∨ g.stored then .ok () s
    else if g.doneva.toNat % 8 ≠ 0 then .fault 0x24 g.doneva.toNat s
    else vwrite s k g.doneva.toNat (bytesLE g.doneval.toNat 8) true
  match done with
  | .wait s => .next s
  | .fault c _ s => endFaulted s k n c
  | .ok _ s1 =>
    match storeState s1 k g.rcb 2 true with
    | .wait s => .next (s.modCtx k n fun c => { c with region := c.region.map fun g => { g with stored := true } })
    | .fault c _ s => .next (closeRegion s k n true c)
    | .ok _ s => .next (closeRegion s k n false 0)

/-- A ply has nothing left to do (05 R126): no token but on BACK inputs, nothing on its way, no eligible rule, ports and engines quiet. -/
def blockQuiet (s : State) (k q : Nat) : Bool :=
  let c := s.core k
  let p := c.fab.ply q
  c.fab.chans.all (fun (i, h) => h.toks.all fun t => decide (t.ply ≠ q) || p.backInput (.chan (i / 4) (i % 4))) &&
  c.fab.flights.all (fun f => decide (f.tok.ply ≠ q)) && p.fars.all (fun (_, x) => x.passes.all List.isEmpty) &&
  c.fab.reqs.all (fun (_, l) => l.all fun y => decide (y.ply ≠ q)) && c.fab.park.all (fun y => decide (y.ply ≠ q)) && c.fab.pushes.all (fun x => decide (x.ply ≠ q)) &&
  (List.range 64).all (fun e => (eligibleIn s k q e).isNone) && (List.range 16).all (portQuiet s k q) && (List.range 3).all (engineQuiet s k q)

/-- A strand region has nothing left (05 R126). -/
def strandsDone (s : State) (k n : Nat) (g : Region) : Bool :=
  let c := s.ctx k n
  g.blocks.all (fun b => decide (strandsOf s k b = 0)) && c.latch.isNone && g.override.isNone && g.choice.isNone &&
  !((List.range 4).any fun q => decide ((s.ply k q).st = .loading) && decide ((s.ply k q).ctx = n)) &&
  (g.running.isNone || c.bound.all fun q => blockQuiet s k q)

/-- A region completes (05 R123, R126), or ends faulted with the cause it holds (21 R383). -/
def execRegionComplete (core ctx : Nat) (s : State) : Out :=
  let c := s.ctx core ctx
  match c.region with
  | none => .next s
  | some g =>
    if g.state ≠ .opened then .next s
    else
      let ended := if g.strand then strandsDone s core ctx g else
        match c.bound, g.mark with
        | some q, some m => accessesDone s core q m
        | _, _ => false
      if !ended then .next s
      else if g.cause ≠ 0 then endFaulted s core ctx g.cause
      else finishRegion s core ctx g

/-- A load that fails is recorded, and its event posted (05 R126; 09 R220; 21 R374, R376). -/
def recordLoad (s : State) (k n q code tval : Nat) (queue : Option Nat) : State :=
  let g := (s.ctx k n).region
  let c := causeOf code
  let info : FltInfo :=
    { part := s.partOf k, src := 4, ctx := n, ply := q, nflt := (g.map (·.nflt)).getD 0, cls := Cause.cls c, cause := code, tval := tval
      place := placeOf k, rcb := (g.map (·.rcb.toNat)).getD 0, dlc := (s.die (dieOf k)).dlc, queue := queue }
  let (s, seq, _) := faultRecord s info
  faultEvent s k n q code seq info.rcb

end Sys2Proof.Machine
end

