-- ==== Sys2Proof/Machine/EvMatrix.lean ====
section
/-! DEFINITION. Events of the matrix array: its operations execute one at a time, in queue order (06 R153 to R155; 08 R187 to R206; 23 R414). -/
namespace Sys2Proof.Machine

/-- The rows of an MM, MMZ or MMR with its fields: whether it zeroes its rows, and whether it is MMR. -/
def mmOf : Instr → Option (MmOpts × Bool × Bool)
  | .mm _ _ o => some (o, false, false)
  | .mmz _ _ o => some (o, true, false)
  | .mmr _ _ z o => some (o, z, true)
  | _ => none

/-- An operation that uses the gang (08 R189, R201). -/
def MxOp.ganged (x : MxOp) : Bool := (mmOf x.act).any fun m => m.1.gang

/-- s with the head of the matrix queue of core k replaced. -/
def setOp (s : State) (k : Nat) (x : MxOp) : State := s.modMx k fun m => { m with queue := x :: m.queue.drop 1 }

/-- TVAL of an operation that fails at a row, unit or edge (08 R189). -/
def mxTval (g : Option GangMem) (x : MxOp) (row : Nat) : Word :=
  w64 (bits x.word 48 16 * 2 ^ 48 + b2n x.ganged * 2 ^ 23 + (g.elim 0 (·.row)) * 2 ^ 21 + (g.elim 0 (·.col)) * 2 ^ 18 + row % 2 ^ 18)

/-- The head operation fails: it and the later operations of its context leave the queue, and the context holds the fault (08 R189). -/
def failOp (s : State) (k : Nat) (x : MxOp) (c : Cause) (row : Nat) : State :=
  let m := (s.core k).mx
  let gone := (m.queue.filter fun y => decide (y.ctx = x.ctx)).length
  (s.modMx k fun m => { m with queue := m.queue.filter fun y => decide (y.ctx ≠ x.ctx), was := none }).modMxCtx k x.ctx fun c' =>
    { c' with outstanding := c'.outstanding - gone, fault := some (c, mxTval (m.gang.orElse fun _ => m.was) x row) }

/-- The row at which an operation stands. -/
def MxOp.at_ (x : MxOp) : Nat := x.written

/-- An operation whose rows all have reached their bank (08 R189). -/
def MxOp.settled (x : MxOp) : Bool := x.fired.isEmpty

/-- The head operation is to stop at a row: at once, or once the rows that it fired before are written (08 R189). -/
def stopAt (s : State) (k : Nat) (x : MxOp) (c : Cause) (row : Nat) : State :=
  if x.settled then failOp s k x c row else setOp s k { x with fail := some (c, row) }

/-- What the dissolution of a gang does to the head operation of a member: a gang operation that it executes fails with MATRIX_STATE, and an MX.GANG that waits for the others joins anew; one whose gang was formed has only to complete (08 R201, R202). -/
def loseGang (s : State) (c : Nat) : State :=
  match (s.core c).mx.queue with
  | x :: _ =>
    if x.begun ∧ x.ganged ∧ x.fail.isNone then stopAt s c x .matrixState x.row
    else if x.joined ∧ x.written = 0 then setOp s c { x with joined := false, begun := false }
    else s
  | [] => s

/-- The operations in the queue of a core that is in no gang any more: those of a gang can only run in a later one, which no member had left when they issued (08 R201). -/
def Matrix.ungang (m : Matrix) : Matrix := { m with gang := none, queue := m.queue.map fun x => { x with late := false } }

/-- A gang is dissolved: its members that have not left are in no gang, their row queues are emptied, and the gang operation that another member executes fails; of the rows that a leader fired itself, those on their way to it count as fired (08 R202). -/
def dissolveGang (s : State) (k : Nat) : State :=
  match (s.core k).mx.gang with
  | none => s
  | some g =>
    let d := dieOf k
    let y := Tab.look {} (s.die d).gangs g.gid
    let ms := y.members.filter fun m => !(y.left.contains m.1)
    let s := ms.foldl (fun s (c, _, col) =>
      let s := if col = 0 then s.modMx c fun m => { m with queue := match m.queue with
                 | x :: l => (if x.ganged then { x with fired := x.fired ++ m.coming } else x) :: l
                 | [] => [] } else s
      let s := if c = k then s else loseGang s c
      s.modMx c fun m => { m.ungang with rowq := [], coming := [], was := if m.queue.head?.any (·.fail.isSome) then m.gang else none }) s
    s.modDie d fun y => { y with gangs := Tab.drop y.gangs g.gid }

/-- The head operation fails with a cause at a row, unit or edge; a gang operation takes its gang with it (08 R189, R202). -/
def mxFault (s : State) (k : Nat) (x : MxOp) (c : Cause) (row : Nat) : Out :=
  let tv := (s.core k).mx.gang
  let s := if x.ganged then dissolveGang s k else s
  let x := ((s.core k).mx.queue.head?).getD x
  .next (stopAt (s.modMx k fun m => { m with was := tv }) k x c row)

/-- The head operation completes (08 R187). -/
def finishOp (s : State) (k : Nat) (x : MxOp) : State :=
  (s.modMx k fun m => { m with queue := m.queue.drop 1 }).modMxCtx k x.ctx fun c => { c with outstanding := c.outstanding - 1 }

/-- An operation of which no row, unit or edge has fired (08 R206). -/
def MxOp.fresh (x : MxOp) : Bool :=
  decide (x.row = 0) && decide (x.written = 0) && x.fired.isEmpty && !x.joined && (decide ((mmOf x.act).isSome) || !x.begun)

/-- An operation that has not begun and whose context is switched out does not begin (08 R206; 21 R395, R398). -/
def mxStopped (s : State) (k : Nat) (x : MxOp) : Bool :=
  let c := s.ctx k x.ctx
  x.fresh && (c.switch.isSome || (s.core k).regs.csw.isSome || c.bound.any fun q => (s.ply k q).frozen)

/-- A slice register. -/
def Matrix.slice (m : Matrix) (i : Nat) : MxSlice := Tab.look {} m.slices i

/-- s with a slice register replaced. -/
def setSlice (s : State) (k i : Nat) (f : MxSlice → MxSlice) : State := s.modMx k fun m => { m with slices := Tab.set m.slices i (f (m.slice i)) }

/-- n bytes of WB or AB for the array: the bytes, or the cause that stops the operation (08 R189, R204; 17 R333). -/
def mxRead (s : State) (k sp off n : Nat) : Except Cause (List Byte) :=
  if n = 0 then .ok []
  else if bufLast + 1 < off + n then .error .matrixBounds
  else if bufShut (s.core k) sp off n then .error .bufferAccess
  else if bufBad s k sp off n then .error .memUncorrectable
  else .ok (bufSeen s k sp off n)

/-- Value i of packed elements of w bits, the lower position in the low bits (06 R144; 08 R186). -/
def packed (w : Nat) (bs : List Byte) (i : Nat) : Nat := (ofBytesLE bs >>> (w * i)) % 2 ^ w

/-- The 32 values of a PAIR unit, or none where a quad's positions do not rise (08 R190, R191). -/
def pairValues (w : Nat) (bs : List Byte) (ix : Nat) : Option (List Nat) :=
  if (List.range 8).all fun q => decide (nbits ix (4 * q) 2 < nbits ix (4 * q + 2) 2) then
    some ((List.range 32).map fun i =>
      let q := i / 4
      if i % 4 = nbits ix (4 * q) 2 then packed w bs (2 * q) else if i % 4 = nbits ix (4 * q + 2) 2 then packed w bs (2 * q + 1) else 0)
  else none

/-- The payload bytes of a unit by its mode (08 R190). -/
def unitBytes (w : Nat) : Nat → Nat
  | 1 => 4 * w
  | 2 => 2 * w + 4
  | _ => 0

/-- The values of a unit (08 R190, R191). -/
def unitValues (w mode : Nat) (bs : List Byte) : Option (List Nat) :=
  match mode with
  | 0 => some (List.replicate 32 0)
  | 1 => some ((List.range 32).map (packed w bs))
  | 2 => pairValues w (bs.take (2 * w)) (ofBytesLE (bs.drop (2 * w)))
  | _ => none

/-- MX.LDB loads its next unit; the first clears VALID, AEN and BEN, the last sets VALID (08 R190, R191). -/
def execMxLdbExecute (core : Nat) (s : State) : Out :=
  match (s.core core).mx.queue with
  | [] => .next s
  | x :: _ =>
    match x.act with
    | .mxLdb _ sl bt =>
      let units := 128 * (4 * MTy.p bt)
      if units ≤ x.row ∨ mxStopped s core x then .next s
      else
        let s := if x.begun then s else setSlice s core sl.val fun y => { y with valid := false, aen := false, ben := false }
        let u := x.row
        let base := bufAddr x.a
        match mxRead s core 2 (base + u / 4) 1 with
        | .error c => mxFault s core x c u
        | .ok mb =>
          let mode := nbits (ofBytesLE mb) (2 * (u % 4)) 2
          let w := MTy.bits bt
          match (if mode = 3 then .error .matrixFormat else mxRead s core 2 (base + 128 * MTy.p bt + x.written) (unitBytes w mode)) with
          | .error c => mxFault s core x c u
          | .ok bs =>
            match unitValues w mode bs with
            | none => mxFault s core x .matrixFormat u
            | some vs =>
              let s := setSlice s core sl.val fun y =>
                { y with vals := vs.zipIdx.foldl (fun t v => Tab.put 0 t ((32 * (u / 128) + v.2) * 128 + u % 128) v.1) y.vals }
              let s := if u + 1 = units then setSlice s core sl.val fun y => { y with bt := bt, valid := true } else s
              .next (setOp (seenOnce s core) core { x with begun := true, row := u + 1, written := x.written + unitBytes w mode })
    | _ => .next s

/-- MX.SCALE sets the scale state of its slice (08 R192). -/
def execMxScaleExecute (core : Nat) (s : State) : Out :=
  match (s.core core).mx.queue with
  | [] => .next s
  | x :: _ =>
    match x.act with
    | .mxScale _ sl aen ben =>
      let y := (s.core core).mx.slice sl.val
      if x.begun ∨ mxStopped s core x then .next s
      else if !y.valid then mxFault s core x .matrixState 0
      else if (aen ∨ ben) ∧ !(MTy.scaled y.bt) then mxFault s core x .matrixFormat 0
      else
        let s := setSlice s core sl.val fun y => { y with aen := aen, ben := ben }
        let done (s : State) : Out := .next (setOp s core { x with begun := true })
        if !ben then done s
        else
          match mxRead s core 2 (bufAddr x.a) (128 * (4 * MTy.p y.bt)) with
          | .error c => mxFault s core x c 0
          | .ok bs => done (setSlice (seenOnce s core) core sl.val fun y => { y with scales := (bs.map BitVec.toNat).zipIdx.map fun v => (v.2, v.1) })
    | _ => .next s

/-- The value of a matrix element (06 R142 to R144; 08 R186). -/
def mtyNum (t : MTy) (x : Nat) : Num :=
  match t with
  | .bf16 => decodeFp bf16 x
  | .f16 => decodeFp fp16 x
  | .e4m3 => decodeFp e4m3 x
  | .e5m2 => decodeFp e5m2 x
  | .e2m1 => decodeFp e2m1 x
  | .i8 => numOfInt (sextN x 8)
  | .i4 => numOfInt (sextN x 4)

/-- A value under an E8M0 block scale (06 R142, R153). -/
def scaleNum (sc : Nat) (v : Num) : Num :=
  if sc = 255 then .nan
  else match v with
    | .fin b m e => .fin b m (e + sc - 127)
    | v => v

/-- A value of a degraded operation: rounded to E4M3 (23 R414). -/
def degradeNum (deg : Bool) (v : Num) : Num := if deg then decodeFp e4m3 (roundFp e4m3 .rne 0 v) else v

/-- The values of an A row, scaled (06 R153; 08 R186, R194). -/
def rowNums (t : MTy) (aen deg : Bool) (r : MxRow) : List Num :=
  (List.range (MTy.ks t)).map fun i =>
    let v := mtyNum t (packed (MTy.bits t) r.bytes i)
    degradeNum deg (if aen then scaleNum ((r.scales[i / 32]?).getD 0).toNat v else v)

/-- Value k of column n of a slice, scaled (06 R153; 08 R190, R192). -/
def sliceNum (y : MxSlice) (deg : Bool) (i n : Nat) : Num :=
  let v := mtyNum y.bt (Tab.look 0 y.vals (i * 128 + n))
  degradeNum deg (if y.ben then scaleNum (Tab.look 0 y.scales (4 * MTy.p y.bt * n + i / 32)) v else v)

/-- |x| < t. -/
def absBelow (t x : Num) : Bool :=
  match x, t with
  | .nan, _ | _, .nan | .inf _, _ => false
  | _, .inf _ => true
  | .zero _, .zero _ => false
  | .zero _, .fin .. => true
  | .fin .., .zero _ => false
  | .fin _ m e, .fin _ m' e' => let e0 := if e < e' then e else e'; decide (m * 2 ^ (e - e0).toNat < m' * 2 ^ (e' - e0).toNat)

/-- A product: a skipped one counts as +0 (06 R154; 08 R196). -/
def product (skip : Bool) (a b : Num) : Num := if skip then .zero false else mulNum a b

/-- An FP32 encoding as a value. -/
def num32 (v : Nat) : Num := decodeFp fp32 v

/-- One group of R154, or of R155 for an int class, added to a cell. -/
def addGroup (float : Bool) (c : Nat) (ps : List Num) : Nat :=
  let s := sumNum .rne ps
  if float then roundFp fp32 .rne 0 (sumNum .rne [num32 c, num32 (roundFp fp32 .rne 0 s)])
  else truncI (satS (sextN c 32 + Num.atExp 0 s) 32) 32

/-- mx_sum of R154, and the i32 sum of R155, for one cell. -/
def cellSum (float : Bool) (c : Nat) (ps : List Num) : Nat :=
  (List.range (cdiv ps.length 32)).foldl (fun c g => addGroup float c ((ps.drop (32 * g)).take 32)) c

/-- Where a cell of an accumulator bank lies in CB (11 R249). -/
def cellAt (bank row col : Nat) : Nat := 0x10000 * bank + 512 * row + 4 * col

/-- A cell of a bank. -/
def cellOf (c : CoreSt) (bank row col : Nat) : Nat := ofBytesLE (getBytes c.cb (cellAt bank row col) 4)

/-- A row of a bank is uncorrectable (08 R189). -/
def rowBad (c : CoreSt) (bank row : Nat) : Bool := (List.range 512).any fun i => Tab.look false c.bad (3 * 2 ^ 20 + cellAt bank row 0 + i)

/-- A bank row written. -/
def setRow (s : State) (k bank row : Nat) (vs : List Nat) : State :=
  s.modCore k fun c => { c with cb := putBytes c.cb (cellAt bank row 0) (vs.flatMap fun v => bytesLE v 4) }

/-- CLASS of a bank is float (08 R185). -/
def Matrix.floatBank (m : Matrix) (bank : Nat) : Bool := !(m.intBank.getLsbD bank)

/-- The members of a gang row, its leader among them (08 R202). -/
def gangRow (s : State) (k : Nat) (g : GangMem) : List Nat :=
  let y := Tab.look {} (s.die (dieOf k)).gangs g.gid
  (y.members.filter fun (c, r, _) => decide (r = g.row) && !(y.left.contains c)).map Prod.fst

/-- The gang of a core is formed, and this operation was issued before any member of it left (08 R201). -/
def gangReady (s : State) (k : Nat) (x : MxOp) : Bool :=
  !x.late && (s.core k).mx.gang.any fun g => (Tab.look {} (s.die (dieOf k)).gangs g.gid).formed

/-- The execution checks of an MM, MMZ or MMR before its first row (08 R194, R195, R201). -/
def mmCheck (s : State) (k : Nat) (x : MxOp) (o : MmOpts) (zero : Bool) : Option Cause :=
  let m := (s.core k).mx
  let y := m.slice o.s.val
  if o.gang ∧ !(gangReady s k x) then some .matrixState
  else if o.gang ∧ o.pres ∧ m.gang.any (fun g => decide (g.col ≠ 0)) then some .matrixState
  else if !y.valid then some .matrixState
  else if !(pairable o.at_ y.bt) then some .matrixFormat
  else if !zero ∧ m.floatBank o.bank.val ≠ MTy.float o.at_ then some .matrixState
  else none

/-- An MM or MMZ runs degraded (23 R414). -/
def degrades (s : State) (k : Nat) (x : MxOp) (o : MmOpts) (redundant : Bool) : Bool :=
  let half (t : MTy) : Bool := decide (t = .bf16 ∨ t = .f16)
  !redundant && (s.die (dieOf k)).degrade && bit (s.ctx k x.ctx).pfloor 0 && half o.at_ && half ((s.core k).mx.slice o.s.val).bt

/-- An MM, MMZ or MMR begins: CLASS of a bank that is zeroed, DEGR, and THR as the operations before it left it (08 R194, R196; 23 R414) (log 64). -/
def beginMm (s : State) (k : Nat) (x : MxOp) (o : MmOpts) (zero redundant : Bool) : State × MxOp :=
  let deg := degrades s k x o redundant
  let s := if zero then s.modMx k fun m => { m with intBank := setBit m.intBank o.bank.val (!(MTy.float o.at_)) } else s
  let s := if deg then s.modCtx k x.ctx fun c => { c with pfloor := c.pfloor ||| 0x100 } else s
  (s, { x with begun := true, degraded := deg, thr := (s.ctx k x.ctx).mx.thr })

/-- Row j of an operation is read from AB, with its scales where AEN is set (08 R193, R195). -/
def readRow (s : State) (k : Nat) (x : MxOp) (o : MmOpts) (j : Nat) : Except Cause MxRow :=
  let y := (s.core k).mx.slice o.s.val
  match mxRead s k 1 (bufAddr x.a + 256 * aStride x.a * j) 256 with
  | .error c => .error c
  | .ok bs =>
    if y.aen then
      match mxRead s k 1 (aScales x.a + 32 * j) (4 * MTy.p o.at_) with
      | .error c => .error c
      | .ok sc => .ok { bytes := bs, scales := sc }
    else .ok { bytes := bs }

/-- The AB row that holds row j of an operation, by which its FULL bit goes also under a shadow window that maps the row elsewhere (log 102). -/
def abRow (x : MxOp) (j : Nat) : Nat := (bufAddr x.a + 256 * aStride x.a * j) / 256

/-- The conditions of R195 on the next row of an operation that has begun: FULL, free slots in the row queues of its gang row, or a row in its own. -/
def rowOpen (s : State) (k : Nat) (x : MxOp) (o : MmOpts) : Bool :=
  let m := (s.core k).mx
  let full := !o.pres || Tab.look false m.full (abRow x x.row)
  if o.gang then
    match m.gang with
    | none => true
    | some g =>
      if g.col ≠ 0 then !m.rowq.isEmpty
      else full && (gangRow s k g).all fun c => decide ((s.core c).mx.rowq.length + (s.core c).mx.coming.length < 8)
  else full

/-- A row read from AB with PRES clears its FULL bit; the write that set it is ordered before the read (08 R195, R204). -/
def takeFull (s : State) (k : Nat) (x : MxOp) (o : MmOpts) (j : Nat) : State :=
  if o.pres then s.modMx k fun m => { m with full := Tab.put false m.full (abRow x j) false } else s

/-- The head operation fires its next row, read from AB or taken from the row queue; a gang leader sends it to the members of its gang row, itself among them (08 R195, R202). A follower whose slice scales rows that came without scales takes free ones. -/
def fireRow (s : State) (k : Nat) (x : MxOp) (o : MmOpts) : Out :=
  let m := (s.core k).mx
  let j := x.row
  let s := setOp s k x
  let x1 := { x with row := j + 1 }
  let read (go : State → MxRow → State) : Out :=
    let s0 := if o.pres then settleOlds s k (abRow x j) else s
    match readRow s0 k x o j with
    | .error c => mxFault s k x c j
    | .ok r => .next (go (takeFull (seenOnce s0 k) k x o j) r)
  if !(rowOpen s k x o) then .next s
  else if o.gang then
    match m.gang with
    | none => mxFault s k x .matrixState j
    | some g =>
      if g.col = 0 then
        read fun s r => (gangRow s k g).foldl (fun s c => s.modMx c fun m => { m with coming := m.coming ++ [r] }) (setOp s k x1)
      else match m.rowq with
        | [] => .next s
        | r :: rest =>
          let (sc, s) := if (m.slice o.s.val).aen ∧ r.scales.isEmpty then freeBytes s (4 * MTy.p o.at_) else (r.scales, s)
          .next (setOp (s.modMx k fun m => { m with rowq := rest }) k { x1 with fired := x.fired ++ [{ r with scales := sc }] })
  else read fun s r => setOp s k { x1 with fired := x.fired ++ [r] }

/-- A failure that awaited the rows fired before it takes effect (08 R189). -/
def failSettled (s : State) (k : Nat) (x : MxOp) : Out :=
  match x.fail with
  | some (c, row) => if x.settled then .next (failOp s k x c row) else .next s
  | none => .next s

/-- A row of the head MM, MMZ or MMR fires; before the first the execution checks are made (08 R189, R194, R195). -/
def execMmRowFire (core : Nat) (s : State) : Out :=
  match (s.core core).mx.queue with
  | [] => .next s
  | x :: _ =>
    match mmOf x.act with
    | none => .next s
    | some (o, zero, redundant) =>
      if x.fail.isSome then failSettled s core x
      else if cRows x.b ≤ x.row ∨ mxStopped s core x then .next s
      else if x.begun then fireRow s core x o
      else
        match mmCheck s core x o zero with
        | some c => mxFault s core x c 0
        | none =>
          let (s, x) := beginMm s core x o zero redundant
          fireRow (setOp s core x) core x o

/-- A row that the leader of a gang row fired enters the row queue of a member; its own array takes up its own row there at once (08 R202) (log 103). -/
def execGangRowArrival (core : Nat) (s : State) : Out :=
  let m := (s.core core).mx
  match m.coming with
  | [] => .next s
  | r :: rest =>
    let s1 := s.modMx core fun m => { m with coming := rest }
    match m.gang, m.queue with
    | some g, x :: _ =>
      if g.col = 0 then .next (setOp s1 core { x with fired := x.fired ++ [r] })
      else .next (s1.modMx core fun m => { m with rowq := m.rowq ++ [r] })
    | _, _ => .next (s1.modMx core fun m => { m with rowq := m.rowq ++ [r] })

/-- The magnitude of a value. -/
def Num.abs : Num → Num
  | .fin _ m e => .fin false m e
  | .inf _ => .inf false
  | .zero _ => .zero false
  | .nan => .nan

/-- The error of a sampled row: the sum over the columns of the magnitude of what the skipped elements would have added, exact, rounded up (08 R197). -/
def sampleError (y : MxSlice) (deg : Bool) (av : List (Num × Nat)) : Num :=
  let cols := (List.range 128).map fun n => Num.abs (sumNum .rne (av.map fun a => mulNum a.1 (sliceNum y deg a.2 n)))
  num32 (roundFp fp32 .rup 0 (sumNum .rne cols))

/-- The sampling state after a row of an operation with APX, and whether the row exceeds BOUND; `av` lists the skipped elements that are not 0 (08 R197). -/
def sampleRow (c : MxCtx) (y : MxSlice) (deg : Bool) (av : List (Num × Nat)) : MxCtx × Bool :=
  if c.sn = 0 then (c, false)
  else if c.scnt + 1 < c.sn then ({ c with scnt := c.scnt + 1 }, false)
  else
    let err := roundFp fp32 .rup 0 (sumNum .rup [num32 c.err.toNat, sampleError y deg av])
    ({ c with err := BitVec.ofNat 32 err, scnt := 0 },
      match num32 err, num32 c.bound.toNat with
      | .nan, _ | _, .nan => false
      | .inf _, .inf _ => false
      | .inf _, _ => true
      | e, b => absBelow e b)

/-- The oldest fired row reaches its bank row (06 R154, R155; 08 R194, R196 to R198). The two passes of MMR form the same exact sums unless the array errs in the row: the row is then not written, and the operation faults (log 13). -/
def execAccumulatorRowWrite (core : Nat) (s : State) : Out :=
  match (s.core core).mx.queue with
  | [] => .next s
  | x :: _ =>
    match mmOf x.act, x.fired with
    | some (o, zero, redundant), r :: rest =>
      let c := s.core core
      let y := c.mx.slice o.s.val
      let float := MTy.float o.at_
      let row := cRow0 x.b + x.written
      let av := rowNums o.at_ y.aen x.degraded r
      let skip (a : Num) : Bool := o.apx && absBelow (num32 x.thr.toNat) a
      let cut (s : State) (cause : Cause) : Out :=
        mxFault ((setOp s core { x with fired := [] }).modMx core fun m => { m with coming := [] }) core { x with fired := [] } cause x.written
      if redundant ∧ c.mx.err then cut (s.modMx core fun m => { m with err := false }) .matrixMismatch
      else if !zero ∧ rowBad c o.bank.val row then cut s .memUncorrectable
      else
        let cell (n : Nat) : Nat :=
          cellSum float (if zero then 0 else cellOf c o.bank.val row n) (av.zipIdx.map fun a => product (skip a.1) a.1 (sliceNum y x.degraded a.2 n))
        let s := setRow s core o.bank.val row ((List.range 128).map cell)
        let nonzero (v : Num) : Bool := match v with
          | .zero _ => false
          | _ => true
        let (mc, over_) := if o.apx then sampleRow (c.ctx x.ctx).mx y x.degraded (av.zipIdx.filter fun a => skip a.1 && nonzero a.1) else ((c.ctx x.ctx).mx, false)
        let s := s.modMxCtx core x.ctx fun _ => mc
        if over_ then cut s .approxBound
        else .next (setOp s core { x with fired := rest, written := x.written + 1 })
    | _, _ => .next s

/-- A drained cell in its destination format (06 R148, R151, R152; 08 R199). -/
def drainCell (dt : DrainTy) (rm : Rm) (draw v : Nat) : Nat :=
  match dt with
  | .bf16 => convNum .bf16 rm draw (num32 v)
  | .f16 => convNum .f16 rm draw (num32 v)
  | .e4m3 => convNum .e4m3 rm draw (num32 v)
  | .e5m2 => convNum .e5m2 rm draw (num32 v)
  | .e2m1 => convNum .e2m1 rm draw (num32 v)
  | .i8 => truncI (satS (sextN v 32) 8) 8
  | .raw => v

/-- DT fits the CLASS of a bank (08 R199). -/
def drainFits (dt : DrainTy) (float : Bool) : Bool :=
  match dt with
  | .raw => true
  | .i8 => !float
  | _ => float

/-- Packing values of w bits, the first in the low bits. -/
def pack (w : Nat) (vs : List Nat) : Nat := vs.foldr (fun v a => a * 2 ^ w + v % 2 ^ w) 0

/-- MX.DRAIN converts and writes its next row (06 R150; 08 R199). -/
def execMxDrainExecute (core : Nat) (s : State) : Out :=
  match (s.core core).mx.queue with
  | [] => .next s
  | x :: _ =>
    match x.act with
    | .mxDrain _ _ _ clr mark bank dt =>
      let c := s.core core
      let j := x.written
      let row := cRow0 x.b + j
      if cRows x.b ≤ j ∨ mxStopped s core x ∨ (x.rm = .sr ∧ !(s.mayDraw core 64)) then .next s
      else if !(drainFits dt (c.mx.floatBank bank.val)) then mxFault s core x .matrixFormat 0
      else if rowBad c bank.val row then mxFault s core x .memUncorrectable j
      else if bufShut c 1 (bufAddr x.a + drainRow dt * j) (drainRow dt) then mxFault s core x .bufferAccess j
      else
        let (us, g) := if x.rm = .sr then srDraws 128 c.seed else ([], c.seed)
        let vs := (List.range 128).map fun n => drainCell dt x.rm ((us[n]?).getD 0) (cellOf c bank.val row n)
        let size := drainRow dt
        let off := bufAddr x.a + size * j
        let s := if x.rm = .sr then s.setSeed core 64 g else s
        let s := bufPut s core 1 off (bytesLE (pack (size / 16) vs) size)
        let s := if mark then markFull s core off size else s
        let s := if clr then setRow s core bank.val row (List.replicate 128 0) else s
        .next (setOp s core { x with begun := true, written := j + 1 })
    | _ => .next s

/-- The samples that an edge covers, as a mask of 256 bits (08 R203). -/
def edgeMask (a b c : Int) (sx sy : Nat) : Nat :=
  (List.range 256).foldl (fun m i =>
    let v := a * ((256 * (i % 16) + sx : Nat) : Int) + b * ((256 * (i / 16) + sy : Nat) : Int) + c
    if 0 ≤ v then m + 2 ^ i else m) 0

/-- The masks of MX.EDGE are written once its last edge is taken, in ascending groups, each whole (08 R203, R205). -/
def writeMasks (s : State) (k : Nat) (x : MxOp) (g : Nat) : Nat → List Nat → Out
  | m, [] => .next (setOp s k { x with written := m })
  | m, v :: l =>
    let off := bufAddr x.b + 32 * m
    if bufShut (s.core k) 1 off 32 then mxFault s k x .bufferAccess (g * (m + 1) - 1)
    else writeMasks (bufPut s k 1 off (bytesLE v 32)) k x g (m + 1) l

/-- MX.EDGE evaluates its next edge; after the last the masks are written (08 R203 to R205). -/
def execMxEdgeExecute (core : Nat) (s : State) : Out :=
  match (s.core core).mx.queue with
  | [] => .next s
  | x :: _ =>
    match x.act with
    | .mxEdge _ _ sx sy g ne =>
      let e := x.row
      if mxStopped s core x ∨ x.written ≠ 0 then .next s
      else if ne.toNat + 1 ≤ e then writeMasks s core x (g.val + 1) 0 x.masks
      else
        match mxRead s core 1 (bufAddr x.a + 16 * e) 16 with
        | .error c => mxFault s core x c e
        | .ok bs =>
          let v (o : Nat) : Int := sextN (fld bs o 4) 32
          let m := edgeMask (v 0) (v 4) (v 8) sx.toNat sy.toNat
          let mask := if e % (g.val + 1) = 0 then m else x.mask &&& m
          let masks := if (e + 1) % (g.val + 1) = 0 then x.masks ++ [mask] else x.masks
          .next (setOp (seenOnce s core) core { x with begun := true, row := e + 1, mask := mask, masks := masks })
    | _ => .next s

/-- What MX.GANG finds in the gang table (08 R201): a cause, or the entry with this core joined. A core already in a gang is refused before the table is looked up (log 103). -/
def gangJoin (s : State) (k : Nat) (a : Word) : Except Cause Gang :=
  let (gid, gr, gc, row, col) := gangAsk a
  let t := (s.die (dieOf k)).gangs
  if (s.core k).mx.gang.isSome then .error .matrixState
  else match Tab.find t gid with
    | none => .ok { part := s.partOf k, rows := gr, cols := gc, members := [(k, row, col)], formed := decide (gr * gc = 1) }
    | some y =>
      if y.part ≠ s.partOf k then .error .permission
      else if y.rows ≠ gr ∨ y.cols ≠ gc ∨ (y.members.any fun m => decide (m.2 = (row, col))) ∨ !y.left.isEmpty then .error .matrixState
      else .ok { y with members := y.members ++ [(k, row, col)], formed := decide (y.members.length + 1 = gr * gc) }

/-- The MX.GANG at which a member of a gang that is now formed waits has nothing left to do but complete (08 R201). -/
def gangDone (s : State) (k : Nat) : State :=
  match (s.core k).mx.queue with
  | x :: _ => if x.joined then setOp s k { x with written := 1 } else s
  | [] => s

/-- MX.GANG joins at the head of its queue; the gang is formed once every member has joined (08 R201). -/
def execGangFormed (core : Nat) (s : State) : Out :=
  match (s.core core).mx.queue with
  | [] => .next s
  | x :: _ =>
    match x.act with
    | .mxGang _ =>
      if x.joined ∨ mxStopped s core x then .next s
      else match gangJoin s core x.a with
        | .error c => mxFault s core x c 0
        | .ok y =>
          let (gid, _, _, row, col) := gangAsk x.a
          let s := s.modDie (dieOf core) fun d => { d with gangs := Tab.set d.gangs gid y }
          let s := (setOp s core { x with begun := true, joined := true }).modMx core fun m => { m with gang := some { gid := gid, row := row, col := col } }
          .next (if y.formed then y.members.foldl (fun s m => gangDone s m.1) s else s)
    | _ => .next s

/-- A core leaves its gang; the last to leave frees the gang's number (08 R201). -/
def leaveGang (s : State) (k : Nat) : State :=
  match (s.core k).mx.gang with
  | none => s
  | some g =>
    let s := s.modMx k Matrix.ungang
    s.modDie (dieOf k) fun d =>
      let y := Tab.look {} d.gangs g.gid
      let left := y.left ++ [k]
      { d with gangs := if y.members.all fun m => left.contains m.1 then Tab.drop d.gangs g.gid else Tab.set d.gangs g.gid { y with left := left } }

/-- The head operation completes once all its work is done; MX.SAMP, MX.THR and MX.GANG.leave act here (08 R187, R192, R197, R200, R201) (log 64). -/
def execMatrixOpComplete (core : Nat) (s : State) : Out :=
  let m := (s.core core).mx
  match m.queue with
  | [] => .next s
  | x :: _ =>
    let done (b : Bool) (s' : State) : Out := if b then .next (finishOp s' core x) else .next s
    match x.act with
    | .mxLdb _ _ bt => done (decide (x.row = 128 * (4 * MTy.p bt))) s
    | .mxScale .. => done x.begun s
    | .mxSamp .. => done (!(mxStopped s core x)) (s.modMxCtx core x.ctx fun c => { c with sn := bits x.a 0 16, bound := x.b.setWidth 32, err := 0, scnt := 0 })
    | .mm .. | .mmz .. | .mmr .. => done (decide (x.written = cRows x.b) && x.fail.isNone) s
    | .mxDrain .. => done (decide (x.written = cRows x.b)) s
    | .mxEdge _ _ _ _ _ ne => done (decide (x.row = ne.toNat + 1) && decide (x.written ≠ 0)) s
    | .mxThr _ => done (!(mxStopped s core x)) (s.modMxCtx core x.ctx fun c => { c with thr := thrOf x.a })
    | .mxGang _ => done (x.joined && decide (x.written = 1)) s
    | .mxGangLeave => done (m.rowq.isEmpty && m.coming.isEmpty && !(mxStopped s core x)) (leaveGang s core)
    | _ => done true s

end Sys2Proof.Machine
end

