-- ==== Sys2Proof/Machine/SaveImage.lean ====
section
/-! DEFINITION. The save image of a context and its ply: its layout, and what it restores (21 R395 to R397, R399). -/
namespace Sys2Proof.Machine

/-- Bytes at an offset of an image. -/
abbrev Piece := Nat × List Byte

/-- The bytes of a dictionary bank (03 R53). -/
def bankBytes (b : Tab DictEntry) : List Byte :=
  (List.range 256).flatMap fun i => let e := Tab.look {} b i; bytesOfWord e.template ++ bytesLE e.desc.toNat 4 ++ bytesLE 0 4

/-- A dictionary bank from its bytes (03 R53). -/
def bankOf (bs : List Byte) : Tab DictEntry :=
  (List.range 256).foldl (fun t i => Tab.put {} t i (entryOf (cut bs (16 * i) 16))) []

/-- The two bytes that a rule's own state takes (21 R397). -/
def ruleState (x : EPly) (r : Nat) (a : Instr) : Nat :=
  match a with
  | .mergeu .. => let m := Tab.look {} x.mergeu r; b2n m.lastB + 2 * b2n m.endA + 4 * b2n m.xA + 8 * b2n m.endB + 16 * b2n m.xB
  | .sink .. => let m := Tab.look {} x.sinks r; m.count + 512 * b2n m.err
  | .permit .. => x.infl.toNat
  | _ => 0

/-- A rule's own state from its two bytes (21 R397). -/
def withRuleState (x : EPly) (r : Nat) (a : Instr) (v : Nat) : EPly :=
  match a with
  | .mergeu .. =>
    { x with mergeu := Tab.set x.mergeu r { lastB := v.testBit 0, endA := v.testBit 1, xA := v.testBit 2, endB := v.testBit 3, xB := v.testBit 4 } }
  | .sink .. => { x with sinks := Tab.set x.sinks r { count := nbits v 0 9, err := v.testBit 9 } }
  | .permit .. => { x with infl := BitVec.ofNat 16 v }
  | _ => x

/-- The tokens of ply q in an input channel, oldest first. -/
def plyToks (c : CoreSt) (q e ch : Nat) : List Token := (c.fab.chan (chanKey e ch)).toks.filter fun t => decide (t.ply = q)

/-- A token entry (21 R396); `far` for one in a pass. -/
def tokBytes (t : Token) (far : Option Nat) : List Byte :=
  bytesLE t.data.toNat 8 ++ bytesLE (t.tag % 16 + 16 * b2n t.e + 32 * b2n t.x + 64 * b2n (decide (t.mark = .snap)) + 128 * b2n far.isSome) 1 ++
  bytesLE (far.getD 0) 1 ++ List.replicate 6 0

/-- A token from its entry, with its far index where it was in a pass (21 R396). -/
def tokOf (q : Nat) (bs : List Byte) : Token × Option Nat :=
  let f := fld bs 8 1
  ({ data := w64 (fld bs 0 8), tag := f % 16, ply := q, e := f.testBit 4, x := f.testBit 5, mark := if f.testBit 6 then .snap else .none },
   if f.testBit 7 then some (fld bs 9 1 % 8) else none)

/-- The token entries of ply q: channels in the order of the occupancy bitmaps, then the passes of its far routes (21 R396). -/
def tokenEntries (c : CoreSt) (q : Nat) : List (List Byte) :=
  ((List.range 256).flatMap fun i => (plyToks c q (i / 4) (i % 4)).map fun t => tokBytes t none) ++
  (List.range 8).flatMap fun i => ((Tab.look {} (c.fab.ply q).fars i).passes.reverse.flatten).map fun t => tokBytes t (some i)

/-- The held request of an element in ply q (21 R397). -/
def heldReq (c : CoreSt) (q e : Nat) : Option Req := (c.fab.reqsOf e).find? fun y => decide (y.ply = q) && decide (y.st = .held)

/-- The occupancy bitmap of an element in ply q (21 R397). -/
def occupancy (c : CoreSt) (q e : Nat) : Nat := ((List.range 4).map fun ch => 16 ^ ch * (2 ^ min 4 (plyToks c q e ch).length - 1)).sum

/-- An element record (21 R397). -/
def elemRecord (c : CoreSt) (q e : Nat) : List Byte :=
  let p := c.fab.ply q
  let x := p.elem e
  let h := heldReq c q e
  ((List.range 8).flatMap fun i => bytesLE (Tab.look 0 x.d i).toNat 8) ++ bytesLE (x.p.toNat / 2 * 2) 1 ++ bytesLE (x.k % 16) 1 ++ bytesLE (16 * x.nt) 1 ++
  bytesLE x.redDone.toNat 1 ++ bytesLE (occupancy c q e) 2 ++ bytesLE (h.elim 0 fun y => y.rule + 16) 1 ++ bytesLE 0 1 ++
  bytesLE (x.rv.queue + x.rv.count * 2 ^ 16 + b2n x.rv.amp * 2 ^ 32) 8 ++
  ((List.range 16).flatMap fun r => bytesLE (ruleState x r (Tab.look {} (p.rulesOf e) r).act) 2) ++
  bytesLE (h.elim 0 fun y => y.ea.toNat) 8 ++ bytesLE (h.elim 0 fun y => y.opnd.toNat) 8

/-- An element from its record, over the ply that its configuration image gave (21 R397). -/
def elemOf (p : Ply) (e : Nat) (bs : List Byte) : EPly :=
  let nt := fld bs 0x42 1
  let x : EPly :=
    { d := (List.range 8).foldl (fun t i => Tab.put 0 t i (w64 (fld bs (8 * i) 8))) []
      p := BitVec.ofNat 8 (fld bs 0x40 1) ||| 1
      k := fld bs 0x41 1 % 16, nt := nt / 16
      redDone := BitVec.ofNat 8 (fld bs 0x43 1)
      rv := { queue := fld bs 0x48 2 % 2 ^ 14, count := fld bs 0x4A 2 % 512, amp := (fld bs 0x4C 1).testBit 0 } }
  (p.rulesOf e).foldl (fun x (r, y) => withRuleState x r y.act (fld bs (0x50 + 2 * r) 2)) x

/-- A stream record of ply q (21 R396). -/
def streamRecord (p : SPort) (q : Nat) : List Byte :=
  let desc (d : Option SDesc) : List Byte := (d.map descBytes).getD (List.replicate 64 0)
  let run := p.run.filter fun r => decide (r.cmd.ply = q)
  let cmds := p.queue.filter fun x => decide (x.ply = q)
  desc ((p.armed.filter fun x => decide (x.2 = q)).map Prod.fst) ++ desc (run.map (·.cmd.desc)) ++
  ((List.range 4).flatMap fun i => desc ((cmds[i]?).map (·.desc))) ++ bytesLE (run.elim 0 (·.e)) 8 ++
  bytesLE (cmds.length + 8 * (if run.isNone then 0 else if p.faulted then 2 else 1) + 32 * b2n p.err + 64 * b2n run.isSome) 1 ++ List.replicate 119 0

/-- A descriptor slot of a stream record: IND is told by bits that only STR.IND leaves zero (12 R268). -/
def slotDesc (bs : List Byte) : SDesc := descOf (allZero (cut bs 0x0C 8)) bs

/-- A stream port as a record restores it for ply q, its commands numbered from id on: FAULTED, in RUN at its element, or idle (12 R269; 21 R396). -/
def streamOf (p : SPort) (q id : Nat) (bs : List Byte) : SPort :=
  let f := fld bs 0x188 1
  let cmd (i n : Nat) : SCmd := { desc := slotDesc (cut bs (64 * i) 64), ply := q, id := n, after := [] }
  let run : SRun := SRun.at_ { cmd := cmd 1 id } (fld bs 0x180 8)
  { p with
    armed := if allZero (cut bs 0 64) then p.armed else some (slotDesc (cut bs 0 64), q)
    run := if f.testBit 6 then some run else p.run
    queue := p.queue ++ (List.range (f % 8)).map fun i => cmd (2 + i) (id + 1 + i)
    faulted := if f.testBit 6 then decide (f / 8 % 4 = 2) else p.faulted
    err := f.testBit 5 }

/-- The word of a matrix operation, with the rounding mode it was issued with (08 R199). -/
def mxWord (x : MxOp) : Nat :=
  match x.act with
  | .mxDrain a b _ c m k t => ((encode none (.mxDrain a b x.rm c m k t)).getD 0).toNat
  | _ => x.word.toNat

/-- The matrix operation that a word names. -/
def mxInstrOf (w : Code) : Option Instr :=
  let fn := (w.extractLsb' 50 4).toNat
  match (w.extractLsb' 54 8).toNat with
  | 0xA0 => (decA0 fn w).join
  | 0xA1 => (decA1 fn w).join
  | 0xA2 => (decA2 fn w).join
  | 0xA3 => (decA3 fn w).join
  | _ => none

/-- The matrix operations of context n that a switch saves (08 R206). -/
def savedOps (c : CoreSt) (n : Nat) : List MxOp := c.mx.queue.filter fun x => decide (x.ctx = n)

/-- A saved matrix operation (21 R396). -/
def mxEntry (x : MxOp) : List Byte := bytesLE (mxWord x) 8 ++ bytesLE x.a.toNat 8 ++ bytesLE x.b.toNat 8 ++ bytesLE (x.row % 128) 8

/-- A matrix operation of context n from its entry; none where the entry is empty (21 R396). -/
def mxOf (c : Ctx) (n : Nat) (bs : List Byte) : Option MxOp :=
  let w : Code := BitVec.ofNat 64 (fld bs 0 8)
  (mxInstrOf w).map fun i =>
    { ctx := n, word := w, act := i, a := w64 (fld bs 8 8), b := w64 (fld bs 16 8), thr := c.mx.thr
      rm := (match i with
        | .mxDrain _ _ rm _ _ _ _ => rm
        | _ => .rne)
      begun := decide (fld bs 24 8 ≠ 0), row := fld bs 24 8 % 128, written := fld bs 24 8 % 128 }

/-- Engine commands of ply q that a switch saves: those that failed and those queued (21 R396). -/
def savedCmds (e : Engine) (k q : Nat) : List EngCmd := ((e.held ++ e.queue).filter fun x => x.of k q).take 8

/-- The word of an engine command, with the rounding mode that a DYN of XFM stood for (17 R331). -/
def engWord (x : EngCmd) : Nat :=
  match x.kind with
  | .xfm _ m => if bits x.word 14 3 = 6 then x.word.toNat - 6 * 2 ^ 14 + (([Rm.rne, .rtz, .rdn, .rup, .rna].findIdx? (· = m)).getD 6) * 2 ^ 14 else x.word.toNat
  | _ => x.word.toNat

/-- A saved engine command (21 R396). -/
def engEntry (x : EngCmd) : List Byte :=
  bytesLE (engWord x) 8 ++ bytesLE x.a.toNat 8 ++ bytesLE x.b.toNat 8 ++ bytesLE x.c.toNat 8 ++ bytesLE (x.elem % 64 + 64 * (x.rule % 16)) 2 ++ List.replicate 30 0

/-- An engine command of ply q of core k from its entry (17 R323; 21 R396). -/
def engOf (k q : Nat) (bs : List Byte) : Option EngCmd :=
  let w : Code := BitVec.ofNat 64 (fld bs 0 8)
  match decodeElem w with
  | .bad _ => none
  | .ok _ i => (engKindOf i).map fun (kd, _) =>
      { word := w, kind := kd, a := w64 (fld bs 8 8), b := w64 (fld bs 16 8), c := w64 (fld bs 24 8), core := k, ply := q
        elem := fld bs 32 2 % 64, rule := fld bs 32 2 / 64 % 16 }

/-- What a request's action asks for: kind and destination (12 R280). -/
def reqSpec : Instr → Option (ReqKind × EDst)
  | .ldq d _ _ sz _ _ _ => some (.load sz, d)
  | .stq _ _ _ sz _ _ _ => some (.store sz, .null)
  | .amoqAdd d _ _ sz _ _ _ => some (.amo 0 sz, d)
  | .amoqAnd d _ _ sz _ _ _ => some (.amo 1 sz, d)
  | .amoqOr d _ _ sz _ _ _ => some (.amo 2 sz, d)
  | .amoqXor d _ _ sz _ _ _ => some (.amo 3 sz, d)
  | .amoqMin d _ _ sz _ _ _ => some (.amo 4 sz, d)
  | .amoqMax d _ _ sz _ _ _ => some (.amo 5 sz, d)
  | .amoqMinu d _ _ sz _ _ _ => some (.amo 6 sz, d)
  | .amoqMaxu d _ _ sz _ _ _ => some (.amo 7 sz, d)
  | .amoqSwap d _ _ sz _ _ _ => some (.amo 8 sz, d)
  | .xlate d _ _ wr => some (.xlate wr, d)
  | .occl d _ _ => some (.occl, d)
  | _ => none

/-- A held or parked request that a restore brings back (21 R396, R397); its tag is that of `kept` where that is known, else a free one (log 17). -/
def reqOf (p : Ply) (q e r : Nat) (ea opnd : Word) (ray : Bool) (kept : List Req) (free : Nat) : Option Req :=
  let x := Tab.look {} (p.rulesOf e) r
  (reqSpec x.act).map fun (kd, d) =>
    let old := kept.find? fun y => decide (y.elem = e) && decide (y.rule = r) && decide (y.ea = ea)
    { ply := q, rule := r, word := x.word, kind := kd, dst := d, ea := ea, opnd := opnd, elem := e
      tag := (old.map (·.tag)).getD free, ray := ray || (old.map (·.ray)).getD false, parkable := ray || (old.map (·.parkable)).getD false, st := .held }

/-- A parked request (21 R396). -/
def parkEntry (y : Req) : List Byte := bytesLE y.word.toNat 8 ++ bytesLE y.ea.toNat 8 ++ bytesLE y.opnd.toNat 8 ++ bytesLE (y.elem + 64 * y.rule) 8

/-- The ac counted of a slice (09 R222). -/
def Slice.count (x : Slice) (s : State) : Nat := x.used + (s.cyc x.core - x.start)
/-- The ac counted of a region that RGN.OPEN opened (09 R222). -/
def Region.count (g : Region) (s : State) (k : Nat) : Nat := g.used + (s.cyc k - g.start)

/-- The budget count of what context n of core k serves (21 R396). -/
def budgetCount (s : State) (k n : Nat) : Nat :=
  match sliceOn s k n, (s.ctx k n).region with
  | some (_, x), _ => x.count s
  | none, some g => g.count s k
  | none, none => 0

/-- The deadline remainder of a region, signed; a deadline by lines is carried unchanged (09 R211; 21 R396). -/
def deadlineRest (s : State) (k n : Nat) : Nat :=
  match (s.ctx k n).region.bind (·.deadline) with
  | some d => truncI (if d.kind = 1 then keyOf s (dieOf k) d else d.abs) 64
  | none => 0

/-- The order of a ply on its core (21 R392, R396). -/
def placeInOrder (c : CoreSt) (q : Nat) : Nat := (c.fab.order.findIdx? (· = q)).getD 0

/-- The part of a context image that a context with its ply fills (21 R396). -/
def ctxPieces (s : State) (k n : Nat) : List Piece :=
  let c := s.core k
  let x := c.ctx n
  let q := x.bound.getD 0
  let toks := if x.bound.isSome then tokenEntries c q else []
  let when {α : Type} (l : List α) : List α := if x.bound.isSome then l else []
  let fault := x.mx.fault
  [(0, bytesLE 0x4F4E5356 4 ++ bytesLE 1 2 ++
      bytesLE (b2n x.bound.isSome + 2 * b2n (x.region.any fun g => decide (g.state = .opened)) + 4 * b2n x.resume.isSome + 8 * b2n (decide (x.run ≠ .off))) 1),
   (0x08, bytesLE (ctxId k n).toNat 4 ++ bytesLE (s.partOf k) 2 ++ bytesLE (q + 4 * (if x.bound.isSome then placeInOrder c q else 0)) 1),
   (0x10, bytesLE (x.bound.elim 0 fun q => (c.fab.ply q).image.toNat) 8 ++ bytesLE (x.region.elim 0 (·.rcb.toNat)) 8 ++ bytesLE toks.length 2 ++
      bytesLE (x.resume.getD 0) 2),
   (0x40, bytesLE x.predByte 8 ++ (List.range 31).flatMap fun i => bytesLE (Tab.look 0 x.x (i + 1)).toNat 8),
   (0x140, [x.pc.toNat, b2n x.priv, x.tr.cause.toNat, x.tr.epc.toNat, x.tr.tval.toNat, x.tr.tstat.toNat, x.tr.tvec.toNat, x.frm].flatMap fun v => bytesLE v 8),
   (0x180, bytesLE (x.rsv.queue + x.rsv.count * 2 ^ 16) 8 ++ bytesLE x.mx.thr.toNat 4 ++ bytesLE x.mx.sn 2 ++ bytesLE x.mx.scnt 2 ++
      bytesLE x.mx.bound.toNat 4 ++ bytesLE x.mx.err.toNat 4 ++ bytesLE (fault.elim 0 fun f => f.1.code + 128) 8 ++ bytesLE (fault.elim 0 fun f => f.2.toNat) 8 ++
      bytesLE (x.region.elim 0 (·.sinks)) 8 ++ bytesLE (budgetCount s k n) 8 ++ bytesLE (deadlineRest s k n) 8),
   (0x1C0, bytesLE x.dict.activeId.toNat 4 ++ bytesLE x.dict.stagedId.toNat 4 ++ bytesLE x.dict.gen.toNat 4 ++ bytesLE (b2n x.dict.pend + 2 * b2n x.dict.complete) 1),
   (0x200, bankBytes x.dict.active), (0x1200, bankBytes x.dict.staged)] ++
  when ((List.range 64).map fun e => (0x2200 + 128 * e, elemRecord c q e)) ++
  when (((List.range 16).filter fun i => (c.fab.ply q).sports.testBit i).map fun i => (0x4200 + 512 * i, streamRecord (c.stream i) q)) ++
  ((savedOps c n).zipIdx.map fun (x, i) => (0x6200 + 32 * i, mxEntry x)) ++
  when ((List.range 3).flatMap fun e => (savedCmds (c.engine e) k q).zipIdx.map fun (x, i) => (0x6400 + 512 * e + 64 * i, engEntry x)) ++
  when (((c.fab.park.filter fun y => decide (y.ply = q)).take 32).zipIdx.map fun (y, i) => (0x6A00 + 32 * i, parkEntry y)) ++
  toks.zipIdx.map fun (b, i) => (0x6E00 + 16 * i, b)

/-- The bytes from the first of an image to its end, zero where no field is named (21 R396). -/
def imageSize (l : List Piece) : Nat := (l.map fun p => p.1 + p.2.length).foldl max 0

/-- An image is written at a physical address for a partition (21 R396). -/
def writeImage (s : State) (k base : Nat) (l : List Piece) : State :=
  l.foldl (fun s p => if p.2.isEmpty then s else agentWrite s k (base + p.1) p.2) (agentWrite s k base (List.replicate (imageSize l) 0))

/-- A context image as it is read: its header, the fields that fill a context, and its records. -/
def imageBytes (s : State) (k base : Nat) : List Byte × State :=
  let (h, s) := agentRead s k base 0x6E00
  let (t, s) := if fld h 0x20 2 = 0 then ([], s) else agentRead s k (base + 0x6E00) (16 * fld h 0x20 2)
  (h ++ t, s)

/-- The checks of R399 on the header of a context image: MAGIC, VERSION, PARTID, and the fields that must be zero. -/
def headOk (s : State) (k : Nat) (b : List Byte) : Bool :=
  decide (fld b 0 4 = 0x4F4E5356) && decide (fld b 4 2 = 1) && decide (fld b 6 1 < 16) && allZero (cut b 7 1) && decide (fld b 0x0C 2 = s.partOf k) &&
  decide (fld b 0x0E 1 < 16) && allZero (cut b 0x0F 1) && decide (fld b 0x22 2 < 512) && allZero (cut b 0x24 28)

/-- A descriptor slot of a stream record is empty or a descriptor that STR.AFF or STR.IND takes (12 R268, R273). -/
def slotOk (b : List Byte) : Bool := allZero b || descOk (allZero (cut b 0x0C 8)) b

/-- What must be zero in an element record (21 R397). -/
def elemZero (r : List Byte) : Bool :=
  decide (fld r 0x40 1 % 2 = 0) && decide (fld r 0x41 1 < 16) && decide (fld r 0x42 1 % 16 = 0) && decide (fld r 0x46 1 < 32) && allZero (cut r 0x47 1) &&
  decide (fld r 0x48 2 < 2 ^ 14) && decide (fld r 0x4A 2 < 512) && decide (fld r 0x4C 4 < 2)

/-- What must be zero in a stream record (21 R396). -/
def streamZero (r : List Byte) : Bool :=
  ((List.range 6).all fun i => slotOk (cut r (64 * i) 64)) && decide (fld r 0x188 1 < 128) && allZero (cut r 0x189 0x77)

/-- What must be zero in a token entry (21 R396). -/
def tokenZero (r : List Byte) : Bool := decide (fld r 9 1 < if (fld r 8 1).testBit 7 then 8 else 1) && allZero (cut r 10 6)

/-- What must be zero in the records of a context image (21 R396, R397, R399). -/
def recordsZero (b : List Byte) : Bool :=
  ((List.range 64).all fun e => elemZero (cut b (0x2200 + 128 * e) 128)) && ((List.range 16).all fun i => streamZero (cut b (0x4200 + 512 * i) 512)) &&
  ((List.range 24).all fun i => decide (fld b (0x6420 + 64 * i) 2 < 1024) && allZero (cut b (0x6422 + 64 * i) 30)) &&
  ((List.range 32).all fun i => decide (fld b (0x6A18 + 32 * i) 2 < 1024) && allZero (cut b (0x6A1A + 32 * i) 6)) &&
  (List.range (fld b 0x20 2)).all fun i => tokenZero (cut b (0x6E00 + 16 * i) 16)

/-- What must be zero in the fields of a context (01 R16; 03 R53; 21 R396, R399). -/
def fieldsZero (b : List Byte) : Bool :=
  allZero (cut b 0x41 7) && decide (fld b 0x140 8 < 2 ^ 55) && decide (fld b 0x148 8 < 2) && decide (fld b 0x178 8 < 8) &&
  decide (fld b 0x180 2 < 2 ^ 14) && allZero (cut b 0x183 5) && allZero (cut b 0x199 7) && decide (fld b 0x1CC 1 < 4) && allZero (cut b 0x1CD 0x33) &&
  ((List.range 512).all fun i => allZero (cut b (0x20C + 16 * i) 4)) &&
  (List.range 16).all fun i => decide (fld b (0x6218 + 32 * i) 8 < 128)

/-- The bytes that stand for rules with no state of their own are zero, and those of the others hold no more than their state (21 R397). -/
def rulesZero (p : Ply) (b : List Byte) : Bool :=
  (List.range 64).all fun e => (List.range 16).all fun r =>
    let v := fld b (0x2200 + 128 * e + 0x50 + 2 * r) 2
    match (Tab.look {} (p.rulesOf e) r).act with
    | .mergeu .. => decide (v < 32)
    | .sink .. => decide (v < 1024)
    | .permit .. => true
    | _ => decide (v = 0)

/-- The image holds an active ply (21 R396). -/
def imagePly (b : List Byte) : Bool := (fld b 6 1).testBit 0
/-- The checks of R399 on a context image but those that need its rules. -/
def imageOk (s : State) (k : Nat) (b : List Byte) : Bool := headOk s k b && fieldsZero b && recordsZero b

/-- The image holds an open region (21 R396). -/
def imageRgn (b : List Byte) : Bool := (fld b 6 1).testBit 1

/-- A context as its image restores it, unbound and in OFF (21 R396, R399). -/
def ctxOf (b : List Byte) : Ctx :=
  let w (o : Nat) : Word := w64 (fld b o 8)
  { x := (List.range 31).foldl (fun t i => Tab.put 0 t (i + 1) (w (0x48 + 8 * i))) []
    p := BitVec.ofNat 8 (fld b 0x40 1) ||| 1
    pc := pcOf (w 0x140), priv := (fld b 0x148 1).testBit 0
    tr := { cause := w 0x150 &&& causeMask, epc := w 0x158, tval := w 0x160, tstat := w 0x168 &&& tstatMask, tvec := w 0x170 &&& ~~~(1 : Word) }
    frm := fld b 0x178 1 % 8
    resume := if (fld b 6 1).testBit 2 then some (fld b 0x22 2 % 512) else none
    dict := { active := bankOf (cut b 0x200 4096), staged := bankOf (cut b 0x1200 4096), activeId := BitVec.ofNat 32 (fld b 0x1C0 4)
              stagedId := BitVec.ofNat 32 (fld b 0x1C4 4), gen := BitVec.ofNat 32 (fld b 0x1C8 4), pend := (fld b 0x1CC 1).testBit 0, complete := (fld b 0x1CC 1).testBit 1 }
    mx := { thr := BitVec.ofNat 32 (fld b 0x188 4), sn := fld b 0x18C 2, scnt := fld b 0x18E 2, bound := BitVec.ofNat 32 (fld b 0x190 4)
            err := BitVec.ofNat 32 (fld b 0x194 4)
            fault := if (fld b 0x198 1).testBit 7 then some (matrixCause (fld b 0x198 1 % 128), w 0x1A0) else none } }
where
  /-- The cause of a pending fault of the matrix array (08 R189). -/
  matrixCause : Nat → Cause
    | 0x2F => .memUncorrectable
    | 0x50 => .matrixMismatch
    | 0x51 => .matrixFormat
    | 0x52 => .approxBound
    | 0x53 => .matrixBounds
    | _ => .matrixState

/-- The reservation of a context image: its slots were returned when the context entered OFF, and are taken again where the queue has room (05 R127, R128). -/
def restoreRsv (s : State) (k n : Nat) (b : List Byte) : State :=
  let q := fld b 0x180 2 % 2 ^ 14
  let m := fld b 0x182 1
  if 0 < m ∧ m ≤ (s.queue q).room then (reserveSlots s q m).modCtx k n fun c => { c with rsv := { queue := q, count := m } } else s

/-- The reservations of the elements of ply q are taken again; one whose queue has no room for it is zero (05 R127; 07 R181) (log 108). -/
def restoreElemRsv (s : State) (k q : Nat) : State :=
  (s.ply k q).elems.foldl (fun s (e, x) =>
    if x.rv.count = 0 then s
    else if x.rv.count ≤ (s.queue x.rv.queue).room then reserveSlots s x.rv.queue x.rv.count
    else s.modElem k q e fun x => { x with rv := {} }) s

/-- The tokens of an image enter channels and passes (21 R396). -/
def restoreToks (s : State) (k q : Nat) (b : List Byte) : State :=
  let entries := (List.range (fld b 0x20 2)).map fun i => tokOf q (cut b (0x6E00 + 16 * i) 16)
  let slots := (List.range 256).flatMap fun i => List.replicate (popcount (nbits (fld b (0x2200 + 128 * (i / 4) + 0x44) 2) (4 * (i % 4)) 4) 4) i
  let chans := (entries.filter fun x => x.2.isNone).map Prod.fst
  let s := (slots.zip chans).foldl (fun s (i, t) => s.modChan k i fun c => { c with toks := c.toks ++ [t] }) s
  entries.foldl (fun s (t, f) => match f with
    | some i => s.modPly k q fun p => { p with fars := p.fars.map fun ((j, x) : Nat × Far) =>
        (j, if j = i then { x with passes := match x.passes with
          | [] => [[t]]
          | l :: ls => (l ++ [t]) :: ls } else x) }
    | none => s) s

/-- s with a restored request at the end of those of element e, or of the fault-park buffer, under the next number in selection order. -/
def addReq (s : State) (k : Nat) (parked : Bool) (y : Req) : State :=
  s.modFab k fun f =>
    let y := { y with no := f.reqNo }
    let f := { f with reqNo := f.reqNo + 1 }
    if parked then { f with park := f.park ++ [y] } else { f with reqs := Tab.set f.reqs y.elem (f.reqsOf y.elem ++ [y]) }

/-- The held and parked requests of an image come back (12 R281; 21 R391, R396, R397). -/
def restoreReqs (s : State) (k q : Nat) (b : List Byte) (kept : List Req) : State :=
  let p := s.ply k q
  let free := (Config.freeByte s.fresh 0).toNat % 16
  let s := { s with fresh := s.fresh + 1 }
  let s := (List.range 64).foldl (fun s e =>
    let r := cut b (0x2200 + 128 * e) 128
    if (fld r 0x46 1).testBit 4 then
      match reqOf p q e (fld r 0x46 1 % 16) (w64 (fld r 0x70 8)) (w64 (fld r 0x78 8)) false kept free with
      | some y => addReq s k false y
      | none => s
    else s) s
  (List.range 32).foldl (fun s i =>
    let r := cut b (0x6A00 + 32 * i) 32
    if allZero r then s
    else match reqOf p q (fld r 24 2 % 64) (fld r 24 2 / 64 % 16) (w64 (fld r 8 8)) (w64 (fld r 16 8)) true kept free with
      | some y => addReq s k true y
      | none => s) s

/-- Stream ports, matrix operations and engine commands of an image (21 R396). -/
def restoreUnits (s : State) (k n : Nat) (q : Option Nat) (b : List Byte) : State :=
  let ops := (List.range 16).filterMap fun i => mxOf (s.ctx k n) n (cut b (0x6200 + 32 * i) 32)
  let s := s.modMx k fun m => { m with queue := m.queue ++ ops }
  let s := s.modMxCtx k n fun m => { m with outstanding := ops.length }
  match q with
  | none => s
  | some q =>
    let s := (List.range 16).foldl (fun s i =>
      let r := cut b (0x4200 + 512 * i) 512
      if !((s.ply k q).sports.testBit i) then s
      else (s.modStream k i fun p => streamOf p q (s.core k).nextCmd r).modCore k fun c => { c with nextCmd := c.nextCmd + 5 }) s
    (List.range 3).foldl (fun s e =>
      ((List.range 8).filterMap fun i => engOf k q (cut b (0x6400 + 512 * e + 64 * i) 64)).foldl (fun s c => acceptCmd s k e { c with before := (s.core k).fab.reqNo }) s) s

/-- The open rounds of RED to which the restored elements of ply q have contributed: each holds the slot of its result again (07 R179, R183; 21 R397). The image has no place for the contributions: they are those of `kept`, else free values (log 17). -/
def restoreReds (s : State) (k q : Nat) (kept : Option Ply) : State :=
  let p := s.ply k q
  let open_ := (List.range 64).flatMap fun e => ((List.range 8).filter fun g => bit (p.elem e).redDone g).map fun g => (e, g)
  let f (i : Nat) : RedPart :=
    { elem := i / 8, data := w64 (((List.range 8).map fun j => (Config.freeByte s.fresh (16 * i + j)).toNat * 256 ^ j).sum)
      e := (Config.freeByte s.fresh (16 * i + 8)).getLsbD 0, x := (Config.freeByte s.fresh (16 * i + 9)).getLsbD 0 }
  let s := { s with fresh := s.fresh + 1 }
  let s := open_.foldl (fun s (e, g) => ((p.rulesOf e).filter fun x => decide (redGroup x.2.act = some g)).foldl (fun s x =>
    s.modChan k (chanKey e (redInput x.2.act)) fun c => { c with grants := c.grants ++ [{ prod := 8 + q, seen := false }] }) s) s
  s.modPly k q fun p => { p with reds := match kept with
    | some y => y.reds
    | none => open_.foldl (fun t (e, g) => Tab.set t g (Tab.look [] t g ++ [f (8 * e + g)])) [] }

/-- A context image fills context n of core k; its ply was loaded into q (21 R399). `kept` are the requests whose tags are known, and the ply with what its image has no place for. -/
def restoreCtx (s : State) (k n : Nat) (q : Option (Nat × Ply)) (b : List Byte) (kept : List Req) (old : Option Ply) : State :=
  let s := restoreRsv (s.setCtx k n { (ctxOf b) with ext := (s.ctx k n).ext }) k n b
  match q with
  | none => restoreUnits s k n none b
  | some (q, p) =>
    let s := fillPly s k q { p with st := .active, ctx := n, elems := (List.range 64).foldl (fun t e => Tab.set t e (elemOf p e (cut b (0x2200 + 128 * e) 128))) [] }
    let s := s.modCtx k n fun c => { c with bound := some q }
    restoreUnits (restoreReqs (restoreReds (restoreToks (restoreElemRsv s k q) k q b) k q old) k q b kept) k n (some q) b

/-- The region's progress from a context image (21 R396): sinks, budget count, and the deadline from its remainder. -/
def restoreRegion (s : State) (k : Nat) (b : List Byte) (g : Region) : Region :=
  let rest := sextN (fld b 0x1B8 8) 64
  { g with sinks := fld b 0x1A8 8, used := fld b 0x1B0 8, start := s.cyc k
           deadline := g.deadline.map fun d => { d with abs := if d.kind = 1 then (s.die (dieOf k)).dlc + rest else rest } }

/-- Tokens of ply q that stand in slots an image has no place for: at stream ports, at engine ports, at the selection port (log 17). -/
def portToks (c : CoreSt) (q : Nat) : List (Endpt × Token) :=
  (c.streams.flatMap fun (i, p) => (p.toks.filter fun t => decide (t.ply = q)).map fun t => (.stream i, t)) ++
  (c.engines.flatMap fun (i, e) => (e.toks.filter fun t => decide (t.ply = q)).map fun t => (.engine i, t)) ++
  (c.fab.selq.filter fun x => decide ((c.ctx x.2).bound = some q)).map fun x => (.select, x.1)

/-- Those tokens return to their slots in ply q. -/
def restorePortToks (s : State) (k q : Nat) (l : List (Endpt × Token)) : State :=
  l.foldl (fun s (d, t) =>
    let t := { t with ply := q }
    match d with
    | .stream i => s.modStream k i fun p => { p with toks := p.toks ++ [t] }
    | .engine i => s.modEngine k i fun e => { e with toks := e.toks ++ [t] }
    | .select => s.modFab k fun f => { f with selq := f.selq ++ [(t, (s.ply k q).ctx)] }
    | _ => s) s

/-- An MM that has fired rows stands at a row boundary and waits under R195 (08 R206). -/
def mmWaits (s : State) (k : Nat) (y : MxOp) : Bool :=
  y.fail.isNone && y.fired.isEmpty && decide (y.written = y.row) && (mmOf y.act).any fun m => !(rowOpen s k y m.1)

/-- What is in flight of context n and its ply q is done (21 R395 steps 3 and 4): firings, requests but those held or parked, engine commands begun, matrix operations begun but an MM that waits between rows, elements and lines of writes, pushes, and tokens on their way; of an element one request at most is held, for which the image has a place (R397). Lines that a write-back could not write are kept beside the image (log 17). -/
def switchReady (s : State) (k n : Nat) : Bool :=
  let c := s.core k
  let x := c.ctx n
  !x.hold && x.going.isNone &&
  c.mx.queue.all (fun y => decide (y.ctx ≠ n) || y.fresh || mmWaits s k y) &&
  match x.bound with
  | none => true
  | some q =>
    c.fab.flights.all (fun f => decide (f.tok.ply ≠ q)) &&
    c.fab.reqs.all (fun (_, l) => (l.all fun y => decide (y.ply ≠ q) || decide (y.st = .held)) && decide ((l.filter fun y => decide (y.ply = q)).length ≤ 1)) &&
    c.fab.pushes.all (fun x => decide (x.ply ≠ q)) && c.port.second.all (fun x => decide (x.2.ply ≠ q)) &&
    c.fab.park.all (fun y => decide (y.ply ≠ q) || decide (y.st = .held)) &&
    (List.range 3).all (fun i => ((c.engine i).cur).all fun y => !(y.of k q)) &&
    c.streams.all fun (_, p) => p.run.all fun r =>
      decide (r.cmd.ply ≠ q) || !r.cmd.desc.write ||
      (p.written && (p.faulted || r.cmd.desc.ind || r.last || p.toks.all fun t => decide (t.ply ≠ q)))

/-- A context and its ply leave the core: the ply is FREE, the context OFF and unbound, and none of its operations in the matrix queue (08 R185; 21 R395 step 5). -/
def leaveCore (s : State) (k n : Nat) : State :=
  let s := s.modMx k fun m => { m with queue := m.queue.filter fun y => decide (y.ctx ≠ n) }
  let s := freeStaged s k n
  let s := match (s.ctx k n).bound with
    | some q => freePly s k q
    | none => s
  (stopContext s k n).modCtx k n fun c => { c with bound := none, region := none, switch := none, resume := none, mx := { c.mx with outstanding := 0 } }

/-- Sources of context n stop (21 R395 steps 1 and 2): a STAGED ply is discarded, a LOADING one abandoned, and the ply is frozen. -/
def freezeCtx (s : State) (k n : Nat) : State :=
  let s := freeStaged s k n
  match (s.ctx k n).bound with
  | some q => s.modPly k q fun p => { p with frozen := true }
  | none => s

/-- Slot i of a partition's save pool (21 R394). -/
def slotAddr (s : State) (p i : Nat) : Nat := bits (s.part p).savepool 16 36 * 65536 + 65536 * i
/-- A free save slot (21 R394). -/
def freeSlot (s : State) (p : Nat) : Option Nat := firstBelow (bits (s.part p).savepool 0 12) fun i => !((s.part p).slots.contains i)

/-- The ply of a context has a far route that is bound, outgoing or incoming (05 R108; 21 R382, R394). -/
def farBound (s : State) (k q : Nat) : Bool :=
  ((s.ply k q).fars.any fun x => x.2.bind.isSome) ||
  s.cores.any fun (_, c) => c.fab.plies.any fun (_, p) => p.fars.any fun (_, x) => x.bind.any fun b => decide (b.core = k) && decide (b.ply = q)

/-- A fault whose unit goes into an image waits for it: one that had no verdict starts its decision anew when the unit is back (21 R378, R395) (log 17). -/
def FaultRef.asleep (f : FaultRef) : FaultRef := { f with saved := true, started := f.started && !f.undecided }

/-- What is kept beside the image of context n of core k (log 17). -/
def besideOf (s : State) (k n : Nat) : Beside :=
  let c := s.core k
  let ops := savedOps c n
  match (s.ctx k n).bound with
  | none => { ops := ops }
  | some q =>
    { ply := c.fab.ply q, toks := portToks c q, ops := ops
      reqs := (c.fab.reqs.flatMap Prod.snd ++ c.fab.park).filter fun y => decide (y.ply = q)
      lines := (c.streams.filter fun (_, p) => p.run.any fun r => decide (r.cmd.ply = q) && r.cmd.desc.write).map fun (i, p) => (i, p.lines)
      held := c.engines.flatMap fun (i, e) => (e.held.filter fun y => y.of k q).map fun y => (i, y) }

/-- A deadline as the time that is left of it, for KIND 1; one by lines is carried unchanged (09 R211). -/
def restOf (s : State) (d : Nat) (l : Deadline) : Deadline := if l.kind = 1 then { l with abs := keyOf s d l } else l
/-- A deadline of which the time left is known, on die d (09 R211). -/
def fromRest (s : State) (d : Nat) (l : Deadline) : Deadline := if l.kind = 1 then { l with abs := l.abs + (s.die d).dlc } else l

/-- A slice is written to a save slot and leaves its server (21 R394 to R396); `resume` where its held units go on at the target of a MIGRATE (R386). The deadline of a stolen token that it has still to deliver travels with its own (09 R211). -/
def saveSlice (s : State) (k n slot : Nat) (id : Nat) (x : Slice) (g : Region) (resume : Bool) : State :=
  let d := dieOf k
  let sp : Suspended :=
    { queue := x.queue, slot := slot, slice := { x with ply := none, dl := restOf s d x.dl, stolen := x.stolen.map fun t => { t with dl := restOf s d t.dl } }
      region := g, beside := besideOf s k n, resume := resume
      faults := if resume then [] else ((s.part (s.partOf k)).faults.filter fun f => decide (f.core = k) && decide (f.ctx = n) && !f.saved).map FaultRef.asleep }
  let s := writeImage s k (slotAddr s (s.partOf k) slot) (ctxPieces s k n)
  let s := (dropFaults s k n).modPart (s.partOf k) fun p => { p with suspended := p.suspended ++ [sp] }
  leaveCore (dropSlice s d id) k n

/-- The held units of a restored ply q that no fault awaits go on: requests and parked ones are issued again, ports resume, engine commands run again (21 R386, R399) (log 17). -/
def resumeUnits (s : State) (k q : Nat) (l : List FaultRef) : State :=
  let waits (src unit : Nat) : Bool := l.any fun f => decide (f.src = src) && (decide (f.cls = 1) || decide (src = 3)) && decide ((if src = 1 then f.elem else f.unit) = unit)
  let go (y : Req) : Req := if y.ply = q ∧ y.st = .held ∧ !(waits 1 y.elem) then { y with st := .waiting } else y
  s.modCore k fun c =>
    { c with
      fab := { c.fab with reqs := c.fab.reqs.map fun (i, l) => (i, l.map go), park := c.fab.park.map go }
      streams := c.streams.map fun (i, p) => (i, if p.run.any (fun r => decide (r.cmd.ply = q)) && !(waits 2 i) then { p with faulted := false, lines := p.lines.map fun l => { l with stuck := false } } else p)
      engines := c.engines.map fun (i, e) => (i, if waits 3 i then e else { e with held := e.held.filter (fun y => !(y.of k q)), queue := e.held.filter (·.of k q) ++ e.queue }) }

/-- A fault whose unit is back in ply q of context n of core k waits there again; one that was answered meanwhile acts (21 R382, R385, R399). -/
def wakeFault (s : State) (k n q : Nat) (f : FaultRef) : State :=
  let f : FaultRef := { f with core := k, ctx := n, ply := q, saved := false, slice := none }
  let at_ (l : List Req) : Nat := (l.find? fun y => decide (y.ply = q) && decide (y.elem = f.elem) && decide (y.st = .held)).elim 0 (·.no)
  let f : FaultRef := { f with req := f.req.map fun _ => at_ (if f.parked then (s.core k).fab.park else (s.core k).fab.reqsOf f.elem) }
  if f.verdict = 4 ∧ f.cls = 1 then restartUnit s f else s.modPart f.part fun p => { p with faults := p.faults ++ [f] }

/-- The units of restored ply q and their faults go on (21 R395, R399). -/
def wakePly (s : State) (k n q : Nat) (l : List FaultRef) : State := l.foldl (fun s f => wakeFault s k n q f) (resumeUnits s k q l)

/-- Two engine commands are one as an image holds them (21 R396). -/
def EngCmd.asSaved (x y : EngCmd) : Bool := engEntry x == engEntry y

/-- An engine command that had failed waits for its decision again, where the image has brought it back (17 R328). -/
def reholdCmd (s : State) (k q : Nat) (i : Nat) (c : EngCmd) : State :=
  s.modEngine k i fun e => match e.queue.find? fun y => y.of k q && y.asSaved c with
    | some y => { e with queue := e.queue.erase y, held := e.held ++ [{ y with code := c.code, wrote := c.wrote }] }
    | none => e

/-- What was kept beside an image comes back with it: of a matrix operation what it was issued with and whether it runs degraded (23 R414), and of a ply, restored as q, tokens, elements, lines, and unless its held units resume, the engine commands that had failed (log 17). -/
def restoreBeside (s : State) (k n : Nat) (q : Option Nat) (y : Beside) (resume : Bool) : State :=
  let s := s.modMx k fun m =>
    let (mine, others) := m.queue.partition fun x => decide (x.ctx = n)
    { m with queue := others ++ mine.zipIdx.map fun (x, i) => (y.ops[i]?).elim x fun o => { x with thr := o.thr, late := o.late, degraded := o.degraded } }
  match q with
  | none => s
  | some q =>
    let s := restorePortToks s k q y.toks
    let s := s.modPly k q fun p => { p with contained := y.ply.contained, elems := p.elems.map fun (e, x) =>
      let o := y.ply.elem e
      (e, { x with rv := { x.rv with excess := o.rv.excess }, stopped := o.stopped, heldB := o.heldB && !resume, markDue := o.markDue, markCut := o.markCut, dray := o.dray, pray := o.pray }) }
    let s := y.lines.foldl (fun s (i, l) => s.modStream k i fun p => { p with lines := l }) s
    if resume then s else y.held.foldl (fun s (i, c) => reholdCmd s k q i c) s

/-- A save slot is free again, and what it held is gone (21 R394). -/
def freeSlotOf (s : State) (part slot : Nat) : State :=
  s.modPart part fun x => { x with slots := x.slots.filter (· ≠ slot), suspended := x.suspended.filter fun z => decide (z.slot ≠ slot) }

/-- A slice comes back from its slot to context n of core k, its ply loaded as `p` into q (21 R386, R399): the image restores it, and what the image lacks comes from what was kept (log 17). -/
def restoreSlice (s : State) (k n q : Nat) (p : Ply) (b : List Byte) (y : Suspended) : State :=
  let s := restoreBeside (restoreCtx s k n (some (q, p)) b y.beside.reqs (some y.beside.ply)) k n (some q) y.beside y.resume
  let s := s.modCtx k n fun c => { c with region := some { restoreRegion s k b y.region with slice := y.region.slice } }
  freeSlotOf (releaseParked (wakePly s k n q y.faults) k) (s.partOf k) y.slot

end Sys2Proof.Machine
end

