-- ==== Sys2Proof/Machine/Sched.lean ====
section
/-! DEFINITION. Servers, eligible queues, the view of a decision, built-in EDF, and the start of dispatch and pre-emption decisions (09 R217 to R227; 10 R229 to R233, R240, R241). -/
namespace Sys2Proof.Machine

/-- The partition that owns a cluster of a die, 0 for none (09 R226). -/
def clusterPart (s : State) (d c : Nat) : Nat := ((s.parts.find? fun x => ownsCluster x.2 d c).map Prod.fst).getD 0

/-- The cores of a cluster (05 R108). -/
def clusterCores (d c : Nat) : List Nat := (List.range 16).map fun i => d * 128 + c * 16 + i

/-- The dispatcher of a cluster. -/
def State.disp (s : State) (d c : Nat) : Disp := Tab.look {} (s.die d).disps c

/-- How a server stands (09 R217). -/
inductive ServerSt | free | warm | busy
  deriving DecidableEq, Repr

/-- How context n of core k stands as a server: named by the host, in OFF, owned (09 R217). -/
def serverSt (s : State) (k n : Nat) : Option ServerSt :=
  let c := s.core k
  let x := c.ctx n
  if !(c.regs.servers.testBit n) ∨ x.run ≠ .off ∨ c.part = 0 ∨ c.regs.csw.isSome then none
  else if (sliceOn s k n).isSome then some .busy
  else match x.bound, x.region with
    | none, none => some .free
    | some q, some g => if (c.fab.ply q).st = .active ∧ g.state = .opened then some .warm else none
    | _, _ => none

/-- The servers of a cluster that stand so, ascending core and context. -/
def serversOf (s : State) (d c : Nat) (st : ServerSt) : List (Nat × Nat) :=
  ((clusterCores d c).flatMap fun k => (List.range 4).map fun n => (k, n)).filter fun x => decide (serverSt s x.1 x.2 = some st)

/-- FREE and WARM servers of a cluster (10 R233). -/
def idleServers (s : State) (d c : Nat) : Nat := (serversOf s d c .free).length + (serversOf s d c .warm).length

/-- The ENTRY of a slice has a free slot, or needs none; a slice whose load is under way counts as having one (09 R218). -/
def entryFree (s : State) (x : Slice) : Bool :=
  x.loading ||
  match x.ply with
  | none => true
  | some q => match (s.ply x.core q).entry with
    | some (.chan e ch) => ((s.core x.core).fab.takeSlot e ch 4).isSome
    | _ => true

/-- A BUSY slice of a queue in a cluster keeps the queue from being dispatched there while its ENTRY has a free slot, and any does where the queue's IMAGE is 0; one that serves messages has no ENTRY (09 R218). -/
def servedIn (s : State) (d c q : Nat) : Bool :=
  (s.die d).slices.any fun y => let x := y.2; decide (x.queue = q) && decide (clusterOf x.core = c) && (decide ((s.queue q).image = 0) || (!x.messages && entryFree s x))

/-- The head token of a queue. -/
def Queue.head (x : Queue) : Option QTok := x.toks.head?

/-- The conditions of R218 but for HOME: the head is no launch token that the dispatcher has still to consume (09 R216, R218). -/
def queueReady (s : State) (d c q : Nat) : Bool :=
  let x := s.queue q
  x.en && decide (x.partid ≠ 0) && decide (x.partid = clusterPart s d c) && !x.blocked && (x.head.any fun t => !(isLaunch t.tok)) && !(servedIn s d c q)

/-- The queues of a die, by their numbers (05 R127). -/
def queuesOf (s : State) (d : Nat) : List Nat := (s.die d).queues.map fun x => d * 4096 + x.1

/-- The eligible queues of a dispatcher that are at home in its cluster (09 R218). -/
def homeQueues (s : State) (d c : Nat) : List Nat := (queuesOf s d).filter fun q => decide ((s.queue q).home = c) && queueReady s d c q

/-- SCHEDCTL.STEALDI and STEALPK (09 R227). -/
def stealDie (p : Part) : Bool := bit p.schedctl 54
/-- SCHEDCTL.STEALPK (09 R227). -/
def stealPkg (p : Part) : Bool := bit p.schedctl 55

/-- A queue may be stolen at its depth (09 R212, R223). -/
def Queue.stealable (x : Queue) : Bool := decide (x.stealmin ≠ 0) && decide (x.stealmin ≤ x.toks.length)

/-- Queues of other clusters of the die that are offered, where `di` allows it (09 R223). -/
def dieOffers (s : State) (d c : Nat) (di : Bool) : List Nat :=
  if !di then [] else
  (queuesOf s d).filter fun q =>
    let x := s.queue q
    decide (x.home ≠ c) && x.stealable && decide (idleServers s d x.home = 0) && queueReady s d c q

/-- Queues of other dies whose head token is offered, where `pk` allows it: its flag M is set (09 R223), and the links carry it (23 R406) (log 57). -/
def pkgOffers (s : State) (d c : Nat) (pk : Bool) : List Nat :=
  if !pk then [] else
  (([0, 1, 2, 3].filter (· ≠ d)).flatMap (queuesOf s)).filter fun q =>
    let x := s.queue q
    x.stealable && (x.head.any fun t => bit t.tok 120) && queueReady s d c q && decide (crossing s d (q / 4096) = .clear)

/-- The eligible queues of a dispatcher, level by level, under STEALDI and STEALPK (09 R218, R223, R227). -/
def eligibleQueues (s : State) (d c : Nat) (di pk : Bool) : List Nat :=
  match homeQueues s d c with
  | [] => if idleServers s d c = 0 then [] else match dieOffers s d c di with
    | [] => pkgOffers s d c pk
    | l => l
  | l => l

/-- A queue is offered to a dispatcher by stealing (09 R223). -/
def stolenAt (s : State) (d c q : Nat) : Bool := decide (q / 4096 ≠ d) || decide ((s.queue q).home ≠ c)

/-- AGE_LIMIT of a partition (09 R227). -/
def ageLimit (p : Part) : Nat := bits p.schedctl 0 20 + 1

/-- A queue's age has reached the limit (09 R224). -/
def agedQueue (s : State) (q : Nat) : Bool := decide (ageLimit (s.part (s.queue q).partid) ≤ (s.queue q).age)

/-- The key of a queue's head token (09 R210, R218). -/
def queueKey (s : State) (q : Nat) : Int := ((s.queue q).head.map fun t => keyOf s (q / 4096) t.dl).getD (2 ^ 63 - 1)

/-- Queues in ascending key of their head tokens, ties to the lower number (09 R218). -/
def orderQueues (s : State) (l : List Nat) : List Nat := sortBy (fun a b => decide (queueKey s a < queueKey s b) || (decide (queueKey s a = queueKey s b) && decide (a < b))) l

/-- The candidate view of a dispatch decision: 32 eligible queues at most, in ascending key with ties to the lower number; aged queues displace the last entries (09 R218). -/
def candidateQueues (s : State) (l : List Nat) : List Nat :=
  if l.length ≤ 32 then orderQueues s l
  else
    let aged := sortBy (fun a b => decide ((s.queue b).age < (s.queue a).age) || (decide ((s.queue a).age = (s.queue b).age) && decide (a < b))) (l.filter (agedQueue s))
    let rest := (orderQueues s l).filter fun q => !(agedQueue s q)
    orderQueues s ((aged ++ rest).take 32)

/-- A WARM server of a cluster holds an image (09 R220; 10 R232). -/
def warmHolds (s : State) (d c : Nat) (image : Word) : Option (Nat × Nat) :=
  (serversOf s d c .warm).find? fun x => decide (activeImage s x.1 x.2 = some image)

/-- BUDG of the queues of a view: the budget a slice would receive, its queue's, that of the open region of the WARM server it would run on, or what its RCB path gives; a path that awaits the host is waited for, one that cannot be read gives none (09 R222; 10 R232; 00 R8). -/
def queueBudgets (d c : Nat) : List Nat → State → Mr (List Word)
  | [], s => .ok [] s
  | q :: qs, s =>
    let x := s.queue q
    let go (b : Option Nat) (s : State) : Mr (List Word) := (queueBudgets d c qs s).andThen fun l s => .ok (w64 (b.getD (2 ^ 63 - 1)) :: l) s
    if x.budget ≠ 0 then go (some x.budget) s
    else if x.image = 0 then go none s
    else match warmHolds s d c x.image with
    | some (k, n) => go ((s.ctx k n).region.bind (·.budget)) s
    | none => match rcbPath (d * 128 + c * 16) false 8 x.rcbt.toNat s with
      | .wait s => .wait s
      | .fault _ _ s => go none s
      | .ok l s => go (if l.length ≤ 8 then (supplier l 0).map fun b => fld b 0x18 8 else none) s

/-- OCC of a queue: the occlusion slot that OSLOT names, where its partition owns it (10 R232; 18 R345, R346). -/
def queueOcc (s : State) (q : Nat) : Nat :=
  let x := s.queue q
  if x.oslot.testBit 15 ∧ (s.die (q / 4096)).ownsOcc x.partid (nbits x.oslot 0 12) then Tab.look 0 (s.die (q / 4096)).regs.occs (nbits x.oslot 0 12) else 0xFFFFFFFF

/-- The record of a queue as a candidate or a subject, with its BUDG (10 R232). -/
def queueRecord (s : State) (d c q : Nat) (budg : Word) : List Word :=
  let x := s.queue q
  [w64 x.toks.length, wI (queueKey s q), w64 x.age, w64 x.prio, w64 (b2n x.fc), budg, w64 x.class_, w64 (queueOcc s q), w64 q, 0,
   w64 (b2n (warmHolds s d c x.image).isSome), w64 (b2n (stolenAt s d c q)), 0, 0, 0, w64 (b2n (agedQueue s q))]

/-- The record of a slice, with CAUSE and NFLT where it is a fault subject (10 R232). -/
def sliceRecord (s : State) (x : Slice) (cause nflt : Nat) : List Word :=
  let q := s.queue x.queue
  [w64 q.toks.length, wI (keyOf s (dieOf x.core) x.dl), w64 q.age, w64 q.prio, w64 (b2n q.fc), w64 ((x.budget.map fun b => b - x.count s).getD (2 ^ 63 - 1)),
   w64 q.class_, w64 (queueOcc s x.queue), w64 x.queue, w64 (x.count s), 1, 0, w64 cause, w64 nflt, w64 (coreIn x.core * 4 + x.ctx), 0]

/-- The record of a region that RGN.OPEN opened (10 R232). -/
def regionRecord (s : State) (k n : Nat) (g : Region) (cause nflt : Nat) : List Word :=
  [0, wI ((g.deadline.map (keyOf s (dieOf k))).getD (2 ^ 63 - 1)), 0, w64 g.prio, 0, w64 ((g.budget.map fun b => b - g.count s k).getD (2 ^ 63 - 1)),
   0, 0, 0, w64 (g.count s k), 1, 0, w64 cause, w64 nflt, w64 (coreIn k * 4 + n), 0]

/-- A record with all fields 0 (10 R231). -/
def noRecord : List Word := List.replicate 16 0

/-- The environment of a decision (10 R233). -/
def envOf (s : State) (d c p kind ncand : Nat) : List Word :=
  let x := s.die d
  [w64 kind, w64 ncand, w64 (idleServers s d c), w64 (d * 8 + c)] ++ ([0, 1, 2, 3].map fun h => w64 (x.lines h).line) ++ ([0, 1, 2, 3].map fun h => w64 (x.lines h).lper) ++
  [w64 x.dlc, w64 (s.part p).policy.gen]

/-- Code of a kind of decision (10 R233). -/
def DecKind.code : DecKind → Nat
  | .dispatch => 0
  | .preempt => 1
  | .fault => 2

/-- Built-in EDF at a dispatch decision: the index of the smallest key, ties to FC, then the higher PRIO, then the lower number; IDLE on an empty view (09 R219). -/
def edfPick (s : State) (l : List Nat) : Nat × Nat :=
  let better (a b : Nat) : Bool :=
    let (x, y) := (s.queue a, s.queue b)
    let ka := queueKey s a
    let kb := queueKey s b
    decide (ka < kb) || (decide (ka = kb) && (decide (b2n y.fc < b2n x.fc) || (decide (x.fc = y.fc) && (decide (y.prio < x.prio) || (decide (x.prio = y.prio) && decide (a < b))))))
  match l with
  | [] => (1, 0)
  | a :: rest => (0, ((a :: rest).findIdx? (· = rest.foldl (fun a b => if better b a then b else a) a)).getD 0)

/-- MINRUN of a partition (09 R227). -/
def minRun (p : Part) : Nat := bits p.schedctl 32 16

/-- Built-in EDF at a pre-emption decision: PREEMPT of victim 0 when the candidate's key is below the victim's and the victim has run long enough (09 R219). -/
def edfPreempt (p : Part) (key : Int) (victim : Option (Int × Nat)) : Nat × Nat :=
  match victim with
  | some (v, run) => if key < v ∧ minRun p ≤ run then (2, 0) else (3, 0)
  | none => (3, 0)

/-- A decision starts in a dispatcher (09 R217). -/
def pushDecision (s : State) (d c : Nat) (x : Decision) : State :=
  s.modDie d fun y => { y with disps := Tab.mod {} y.disps c fun p => { p with decs := p.decs ++ [x] } }

/-- A decision that hardware makes: the partition's program, or the built-in verdict at once (00 R8; 10 R230, R246). -/
def runHere (s : State) (d : Nat) (x : Decision) : Decision :=
  match activeProgram s x.part d with
  | (.prog g, gen) => { x with prog := some g, gen := gen, m := fullMask x.cands.length }
  | (_, gen) => { x with gen := gen, verdict := some x.builtin }

/-- The tail of a policy request: queue numbers in view order, and the subject's (24 R425). -/
def policyTail (qs : List Nat) (subject : Nat) : List Byte :=
  let l := (qs.take 32).flatMap fun q => bytesLE q 2
  l ++ List.replicate (64 - l.length) 0 ++ bytesLE subject 2

/-- A dispatch or pre-emption decision starts, in hardware or handed to the host (00 R8; 24 R425); a request that the ring loses is decided by built-in EDF at once. -/
def startDecision (s : State) (d c : Nat) (x : Decision) (qs : List Nat) : State :=
  let p := x.part
  if x.forced then pushDecision s d c { x with verdict := some x.builtin, gen := (activeProgram s p d).2 }
  else if bit (s.part p).dutyctl 1 then
    let (s, tag) := sendDuty s p { func := 1, die := d, cluster := c, what := x.subjQ } (x.kind.code + 256 * x.cands.length) 0 (policyTail qs x.subjQ)
    let x := { x with gen := (activeProgram s p d).2 }
    match dutyOf s p tag with
    | some y => if y.expired then pushDecision (dropDuty s p tag) d c { x with verdict := some x.builtin } else pushDecision s d c { x with host := some tag }
    | none => pushDecision s d c { x with verdict := some x.builtin }
  else pushDecision s d c (runHere s d x)

/-- Dispatch decisions in flight. -/
def dispatchesIn (s : State) (d c : Nat) : Nat := ((s.disp d c).decs.filter fun x => decide (x.kind = .dispatch)).length

/-- The aged queue that a forced decision picks: the greatest AGE, ties to the lower number (09 R224). -/
def oldestAged (s : State) (l : List Nat) : Option Nat :=
  (l.filter (agedQueue s)).foldl (fun a q => match a with
    | none => some q
    | some b => if (s.queue b).age < (s.queue q).age ∨ ((s.queue b).age = (s.queue q).age ∧ q < b) then some q else some b) none

/-- A dispatch decision with its view (09 R217, R224, R227; 10 R231). -/
def dispatchView (s : State) (d c : Nat) (l ids : List Nat) (budgs : List Word) (di pk : Bool) : Decision :=
  let p := clusterPart s d c
  { kind := .dispatch, part := p, start := (s.die d).dlc, ids := ids, eligible := l, subj := noRecord, stealDi := di, stealPk := pk
    cands := (ids.zip budgs).map fun x => queueRecord s d c x.1 x.2
    env := envOf s d c p 0 ids.length
    forced := (oldestAged s ids).isSome
    builtin := match oldestAged s ids with
      | some q => (0, (ids.findIdx? (· = q)).getD 0)
      | none => edfPick s ids }

/-- A dispatch decision starts, where a server and an eligible queue are there (09 R217, R218, R224). -/
def execDispatchDecisionStart (die cluster : Nat) (s : State) : Out :=
  let p := clusterPart s die cluster
  let di := stealDie (s.part p)
  let pk := stealPkg (s.part p)
  let l := eligibleQueues s die cluster di pk
  if p = 0 ∨ l = [] ∨ 4 ≤ (s.disp die cluster).decs.length ∨ idleServers s die cluster ≤ dispatchesIn s die cluster then .next s
  else
    let ids := candidateQueues s l
    match queueBudgets die cluster ids s with
    | .ok budgs s => .next (startDecision s die cluster (dispatchView s die cluster l ids budgs di pk) ids)
    | .fault _ _ s => .next s
    | .wait s => .next s

/-- The BUSY slices of a cluster as victims: descending key, ties to the lower PRIO, then to the later start (10 R231). -/
def victims (s : State) (d c : Nat) : List (Nat × Slice) :=
  let l := (s.die d).slices.filter fun x => decide (clusterOf x.2.core = c) && decide (x.2.stage.isNone) && ((s.ctx x.2.core x.2.ctx).switch).isNone
  let key (x : Slice) : Int := keyOf s d x.dl
  (sortBy (fun a b =>
    decide (key b.2 < key a.2) || (decide (key a.2 = key b.2) &&
      (decide ((s.queue a.2.queue).prio < (s.queue b.2.queue).prio) ||
        (decide ((s.queue a.2.queue).prio = (s.queue b.2.queue).prio) && decide (b.2.order < a.2.order))))) l).take 32

/-- A pre-emption decision is in flight (09 R217). -/
def preemptsIn (s : State) (d c : Nat) : Bool := (s.disp d c).decs.any fun x => decide (x.kind = .preempt)

/-- A pre-emption decision for a queue starts, with its victims (09 R217, R219, R222; 10 R231). `region` is the context of a YIELD (log 29). -/
def startPreempt (s : State) (d c q : Nat) (budg : Word) (region : Option (Nat × Nat)) : State :=
  let p := clusterPart s d c
  let vs := victims s d c
  let (cands, ids, victim) : List (List Word) × List Nat × Option (Int × Nat) :=
    match region with
    | some (k, n) => match (s.ctx k n).region with
      | some g => ([regionRecord s k n g 0 0], [], some ((g.deadline.map (keyOf s d)).getD (2 ^ 63 - 1), g.count s k))
      | none => ([], [], none)
    | none => (vs.map fun x => sliceRecord s x.2 0 0, vs.map Prod.fst, vs.head?.map fun x => (keyOf s d x.2.dl, x.2.count s))
  startDecision s d c
    { kind := .preempt, part := p, start := (s.die d).dlc, ids := ids, cands := cands, subj := queueRecord s d c q budg, subjQ := q, server := region
      turn := region.elim 0 fun y => ((s.ctx y.1 y.2).region.map (·.turn)).getD 0
      env := envOf s d c p 1 cands.length, builtin := edfPreempt (s.part p) (queueKey s q) victim }
    (match region with
      | some _ => [0]
      | none => vs.map fun x => x.2.queue)

/-- s with f applied to the dispatcher of a cluster. -/
def State.modDisp (s : State) (d c : Nat) (f : Disp → Disp) : State := s.modDie d fun y => { y with disps := Tab.mod {} y.disps c f }

/-- The queues of a dispatcher that await their pre-emption decision, after a step from s to s': those that waited or became eligible in the step, are eligible, and find no FREE or WARM server (09 R217) (log 60). -/
def newlyEligible (s s' : State) (d c : Nat) : List Nat :=
  (homeQueues s' d c).filter fun q => ((s'.disp d c).newly.contains q || !((homeQueues s d c).contains q)) && decide (idleServers s' d c = 0)

/-- What a step from s to s' has made eligible is noted at the dispatchers (09 R217). -/
def noteEligible (s s' : State) : State :=
  { s' with dies := s'.dies.map fun ((d, x) : Nat × Die) =>
      (d, { x with disps := (List.range 5).foldl (fun t c =>
        let l := newlyEligible s s' d c
        if l = (Tab.look {} t c).newly then t else Tab.mod {} t c fun p => { p with newly := l }) x.disps }) }

/-- What ends a step from s: an access to a reserved address faults (11 R248); queues that the step made eligible are noted (09 R217). -/
def settleOut (s : State) (o : Out) : Out :=
  match o with
  | .next s' => if s'.mem.reserved then .fault .reservedAddress else .next (noteEligible s s')
  | o => o

/-- A decision of the cluster's dispatcher can start as a pre-emption decision: none is in flight, and a policy unit is free (09 R217). -/
def mayPreempt (s : State) (d c : Nat) : Bool := !(preemptsIn s d c) && decide ((s.disp d c).decs.length < 4)

/-- The YIELDs of a cluster that await their decision, each with the slice of the region that it began still running (09 R222). -/
def openYields (s : State) (d c : Nat) : List (Nat × Nat × Nat) :=
  (s.disp d c).yields.filter fun y => (s.ctx y.1 y.2.1).region.any fun g => decide (g.state = .opened) && decide (g.turn = y.2.2)

/-- The decision of a YIELD of context n of core k starts, for the eligible queue with the smallest key (09 R222; 10 R231). -/
def startYield (s : State) (d c k n q : Nat) : Mr Unit := (queueBudgets d c [q] s).andThen fun l s => .ok () (startPreempt s d c q (l.headD 0) (some (k, n)))

/-- The first YIELD that waits has its decision start; it is forgotten where no queue is eligible any more. -/
def execYieldDecision (s : State) (d c : Nat) (y : Nat × Nat × Nat) (rest : List (Nat × Nat × Nat)) : Out :=
  let s := s.modDisp d c fun p => { p with yields := y :: rest }
  let done (s : State) : State := s.modDisp d c fun p => { p with yields := rest }
  match (orderQueues s (homeQueues s d c)).head? with
  | none => .next (done s)
  | some q => match startYield s d c y.1 y.2.1 q with
    | .ok _ s => .next (done s)
    | .fault _ _ s => .next s
    | .wait s => .next s

/-- A pre-emption decision starts, where none is in flight: of a YIELD that awaits one, or for a queue that became eligible while its cluster had no FREE or WARM server (09 R217, R222) (log 60). -/
def execPreemptionDecisionStart (die cluster queue : Nat) (s : State) : Out :=
  match openYields s die cluster with
  | y :: rest => if mayPreempt s die cluster then execYieldDecision s die cluster y rest else .next s
  | [] =>
  if idleServers s die cluster = 0 ∧ (homeQueues s die cluster).contains queue ∧ (s.disp die cluster).newly.contains queue ∧ mayPreempt s die cluster then
    match queueBudgets die cluster [queue] s with
    | .ok l s => .next (startPreempt (s.modDisp die cluster fun p => { p with newly := p.newly.filter (· ≠ queue) }) die cluster queue (l.headD 0) none)
    | .fault _ _ s => .next s
    | .wait s => .next s
  else .next s

/-- The queue that a verdict of a decision names: QNUM of its candidate in the view, 0 for none (10 R232, R241). -/
def verdictQueue (x : Decision) (v : Nat × Nat) : Nat :=
  if v.1 = 0 ∨ v.1 = 2 then ((x.cands[v.2]?).bind (·[8]?)).elim 0 (·.toNat) else 0

/-- POLICY_OVERRUN of a decision (10 R240, R241) (log 23). -/
def policyOverrun (s : State) (d c : Nat) (x : Decision) (reason : Nat) : State :=
  let s := s.modPolicy x.part fun p =>
    if reason = 0 then { p with ovr := min (2 ^ 24 - 1) (p.ovr + 1) } else { p with badv := min (2 ^ 24 - 1) (p.badv + 1) }
  partEvent s x.part (0x18 + reason * 2 ^ 9 + x.kind.code * 2 ^ 10 + c * 2 ^ 12 + d * 2 ^ 15 + x.ix * 2 ^ 17 + x.gen * 2 ^ 24)
    (x.builtin.1 + verdictQueue x x.builtin * 2 ^ 16)

/-- A program that has used up its budget is stopped: the built-in verdict is taken (10 R230, R240). -/
def execPolicyBudgetExpiry (die cluster dec : Nat) (s : State) : Out :=
  match s.decision die cluster dec with
  | none => .next s
  | some x =>
    if x.verdict.isNone ∧ x.host.isNone ∧ x.prog.any (fun p => decide (p.budget ≤ x.time)) then
      .next (policyOverrun (s.modDec die cluster dec fun x => { x with verdict := some x.builtin }) die cluster x 0)
    else .next s

end Sys2Proof.Machine
end

