-- ==== Sys2Proof/Machine/Slices.lean ====
section
/-! DEFINITION. Job slices: launch tokens, the commit of a PICK, loads for slices and strands, delivery, the end of slices, budgets, and the placement controller (05 R126, R129, R130; 09 R216, R220 to R223; 21 R392 to R394, R399). -/
namespace Sys2Proof.Machine

/-- The numbers of the slices of a queue on every die. -/
def slicesOf (s : State) (q : Nat) : List (Nat × Nat) :=
  [0, 1, 2, 3].flatMap fun d => ((s.die d).slices.filter fun x => decide (x.2.queue = q)).map fun x => (d, x.1)

/-- A launch token at the head of its queue is consumed (09 R216): IMAGE is its operand, and slices that run or are switched out receive no token behind it; an operand that is no multiple of 64 is discarded and counted (log 43). -/
def execLaunchToken (die queue : Nat) (s : State) : Out :=
  let q := die * 4096 + queue
  match (s.queue q).toks with
  | [] => .next s
  | t :: rest =>
    if !(isLaunch t.tok) ∨ !((s.queue q).en) then .next s
    else
      let s := s.modQueue q fun x => { x with toks := rest }
      if msgOperand t.tok % 64 ≠ 0 then .next (s.modQueue q fun x => { x with drops := x.drops + 1 })
      else
        let s := s.modQueue q fun x => { x with image := w64 (msgOperand t.tok) }
        let s := s.modPart (s.queue q).partid fun p =>
          { p with suspended := p.suspended.map fun y => if y.queue = q then { y with slice := { y.slice with closed := true } } else y }
        .next ((slicesOf s q).foldl (fun s (d, i) => s.modSlice d i fun x => { x with closed := true }) s)

/-- A ply goes first in the order of its core (21 R392). -/
def plyFirst (s : State) (k q : Nat) : State := s.modFab k fun f => { f with order := q :: f.order.filter (· ≠ q) }
/-- A ply goes last in the order of its core (21 R392). -/
def plyLast (s : State) (k q : Nat) : State := s.modFab k fun f => { f with order := f.order.filter (· ≠ q) ++ [q] }

/-- The lowest FREE ply of a core. -/
def freePlyOf (s : State) (k : Nat) : Option Nat := firstBelow 4 fun q => decide ((s.ply k q).st = .free)

/-- A FREE server whose core has a FREE ply: lowest core, lowest context; the ply too (09 R220). -/
def freeServerWithPly (s : State) (d c : Nat) : Option (Nat × Nat × Nat) :=
  (serversOf s d c .free).findSome? fun x => (freePlyOf s x.1).map fun q => (x.1, x.2, q)

/-- A slice of a queue begins on a context (09 R220, R221). -/
def addSlice (s : State) (x : Slice) : State :=
  let d := dieOf x.core
  s.modDie d fun y => { y with slices := Tab.set y.slices y.nextSlice { x with order := y.nextSlice, start := s.cyc x.core }, nextSlice := y.nextSlice + 1 }

/-- A context leaves the list of WARM servers. -/
def unwarm (s : State) (k n : Nat) : State :=
  s.modDie (dieOf k) fun y => { y with disps := Tab.mod {} y.disps (clusterOf k) fun p => { p with warm := p.warm.filter fun w => !(decide (w.1 = k) && decide (w.2.1 = n)) } }

/-- A context becomes a WARM server, the last of its cluster to do so (09 R217, R220). -/
def enwarm (s : State) (k n : Nat) : State :=
  (unwarm s k n).modDie (dieOf k) fun y => { y with disps := Tab.mod {} y.disps (clusterOf k) fun p => { p with warm := p.warm ++ [(k, n, 0)] } }

/-- The tokens that a slice of a queue serves on die d: those of its queue, or the head token taken from another die with its deadline (09 R211, R223). -/
def takeStolen (s : State) (d q : Nat) : Option QTok × State :=
  if q / 4096 = d then (none, s)
  else match (s.queue q).toks with
    | [] => (none, s)
    | t :: rest => (some { t with dl := moveDl s (q / 4096) d t.dl }, s.modQueue q fun x => { x with toks := rest })

/-- A slice is given up before it has served all of its queue: the tokens not delivered stay in the queue, and one that was stolen returns there (09 R220; 21 R393). -/
def giveUp (s : State) (d i : Nat) (x : Slice) : State :=
  let s := match x.stolen with
    | some t => s.modQueue x.queue fun q => { q with toks := { t with dl := moveDl s d (x.queue / 4096) t.dl } :: q.toks }
    | none => s
  let s := match x.stage with
    | some n => s.modDie d fun y => { y with stages := Tab.mod {} y.stages n fun t => { t with cores := t.cores.filter (· ≠ x.core) } }
    | none => s
  dropSlice s d i

/-- A slice of a queue on context n of core k, before it runs. -/
def newSlice (s : State) (k n q : Nat) (stolen : Option QTok) : Slice :=
  let x := s.queue q
  { queue := q, core := k, ctx := n, image := x.image, budget := if x.budget = 0 then none else some x.budget
    dl := (stolen.orElse fun _ => x.head).elim {} (·.dl), stolen := stolen, closed := stolen.isSome }

/-- A slice begins on a WARM server that holds its image (09 R220 step 1; 21 R392). -/
def warmSlice (s : State) (k n q : Nat) : State :=
  match (s.ctx k n).bound, (s.ctx k n).region with
  | some p, some g =>
    let (st, s) := takeStolen s (dieOf k) q
    let x := newSlice s k n q st
    let s := s.modCtx k n fun c => { c with region := c.region.map fun g => { g with lastQ := some q } }
    plyFirst (unwarm (addSlice s { x with ply := some p, budget := x.budget.orElse fun _ => g.budget }) k n) k p
  | _, _ => s

/-- The loader wakes for a slice: a FREE ply of the core is LOADING on the server's behalf (05 R97; 09 R220 step 2; 21 R392). A suspended slice loads the image it was saved with, and one that a server of another die picks takes the head token like any slice there (09 R223; 21 R399). -/
def loadSlice (s : State) (k n p q : Nat) (restore : Option Nat) (stage : Option Nat) : State :=
  let back := restore.bind fun i => (s.part (s.queue q).partid).suspended.find? fun y => decide (y.slot = i)
  let (st, s) := if back.any fun y => y.slice.closed || y.slice.stolen.isSome then (none, s) else takeStolen s (dieOf k) q
  let x := newSlice s k n q st
  let s := s.modPly k p fun _ => { st := .loading, ctx := n, image := back.elim x.image (·.beside.ply.image) }
  plyFirst (addSlice s { x with ply := some p, loading := true, restore := restore, stage := stage }) k p

/-- A slice that serves its queue's tokens as messages begins on a FREE server (09 R220). -/
def messageSlice (s : State) (k n q : Nat) : State :=
  let (st, s) := takeStolen s (dieOf k) q
  addSlice s { (newSlice s k n q st) with messages := true }

/-- A suspended slice comes back already. -/
def comesBack (s : State) (y : Suspended) : Bool :=
  [0, 1, 2, 3].any fun d => (s.die d).slices.any fun x => decide (x.2.restore = some y.slot) && decide (x.2.queue = y.queue)

/-- The suspended slice of a queue (21 R394). -/
def suspendedOf (s : State) (q : Nat) : Option Suspended :=
  (s.part (s.queue q).partid).suspended.find? fun y => decide (y.queue = q) && !(comesBack s y)

/-- The WARM server of another image that has been idle longest (09 R220 step 3). -/
def longestWarm (s : State) (d c : Nat) : Option (Nat × Nat) :=
  let warm := serversOf s d c .warm
  (((s.disp d c).warm.map fun w => (w.1, w.2.1)).find? fun x => warm.contains x).orElse fun _ => warm.head?

/-- The region of a WARM server closes as an abort and its ply is dropped (05 R138; 09 R220 step 3). A store to STATE that faults leaves it. -/
def closeWarm (s : State) (k n : Nat) : Mr Unit :=
  match (s.ctx k n).region with
  | none => .ok () s
  | some g => match storeState s k g.rcb 3 false with
    | .wait s => .wait s
    | .ok _ s => .ok () (abortRegion (unwarm s k n) k n g)
    | .fault _ _ s => .ok () (abortRegion (unwarm s k n) k n g)

/-- What a verdict that would start a slice does: it acts, it acts as IDLE, or it waits for the host (09 R217, R220). -/
inductive Picked
  | acts (s : State)
  | idle
  | wait (s : State)

/-- A PICK commits: the server in the order of R220, a suspended slice of the queue before a new one (09 R220; 21 R394). With no server it acts as IDLE. -/
def pickQueue (s : State) (d c q : Nat) : Picked :=
  match suspendedOf s q with
  | some y => match freeServerWithPly s d c with
    | some (k, n, p) => .acts (loadSlice s k n p q (some y.slot) none)
    | none => .idle
  | none =>
    let x := s.queue q
    if x.image = 0 then
      match (serversOf s d c .free).head? with
      | some (k, n) => .acts (messageSlice s k n q)
      | none => .idle
    else match warmHolds s d c x.image with
      | some (k, n) => .acts (warmSlice s k n q)
      | none => match freeServerWithPly s d c with
        | some (k, n, p) => .acts (loadSlice s k n p q none none)
        | none => match longestWarm s d c with
          | none => .idle
          | some (k, n) => match closeWarm s k n with
            | .wait s => .wait s
            | .fault _ _ _ => .idle
            | .ok _ s => match freePlyOf s k with
              | some p => .acts (loadSlice s k n p q none none)
              | none => .acts s

/-- A load for a slice has failed: the ply is FREE, and the fault is raised and decided for the slice (09 R220; 21 R374). -/
def failSlice (s : State) (d id k n p : Nat) (rcb : Word) (q code tval : Nat) : State :=
  let s := raiseFault s { core := k, ply := p, ctx := n, src := 4, cause := code, cls := Cause.cls (causeOf code), tval := tval, rcb := some rcb.toNat, queue := some q }
  (freePly s k p).modSlice d id fun x => { x with ply := none, loading := false, delivering := false }

/-- RCBT of what a slice serves: its queue's, or its stage's (05 R129; 09 R212). -/
def sliceRcb (s : State) (d : Nat) (x : Slice) : Word :=
  match x.stage with
  | some i => (Tab.look {} (s.die d).stages i).rcbt
  | none => (s.queue x.queue).rcbt

/-- The bytes that a save slot holds for a slice that comes back, with a ply unless it was switched out while that was LOADING; none where they fail a check of R399. -/
def slotImage (s : State) (k slot : Nat) (ply : Bool) : Option (List Byte) × State :=
  let (b, s) := imageBytes s k (slotAddr s (s.partOf k) slot)
  (if imageOk s k b ∧ imagePly b = ply then some b else none, s)

/-- A suspended slice as it goes on, on the server that slice x has brought it back to: a token that x took for it from another die is its own (09 R211, R223; 21 R396). -/
def resumedSlice (s : State) (x y : Slice) (used : Nat) : Slice :=
  let d := dieOf x.core
  { y with ply := x.ply, core := x.core, ctx := x.ctx, order := x.order, restore := none, start := s.cyc x.core, used := used, dl := fromRest s d y.dl
           stolen := (y.stolen.map fun t => { t with dl := fromRest s d t.dl }).orElse fun _ => x.stolen, closed := y.closed || x.closed }

/-- The restore of a save slot fails: a P record of the cause, the slot is given up, and its queue is BLOCKED (21 R399) (log 17). -/
def failSlot (s : State) (d id k p slot queue cause : Nat) : State :=
  let part := s.partOf k
  let s := freeSlotOf (partFault s part (if cause = 0x71 then .restoreFormat else causeOf cause) 0 5 (placeOf k)) part slot
  let s := (freePly s k p).modQueue queue fun x => { x with blocked := true }
  match Tab.find (s.die d).slices id with
  | some x => giveUp s d id x
  | none => s

/-- The core of a slice counts among those that its stage holds: its region is open (05 R130). -/
def joinStage (s : State) (d : Nat) (x : Slice) : State :=
  match x.stage with
  | some i => s.modDie d fun y => { y with stages := Tab.mod {} y.stages i fun t => { t with cores := x.core :: t.cores } }
  | none => s

/-- The region of a slice opens from RCBT on its context, whose ply has been committed (09 R220 step 2, R222). -/
def openSlice (s : State) (d id k n p : Nat) (x : Slice) : Out :=
  let rcb := sliceRcb s d x
  match openRegion s k n rcb false with
  | .wait s => .next s
  | .fault c t s => .next (failSlice (s.modCtx k n fun c => { c with bound := none }) d id k n p rcb x.queue c t)
  | .ok _ s =>
    let g := (s.ctx k n).region
    let s := s.modCtx k n fun c => { c with region := g.map fun g => { g with slice := some (d, id), served := true, lastQ := some x.queue } }
    .next (joinStage (s.modSlice d id fun x => { x with loading := false, budget := x.budget.orElse fun _ => g.bind (·.budget) }) d x)

/-- A ply that the dispatcher or the placement controller had loaded is committed, and the region opened from RCBT (05 R97, R119; 09 R220 step 2) (log 43). -/
def endSliceLoad (s : State) (d id k n p : Nat) (x : Slice) : Out :=
  match loadImage s k n x.image false with
  | .wait s => .next s
  | .fault c t s => .next (failSlice s d id k n p (sliceRcb s d x) x.queue c t)
  | .ok g s => openSlice (releaseParked ((fillPly s k p { g with st := .active }).modCtx k n fun c => { c with bound := some p }) k) d id k n p x

/-- A suspended slice comes back to its server once its image is loaded (21 R394, R399): a restore that fails a check, or whose load fails, is given up with a P record. A slice that was switched out while its ply was LOADING goes on with that load (R393, R395). -/
def endRestore (s : State) (d id k n p slot : Nat) (x : Slice) : Out :=
  let part := s.partOf k
  let fail (s : State) (c : Nat) : Out := .next (failSlot s d id k p slot x.queue c)
  match reaching s (accessDie k) (slotAddr s part slot), (s.part part).suspended.find? (fun y => decide (y.slot = slot)) with
  | .held, _ => .next s
  | .down, _ => fail s 0x72
  | .clear, none => fail s 0x71
  | .clear, some y =>
    match slotImage s k slot (!y.slice.loading) with
    | (none, s) => fail s 0x71
    | (some b, s) =>
      if y.slice.loading then
        let x := resumedSlice s x y.slice (fld b 0x1B0 8)
        endSliceLoad ((freeSlotOf (restoreBeside (restoreCtx s k n none b [] none) k n none y.beside false) part slot).modSlice d id fun _ => x) d id k n p x
      else
        match loadImage (s.modCtx k n fun c => { c with dict := (ctxOf b).dict }) k n (w64 (fld b 0x10 8)) false with
        | .wait s => .next s
        | .fault c _ s => fail s c
        | .ok g s =>
          if !(rulesZero g b) then fail s 0x71
          else
            let x := resumedSlice s x y.slice (fld b 0x1B0 8)
            .next ((restoreSlice s k n p g b y).modSlice d id fun _ => x)

/-- A load for the block scheduler ends: the ply is STAGED and latched, or the region ends faulted (05 R117, R126). -/
def endStrandLoad (s : State) (k p : Nat) (y : Ply) (blk : Nat) : Out :=
  let n := y.ctx
  if !((s.ctx k n).region.any fun g => g.strand && decide (g.state = .opened)) then .next (freePly s k p)
  else match loadImage s k n y.image false with
    | .wait s => .next s
    | .ok g s => .next (latchPly (fillPly s k p { g with loader := some blk }) k n p none)
    | .fault c t s => endFaulted (freePly (recordLoad s k n p c t none) k p) k n c

/-- The slice that a LOADING ply is for. -/
def loadingSlice (s : State) (k p : Nat) : Option (Nat × Slice) :=
  (s.die (dieOf k)).slices.find? fun x => decide (x.2.core = k) && decide (x.2.ply = some p) && x.2.loading

/-- A load that the loader runs for a scheduler or a restore finishes (05 R97, R126; 09 R220; 21 R399); one of a CFG.LD ends with that instruction, and a slice whose ply is committed has still to open its region. -/
def endLoad (core ply : Nat) (s : State) : Out :=
  let y := s.ply core ply
  if y.byInstr then .next s
  else if y.st ≠ .loading then
    match loadingSlice s core ply with
    | some (id, x) => if y.st = .active ∧ x.restore.isNone then openSlice s (dieOf core) id core x.ctx ply x else .next s
    | none => .next s
  else match y.loader, loadingSlice s core ply with
    | some blk, _ => endStrandLoad s core ply y blk
    | none, some (id, x) =>
      (match x.restore with
       | some slot => endRestore s (dieOf core) id core x.ctx ply slot x
       | none => endSliceLoad s (dieOf core) id core x.ctx ply x)
    | none, none => .next (freePly s core ply)

/-- A slice has used up its budget (09 R222). -/
def Slice.spent (x : Slice) (s : State) : Bool := x.budget.any fun b => decide (b ≤ x.count s)

/-- A token of slice id goes to its ply's ENTRY or to its core's port (09 R220, R221). None where the ENTRY has no free slot. -/
def sliceToken (s : State) (id : Nat) (x : Slice) (t : Wide) : Option State :=
  match x.ply with
  | none => some (portMessage s x.core t (some id))
  | some q => match (s.ply x.core q).entry with
    | some (.chan e ch) => if msgKind t = 0 then portPut s x.core e ch { data := w64 (msgOperand t), ply := q, port := true } else some (portMessage s x.core t (some id))
    | _ => some (portMessage s x.core t (some id))

/-- A slice that runs takes its next token: the one that was stolen, or its queue's head (09 R220 to R223). -/
def execSliceTokenDelivery (die slice : Nat) (s : State) : Out :=
  match Tab.find (s.die die).slices slice with
  | none => .next s
  | some x =>
    let open_ := match x.ply with
      | none => x.messages
      | some q => decide ((s.ply x.core q).st = .active) && !(s.ply x.core q).draining && !(s.ply x.core q).frozen
    if x.loading ∨ !x.delivering ∨ x.exhausted ∨ x.spent s ∨ !open_ then .next s
    else match x.stolen with
      | some t => (match sliceToken s slice x t.tok with
        | some s => .next (s.modSlice die slice fun x => { x with stolen := none, dl := t.dl })
        | none => .next s)
      | none =>
        match (s.queue x.queue).toks with
        | [] => .next s
        | t :: rest =>
          if x.closed ∨ isLaunch t.tok then .next s
          else match sliceToken (s.modQueue x.queue fun q => { q with toks := rest }) slice x t.tok with
            | some s => .next (s.modSlice die slice fun x => { x with dl := t.dl })
            | none => .next s

/-- A slice has no token left to deliver (09 R221). -/
def sliceDry (s : State) (x : Slice) : Bool := x.stolen.isNone && (x.closed || (s.queue x.queue).toks.isEmpty)

/-- A port holds a message of a slice: one that waits for delivery, for its entry or for an engine, or the second token of one (09 R220). -/
def Port.holds (p : Port) (id : Nat) : Bool := (p.inbox ++ p.unbound ++ p.remote).any (fun m => decide (m.slice = some id)) || decide (p.secondOf = some id)

/-- No token of a ply is left in its channels, and it is quiescent (09 R221). -/
def plyIdle (s : State) (k q : Nat) : Bool := blockQuiet s k q && (s.core k).fab.chans.all fun (_, h) => h.toks.all fun t => decide (t.ply ≠ q)

/-- A fault of a context awaits something (21 R378). -/
def faultOpen (s : State) (k n : Nat) : Bool := (s.part (s.partOf k)).faults.any fun f => decide (f.core = k) && decide (f.ctx = n) && !f.saved

/-- The core that a stage releases has drained: its region closes, the core is released, CUR goes down (05 R130). -/
def releaseStage (s : State) (d i k n q : Nat) : Out :=
  match (s.ctx k n).region with
  | none => .next s
  | some g =>
    if !(plyQuiet s k q) then .next s
    else match (if g.cause ≠ 0 then endFaulted s k n g.cause else finishRegion s k n g) with
      | .next s => if (s.ctx k n).region.isSome then .next s
        else .next (s.modDie d fun y => { y with stages := Tab.mod {} y.stages i fun t => { t with cores := t.cores.filter (· ≠ k), releasing := none, above := 0, below := 0 } })
      | o => o

/-- A slice ends: its queue is empty and its ply quiescent, its messages are delivered, or its stage releases its core (05 R130; 09 R220, R221). A region that holds a cause ends faulted then (21 R383). -/
def execSliceEnd (die slice : Nat) (s : State) : Out :=
  match Tab.find (s.die die).slices slice with
  | none => .next s
  | some x =>
    let k := x.core
    if x.loading ∨ x.exhausted then .next s
    else match x.stage, x.ply with
      | some i, some q => if (Tab.look {} (s.die die).stages i).releasing = some k then releaseStage s die i k x.ctx q else .next s
      | some _, none => .next s
      | none, none =>
        if x.messages ∧ ((sliceDry s x ∧ !((s.core k).port.holds slice)) ∨ x.spent s) then .next (giveUp s die slice x) else .next s
      | none, some q =>
        if !(sliceDry s x) ∨ !(plyIdle s k q) ∨ faultOpen s k x.ctx ∨ ((s.ctx k x.ctx).switch).isSome then .next s
        else match (s.ctx k x.ctx).region with
          | some g =>
            if g.cause ≠ 0 then endFaulted s k x.ctx g.cause
            else .next (enwarm ((dropSlice s die slice).modCtx k x.ctx fun c => { c with region := some { g with slice := none } }) k x.ctx)
          | none => .next (dropSlice s die slice)

/-- BUDGET_EXHAUSTED is raised for what a context serves (09 R222; 21 R374). -/
def raiseBudget (s : State) (k n q b : Nat) : State :=
  raiseFault s { core := k, ply := q, ctx := n, src := 5, cause := Cause.budgetExhausted.code, cls := 1, tval := b }

/-- The count of a slice, or of a region that RGN.OPEN opened, reaches its budget (09 R222): delivery stops, and it is held. -/
def execBudgetExhaustion (core ctx : Nat) (s : State) : Out :=
  match sliceOn s core ctx with
  | some (id, x) =>
    if x.loading ∨ x.exhausted ∨ x.ply.isNone ∨ !(x.spent s) then .next s
    else .next (raiseBudget (s.modSlice (dieOf core) id fun x => { x with exhausted := true }) core ctx ((s.ctx core ctx).bound.getD noPly) (x.budget.getD 0))
  | none => match (s.ctx core ctx).region with
    | some g =>
      if g.state ≠ .opened ∨ g.exhausted ∨ g.slice.isSome ∨ !(g.budget.any fun b => decide (b ≤ g.count s core)) then .next s
      else if serverSt s core ctx = some .warm then .next s
      else .next (raiseBudget (s.modCtx core ctx fun c => { c with region := some { g with exhausted := true } }) core ctx ((s.ctx core ctx).bound.getD noPly) (g.budget.getD 0))
    | none => .next s

/-- A core of a die that no one uses: owned by the partition, its contexts in OFF and unbound, its plies FREE, and of no stage (05 R130) (log 100). -/
def idleCore (s : State) (p k : Nat) : Bool :=
  let c := s.core k
  decide (c.part = p) && ((List.range 4).all fun n => decide ((c.ctx n).run = .off) && (c.ctx n).bound.isNone && (c.ctx n).region.isNone && (sliceOn s k n).isNone) &&
  ((List.range 4).all fun q => decide ((c.fab.ply q).st = .free)) && (s.die (dieOf k)).stages.all fun t => !(t.2.cores.contains k)

/-- The core that a stage adds: in the cluster that holds most of its cores, lowest core first (05 R130). -/
def stageCore (s : State) (d p : Nat) (t : Stage) : Option Nat :=
  let held (k : Nat) : Nat := (t.cores.filter fun j => decide (clusterOf j = clusterOf k)).length
  (((List.range 80).map fun i => d * 128 + i).filter (idleCore s p)).foldl (fun a k => match a with
    | none => some k
    | some b => if held b < held k then some k else some b) none

/-- A stage has chosen a core whose region is not open yet (05 R130). -/
def stageGrows (s : State) (d i : Nat) : Bool := (s.die d).slices.any fun x => decide (x.2.stage = some i) && x.2.loading

/-- The placement controller samples a stage's queue (05 R130): it counts samples above GROW and below SHRINK, and after HYST of them adds a core, or begins to drain the one it added last. It adds none while the load of another is under way; context 0 and ply 0 of the core carry the stage (log 100). -/
def execPlacementSample (die stage : Nat) (s : State) : Out :=
  match Tab.find (s.die die).stages stage with
  | none => .next s
  | some t =>
    let now := (s.plain die 0).ac
    if t.period = 0 ∨ now < t.next then .next s
    else
      let q := die * 4096 + t.queue
      let depth := (s.queue q).toks.length
      let t := { t with next := now + t.period, above := if t.grow < depth then t.above + 1 else 0, below := if depth < t.shrink then t.below + 1 else 0 }
      let put (s : State) (t : Stage) : State := s.modDie die fun y => { y with stages := Tab.set y.stages stage t }
      let p := (s.queue q).partid
      match (if t.hyst ≤ t.above ∧ t.cores.length < t.maxc ∧ p ≠ 0 ∧ !(stageGrows s die stage) then stageCore s die p t else none) with
      | some k =>
        let s := put s { t with above := 0, below := 0 }
        let s := loadSlice s k 0 0 q none (some stage)
        .next ((s.modPly k 0 fun y => { y with image := t.image }).modDie die fun y =>
          { y with slices := y.slices.map fun (i, x) => (i, if x.core = k then { x with image := t.image } else x) })
      | none =>
        match t.cores with
        | k :: _ =>
          if t.hyst ≤ t.below ∧ t.minc < t.cores.length ∧ t.releasing.isNone then
            match (s.die die).slices.find? fun x => decide (x.2.core = k) && decide (x.2.stage = some stage) with
            | some (id, x) =>
              (match x.ply with
               | some q =>
                 if x.loading then .next (put s t)
                 else
                   let s := (put s { t with above := 0, below := 0, releasing := some k }).modSlice die id fun x => { x with delivering := false }
                   let s := s.modPly k q fun p => { p with draining := true, forwarded := [] }
                   .next ((markedAtOnce (s.ply k q)).foldl (fun s d => sendMarker s k q d) s)
               | none => .next (put s t))
            | none => .next (put s { t with above := 0, below := 0, cores := t.cores.filter (· ≠ k) })
          else .next (put s t)
        | [] => .next (put s t)

end Sys2Proof.Machine
end

