-- ==== Sys2Proof/Machine/FaultDec.lean ====
section
/-! DEFINITION. Fault decisions: their start, which verdicts are usable, what they do, and the events that follow them (21 R377 to R390). -/
namespace Sys2Proof.Machine

/-- The host reaches the registers: the device has booted and the host link stands (24 R429, R431) (log 74). -/
def hostReady (s : State) : Bool := decide (s.iod.sec.bootstat = 1) && !s.iod.linkDown

/-- A fault whose decision is under way (21 R378). -/
def FaultRef.pending (f : FaultRef) : Bool := f.started && f.undecided

/-- The faults of a context, in the order in which they were raised; those whose units stand in an image wait. -/
def faultsOf (s : State) (k n : Nat) : List FaultRef := (s.part (s.partOf k)).faults.filter fun f => decide (f.core = k) && decide (f.ctx = n) && !f.saved

/-- The slice that a fault holds: the one its load was for, or the one its ply serves (09 R220; 21 R379). -/
def faultSlice (s : State) (f : FaultRef) : Option (Nat × Nat × Slice) :=
  match f.slice with
  | some (d, i) => (Tab.find (s.die d).slices i).map fun x => (d, i, x)
  | none => (sliceOn s f.core f.ctx).map fun x => (dieOf f.core, x.1, x.2)

/-- A server of die d that a region of a partition can move to: a FREE one on a core with a FREE ply (09 R220; 21 R382, R386) (log 83). -/
def moveTarget (s : State) (p d : Nat) : Option (Nat × Nat × Nat) :=
  ((List.range 5).filter fun c => ownsCluster (s.part p) d c).findSome? fun c => freeServerWithPly s d c

/-- What a fault holds was opened by the loader, or was to be: a region that RGN.OPEN opened does not move (21 R382). -/
def loaderOpened (s : State) (f : FaultRef) : Bool :=
  match (s.ctx f.core f.ctx).region with
  | some g => g.served
  | none => (faultSlice s f).isSome

/-- A fault verdict is usable (21 R382). -/
def faultUsable (s : State) (f : FaultRef) (code op : Nat) : Bool :=
  match code with
  | 4 => decide (f.cls ≠ 4) && (decide (f.cls ≠ 2) || (usableCut s f.core f.ply (groupOf (s.ply f.core f.ply) f.elem)).isSome)
  | 5 => true
  | 6 => (s.part f.part).fltring.en && f.written
  | 7 => loaderOpened s f && (moveTarget s f.part (op % 4)).isSome && !(farBound s f.core f.ply) && (freeSlot s f.part).isSome
  | _ => false

/-- The built-in verdict of a fault decision (21 R381). -/
def builtinFault (s : State) (f : FaultRef) : Nat × Nat :=
  match f.cls with
  | 1 => if f.cause = 0x40 then (5, 0) else if faultUsable s f 6 0 then (6, 0) else (5, 0)
  | 2 => if faultUsable s f 4 0 ∧ f.nflt < 3 then (4, 0) else (5, 0)
  | 3 => (4, 0)
  | _ => (5, 0)

/-- The subject of a fault decision: the slice or region that faulted (10 R231, R232). -/
def faultSubject (s : State) (f : FaultRef) : List Word :=
  match faultSlice s f, (s.ctx f.core f.ctx).region with
  | some (_, _, x), _ => sliceRecord s x f.cause f.nflt
  | none, some g => regionRecord s f.core f.ctx g f.cause f.nflt
  | none, none => noRecord

/-- A fault decision starts for the first fault of a context that has none, where no decision of its region is pending and a policy unit is free (21 R378, R381). A fault whose region is gone, or that holds its unit no longer, needs none (R378) (log 49). -/
def execFaultDecisionStart (core ctx : Nat) (s : State) : Out :=
  let d := dieOf core
  let c := clusterOf core
  let l := faultsOf s core ctx
  match l.find? fun f => !f.started with
  | none => .next s
  | some f =>
    if !(stillHeld s f) ∨ ((faultSlice s f).isNone ∧ !((s.ctx core ctx).region.any fun g => decide (g.state = .opened))) then .next (setFault s f none)
    else if l.any FaultRef.pending ∨ 4 ≤ (s.disp d c).decs.length then .next s
    else
      let f' := { f with started := true }
      let s := setFault s f (some f')
      let x : Decision :=
        { kind := .fault, part := f.part, start := (s.die d).dlc, subj := faultSubject s f, subjQ := (faultSlice s f).elim 0 fun y => y.2.2.queue
          env := envOf s d c f.part 2 0, builtin := builtinFault s f', fault := some f' }
      if bit (s.part f.part).dutyctl 3 then
        let (s, tag) := sendDuty s f.part { func := 3, die := d, cluster := c, what := f.seq } f.seq 0 []
        match dutyOf s f.part tag with
        | some y => if y.expired then .next (pushDecision (dropDuty s f.part tag) d c (runHere s d x)) else .next (pushDecision s d c { (runHere s d x) with host := some tag, verdict := none })
        | none => .next (pushDecision s d c (runHere s d x))
      else .next (pushDecision s d c (runHere s d x))

/-- Doubleword 0 of a fault's record is rewritten (21 R374). -/
def rewriteRecord (s : State) (f : FaultRef) (code : Nat) (await : Bool) : State :=
  if f.written then
    let r := (s.part f.part).fltring
    iodWrite s (r.base + 64 * (f.seq % r.size)) (bytesLE (f.word0 + 2 ^ 35 + code * 2 ^ 32 + b2n await * 2 ^ 31) 8)
  else s

/-- BLOCKED of the queue of a fault's slice clears (21 R382). -/
def unblock (s : State) (f : FaultRef) : State :=
  match faultSlice s f with
  | some (_, _, x) => s.modQueue x.queue fun q => { q with blocked := false }
  | none => s

/-- NFLT of a fault's region rises (21 R381). -/
def countFault (s : State) (f : FaultRef) : State := s.modCtx f.core f.ctx fun c => { c with region := c.region.map fun g => { g with nflt := g.nflt + 1 } }

/-- A fault of a load: no region has been opened (09 R220). -/
def loadFault (s : State) (f : FaultRef) : Bool := decide (f.src = 4) && (s.ctx f.core f.ctx).region.isNone

/-- A fault verdict acts (21 R381 to R386): at once, or as soon as its group or region is quiescent. MIGRATE of a failed load has no region to move: its slice ends and its queue is BLOCKED no longer (log 49). -/
def actFault (s : State) (f : FaultRef) (code op : Nat) : State :=
  let s := countFault (rewriteRecord s f code (decide (code = 6))) f
  match code with
  | 4 =>
    let s1 := unblock s f
    if loadFault s f then (match faultSlice s f with
      | some (d, i, x) => setFault (giveUp s1 d i x) f none
      | none => setFault s1 f none)
    else if f.cls = 2 then setFault s1 f (some { f with verdict := 4 })
    else setFault (if f.cls = 1 then restartUnit s1 f else s1) f none
  | 6 => setFault s f (some { f with awaiting := true })
  | 7 =>
    if loadFault s f then (match faultSlice s f with
      | some (d, i, x) => setFault (giveUp (unblock s f) d i x) f none
      | none => setFault s f none)
    else setFault s f (some { f with verdict := 7, target := op % 4, awaiting := false })
  | _ =>
    if loadFault s f then (match faultSlice s f with
      | some (d, i, x) => setFault (giveUp s d i x) f none
      | none => setFault s f none)
    else setFault s f (some { f with verdict := 5, awaiting := false })

/-- The commit of a fault decision (21 R381, R382; 10 R230, R240): an unusable verdict of a program falls back to the built-in one of the decision's start, one of the host acts as KILL. -/
def commitFault (s : State) (d c : Nat) (x : Decision) (v : Nat × Nat) : State :=
  match x.fault with
  | none => s
  | some f =>
    if !((s.part f.part).faults.contains f) then s
    else if faultUsable s f v.1 v.2 then actFault s f v.1 v.2
    else if x.byHost then actFault s f 5 0
    else
      actFault (if x.byProg = false then s else policyOverrun s d c x 1) f x.builtin.1 x.builtin.2

/-- The answer to a fault whose unit stands in an image: it acts when the unit is back; a MIGRATE of what is on no core is unusable, and so is a RESTART that needs a cut, for a switch discards every snapshot (21 R382, R385) (log 17). -/
def answerAsleep (f : FaultRef) (code : Nat) : FaultRef := { f with awaiting := false, verdict := if code = 4 ∧ f.cls = 1 then 4 else 5 }

/-- The host's answer to a HOST verdict acts as that verdict (21 R374, R382, R385). -/
def execFltreply (part : Nat) (v : Word) (s : State) : Out :=
  if !(hostReady s) then .next s else
  let asked (f : FaultRef) : Bool := f.awaiting && decide (f.seq = bits v 48 16)
  let code := bits v 0 3
  match (s.part part).faults.find? asked, ((s.part part).suspended.flatMap (·.faults)).find? asked with
  | some f, _ =>
    if f.saved then
      let g := answerAsleep f code
      .next (setFault (rewriteRecord s f g.verdict false) f (some g))
    else
      let ok := decide (code = 4 ∨ code = 5 ∨ code = 7) && faultUsable s f code (bits v 4 2)
      .next (actFault s f (if ok then code else 5) (bits v 4 2))
  | none, some f =>
    let g := answerAsleep f code
    .next ((rewriteRecord s f g.verdict false).modPart part fun p =>
      { p with suspended := p.suspended.map fun y => if y.faults.contains f
          then { y with faults := y.faults.map (fun x => if x = f then g else x), region := { y.region with nflt := y.region.nflt + 1 } } else y })
  | none, none => .next s

/-- FLTPTR is written: TAIL, and LOST is cleared (21 R375). -/
def execFltptrWrite (part : Nat) (v : Word) (s : State) : Out :=
  if !(hostReady s) then .next s else .next (s.modPart part fun p => { p with fltring := { p.fltring with tail := bits v 16 16, lost := 0 } })

/-- What KILL of a fault contains: its group, or every group for an exhausted budget (21 R383). -/
def killGroup (s : State) (f : FaultRef) : List Nat := if f.src = 5 then nodesOf (s.ply f.core f.ply) else groupOf (s.ply f.core f.ply) f.elem

/-- KILL acts on a quiescent group; a region whose groups are all contained ends faulted at once, with the cause that it holds (21 R383). -/
def execContainment (core ctx : Nat) (s : State) : Out :=
  match (faultsOf s core ctx).find? (fun f => decide (f.verdict = 5) && groupQuiet s core f.ply (killGroup s f)) with
  | some f =>
    let g := killGroup s f
    let s := containGroup s core f.ply g
    let s := s.modPart f.part fun p => { p with faults := p.faults.filter fun x => !(decide (x = f)) && !(decide (x.core = core) && decide (x.ctx = ctx) && g.contains x.elem) }
    let s := s.modCtx core ctx fun c => { c with region := c.region.map fun r => { r with cause := if r.cause = 0 then f.cause else r.cause } }
    if allContained (s.ply core f.ply) then endFaulted s core ctx ((s.ctx core ctx).region.elim f.cause (·.cause)) else .next s
  | none =>
    match (s.ctx core ctx).region, (s.ctx core ctx).bound with
    | some g, some q => if g.state = .opened ∧ g.cause ≠ 0 ∧ (s.ply core q).st = .active ∧ allContained (s.ply core q) then endFaulted s core ctx g.cause else .next s
    | _, _ => .next s

/-- Rollback of a quiescent group to its usable cut (21 R382, R389, R390); its held units are discarded, so faults of the group that await their decision need none (R378). A group that has lost its cut is killed. -/
def execRollback (core ctx : Nat) (s : State) : Out :=
  match (faultsOf s core ctx).find? (fun f => decide (f.verdict = 4) && groupQuiet s core f.ply (groupOf (s.ply core f.ply) f.elem)) with
  | none => .next s
  | some f =>
    let g := groupOf (s.ply core f.ply) f.elem
    match usableCut s core f.ply g with
    | some n => .next ((setFault (rollbackGroup s core f.ply g n) f none).modPart f.part fun p =>
        { p with faults := p.faults.filter fun x => !(decide (x.core = core) && decide (x.ctx = ctx) && g.contains x.elem && x.undecided && !x.started && !x.saved) })
    | none => .next (setFault s f (some { f with verdict := 5 }))

/-- What moves with a region: the slice that its server runs, or one that takes no token where the server is WARM (09 R217; 21 R386). -/
def movedSlice (s : State) (k n : Nat) : Option (Nat × Slice) :=
  (sliceOn s k n).orElse fun _ => ((s.ctx k n).region.bind (·.lastQ)).map fun q =>
    ((s.die (dieOf k)).nextSlice, { queue := q, core := k, ctx := n, ply := (s.ctx k n).bound, image := (activeImage s k n).getD 0 })

/-- MIGRATE of what a failed engine command holds: the commands of the ply that wait at its port are dropped, and its completion is reported with FAULTED (17 R328). -/
def dropWaiting (s : State) (f : FaultRef) : State :=
  if f.src ≠ 3 then s
  else dropHeld (s.modEngine f.core f.unit fun e => { e with queue := e.queue.filter fun c => !(c.of f.core f.ply) }) f.core f.ply f.unit

/-- MIGRATE acts on a quiescent region (21 R386): it is switched out into a save slot, its queue's BLOCKED clears, and its image is restored on the target die; it takes no further token. A slot that no path of links reaches makes it a KILL (23 R406) (log 57). -/
def execRegionMigration (core ctx : Nat) (s : State) : Out :=
  match (faultsOf s core ctx).find? (fun f => decide (f.verdict = 7)) with
  | none => .next s
  | some f =>
    match movedSlice s core ctx, (s.ctx core ctx).region, freeSlot s f.part, moveTarget s f.part f.target with
    | some (i, x), some g, some slot, some (k, n, p) =>
      let way := reaching s (accessDie core) (slotAddr s f.part slot)
      if way = .down then .next (setFault s f (some { f with verdict := 5 }))
      else if way = .clear ∧ groupQuiet s core f.ply (nodesOf (s.ply core f.ply)) ∧ switchReady s core ctx then
        let s := unwarm (unblock (freezeCtx (dropWaiting s f) core ctx) f) core ctx
        let s := s.modPart f.part fun p => { p with slots := p.slots ++ [slot] }
        let s := saveSlice s core ctx slot i { x with closed := true, budget := none, exhausted := false } { g with exhausted := false } true
        .next (loadSlice s k n p x.queue (some slot) none)
      else .next s
    | _, _, _, _ => .next s

end Sys2Proof.Machine
end

