-- ==== Sys2Proof/Machine/Commit.lean ====
section
/-! DEFINITION. The commit of decisions, pre-emption, and YIELD (09 R217 to R224; 10 R240; 21 R392 to R395). -/
namespace Sys2Proof.Machine

/-- A slice of a queue begins on a context that has just become FREE (09 R219): as messages, or through the loader; a suspended slice of the queue comes back first. -/
def startOn (s : State) (k n q : Nat) : State :=
  match suspendedOf s q, freePlyOf s k with
  | some y, some p => loadSlice s k n p q (some y.slot) none
  | some _, none => s
  | none, p =>
    if (s.queue q).image = 0 then messageSlice s k n q
    else match p with
      | some p => loadSlice s k n p q none none
      | none => s

/-- A server of core k that pre-emption by ply uses for a queue: WARM with its IMAGE, or FREE, together with a FREE ply (21 R393). A queue with a suspended slice, which comes back first, needs a FREE server (R394). -/
def plyServer (s : State) (k q : Nat) : Option (Nat × Bool) :=
  let x := s.queue q
  let stands (st : ServerSt) (n : Nat) : Bool := decide (serverSt s k n = some st)
  match firstBelow 4 fun n => (suspendedOf s q).isNone && stands .warm n && decide (activeImage s k n = some x.image) with
  | some n => some (n, true)
  | none => if (freePlyOf s k).isSome then (firstBelow 4 (stands .free)).map fun n => (n, false) else none

/-- The queue's slice begins on a server of pre-emption by ply (21 R393). -/
def startByPly (s : State) (k q : Nat) (x : Nat × Bool) : State := if x.2 then warmSlice s k x.1 q else startOn s k x.1 q

/-- A victim's slice ends where it stands: its delivery stops, its server becomes WARM, its ply stays ACTIVE and goes last; a stolen token not yet delivered returns to its queue (21 R392, R393). -/
def endVictim (s : State) (d i : Nat) (x : Slice) : State :=
  let s := giveUp s d i x
  match x.ply with
  | some q => (plyLast (enwarm s x.core x.ctx) x.core q).modCtx x.core x.ctx fun c => { c with region := c.region.map fun g => { g with slice := none } }
  | none => s

/-- The load for a slice is abandoned (05 R97; 21 R395 step 1). -/
def dropLoad (s : State) (x : Slice) : State :=
  match x.ply with
  | some p => freePly s x.core p
  | none => s

/-- A full switch of a slice into a slot begins (21 R394, R395): its context freezes, its delivery stops, and a load for it is abandoned. -/
def beginSwitch (s : State) (d i slot q : Nat) (x : Slice) : State :=
  let k := x.core
  let s := if x.loading then dropLoad s x else s
  let s := (freezeCtx s k x.ctx).modCtx k x.ctx fun c => { c with switch := some { slot := slot, queue := q } }
  (s.modSlice d i fun y => { y with delivering := false, ply := if x.loading then none else y.ply }).modPart (s.partOf k) fun p => { p with slots := p.slots ++ [slot] }

/-- PREEMPT of a slice for a queue: by ply, or by a full switch; it acts as KEEP where the slice has ended, or where no slot is free or a far route is bound (09 R217, R219; 21 R393 to R395). A slice that serves messages ends (09 R220). One whose ply is still LOADING has no ACTIVE ply that could stay where the pre-emption is by ply: it ends and its load is abandoned; one that is on its way back from a slot stays in it (log 101). -/
def preemptSlice (s : State) (d i q : Nat) : State :=
  match Tab.find (s.die d).slices i with
  | none => s
  | some x =>
    let k := x.core
    let by_ := plyServer s k q
    let begin_ (s : State) : State := match by_ with
      | some y => startByPly s k q y
      | none => startOn s k x.ctx q
    if ((s.ctx k x.ctx).switch).isSome then s
    else if x.messages then begin_ (giveUp s d i x)
    else if x.loading ∧ (by_.isSome ∨ x.restore.isSome) then begin_ (giveUp (dropLoad s x) d i x)
    else match by_ with
      | some y => startByPly (endVictim s d i x) k q y
      | none =>
        match freeSlot s (s.partOf k), x.ply with
        | some slot, some p => if farBound s k p then s else beginSwitch s d i slot q x
        | _, _ => s

/-- A pre-emption verdict acts (09 R217, R222; 21 R393): KEEP where the queue is no longer eligible, or the slice that a YIELD began has ended; a region opened by RGN.OPEN only has its ply go last. -/
def commitPreempt (s : State) (d c : Nat) (x : Decision) (i : Nat) : State :=
  if !((homeQueues s d c).contains x.subjQ) then s
  else match x.server with
    | some (k, n) => match (s.ctx k n).region, (s.ctx k n).bound with
      | some g, some p => if g.state = .opened ∧ g.turn = x.turn then plyLast s k p else s
      | _, _ => s
    | none => match x.ids[i]? with
      | some id => preemptSlice s d id x.subjQ
      | none => s

/-- The ages after a dispatch decision of a queue's home dispatcher (09 R223, R224): 0 for the queue picked, one more for the others that were eligible when it started (log 28). -/
def ageQueues (s : State) (d c : Nat) (x : Decision) (picked : Option Nat) : State :=
  (x.eligible.filter fun q => !(stolenAt s d c q)).foldl (fun s q =>
    s.modQueue q fun y => { y with age := if picked = some q then 0 else min (2 ^ 20) (y.age + 1) }) s

/-- A verdict of a dispatch or pre-emption decision is usable (10 R236, R240). -/
def verdictUsable (x : Decision) (v : Nat × Nat) : Bool :=
  match x.kind, v.1 with
  | .dispatch, 0 => decide (v.2 < x.cands.length)
  | .dispatch, 1 => true
  | .preempt, 2 => decide (v.2 < x.cands.length)
  | .preempt, 3 => true
  | _, _ => false

/-- A dispatch verdict acts: a PICK of a queue that is still eligible, under the steal bits of its start, begins a slice; one that finds no server acts as IDLE, which picks none (09 R217, R220, R224, R227) (log 28). -/
def commitDispatch (s : State) (d c : Nat) (x : Decision) (v : Nat × Nat) : Picked :=
  match (if v.1 = 0 then x.ids[v.2]? else none).filter (eligibleQueues s d c x.stealDi x.stealPk).contains with
  | none => .acts (ageQueues s d c x none)
  | some q => match pickQueue s d c q with
    | .acts s => .acts (ageQueues s d c x (some q))
    | .idle => .acts (ageQueues s d c x none)
    | .wait s => .wait s

/-- The oldest decision of a dispatcher commits its verdict; an unusable one falls back to the built-in verdict (09 R217; 10 R240) (log 60). -/
def execDecisionCommit (die cluster dec : Nat) (s : State) : Out :=
  match s.decision die cluster dec with
  | none => .next s
  | some x =>
    match x.verdict with
    | none => .next s
    | some v =>
      if dec ≠ 0 then .next s
      else
        let done (s : State) : State := s.modDisp die cluster fun p => { p with decs := p.decs.drop 1 }
        if x.kind = .fault then .next (commitFault (done s) die cluster x v)
        else
          let ok := verdictUsable x v
          let over_ (s : State) : State := if ok then done s else policyOverrun (done s) die cluster x 1
          let v := if ok then v else x.builtin
          if x.kind = .dispatch then (match commitDispatch s die cluster x v with
            | .acts s => .next (over_ s)
            | .idle => .next (over_ s)
            | .wait s => .next s)
          else .next (if v.1 = 2 then commitPreempt (over_ s) die cluster x v.2 else over_ s)

/-- A YIELD whose decision cannot start yet awaits it in the dispatcher; what it has found no longer open is forgotten (09 R222). -/
def noteYield (s : State) (d c k n turn : Nat) : State := s.modDisp d c fun p => { p with yields := openYields s d c ++ [(k, n, turn)] }

/-- YIELD: the slice of the context's region ends and the next begins; with an eligible queue that has no server a pre-emption decision is made, the region its only victim. YIELD itself retires at once (04 R86; 09 R222) (log 29). -/
def execYield (s : State) : Out :=
  let k := s.actor.core
  let n := s.actor.ctx
  let d := dieOf k
  let c := clusterOf k
  match s.me.region with
  | none => retire s
  | some g =>
    if g.state ≠ .opened then retire s
    else
      let turn := (s.die d).nextSlice + 1
      let s := (s.modMe fun c => { c with region := some { g with start := s.cyc k, used := 0, turn := turn } }).modDie d fun x => { x with nextSlice := turn }
      match (orderQueues s (homeQueues s d c)).head? with
      | none => retire s
      | some q =>
        if idleServers s d c ≠ 0 then retire s
        else if !(mayPreempt s d c) ∨ openYields s d c ≠ [] then retire (noteYield s d c k n turn)
        else match startYield s d c k n q with
          | .ok _ s => retire s
          | .fault _ _ s => retire (noteYield s d c k n turn)
          | .wait s => retire (noteYield s d c k n turn)

end Sys2Proof.Machine
end

