-- ==== Sys2Proof/Machine/EvCore.lean ====
section
/-! DEFINITION. Commands to contexts, core reset, boot, the end of context switches, and SAVE and RESTORE of a core (01 R22 to R24; 08 R206; 21 R377, R394 to R399; 24 R420, R421, R429). -/
namespace Sys2Proof.Machine

/-- A core of a compute die (00; 24 R419). -/
def realCore (k : Nat) : Bool := decide (dieOf k < 4) && decide (coreIn k < 80)

/-- OP of CTXCMD (24 R420). -/
def cmdOp (v : Word) : Nat := bits v 62 2
/-- CTX of CTXCMD (24 R420). -/
def cmdCtx (v : Word) : Nat := bits v 60 2
/-- KEEP of CTXCMD (24 R420). -/
def cmdKeep (v : Word) : Bool := bit v 59
/-- [54:0] of CTXCMD (24 R420). -/
def cmdVal (v : Word) : Word := w64 (bits v 0 55)

/-- A start or trap command that is ignored is counted in IGN (24 R420). -/
def ignoreCmd (s : State) (k : Nat) : State := s.modCore k fun c => { c with regs := { c.regs with ign := min 65535 (c.regs.ign + 1) } }

/-- The start command (01 R23). -/
def startCtx (s : State) (k n : Nat) (v : Word) : State :=
  if (s.ctx k n).run = .off then
    s.modCtx k n fun c => { c with pc := pcOf (cmdVal v), priv := if cmdKeep v then c.priv else true, run := .run, await := none }
  else ignoreCmd s k

/-- The stop command (24 R421). -/
def stopCmd (s : State) (k n : Nat) : State :=
  let c := s.ctx k n
  match c.run with
  | .off => s
  | .wait => stopContext s k n
  | .run => if c.hold ∨ c.going.isSome then s.modCtx k n fun c => { c with stopping := true } else stopContext s k n

/-- The trap command (21 R377). -/
def trapCmd (s : State) (k n : Nat) (v : Word) : State :=
  if (s.ctx k n).run = .off then ignoreCmd s k else takePending (s.modCtx k n fun c => { c with ext := some (cmdVal v) }) k n

/-- CTXCMD with OP 1 (01 R23; 24 R420). -/
def execCtxStart (core : Nat) (v : Word) (s : State) : Out :=
  .next (if hostReady s ∧ realCore core ∧ cmdOp v = 1 then startCtx s core (cmdCtx v) v else s)

/-- CTXCMD with OP 2 (24 R420, R421). -/
def execCtxStop (core : Nat) (v : Word) (s : State) : Out :=
  .next (if hostReady s ∧ realCore core ∧ cmdOp v = 2 then stopCmd s core (cmdCtx v) else s)

/-- CTXCMD with OP 3 (21 R377; 24 R420). -/
def execCtxTrap (core : Nat) (v : Word) (s : State) : Out :=
  .next (if hostReady s ∧ realCore core ∧ cmdOp v = 3 then trapCmd s core (cmdCtx v) v else s)

/-- The display sequencer belongs to a partition that exists (24 R420). -/
def dsOwned (s : State) : Bool := bit s.iod.dspart 12 && bit (s.part (dsPart s)).partclu 63

/-- DSCMD with OP 1: ignored and counted for a context but 0, and while no partition owns the display sequencer (24 R420). -/
def execDsCtxStart (v : Word) (s : State) : Out :=
  if !(hostReady s) ∨ cmdOp v ≠ 1 then .next s
  else if cmdCtx v ≠ 0 ∨ !(dsOwned s) then .next (ignoreCmd s dsCore)
  else .next (startCtx s dsCore 0 v)

/-- DSCMD with OP 2 (24 R420, R421). -/
def execDsCtxStop (v : Word) (s : State) : Out :=
  if !(hostReady s) ∨ cmdOp v ≠ 2 then .next s
  else if cmdCtx v ≠ 0 then .next (ignoreCmd s dsCore)
  else .next (stopCmd s dsCore 0)

/-- DSCMD with OP 3 (21 R377; 24 R420). -/
def execDsCtxTrap (v : Word) (s : State) : Out :=
  if !(hostReady s) ∨ cmdOp v ≠ 3 then .next s
  else if cmdCtx v ≠ 0 then .next (ignoreCmd s dsCore)
  else .next (trapCmd s dsCore 0 v)

/-- The slice of a context is given up: its server is left, and a token it had not delivered returns to its queue. -/
def giveUpOn (s : State) (k n : Nat) : State :=
  match sliceOn s k n with
  | some (i, x) => giveUp s (dieOf k) i x
  | none => s

/-- A context leaves its core with all that was scheduled on it: its slice, its faults, its place among the WARM servers. -/
def evictCtx (s : State) (k n : Nat) : State := leaveCore (unwarm (dropFaults (giveUpOn (freezeCtx s k n) k n) k n) k n) k n

/-- What others hold of a core is given back: reservations, slices, its gang (05 R97, R128; 08 R202, R206). -/
def evictCore (s : State) (k : Nat) : State :=
  let s := (List.range 4).foldl (fun s n => evictCtx s k n) (dissolveGang s k)
  (List.range 4).foldl (fun s q => freePly s k q) s

/-- CORE RESET: every context is OFF, and registers, dictionaries, plies, buffers, units and the core's registers hold their reset values; CYC counts from 0, but for the display sequencer's, which counts from package reset (01 R15, R21, R23; 03 R67; 05 R97; 06 R149; 08 R206; 12 R267; 21 R392). -/
def execCoreReset (core : Nat) (s : State) : Out :=
  if !(realCore core) ∧ core ≠ dsCore then .next s
  else
    let s := evictCore (settleCore s core) core
    .next (s.setCore core { part := (s.core core).part, cycBase := if core = dsCore then (s.core core).cycBase else s.acOf core
                            regs := { edgeLimit := s.iod.power.limit } })

/-- BOOT: the secure boot sequence checks the image slots, whose outcome the spec leaves to the flash's content (free, log 14): BOOTSTAT takes 1 and the SVN of the image, or 2 (24 R429). -/
def execBoot (s : State) : Out :=
  if s.iod.sec.bootstat ≠ 0 then .next s
  else
    let f (i : Nat) : Nat := (Config.freeByte s.fresh i).toNat
    let fuse := f 1 % 64
    .next { s with
      fresh := s.fresh + 1
      iod := { s.iod with sec := { s.iod.sec with
        bootstat := if f 0 % 2 = 0 then 1 else 2, fwsvn := fuse, svn := if f 0 % 2 = 0 then max fuse (f 2 % 64) else s.iod.sec.svn } } }

/-- A context that was frozen for a switch runs on, and the messages parked for its ply are released (05 R112). -/
def thawCtx (s : State) (k n : Nat) : State :=
  match (s.ctx k n).bound with
  | some q => releaseParked (s.modPly k q fun p => { p with frozen := false }) k
  | none => s

/-- A full switch is given up: its slot is free again, and the slice runs on where there is one; one whose load was abandoned for it ends (21 R394) (log 101). -/
def quitSwitch (s : State) (k n : Nat) (w : SwitchTo) : State :=
  let s := match sliceOn s k n with
    | some (i, x) => if x.loading then giveUp s (dieOf k) i x else s
    | none => s
  ((thawCtx s k n).modCtx k n fun c => { c with switch := none }).modPart (s.partOf k) fun p => { p with slots := p.slots.filter (· ≠ w.slot) }

/-- A full switch of a slice completes: its image is written and its server freed, which goes to the queue it was pre-empted for (09 R219; 21 R394, R395). A slice whose ply was LOADING has an image without one. -/
def endSwitch (s : State) (k n : Nat) (w : SwitchTo) : State :=
  let save (i : Nat) (x : Slice) (g : Region) : State :=
    let s := saveSlice (settleCore s k) k n w.slot i { x with delivering := true } g false
    if queueReady s (dieOf k) (clusterOf k) w.queue then startOn s k n w.queue else s
  match sliceOn s k n, (s.ctx k n).region, (s.ctx k n).bound with
  | some (i, x), some g, some _ => save i x g
  | some (i, x), none, none => if x.loading then save i x {} else quitSwitch s k n w
  | _, _, _ => quitSwitch s k n w

/-- BUFS of CSWCMD: what a SAVE writes of each buffer, with its offset and size (21 R398). -/
def savedBufs (c : CoreSt) (bufs : Nat) : List (Nat × Tab Byte × Nat × Nat) :=
  ([(0x60000, c.ab, bufSize 1, 1), (0xC0000, c.wb, bufSize 2, 2), (0x120000, c.cb, bufSize 3, 3), (0x140000, c.ts, bufSize 4, 4), (0x180000, c.local_, 0x4000, 0)].zipIdx.filter
    fun x => bufs.testBit x.2).map Prod.fst

/-- A selected buffer holds an uncorrectable byte, which stops a SAVE (01 R14; 21 R398). -/
def saveBad (c : CoreSt) (bufs : Nat) : Bool :=
  (savedBufs c bufs).any fun x => c.bad.any fun y => y.2 && decide (x.2.2.2 * 2 ^ 20 ≤ y.1) && decide (y.1 < x.2.2.2 * 2 ^ 20 + x.2.2.1)

/-- A bit for each of n numbers. -/
def maskOf (n : Nat) (f : Nat → Bool) : Nat := (List.range n).foldl (fun a i => a + b2n (f i) * 2 ^ i) 0

/-- The cells of a slice, packed at the width of its type (21 R398; log 17). -/
def sliceCells (y : MxSlice) : List Byte := bytesLE (pack (MTy.bits y.bt) ((List.range (128 * MTy.ks y.bt)).map fun i => Tab.look 0 y.vals i)) 32768

/-- A parked tile request (21 R398). -/
def tileEntry (r : TileReq) : List Byte :=
  bytesLE r.a.toNat 8 ++ bytesLE r.b.toNat 8 ++
  bytesLE (b2n r.done + 2 * (match r.mode with
    | .rep => 0
    | .srcOver => 1
    | .add => 2)) 1 ++ bytesLE r.elem 1 ++ bytesLE (r.rule + 16 * r.ply) 1 ++ List.replicate 13 0

/-- The core section of a core image (21 R398). -/
def corePieces (s : State) (k bufs : Nat) : List Piece :=
  let c := s.core k
  let flags (i : Nat) : Nat := let y := c.mx.slice i; b2n y.valid + 2 * b2n y.aen + 4 * b2n y.ben + 16 * (mtyCode y.bt).toNat
  [(0, bytesLE 0x4F4E5343 4 ++ bytesLE 1 2 ++ bytesLE bufs 1),
   (0x08, bytesLE (ctxId k 0).toNat 4 ++ bytesLE (s.partOf k) 2 ++ bytesLE ((c.fab.order.zipIdx.map fun x => x.1 * 4 ^ x.2).sum) 1),
   (0x10, bytesLE c.evq.length 2 ++ bytesLE c.tile.park.length 2),
   (0x18, bytesLE c.seed.toNat 8),
   (0x40, c.evq.flatMap fun e => bytesLE e.toNat 16),
   (0x1040, (List.range 256).flatMap fun i => bytesLE (Tab.look 0 c.port.handlers i).toNat 8),
   (0x1840, c.port.unbound.flatMap fun m => bytesLE m.msg.toNat 16),
   (0x18C0, bytesLE (maskOf 1536 (Tab.look false c.mx.full)) 192),
   (0x1980, bytesLE (flags 0) 1 ++ bytesLE (flags 1) 1 ++ bytesLE (b2n (bit c.mx.intBank 0)) 1 ++ bytesLE (b2n (bit c.mx.intBank 1)) 1),
   (0x2000, sliceCells (c.mx.slice 0)), (0xA000, sliceCells (c.mx.slice 1)),
   (0x12000, (List.range 2048).map fun i => BitVec.ofNat 8 (Tab.look 0 (c.mx.slice 0).scales i)),
   (0x12800, (List.range 2048).map fun i => BitVec.ofNat 8 (Tab.look 0 (c.mx.slice 1).scales i)),
   (0x13000, (List.range 56).flatMap fun i => bytesLE (c.tile.count i) 2 ++ bytesLE ((Tab.find c.tile.dn i).elim 0 fun v => v + 32768) 2),
   (0x13100, c.tile.park.flatMap tileEntry),
   (0x15100, (List.range 4).flatMap fun i =>
      let w := Tab.look {} c.shadows i
      bytesLE (if w.valid then tagged w.space w.base else 0) 8 ++ bytesLE (if w.valid then tagged w.space w.alt else 0) 8 ++ bytesLE w.len 8 ++
      bytesLE (b2n w.valid + 2 * b2n w.flip) 8)]

/-- The bytes of a core section (21 R398). -/
def coreSize : Nat := 0x15180

/-- The state of CSWST after a command (21 R398): its cause where it failed. -/
def endCsw (s : State) (k : Nat) (fail : Option Nat) : State :=
  s.modCore k fun c => { c with regs := { c.regs with
    csw := none
    cswst := match fail with
      | none => c.regs.cswst &&& 0x7F00
      | some e => w64 (e * 256 + 2) } }

/-- CSWADDR, as an address (21 R398). -/
def cswBase (s : State) (k : Nat) : Nat := bits (s.core k).regs.cswaddr 16 36 * 65536

/-- The faults of a context wait for it to come back from an image (21 R395) (log 17). -/
def sleepFaults (s : State) (k n : Nat) : State :=
  s.modPart (s.partOf k) fun p => { p with faults := p.faults.map fun f => if f.core = k ∧ f.ctx = n then f.asleep else f }

/-- The frames of 64 KiB that a core image takes: four contexts, the core section, and the buffers that BUFS names (21 R398). -/
def cswFrames (bufs : Nat) : List Nat :=
  [0, 1, 2, 3, 4, 5] ++ ([(6, 6), (12, 6), (18, 2), (20, 4), (24, 1)].zipIdx.filter fun x => bufs.testBit x.2).flatMap fun x => (List.range x.1.2).map (x.1.1 + ·)

/-- The way from a core to every frame of its image (23 R406) (log 57). -/
def cswWay (s : State) (k bufs : Nat) : Crossing :=
  let ws := (cswFrames bufs).map fun i => reaching s (accessDie k) (cswBase s k + 0x10000 * i)
  if ws.any fun w => decide (w = .down) then .down else if ws.any fun w => decide (w = .held) then .held else .clear

/-- What the image of a context at an address has no place for is kept beside its bytes (log 17). -/
def keepBeside (s : State) (k n base : Nat) : State :=
  let (b, s) := imageBytes s k base
  s.modDie (dieOf k) fun x => { x with kept := Tab.set x.kept (coreIn k * 4 + n) (besideOf s k n, b) }

/-- What was kept beside an image of a context, where its bytes are those that were written then (log 17). -/
def keptFor (s : State) (k n : Nat) (b : List Byte) : Option Beside :=
  ((Tab.find (s.die (dieOf k)).kept (coreIn k * 4 + n)).filter fun x => x.2 == b).map Prod.fst

/-- A SAVE completes (21 R398): with every context stopped, the images, the core section and the buffers are written, the contexts are OFF and the plies FREE; one that faults stops, and the core keeps its state (log 67). -/
def endSave (s : State) (k : Nat) (v : Word) : State :=
  let base := cswBase s k
  let bufs := bits v 4 5
  let c := s.core k
  let fail (e : Nat) : State := endCsw ((List.range 4).foldl (fun s n => thawCtx s k n) s) k (some e)
  if cswWay s k bufs = .down then fail 0x72
  else if saveBad c bufs then fail 0x2F
  else
    let s1 := (List.range 4).foldl (fun s n => writeImage s k (base + 0x10000 * n) (ctxPieces s k n)) (settleCore s k)
    let s1 := writeImage s1 k (base + 0x40000) (corePieces s1 k bufs)
    let s1 := (savedBufs c bufs).foldl (fun s x => agentWrite s k (base + x.1) (getBytes x.2.1 0 x.2.2.1)) s1
    let s1 := (List.range 4).foldl (fun s n => keepBeside s k n (base + 0x10000 * n)) s1
    endCsw ((List.range 4).foldl (fun s n => evictCtx (sleepFaults s k n) k n) s1) k none

/-- A switch completes (21 R395): of a slice that was pre-empted, or of all four contexts of a core that is saved. -/
def execContextSwitchComplete (core ctx : Nat) (s : State) : Out :=
  match (s.ctx core ctx).switch, (s.core core).regs.csw with
  | some w, _ =>
    if switchReady s core ctx then
      (match reaching s (accessDie core) (slotAddr s (s.partOf core) w.slot) with
       | .clear => .next (endSwitch s core ctx w)
       | .held => .next s
       | .down => .next (fabricFault (quitSwitch s core ctx w) core ((s.ctx core ctx).bound.getD noPly) 7 0 92 none .linkDown 0 0))
    else .next s
  | none, some v =>
    if bits v 0 2 = 1 ∧ (List.range 4).all (fun n => switchReady s core n && (s.ctx core n).switch.isNone) ∧ cswWay s core (bits v 4 5) ≠ .held then .next (endSave s core v) else .next s
  | none, none => .next s

/-- BUSY of CSWST: a command is under way (21 R398). -/
def beginCsw (s : State) (k : Nat) (v : Word) : State :=
  s.modCore k fun c => { c with regs := { c.regs with csw := some v, cswst := (c.regs.cswst &&& 0x7F00) ||| 1 } }

/-- A core that is saved leaves its gang as a member whose operation fails does: the gang is dissolved, its own gang operation fails, and an MX.GANG that waits in it has not begun (08 R202, R206; 21 R398). -/
def loseOwnGang (s : State) (k : Nat) : State :=
  match (s.core k).mx.gang with
  | none => s
  | some g => loseGang ((dissolveGang s k).modMx k fun m => { m with was := some g }) k

/-- CSWCMD with OP 1: the four contexts are switched out together (21 R395, R398); a gang of the core is dissolved (08 R202) (log 67). -/
def execCoreSave (core : Nat) (v : Word) (s : State) : Out :=
  if !(hostReady s) ∨ !(realCore core) ∨ bits v 0 2 ≠ 1 ∨ (s.core core).regs.csw.isSome then .next s
  else .next ((List.range 4).foldl (fun s n => freezeCtx s core n) (loseOwnGang (beginCsw s core v) core))

/-- The core is as a SAVE leaves it (21 R399). -/
def coreClear (s : State) (k : Nat) : Bool :=
  (List.range 4).all fun n => decide ((s.ctx k n).run = .off) && (s.ctx k n).bound.isNone && (s.ctx k n).region.isNone && decide ((s.ply k n).st = .free)

/-- The checks of R399 on a core section: MAGIC, VERSION, PARTID, the core, and the fields that must be zero. -/
def sectionOk (s : State) (k : Nat) (b : List Byte) : Bool :=
  decide (fld b 0 4 = 0x4F4E5343) && decide (fld b 4 2 = 1) && decide (fld b 6 1 < 32) && allZero (cut b 7 1) && decide (fld b 8 4 = (ctxId k 0).toNat) &&
  decide (fld b 0x0C 2 = s.partOf k) && allZero (cut b 0x0F 1) && decide (fld b 0x10 2 ≤ 256) && decide (fld b 0x12 2 ≤ 256) && allZero (cut b 0x14 4) &&
  allZero (cut b 0x20 32) && decide (fld b 0x1980 1 / 8 % 2 = 0) && decide (fld b 0x1981 1 / 8 % 2 = 0) && decide (fld b 0x1982 1 < 2) && decide (fld b 0x1983 1 < 2) &&
  allZero (cut b 0x1984 0x67C) && ((List.range 56).all fun i => let v := fld b (0x13002 + 4 * i) 2; decide (v < 512) || (decide (32768 ≤ v) && decide (v < 33280))) &&
  allZero (cut b 0x130E0 0x20) &&
  ((List.range (fld b 0x12 2)).all fun i =>
    let r := cut b (0x13100 + 32 * i) 32
    decide (fld r 16 1 < 6) && decide (fld r 17 1 < 64) && decide (fld r 18 1 < 64) && allZero (cut r 19 13)) &&
  (List.range 4).all fun i => let r := cut b (0x15100 + 32 * i) 32; decide (fld r 24 1 < 4) && allZero (cut r 25 7)

/-- A context image is loaded through the loader, with the image's dictionary in force (05 R115; 21 R399): the ply it fills, where it holds one. -/
def loadFor (s : State) (k n : Nat) (b : List Byte) : Mr (Option (Nat × Ply)) :=
  if imagePly b then
    (loadImage (s.modCtx k n fun c => { c with dict := (ctxOf b).dict }) k n (w64 (fld b 0x10 8)) false).andThen fun g s => .ok (some (fld b 0x0E 1 % 4, g)) s
  else .ok none s

/-- The region of a context image: what the image lacks is read again from its RCB path (05 R121, R122; 21 R396; log 17). -/
def regionFor (s : State) (k : Nat) (b : List Byte) : Mr (Option Region) :=
  if imageRgn b then
    let rcb := w64 (fld b 0x18 8)
    (rcbPath k false 8 rcb.toNat s).andThen fun l s =>
      let h := l.headD []
      let strand := (fld h 0x10 4).testBit 4
      if 8 < l.length ∨ !(l.all rcbClean) ∨ !(inheritedOk l) then .fault 0x32 0 s
      else (if strand then readBlocks s k false h else .ok [] s).andThen fun blocks s =>
        let g := regionOf s k rcb l blocks
        .ok (some (restoreRegion s k b { g with running := blocks.findIdx? fun x => imagePly b && decide (x.image = w64 (fld b 0x10 8)) })) s
  else .ok none s

/-- The contexts from n on, m of them: each image with the ply and the region it restores, or the cause that ends the restore (21 R399). -/
def loadAll (k base : Nat) : Nat → Nat → State → Mr (List (Nat × List Byte × Option (Nat × Ply) × Option Region))
  | 0, _, s => .ok [] s
  | m + 1, n, s =>
    let (b, s) := imageBytes s k (base + 0x10000 * n)
    if !(imageOk s k b) ∨ fld b 8 4 ≠ (ctxId k n).toNat then .fault 0x71 0 s
    else
      (loadFor s k n b).andThen fun q s =>
        if q.any (fun x => !(rulesZero x.2 b)) then .fault 0x71 0 s else
        (regionFor s k b).andThen fun g s =>
          (loadAll k base m (n + 1) s).andThen fun l s => .ok ((n, b, q, g) :: l) s

/-- A slice from a core section (21 R398; log 17). -/
def sliceFrom (f : Nat) (cells scales : List Byte) : MxSlice :=
  let t := (mtyOf (BitVec.ofNat 4 (f / 16))).getD .bf16
  let v := ofBytesLE cells
  { valid := f.testBit 0, aen := f.testBit 1, ben := f.testBit 2, bt := t
    vals := (List.range (128 * MTy.ks t)).foldl (fun m i => Tab.put 0 m i (nbits v (MTy.bits t * i) (MTy.bits t))) []
    scales := (List.range 2048).foldl (fun m i => Tab.put 0 m i (fld scales i 1)) [] }

/-- A tile request from its entry (21 R398). -/
def tileFrom (p : Nat → Ply) (b : List Byte) : TileReq :=
  let e := fld b 17 1 % 64
  let r := fld b 18 1 % 16
  let q := fld b 18 1 / 16 % 4
  { done := (fld b 16 1).testBit 0, a := w64 (fld b 0 8), b := w64 (fld b 8 8)
    mode := (match fld b 16 1 / 2 % 4 with
      | 0 => .rep
      | 1 => .srcOver
      | _ => .add)
    elem := e, ply := q, rule := r, word := (Tab.look {} ((p q).rulesOf e) r).word, ctx := (p q).ctx }

/-- A shadow window from its entry (21 R398). -/
def shadowFrom (b : List Byte) : Shadow :=
  let f := fld b 24 1
  if f.testBit 0 then
    { valid := true, space := nbits (fld b 0 8) 60 4, base := fld b 0 8 % 2 ^ 19, alt := fld b 8 8 % 2 ^ 19, len := fld b 16 8, flip := f.testBit 1 }
  else {}

/-- The core section and the buffers fill the core (21 R399). -/
def fillCore (c : CoreSt) (b : List Byte) (buf : Nat → Option (Tab Byte)) : CoreSt :=
  let f (i : Nat) : Nat := fld b (0x1980 + i) 1
  let msgs := (List.range 8).map fun i => fld b (0x1840 + 16 * i) 16
  { c with
    seed := w64 (fld b 0x18 8)
    evq := (List.range (fld b 0x10 2)).map fun i => BitVec.ofNat 128 (fld b (0x40 + 16 * i) 16)
    port := { c.port with
      handlers := (List.range 256).foldl (fun t i => Tab.put 0 t i (w64 (fld b (0x1040 + 8 * i) 8))) []
      unbound := (msgs.takeWhile (· ≠ 0)).zipIdx.map fun (m, i) => { msg := BitVec.ofNat 128 m, no := i }
      arrivals := 8 }
    fab := { c.fab with order := (List.range 4).map fun i => nbits (fld b 0x0E 1) (2 * i) 2 }
    mx := { c.mx with
      full := (List.range 1536).foldl (fun t i => Tab.put false t i ((fld b (0x18C0 + i / 8) 1).testBit (i % 8))) []
      intBank := BitVec.ofNat 2 (f 2 % 2 + 2 * (f 3 % 2))
      slices := [(0, sliceFrom (f 0) (cut b 0x2000 32768) (cut b 0x12000 2048)), (1, sliceFrom (f 1) (cut b 0xA000 32768) (cut b 0x12800 2048))]
      gang := none }
    tile := {
      bcnt := (List.range 56).foldl (fun t i => Tab.put 0 t i (fld b (0x13000 + 4 * i) 2)) []
      dn := (List.range 56).foldl (fun t i => let v := fld b (0x13002 + 4 * i) 2; if v.testBit 15 then Tab.set t i (v % 512) else t) []
      park := (List.range (fld b 0x12 2)).map fun i => tileFrom c.fab.ply (cut b (0x13100 + 32 * i) 32) }
    shadows := (List.range 4).foldl (fun t i => Tab.set t i (shadowFrom (cut b (0x15100 + 32 * i) 32))) []
    ab := (buf 1).getD c.ab, wb := (buf 2).getD c.wb, cb := (buf 3).getD c.cb, ts := (buf 4).getD c.ts, local_ := (buf 0).getD c.local_ }

/-- A buffer of a core image as it is read (21 R398): one that BUFS names. -/
def bufFrom (s : State) (k base bufs i off size : Nat) : Option (Tab Byte) × State :=
  if bufs.testBit i then
    let (bs, s) := agentRead s k (base + off) size
    (some (putBytes [] 0 bs), s)
  else (none, s)

/-- A context with its ply and region comes back, in its saved STATE, with what was kept beside its image (21 R399) (log 17). -/
def refillCtx (s : State) (k n : Nat) (b : List Byte) (q : Option (Nat × Ply)) (g : Option Region) : State :=
  let kept := keptFor s k n b
  let s := restoreCtx s k n q b (kept.elim [] (·.reqs)) (if kept.any (fun y => decide (y.ply.st = .active)) then kept.map (·.ply) else none)
  (kept.elim s fun y => restoreBeside s k n (q.map Prod.fst) y false).modCtx k n fun c => { c with region := g, run := if (fld b 6 1).testBit 3 then .run else .off }

/-- A RESTORE fails: CSWST says so, a P record of the cause is written, and the core is as it was (21 R399). -/
def failRestore (s s0 : State) (k e : Nat) : State :=
  endCsw (partFault (s.setCore k (s0.core k)) (s0.partOf k) (if e = 0x71 then .restoreFormat else causeOf e) 0 5 (placeOf k)) k (some e)

/-- The faults that waited for the restored contexts wait there again, and held units that no fault awaits go on (21 R395, R399) (log 17). -/
def wakeCore (s : State) (k : Nat) (l : List (Nat × List Byte × Option (Nat × Ply) × Option Region)) : State :=
  let mine (n : Nat) (f : FaultRef) : Bool := f.saved && decide (f.core = k) && decide (f.ctx = n)
  let fs := (s.part (s.partOf k)).faults
  let s := s.modPart (s.partOf k) fun p => { p with faults := p.faults.filter fun f => !(l.any fun x => mine x.1 f) }
  l.foldl (fun s (n, _, q, _) => match q with
    | some (q, _) => wakePly s k n q (fs.filter (mine n))
    | none => s) s

/-- A RESTORE (21 R399): its checks, the loads, then everything in the order saved. It waits where a load waits for the host. -/
def tryRestore (s0 : State) (k : Nat) : Out :=
  let base := cswBase s0 k
  let way := cswWay s0 k 0
  if way = .held then .next s0
  else if way = .down then .next (failRestore s0 s0 k 0x72)
  else
    let (h, s) := agentRead s0 k (base + 0x40000) coreSize
    let bufWay := cswWay s0 k (fld h 6 1)
    if bufWay = .held then .next s0
    else if bufWay = .down then .next (failRestore s s0 k 0x72)
    else if !(coreClear s0 k) ∨ !(sectionOk s0 k h) then .next (failRestore s s0 k 0x71)
    else
      match loadAll k base 4 0 s with
      | .wait s => .next (s.setCore k (s0.core k))
      | .fault c _ s => .next (failRestore s s0 k c)
      | .ok l s =>
        let s := l.foldl (fun s (n, b, q, g) => refillCtx s k n b q g) s
        let bufs := fld h 6 1
        let (b1, s) := bufFrom s k base bufs 0 0x60000 (bufSize 1)
        let (b2, s) := bufFrom s k base bufs 1 0xC0000 (bufSize 2)
        let (b3, s) := bufFrom s k base bufs 2 0x120000 (bufSize 3)
        let (b4, s) := bufFrom s k base bufs 3 0x140000 (bufSize 4)
        let (b0, s) := bufFrom s k base bufs 4 0x180000 0x4000
        let s := s.modCore k fun c => fillCore c h fun
          | 0 => b0
          | 1 => b1
          | 2 => b2
          | 3 => b3
          | _ => b4
        .next (endCsw (releaseParked (wakeCore s k l) k) k none)

/-- CSWCMD with OP 2 (21 R398, R399). -/
def execCoreRestore (core : Nat) (v : Word) (s : State) : Out :=
  if !(hostReady s) ∨ !(realCore core) ∨ bits v 0 2 ≠ 2 ∨ (s.core core).regs.csw.isSome then .next s
  else tryRestore (beginCsw s core v) core

/-- A load that the loader runs for the block scheduler, the dispatcher, the placement controller or a restore finishes (05 R97, R126; 09 R220; 21 R399). -/
def execEndOfALoad (core ply : Nat) (s : State) : Out :=
  match (s.core core).regs.csw with
  | some v => if bits v 0 2 = 2 then tryRestore s core else endLoad core ply s
  | none => endLoad core ply s

end Sys2Proof.Machine
end

