-- ==== Sys2Proof/Machine/EvMem.lean ====
section
/-! DEFINITION. Events of memory: walks, duties, invalidation, compressed pages, host coherence, migration, occlusion slots and chunk pools (00 R8 to R10; 11 R253 to R265; 13 R305, R306; 18 R345, R346; 24 R425, R426). -/
namespace Sys2Proof.Machine

/-- An access of core k that waits for a walk of this kind: a fetch of a context in RUN at its PC, or a request of an element; one for which no request is with the host (11 R253, R254) (log 54). -/
def walkDue (s : State) (k va : Nat) (acc : Acc) (user : Bool) : Bool :=
  let c := s.core k
  let fetches := decide (acc = .fetch) && (List.range 4).any fun n =>
    let x := c.ctx n
    decide (x.run = .run) && decide (x.pc.toNat / 65536 = va / 65536) && decide (user = !x.priv)
  let asks (y : Req) : Bool := user && decide (y.st = .waiting) && decide (y.ea.toNat / 65536 = va / 65536) &&
    (match y.kind with
     | .load _ => decide (acc = .read)
     | .store _ => decide (acc = .write)
     | .amo _ _ => decide (acc = .amo)
     | _ => false)
  (fetches || c.fab.reqs.any fun x => x.2.any asks) && decide (va < 2 ^ 55) && (xlatHit c va acc).isNone &&
  !((s.part (s.partOf k)).duties.any fun d => decide (d.func = 0) && decide (d.core = k) && decide (d.what / 65536 = va / 65536) && decide (d.acc = acc))

/-- The die walker walks for an access that waits: A and D are set and the leaf enters the core's cache; a walk that fails leaves the fault to the access (11 R253 to R255) (log 54). -/
def execPageWalk (core : Nat) (va : Word) (acc : Acc) (user : Bool) (s : State) : Out :=
  if walkDue s core va.toNat acc user then
    match walk s core va.toNat acc user with
    | .ok _ s => .next s
    | .wait s => .next s
    | .fault _ _ s => .next s
  else .next s

/-- s with f applied to the decision that awaits the host's answer with a tag (00 R8). -/
def modAwaiting (s : State) (p : Nat) (d : Duty) (f : Decision → Decision) : State :=
  s.modDie d.die fun y => { y with disps := Tab.mod {} y.disps d.cluster fun x =>
    { x with decs := x.decs.map fun z => if z.host = some d.tag ∧ z.part = p then f z else z } }

/-- s with f applied to the line that awaits the host's answer with a tag (11 R263). -/
def modLine (s : State) (p tag : Nat) (f : CmpLine → CmpLine) : State :=
  s.modMem fun m => { m with cmp := m.cmp.map fun l => if l.duty = some tag ∧ l.part = p then f l else l }

/-- WAIT of a request has expired (00 R7, R9) (log 62). -/
def dutyDue (s : State) (d : Duty) : Bool :=
  d.reply.isNone && !d.expired && decide (d.wait ≠ 0) && decide (d.wait ≤ ((s.die d.die).dlc + 2 ^ 64 - d.at_) % 2 ^ 64)

/-- The fallback of a request whose WAIT has expired, and HOST_DUTY_TIMEOUT (00 R8, R9) (log 62). -/
def expireDuty (s : State) (p : Nat) (d : Duty) : State :=
  let s := dutyTimeout s p d
  match d.func with
  | 0 => promoteWalks d.die (s.die d.die).walkq.length (s.modPart p fun x => { x with duties := x.duties.map fun y => if y.tag = d.tag then { y with expired := true } else y })
  | 1 => dropDuty (modAwaiting s p d fun z => { z with host := none, verdict := some z.builtin }) p d.tag
  | 2 => dropDuty (modLine s p d.tag fun l => { l with duty := none }) p d.tag
  | _ => dropDuty (modAwaiting s p d fun z => { z with host := none, verdict := if z.prog.isNone then some z.builtin else none }) p d.tag

/-- WAIT of a host-assisted request expires (00 R8, R9). -/
def execDutyWaitExpiry (part tag : Nat) (s : State) : Out :=
  match dutyOf s part tag with
  | some d => if dutyDue s d then .next (expireDuty s part d) else .next s
  | none => .next s

/-- The compressed page's tile (11 R261). -/
def poolKey (desc : Nat) : Nat := nbits desc 12 4

/-- A pool of a tile. -/
def State.pool (s : State) (d t : Nat) : Pool := Tab.look {} (s.die d).pools t
/-- s with a pool replaced. -/
def State.setPool (s : State) (d t : Nat) (x : Pool) : State := s.modDie d fun y => { y with pools := Tab.set y.pools t x }

/-- CHUNK_LOW of a tile (11 R264) (log 48). -/
def chunkLow (s : State) (d t : Nat) : State :=
  let x := s.pool d t
  hostEvent s (0x20 + (16 * d + t) * 2 ^ 9 + x.free.length * 2 ^ 15 + x.reserve.length * 2 ^ 36) 0

/-- The oldest frame of the free list is taken; CHUNK_LOW as FREE falls below LOWMARK (11 R264). -/
def takeFree (s : State) (d t : Nat) : Option (Nat × State) :=
  let x := s.pool d t
  match x.free with
  | [] => none
  | f :: rest =>
    let s := s.setPool d t { x with free := rest }
    some (f, if x.free.length = x.lowmark then chunkLow s d t else s)

/-- n chunks for a layout: from the free list, then from the reserve (11 R263). -/
def takeChunks (d t : Nat) : Nat → State → List Nat × State
  | 0, s => ([], s)
  | n + 1, s =>
    match takeFree s d t with
    | some (f, s) => let (l, s) := takeChunks d t n s; (f :: l, s)
    | none =>
      let x := s.pool d t
      match x.reserve with
      | [] => ([], s)
      | f :: rest => let (l, s) := takeChunks d t n (s.setPool d t { x with reserve := rest }); (f :: l, s)

/-- A frame goes to the reserve while RESV < RSVT, else to the free list (11 R263, R264). -/
def giveChunk (s : State) (d t f : Nat) : State :=
  let x := s.pool d t
  s.setPool d t (if x.reserve.length < x.rsvt then { x with reserve := x.reserve ++ [f] } else { x with free := x.free ++ [f] })

/-- The physical address of block b of a compressed page: of its first sector (11 R261). -/
def blockPa (m : Memory) (desc b : Nat) : Nat := cmpSector m desc (cmpFirst m desc b)

/-- The block of a dirty line with the line merged (11 R262). -/
def mergedBlock (m : Memory) (l : CmpLine) : List Byte := overlay (cmpStored m l.desc (l.line / 2)) (128 * (l.line % 2)) l.bytes

/-- m with the state of a page's descriptor set (11 R261). -/
def setCmpState (m : Memory) (desc : Nat) (lock broken : Bool) : Memory := m.tileSet (desc + 0x240) (bytesLE (b2n lock + 2 * b2n broken) 8)

/-- m with sectors written from sector x of a page on. -/
def putSectors (m : Memory) (desc : Nat) : Nat → List Byte → Nat → Memory
  | _, _, 0 => m
  | x, bs, n + 1 => putSectors (m.tileSet (cmpSector m desc x) (bs.take 32)) desc (x + 1) (bs.drop 32) n

/-- m with a slot word written (11 R261). -/
def putSlot (m : Memory) (desc b size first : Nat) : Memory := m.tileSet (desc + 2 * b) (bytesLE (size * 4096 + first) 2)

/-- A dirty line leaves its L2 (11 R258, R262). -/
def dropLine (m : Memory) (l : CmpLine) : Memory := { m.setL2 l.die (cmpLineNo l.desc l.line) {} with cmp := m.cmp.filter fun x => !(decide (x.desc = l.desc) && decide (x.line = l.line)) }

/-- A write-back is discarded: the partition of the line's tag faults (11 R263; 21 R373, R374) (log 48). -/
def discardLine (s : State) (l : CmpLine) : State :=
  partFault (s.modMem fun m => dropLine m l) l.part .chunkReserveEmpty (blockPa s.mem l.desc (l.line / 2)) 7 (homeDie l.desc * 2 ^ 13)

/-- A block that fits its slot is written (11 R262). -/
def storeBlock (m : Memory) (l : CmpLine) : Memory :=
  let b := l.line / 2
  let (n, bs) := cmpPack (mergedBlock m l)
  let first := cmpFirst m l.desc b
  dropLine (putSlot (putSectors m l.desc first bs n) l.desc b n first) l

/-- The write-back of a dirty line fits its block's slot. -/
def lineFits (m : Memory) (l : CmpLine) : Bool := decide ((cmpPack (mergedBlock m l)).1 ≤ cmpCap m l.desc (l.line / 2))

/-- The entries of a tile's pending table (11 R262). -/
def pendingCap : Nat := 64

/-- A write-back waits at its tile: the page is locked, an entry holds the block, no entry is free, or one that arrived earlier waits on the page (11 R262). -/
def writebackWaits (m : Memory) (l : CmpLine) : Bool :=
  let before (x : CmpLine) : Bool := match x.arrived, l.arrived with
    | some a, some b => decide (a < b)
    | some _, none => true
    | none, _ => false
  cmpLock m l.desc || l.outgrown || (m.cmp.any fun x => x.outgrown && decide (x.desc = l.desc) && decide (x.line / 2 = l.line / 2)) ||
  decide (pendingCap ≤ (m.cmp.filter fun x => x.outgrown && decide (tileOf x.desc = tileOf l.desc)).length) ||
  m.cmp.any fun x => decide (x.desc = l.desc) && !x.outgrown && before x

/-- A write-back that waits takes its place in arrival order (11 R262). -/
def arriveWriteback (m : Memory) (l : CmpLine) : Memory :=
  let next := nextArrival m
  { m with cmp := m.cmp.map fun x => if x.desc = l.desc ∧ x.line = l.line then { x with arrived := some (x.arrived.getD next) } else x }

/-- The requests that waited on a page's lock before a write-back came are served before it locks the page again (11 R262). -/
def serveReads (m : Memory) (l : CmpLine) : Memory :=
  { m with reads := m.reads.map fun x => if x.desc = l.desc ∧ x.served.isNone ∧ l.arrived.all (x.arrived < ·) then { x with served := some (cmpLineBytes m x.desc x.line) } else x }

/-- The way of a line's write-back from its die to its tile (23 R405, R406). -/
def writebackWay (s : State) (l : CmpLine) : Crossing := crossing s l.die (homeOf l.desc)

/-- A line of a compressed page is written back: the tile recompresses its block; one that outgrows its slot locks the page, in hardware or with a request to the host (11 R262, R263; 24 R425). It waits while the page is locked, in arrival order, and while flits are held on its way; with no way left it stays in its L2 (23 R405, R406) (logs 57, 69). -/
def execCompressedWriteback (n : Nat) (s : State) : Out :=
  match s.mem.cmp[n]? with
  | none => .next s
  | some l =>
    if !(cmpOk s.mem l.desc) ∨ (!l.outgrown ∧ writebackWay s l ≠ .clear) then .next s
    else if writebackWaits s.mem l then .next (s.modMem fun m => arriveWriteback m l)
    else if cmpBroken s.mem l.desc then .next (discardLine s l)
    else if lineFits s.mem l then .next (s.modMem fun m => storeBlock m l)
    else
      let s1 := s.modMem fun m => setCmpState (serveReads m l) l.desc true false
      let mark (s : State) (tag : Option Nat) : State := s.modMem fun m => { m with cmp := m.cmp.map fun x =>
        if x.desc = l.desc ∧ x.line = l.line then { x with outgrown := true, duty := tag } else x }
      if bit (s.part l.part).dutyctl 2 then
        let pa := blockPa s.mem l.desc (l.line / 2)
        let (s2, tag) := sendDuty s1 l.part { func := 2, die := homeDie l.desc, what := pa } pa 0 []
        if (dutyOf s2 l.part tag).any (·.expired) then .next (mark (dropDuty s2 l.part tag) none) else .next (mark s2 (some tag))
      else .next (mark s1 none)

/-- First sectors of blocks from their capacities. -/
def firstsOf : Nat → List Nat → List Nat
  | _, [] => []
  | x, c :: cs => x :: firstsOf (x + c) cs

/-- A page laid out anew, its blocks' sectors and the outgrown block as given (11 R261, R263). -/
def writeLayout (m : Memory) (desc : Nat) (chunks : List Nat) (blocks : List (Nat × List Byte)) (firsts : List Nat) : Memory :=
  let m := (List.range 16).foldl (fun m i => m.tileSet (desc + 0x200 + 4 * i) (bytesLE ((chunks[i]?).getD 0 / 4096) 4)) m
  ((blocks.zip firsts).zipIdx).foldl (fun m ((x, f), b) => putSlot (putSectors m desc f x.2 x.1) desc b x.1 f) m

/-- The hardware layout of a locked page for an outgrown line (11 R263). -/
def layoutPage (s : State) (l : CmpLine) : State :=
  let m := s.mem
  let d := homeDie l.desc
  let t := poolKey l.desc
  let pool := s.pool d t
  let own := l.line / 2
  let blocks := (List.range 256).map fun b =>
    if b = own then cmpPack (mergedBlock m l) else (cmpSize m l.desc b, cmpSectors m l.desc (cmpFirst m l.desc b) (cmpSize m l.desc b))
  let caps := blocks.map fun x => min 8 (x.1 + min 2 pool.slack)
  let need := cdiv caps.sum 128
  let have_ := cmpChunks m l.desc
  if pool.free.length + pool.reserve.length < need - have_.length then discardLine (s.modMem fun m => setCmpState m l.desc false true) l
  else
    let (new, s) := takeChunks d t (need - have_.length) s
    let chunks := (have_ ++ new).take need
    let s := (have_.drop need).foldl (fun s f => giveChunk s d t f) s
    s.modMem fun m => dropLine (setCmpState (writeLayout m l.desc chunks blocks (firstsOf 0 caps)) l.desc false false) l

/-- The hardware layout of a page whose block has outgrown its slot runs, in hardware mode or once WAIT has expired (11 R263) (log 69). -/
def execPageRelayout (n : Nat) (s : State) : Out :=
  match s.mem.cmp[n]? with
  | some l => if l.outgrown ∧ l.duty.isNone ∧ cmpLock s.mem l.desc then .next (layoutPage s l) else .next s
  | none => .next s

/-- The host has released the page of a line: the tile writes the block, or finds that it has outgrown its slot once more (11 R263; 24 R426). -/
def releasePage (s : State) (p tag : Nat) : State :=
  match s.mem.cmp.find? fun l => decide (l.duty = some tag) && decide (l.part = p) with
  | none => s
  | some l =>
    let s := s.modMem fun m => setCmpState m l.desc false (cmpBroken m l.desc)
    if lineFits s.mem l then s.modMem fun m => storeBlock m l
    else modLine s p tag fun l => { l with outgrown := false, duty := none }

/-- DUTYCMD: the host answers a request by its TAG (00 R8, R9; 24 R426). A reply that meets the expiry of WAIT is discarded after it (log 68). -/
def execDutyReply (part : Nat) (v : Word) (s : State) : Out :=
  if !(hostReady s) then .next s
  else
    let code := bits v 0 3
    match dutyOf s part (bits v 48 16) with
    | none => .next s
    | some d =>
      if d.reply.isSome ∨ d.expired then .next s
      else if dutyDue s d then .next (expireDuty s part d)
      else
        let data := (s.part part).dutydata
        let answer (s : State) : State := dropDuty (modAwaiting s part d fun z => { z with host := none, verdict := some (code, bits data 0 5), byHost := true }) part d.tag
        match d.func with
        | 0 =>
          if 1 < code then .next s
          else
            let s := if d.stale then dropDuty s part d.tag
              else s.modPart part fun x => { x with duties := x.duties.map fun y => if y.tag = d.tag then { y with reply := some (code, bits v 8 7, data) } else y }
            .next (promoteWalks d.die (s.die d.die).walkq.length s)
        | 2 => if code = 0 then .next (dropDuty (releasePage s part d.tag) part d.tag) else .next s
        | _ => .next (answer s)

/-- The pages of a TINV: the first and how many (11 R255); every page under ALL. -/
def tinvRange (v : Word) : Nat × Nat := if bit v 63 then (0, 2 ^ 39) else (bits v 16 39, bits v 0 16 + 1)

/-- Pages overlap a range. -/
def rangeHits (r : Nat × Nat) (vpn pages : Nat) : Bool := decide (vpn < r.1 + r.2) && decide (r.1 < vpn + pages)

/-- Cached translations of a core that overlap a range are dropped (11 R255, R256). -/
def dropXlats (c : CoreSt) (r : Nat × Nat) : CoreSt :=
  { c with
    xlats := c.xlats.filter fun x => !(rangeHits r x.vpn x.pages)
    streams := c.streams.map fun (i, p) =>
      (i, { p with
        wins := p.wins.filter fun w => !(rangeHits r w.2.vbase w.2.npg)
        builds := p.builds.filter fun b => !(rangeHits r b.2.page b.2.npg)
        reached := p.reached.filter fun l => !(l.any fun x => rangeHits r (x.1 / 65536) 1) }) }

/-- The 64 KiB pages under a non-leaf entry: the first and how many (11 R253). -/
def WalkEnt.range (x : WalkEnt) : Nat × Nat := (x.pfx * 2 ^ (26 - 13 * x.lv), 2 ^ (26 - 13 * x.lv))

/-- Entries of a walker's cache for pages of a partition that overlap a range are dropped (11 R255). -/
def dropWalks (y : Die) (p : Nat) (r : Nat × Nat) : Die :=
  { y with wcache := y.wcache.filter fun x => !(decide (x.part = p) && rangeHits r x.range.1 x.range.2) }

/-- The cores of a partition, the display sequencer among them where it owns it. -/
def coresOf (s : State) (p : Nat) : List Nat := (s.cores.map Prod.fst).filter fun k => decide (s.partOf k = p)

/-- An invalidation drops the cached translations of a partition that overlap a range (11 R255). -/
def invalidate (s : State) (p : Nat) (r : Nat × Nat) : State :=
  (List.range 4).foldl (fun s d => s.modDie d fun y => dropWalks y p r) ((coresOf s p).foldl (fun s k => s.modCore k fun c => dropXlats c r) s)

/-- No line of some is in a range of pages. -/
def linesOutside (r : Nat × Nat) (ls : List WLine) : Bool := ls.all fun l => !(rangeHits r (l.va / 65536) 1)

/-- Every access of a partition that used a translation of the range is performed: no write stream holds a line of it, nor does the image of one that is switched out (11 R255; 21 R395). -/
def accessesOver (s : State) (p : Nat) (r : Nat × Nat) : Bool :=
  ((coresOf s p).all fun k => (s.core k).streams.all fun x =>
    !(x.2.run.any fun y => y.cmd.desc.write) || linesOutside r x.2.lines) &&
  (s.part p).suspended.all fun x => x.beside.lines.all fun y => linesOutside r y.2

/-- The walks that the walkers of the dies have begun for a partition, noted as begun before an invalidation (11 R255). -/
def noteWalks (s : State) (p : Nat) : State :=
  (List.range 4).foldl (fun s d => s.modDie d fun y => { y with walks := y.walks.map fun w => if w.part = p then { w with old := true } else w }) s

/-- A walk of a partition begun before an invalidation has not ended on some die (11 R255). -/
def walkBehind (s : State) (p : Nat) : Bool := (List.range 4).any fun d => (s.die d).walks.any fun w => decide (w.part = p) && w.old && w.stands s d

/-- TINV: an invalidation starts, or waits behind the one under way; it notes the walks begun before it (11 R255) (log 70). -/
def execTinv (part : Nat) (v : Word) (s : State) : Out :=
  if !(hostReady s) then .next s
  else
    let p := s.part part
    let walks := (p.duties.filter fun d => decide (d.func = 0)).map (·.tag)
    let s1 := (noteWalks s part).modPart part fun x => { x with tinvs := x.tinvs ++ [(v, walks)] }
    .next (if p.tinvs.isEmpty then invalidate s1 part (tinvRange v) else s1)

/-- The walks of a partition's range that a die's walker began before an invalidation end with it: their accesses ask again (11 R255). -/
def endWalks (y : Die) (p : Nat) (r : Nat × Nat) : Die :=
  { y with walks := y.walks.filter fun w => !(decide (w.part = p) && w.old && rangeHits r (w.duty.what / 65536) 1) }

/-- What walks begun before an invalidation brought for its range is dropped with it: translations they filled, and answers that no access has taken up (11 R255). -/
def dropAnswers (x : Part) (walks : List Nat) (r : Nat × Nat) : Part :=
  { x with duties := x.duties.filter fun d => !(decide (d.func = 0) && walks.contains d.tag && rangeHits r (d.what / 65536) 1) }

/-- The invalidation under way is over: the walks begun before it have ended, and what they brought is dropped, and the accesses are performed; the next one starts (11 R255) (log 70). -/
def execTinvComplete (part : Nat) (s : State) : Out :=
  let p := s.part part
  match p.tinvs with
  | [] => .next s
  | (v, walks) :: rest =>
    let r := tinvRange v
    if !(accessesOver s part r) ∨ p.duties.any (fun d => d.inFlight && walks.contains d.tag) ∨ walkBehind s part then .next s
    else
      let s := (List.range 4).foldl (fun s d => s.modDie d fun y => endWalks y part r) s
      let s := (invalidate (performStores s fun _ => true) part r).modPart part fun x => { dropAnswers x walks r with tinvs := rest }
      .next (match rest with
        | [] => s
        | (w, _) :: _ => invalidate s part (tinvRange w))

/-- A line of host memory (11 R248). -/
def hostMemory (pa : Nat) : Bool := decide (2 ^ 51 ≤ pa) && decide (pa < 2 ^ 52)

/-- The host observes a line: the stores to it that elements and streams may still miss are performed, and so those before them (13 R293 to R295). -/
def hostSees (s : State) (pa : Nat) : State := performStores s fun x => x.meets (pa / 128 * 128) 128

/-- SnpData: a line in M or E goes to S, its dirty data to the host (13 R305). -/
def execSnpdata (die pa : Nat) (s : State) : Out :=
  let l := s.mem.l2At die (pa / 128)
  if hostReady s ∧ die < 5 ∧ hostMemory pa ∧ (l.st = .m ∨ l.st = .e) then .next ((hostSees s pa).modMem fun m => m.setL2 die (pa / 128) { l with st := .s })
  else .next s

/-- SnpInv: the line goes to I, its dirty data to the host (13 R305). -/
def execSnpinv (die pa : Nat) (s : State) : Out :=
  if hostReady s ∧ die < 5 ∧ hostMemory pa then .next ((hostSees s pa).modMem fun m => m.setL2 die (pa / 128) {}) else .next s

/-- SnpCur: the current data is answered, and no cache changes (13 R305). -/
def execSnpcur (die pa : Nat) (s : State) : Out := if hostReady s ∧ die < 5 ∧ hostMemory pa then .next (hostSees s pa) else .next s

/-- The host takes a line of device memory, for itself alone where it asks for ownership (11 R265; 13 R306). -/
def hostTakes (s : State) (pa : Nat) (own : Bool) : State :=
  let line := pa / 128
  let s := if own ∧ s.mem.snoopAt line ≠ .excl then bumpVersion (hostSees s pa) pa else hostSees s pa
  s.modMem fun m => (m.others 4 line own).setSnoop line (if own then .excl else .shared)

/-- The host writes an aligned doubleword of its own memory, once no L2 of the device holds the line: SnpInv takes it from those that do (11 R248; 13 R305; 25 R433) (log 105). -/
def hostStore (pa : Nat) (v : Word) (s : State) : State :=
  if hostReady s ∧ hostMemory pa ∧ pa % 8 = 0 ∧ (List.range 5).all (fun d => decide ((s.mem.l2At d (pa / 128)).st = .i)) then
    (hostSees s pa).modMem fun m => m.set pa (bytesLE v.toNat 8)
  else s

/-- A host read of a line of device memory (13 R306). -/
def execHostReadDeviceMemory (pa : Nat) (own : Bool) (s : State) : Out :=
  if hostReady s ∧ pa < 2 ^ 38 then .next (hostTakes s pa own) else .next s

/-- A host write of an aligned doubleword of device memory (13 R306) (log 81). -/
def execHostWriteDeviceMemory (pa : Nat) (v : Word) (s : State) : Out :=
  if hostReady s ∧ pa < 2 ^ 38 ∧ pa % 8 = 0 then .next ((hostTakes s pa true).modMem fun m => m.set pa (bytesLE v.toNat 8)) else .next s

/-- MIGSTAT of a die (24 R420). -/
def setMigst (s : State) (d n : Nat) : State := s.modDie d fun y => { y with regs := { y.regs with migst := n } }

/-- The lines of a 64 KiB frame copied with coherent reads (11 R265). -/
def copyFrame (s : State) (src dst : Nat) : State :=
  (List.range 512).foldl (fun s i =>
    let (bs, s) := iodRead s (src + 128 * i) 128
    iodPut s (dst + 128 * i) bs) s

/-- A migration of a die goes on, or is over with a result in MIGSTAT (11 R265; 24 R420). -/
def migOn (s : State) (die : Nat) (g : Migration) : State := setMigst (s.modDie die fun y => { y with mig := some g }) die 1
/-- See `migOn`. -/
def migOver (s : State) (die n : Nat) : State := setMigst (s.modDie die fun y => { y with mig := none }) die n

/-- Step 2 of a migration: the version is read and the page copied; it waits where flits to the new frame are held, and is abandoned where no path is left (11 R265; 23 R406) (log 71). -/
def migCopy (s : State) (die : Nat) (g : Migration) : State :=
  match crossing s die (homeDie g.dst) with
  | .clear => migOn (copyFrame s g.src g.dst) die { g with version := Tab.look 0 (s.die die).versions (g.src / 65536), stage := .copied }
  | .held => migOn s die { g with stage := .found }
  | .down => migOver s die 4

/-- Step 1 of a migration: the walk of its page, which the hardware makes whatever DUTYCTL.WALK holds, and the checks (11 R265) (log 71). -/
def migTranslate (s : State) (die : Nat) (g : Migration) : State :=
  match findLeaf s die g.part g.va .read with
  | (.bad _, s) => migOver s die 3
  | (.wait _ _, _) => migOn s die g
  | (.found e lv a, s) =>
    let src := entryAddr e
    if lv ≠ 2 ∨ e.testBit 7 ∨ 2 ^ 38 ≤ src ∨ homeDie src ≠ die ∨ 2 ^ 38 ≤ g.dst ∨ g.dst % 65536 ≠ 0 then migOver s die 3
    else migCopy s die { g with src := src, entry := a, leaf := w64 e, stage := .found }

/-- MIGCMD: the checks of step 1, then the version is read and the page copied (11 R265; 24 R420) (log 71). -/
def execMigcmd (die : Nat) (v : Word) (s : State) : Out :=
  let r := (s.die die).regs
  if !(hostReady s) ∨ 4 ≤ die ∨ r.migst = 1 then .next s
  else .next (migTranslate s die { part := bits v 0 12, va := bits v 16 39 * 65536, dst := r.migdst })

/-- A leaf without A and D (11 R253). -/
def leafCore (e : Nat) : Nat := e - (nbits e 8 2) * 256

/-- Walks of the host's for a page whose leaf a migration changes: an answer that no access has taken up is dropped, and one still to come is not used; the access asks again (11 R254, R265). -/
def staleWalks (x : Part) (vpn : Nat) : Part :=
  let hit (d : Duty) : Bool := decide (d.func = 0) && decide (d.what / 65536 = vpn)
  { x with duties := (x.duties.filter fun d => !(hit d && d.reply.isSome)).map fun d => if hit d then { d with stale := true } else d }

/-- The commit of a migration (11 R265 step 3): where the version still stands, the leaf takes the new frame and the page is invalidated; else the move is abandoned, and so where no path leads to the leaf. It waits for writes on their way to the page, and for flits that are held (log 71). -/
def migCommit (s : State) (die : Nat) (g : Migration) : State :=
  let r := (g.va / 65536, 1)
  let way := reaching s die g.entry
  let e := s.mem.val g.entry 8
  if !(accessesOver s g.part r) ∨ way = .held then s
  else if way = .clear ∧ Tab.look 0 (s.die die).versions (g.src / 65536) = g.version ∧ leafCore e = leafCore g.leaf.toNat then
    let e' := e - (nbits e 10 42) * 1024 + g.dst
    migOver ((invalidate (iodPut (performStores s fun _ => true) g.entry (bytesLE e' 8)) g.part r).modPart g.part fun x => staleWalks x (g.va / 65536)) die 2
  else migOver s die 4

/-- A migration goes on: with its translation or its copy where these had to wait, else with its commit (11 R265) (log 71). -/
def execMigrationCommit (die : Nat) (s : State) : Out :=
  match (s.die die).mig with
  | none => .next s
  | some g => .next (match g.stage with
    | .asked => migTranslate s die g
    | .found => migCopy s die g
    | .copied => migCommit s die g)

/-- s with f applied to the registers of a die. -/
def State.modRegs (s : State) (d : Nat) (f : DieRegs → DieRegs) : State := s.modDie d fun y => { y with regs := f y.regs }

/-- OCCCLR: a clear starts, or waits behind the one under way (18 R345). -/
def execOccclr (die : Nat) (v : Word) (s : State) : Out :=
  if hostReady s ∧ die < 4 ∧ bits v 0 12 ≤ bits v 16 12 then .next (s.modRegs die fun r => { r with clears := r.clears ++ [(bits v 0 12, bits v 16 12)] })
  else .next s

/-- Slots set to 0. -/
def zeroSlots (t : Tab Nat) (first n : Nat) : Tab Nat := t.filter fun x => !(decide (first ≤ x.1) && decide (x.1 < first + n))

/-- The clear under way sets its next 64 slots to 0 (18 R345, R346). -/
def execOccclrStep (die : Nat) (s : State) : Out :=
  match (s.die die).regs.clears with
  | [] => .next s
  | (f, l) :: rest =>
    .next (s.modRegs die fun r =>
      { r with occs := zeroSlots r.occs f (min 64 (l + 1 - f)), clears := if l < f + 64 then rest else (f + 64, l) :: rest })

/-- OCCOWN: a write that changes EN or PART sets the group's counts to 0 (18 R345). -/
def execOccownWrite (die g : Nat) (v : Word) (s : State) : Out :=
  let w := bits v 0 13
  if hostReady s ∧ die < 4 ∧ g < 64 then
    .next (s.modRegs die fun r => if Tab.look 0 r.owners g = w then r else { r with owners := Tab.put 0 r.owners g w, occs := zeroSlots r.occs (64 * g) 64 })
  else .next s

/-- OCCCNT: the slot's count, with 0xFFFF_FFFF stored as 0xFFFF_FFFE (18 R345). -/
def execOcccntWrite (die slot : Nat) (v : Word) (s : State) : Out :=
  if hostReady s ∧ die < 4 ∧ slot < 4096 then .next (s.modRegs die fun r => { r with occs := Tab.put 0 r.occs slot (min 0xFFFFFFFE (bits v 0 32)) }) else .next s

/-- CHUNKPUSH: a frame of the tile is added; another is ignored (11 R264). -/
def execChunkpush (die tile : Nat) (v : Word) (s : State) : Out :=
  let f := bits v 12 40 * 4096
  if hostReady s ∧ die < 4 ∧ tile < 16 ∧ f < 2 ^ 38 ∧ tileOf f = 16 * die + tile then .next (giveChunk s die tile f) else .next s

/-- CHUNKPOP: a read takes a frame from the free list (11 R264). -/
def execChunkpop (die tile : Nat) (s : State) : Out :=
  if hostReady s ∧ die < 4 ∧ tile < 16 then
    match takeFree s die tile with
    | some (_, s) => .next s
    | none => .next s
  else .next s

end Sys2Proof.Machine
end

