-- ==== Sys2Proof/Machine/EvHost.lean ====
section
/-! DEFINITION. What the host writes: ingress ports, registrations, partitions, heads, the security engine, and plain registers (09 R209 to R215; 05 R129; 19 R352; 24 R417 to R430). -/
namespace Sys2Proof.Machine

/-- The port of a queue takes writes: ING and EN are set (09 R215). -/
def portOpen (q : Queue) : Bool := q.ing && q.en

/-- A queue of a compute die (05 R127). -/
def realQueue (die queue : Nat) : Bool := decide (die < 4) && decide (queue < 4096)

/-- A write that a port drops (09 R215) (log 72). -/
def dropWrite (s : State) (q : Nat) : State := s.modQueue q fun x => { x with drops := x.drops + 1 }

/-- TOKEN: a token enters the queue with one credit, stamped with DLNEXT as it arrives, or the write is dropped (09 R210, R213 to R215) (log 72). -/
def execIngressToken (die queue : Nat) (tok : BitVec 128) (whole : Bool) (s : State) : Out :=
  let q := die * 4096 + queue
  let x := s.queue q
  if !(hostReady s) ∨ !(realQueue die queue) then .next s
  else if x.credit = 0 ∨ !whole ∨ !(portOpen x) then .next (dropWrite s q)
  else
    let t : QTok := { tok := tok, dl := arrive (s.die die) x.dlnext }
    .next (s.modQueue q fun x => { x with toks := x.toks ++ [t], credit := x.credit - 1, reserved := x.reserved - 1 })

/-- CREDREQ: n credits, in full or not at all (05 R127; 09 R214). -/
def execCredreq (die queue : Nat) (v : Word) (s : State) : Out :=
  let q := die * 4096 + queue
  let x := s.queue q
  if !(hostReady s) ∨ !(realQueue die queue) then .next s
  else if !(portOpen x) then .next (dropWrite s q)
  else if 1 ≤ v.toNat ∧ v.toNat ≤ 65536 ∧ v.toNat ≤ x.room then
    .next (s.modQueue q fun x => { x with credit := x.credit + v.toNat, reserved := x.reserved + v.toNat })
  else .next s

/-- RELEASE: min(n, CREDIT) credits return (09 R214). -/
def execCreditRelease (die queue : Nat) (v : Word) (s : State) : Out :=
  let q := die * 4096 + queue
  let x := s.queue q
  if !(hostReady s) ∨ !(realQueue die queue) then .next s
  else if !(portOpen x) then .next (dropWrite s q)
  else
    let n := min v.toNat x.credit
    .next (s.modQueue q fun x => { x with credit := x.credit - n, reserved := x.reserved - n })

/-- DROPS: a write clears it (09 R214). -/
def execDropsClear (die queue : Nat) (s : State) : Out :=
  let q := die * 4096 + queue
  if !(hostReady s) ∨ !(realQueue die queue) then .next s
  else if !(portOpen (s.queue q)) then .next (dropWrite s q)
  else .next (s.modQueue q fun x => { x with drops := 0 })

/-- DLNEXT: a deadline word that is refused is ignored and counted (09 R209, R214). -/
def writeDlnext (s : State) (q : Nat) (v : Word) : State :=
  if !(portOpen (s.queue q)) ∨ dlBad v then dropWrite s q else s.modQueue q fun x => { x with dlnext := v }

/-- TOKDROP: any write clears it (24 R420). -/
def execTokdropClear (core : Nat) (s : State) : Out :=
  .next (if hostReady s ∧ realCore core then s.modPort core fun p => { p with tokdrop := 0 } else s)

/-- A queue descriptor is in range (09 R209, R212). -/
def queueDescOk (b : List Byte) : Bool :=
  let ctl := fld b 0 4
  decide (nbits ctl 16 12 ≠ 0) && decide (nbits ctl 28 3 < 5) && !(ctl.testBit 31) && decide (1 ≤ fld b 4 4 ∧ fld b 4 4 ≤ 65536) &&
  decide (fld b 8 8 % 64 = 0) && decide (fld b 0x10 8 % 256 = 0) && (decide (fld b 8 8 = 0) || decide (fld b 0x10 8 ≠ 0)) &&
  !(dlBad (w64 (fld b 0x18 8))) && decide (fld b 0x20 8 ≤ 2 ^ 48) && decide (nbits (fld b 0x28 2) 12 3 = 0) && allZero (cut b 0x34 12)

/-- A queue with a new descriptor: its tokens, reservations and counters stay, DLNEXT takes the new DEADLINE, and it is BLOCKED no more (09 R212, R214; 21 R383; 24 R423). -/
def withQueueDesc (x : Queue) (b : List Byte) : Queue :=
  { x with
    ctl := fld b 0 4, cap := fld b 4 4, image := w64 (fld b 8 8), rcbt := w64 (fld b 0x10 8), deadline := w64 (fld b 0x18 8)
    budget := fld b 0x20 8, oslot := fld b 0x28 2, stealmin := fld b 0x2A 2, dlnext := w64 (fld b 0x18 8)
    blocked := false }

/-- REGBUF of a die (24 R419). -/
def regBytes (r : DieRegs) : List Byte := getBytes r.regbuf 0 64

/-- REGST of a die (24 R420). -/
def setRegst (s : State) (d : Nat) (ok : Bool) : State := s.modRegs d fun r => { r with regst := if ok then 1 else 2 }

/-- REGCMD with KIND 0: the queue descriptor in REGBUF is checked and registered (09 R212; 24 R423). -/
def execRegcmdQueue (die num : Nat) (s : State) : Out :=
  if !(hostReady s) ∨ !(realQueue die num) then .next s
  else
    let b := regBytes (s.die die).regs
    if queueDescOk b then .next (setRegst (s.modQueue (die * 4096 + num) fun x => withQueueDesc x b) die true) else .next (setRegst s die false)

/-- A stage descriptor is in range (05 R129). -/
def stageDescOk (b : List Byte) : Bool :=
  let minc := fld b 0x12 2
  decide (fld b 0x10 2 < 4096) && decide (1 ≤ minc ∧ minc ≤ 80) && decide (minc ≤ fld b 0x14 2 ∧ fld b 0x14 2 ≤ 80) &&
  decide (1 ≤ fld b 0x16 2 ∧ fld b 0x16 2 ≤ 255) && decide (fld b 0x1C 4 < fld b 0x18 4) && decide (256 ≤ fld b 0x20 4 ∧ fld b 0x20 4 ≤ 65536) && allZero (cut b 0x28 24)

/-- A stage with a new descriptor: the cores it holds stay (05 R129; 24 R423). -/
def withStageDesc (x : Stage) (now : Nat) (b : List Byte) : Stage :=
  { x with
    image := w64 (fld b 0 8), rcbt := w64 (fld b 8 8), queue := fld b 0x10 2, minc := fld b 0x12 2, maxc := fld b 0x14 2, hyst := fld b 0x16 2
    grow := fld b 0x18 4, shrink := fld b 0x1C 4, period := fld b 0x20 4, above := 0, below := 0, next := now + fld b 0x20 4 }

/-- REGCMD with KIND 1: the stage descriptor in REGBUF is checked and registered; a die holds stages 0 to 255 (05 R129; 24 R419, R423). -/
def execRegcmdStage (die num : Nat) (s : State) : Out :=
  if !(hostReady s) ∨ 4 ≤ die ∨ 4096 ≤ num then .next s
  else
    let b := regBytes (s.die die).regs
    if stageDescOk b ∧ num < 256 then
      .next (setRegst (s.modDie die fun y => { y with stages := Tab.mod {} y.stages num fun x => withStageDesc x (s.plain die 0).ac b }) die true)
    else .next (setRegst s die false)

/-- The cores of clusters that a mask names: bit 5d + k for cluster k of die d (24 R420). -/
def maskCores (m : Nat) : List Nat := ((List.range 20).filter fun i => m.testBit i).flatMap fun i => clusterCores (i / 5) (i % 5)

/-- A context of a core that changes owner: its dictionary and its matrix state are empty, and what was bound to it is gone; its registers stay (03 R67; 08 R206; 11 R266) (log 66). -/
def ownerCtx (c : Ctx) : Ctx :=
  { c with dict := {}, mx := {}, rsv := {}, bound := none, latch := none, region := none, switch := none, hold := false, going := none, resume := none
           await := if c.await = some .event then c.await else none, run := if c.run = .wait ∧ c.await ≠ some .event then .run else c.run }

/-- A core that changes owner is zeroed (01 R15; 06 R149; 11 R266): its buffers, local memory, stream windows, caches, configuration, dictionaries, matrix array (log 66). -/
def changeOwner (s : State) (k p : Nat) : State :=
  let s := (List.range 4).foldl (fun s n => unwarm (dropFaults (giveUpOn s k n) k n) k n) (dissolveGang (settleCore s k) k)
  let s := (List.range 4).foldl (fun s q => freePly s k q) s
  let s := (List.range 4).foldl (fun s n => returnSlots s (s.ctx k n).rsv.queue (s.ctx k n).rsv.count) s
  s.modCore k fun c =>
    { part := p, cycBase := c.cycBase, last := c.last, ctxs := c.ctxs.map fun ((n, x) : Nat × Ctx) => (n, ownerCtx x), evq := c.evq, lost := c.lost
      port := { c.port with half := [], rays := [], second := none, secondOf := none }, nextCmd := c.nextCmd, nextEng := c.nextEng, regs := { c.regs with csw := none } }

/-- The clusters that a partition holds: those of PARTCLU, and, while it ends, those it has not released (24 R420). -/
def Part.holds (x : Part) : Nat := if bit x.partclu 63 then bits x.partclu 0 20 else x.ending.getD 0

/-- PARTCLU with EN set: the partition exists and owns the clusters named; each core that changes owner is zeroed. A write that names a cluster of another partition is ignored, and so is one for a partition that still ends (log 66); one that sets EN from 0 clears POLSTAT and the policy programs (10 R243; 24 R420). -/
def execPartitionSetup (part : Nat) (v : Word) (s : State) : Out :=
  if !(hostReady s) ∨ !(bit v 63) ∨ part = 0 ∨ 4096 ≤ part then .next s
  else
    let m := bits v 0 20
    let old := if bit (s.part part).partclu 63 then bits (s.part part).partclu 0 20 else 0
    if (s.part part).ending.isSome ∨ (s.parts.any fun x => decide (x.1 ≠ part) && decide (Part.holds x.2 &&& m ≠ 0)) then .next s
    else
      let s1 := (maskCores (old &&& (m ^^^ 0xFFFFF))).foldl (fun s k => changeOwner s k 0) s
      let s1 := (maskCores (m &&& (old ^^^ 0xFFFFF))).foldl (fun s k => changeOwner s k part) s1
      .next (s1.modPart part fun x =>
        { x with partclu := w64 (2 ^ 63 + m), policy := if bit x.partclu 63 then x.policy else {} })

/-- The display sequencer with a new owner: its local memory is zero, its dictionary, event queue and DSE queue are empty, its generator is reset, and its translations are dropped (24 R420; 11 R266). -/
def resetDs (s : State) : State :=
  (s.modCore dsCore fun c =>
    { c with local_ := [], evq := [], lost := false, seed := 0x2545F4914F6CDD1D, xlats := [], ctxs := c.ctxs.map fun ((n, x) : Nat × Ctx) => (n, { x with dict := {} }) }).modIod
      fun i => { i with dsq := [], dsFault := none }

/-- The contexts that a partition which ends has stopped: those of its cores, and the display sequencer's where it owns it (24 R420). -/
def endingCtxs (s : State) (part mask : Nat) : List (Nat × Nat) :=
  ((maskCores mask).filter fun k => decide (s.partOf k = part)).flatMap (fun k => (List.range 4).map fun n => (k, n)) ++ if dsPart s = part then [(dsCore, 0)] else []

/-- The clusters of a partition that ends are released once its contexts are OFF: its cores are zeroed, and the display sequencer is released (24 R420, R421). -/
def releaseClusters (s : State) (part mask : Nat) : State :=
  if (endingCtxs s part mask).all fun x => decide ((s.ctx x.1 x.2).run = .off) then
    let s1 := ((maskCores mask).filter fun k => decide (s.partOf k = part)).foldl (fun s k => changeOwner s k 0) s
    let s1 := if dsPart s = part then (resetDs s1).modIod fun i => { i with dspart := i.dspart &&& 0xFFF } else s1
    s1.modPart part fun x => { x with ending := none }
  else s

/-- PARTCLU with EN clear: the partition ends. Its contexts are stopped as by the stop command, its clusters released and their cores zeroed once they are OFF, its policy programs cleared, and the display sequencer released (24 R420, R421) (log 66). -/
def execPartitionEnd (part : Nat) (s : State) : Out :=
  if !(hostReady s) ∨ part = 0 ∨ 4096 ≤ part ∨ !(bit (s.part part).partclu 63) then .next s
  else
    let mask := bits (s.part part).partclu 0 20
    let s1 := (endingCtxs s part mask).foldl (fun s x => stopCmd s x.1 x.2) s
    let s1 := s1.modPart part fun x =>
      { x with partclu := 0, ending := some mask, policy := { x.policy with staged := .empty, active := .empty, swp := false, switched := [], acked := [], swapper := none } }
    .next (releaseClusters s1 part mask)

/-- The partition of core k goes on ending: what its cores have issued is over, or they wait (24 R420, R421). -/
def endPartition (s : State) (k : Nat) : State :=
  let p := s.partOf k
  match (s.part p).ending with
  | some mask => releaseClusters ((endingCtxs s p mask).foldl (fun s x => takeStop s x.1 x.2) s) p mask
  | none => s

/-- DSPART: ignored while the display sequencer is not OFF; a change of EN or PART resets what it holds (24 R420). -/
def execDspartWrite (v : Word) (s : State) : Out :=
  if !(hostReady s) ∨ (s.ctx dsCore 0).run ≠ .off then .next s
  else
    let w := w64 (bits v 0 13)
    .next ((if w = s.iod.dspart then s else resetDs s).modIod fun i => { i with dspart := w })

/-- VTOT, VACT, HTOT and HACT of a head (19 R352). -/
def Head.vtot (h : Head) : Nat := bits h.htim 48 16
/-- See `Head.vtot`. -/
def Head.vact (h : Head) : Nat := bits h.htim 32 16
/-- See `Head.vtot`. -/
def Head.htot (h : Head) : Nat := bits h.htim 16 16
/-- See `Head.vtot`. -/
def Head.hact (h : Head) : Nat := bits h.htim 0 16

/-- HTIM and HPCLK of a head are in range (19 R352) (log 33). -/
def timingOk (h : Head) : Bool :=
  decide (h.vact % 16 = 0 ∧ 16 ≤ h.vact ∧ h.vact ≤ 4320) && decide (h.vact + 1 ≤ h.vtot ∧ h.vtot ≤ 8191) &&
  decide (h.hact % 8 = 0 ∧ 64 ≤ h.hact ∧ h.hact ≤ 7680) && decide (h.hact + 1 ≤ h.htot ∧ h.htot ≤ 16383) && decide (bits h.hpclk 0 32 ≠ 0)

/-- The leads of an HCTL value satisfy R352. -/
def leadsOk (v : Word) : Bool := decide (bits v 40 8 ≤ bits v 48 16 ∧ bits v 32 8 ≤ bits v 40 8 ∧ bits v 24 8 ≤ bits v 32 8 ∧ 1 ≤ bits v 24 8)

/-- The fields of HCTL that a write sets (19 R352). -/
def hctlMask : Word := 0xFFFFFFFFFF000003

/-- LPER of a head (19 R352). -/
def lperOf (h : Head) : Nat := cdiv (h.htot * 700000) (bits h.hpclk 0 32)

/-- A head is enabled: lines count from 0, every die follows, and it holds no frame (09 R208; 19 R352, R355) (log 33). -/
def enableHead (s : State) (h : Nat) (v : Word) : State :=
  let s := s.modHead h fun x => { x with hctl := v &&& hctlMask, line := 0, frames := [], bands := [], closed := 0, sent := none }
  (List.range 4).foldl (fun s d => s.modDie d fun y =>
    { y with heads := Tab.mod {} y.heads h fun m => { line := 0, lper := lperOf (s.iod.head h), lgen := (m.lgen + 1) % 65536 } }) s

/-- HCTL with EN set (19 R352): a write with bad leads changes nothing, one with timing out of range leaves EN at 0; on a head that scans out it sets its other fields. -/
def execHeadEnable (head : Nat) (v : Word) (s : State) : Out :=
  if !(hostReady s) ∨ 4 ≤ head ∨ !(bit v 0) ∨ !(leadsOk v) then .next s
  else if headOn s head then .next (s.modHead head fun x => { x with hctl := v &&& hctlMask })
  else if timingOk (s.iod.head head) then .next (enableHead s head v)
  else .next (s.modHead head fun x => { x with hctl := setBit (v &&& hctlMask) 0 false })

/-- HCTL with EN clear: LINE stops at its value, and no pixel is sent (19 R352). -/
def execHeadDisable (head : Nat) (v : Word) (s : State) : Out :=
  if !(hostReady s) ∨ 4 ≤ head ∨ bit v 0 ∨ !(leadsOk v) then .next s
  else .next (s.modHead head fun x => { x with hctl := v &&& hctlMask, sent := none })

/-- s with f applied to the security engine. -/
def State.modSec (s : State) (f : Security → Security) : State := s.modIod fun i => { i with sec := f i.sec }

/-- The signatures that the attestation key of height 20 gives (24 R430). -/
def attestKeys : Nat := 2 ^ 20

/-- ATTCMD: the next index is taken and committed, and signing starts; ignored while BUSY, and once the key is exhausted (24 R430) (log 73). -/
def execAttcmd (v : Word) (s : State) : Out :=
  let x := s.iod.sec
  if !(hostReady s) ∨ x.attst.testBit 0 then .next s
  else if attestKeys ≤ x.index then .next (s.modSec fun y => { y with attst := 4 })
  else .next (s.modSec fun y => { y with attst := 1, report := v.toNat / 4096 * 4096, index := y.index + 1 })

/-- DEVID (24 R420). -/
def devId : Word := w64 (0x0320 * 2 ^ 16 + 0x01 * 2 ^ 8 + 0x5A)

/-- The fields of the report that the spec gives, in its order: DEVID, FWSVN, the nonce, the index, and PARTCLU of each partition that exists. The places that they take in the report are an implementation's (24 R430) (log 73). -/
def reportFields (s : State) : List (List Byte) :=
  let x := s.iod.sec
  [bytesLE devId.toNat 8, bytesLE x.fwsvn 8, (List.range 4).flatMap fun i => bytesLE (Tab.look 0 x.nonce i).toNat 8, bytesLE (x.index - 1) 8] ++
  (livePartitions s).map fun p => bytesLE (s.part p).partclu.toNat 8

/-- The report: its digest and signature are free values, and the fields that the spec gives stand at places that it leaves open (24 R430) (logs 14, 73). -/
def reportBytes (s : State) (free : List Byte) : List Byte :=
  (reportFields s).zipIdx.foldl (fun bs x => let o := Config.reportAt x.2 % 4096; (bs.take o ++ x.1 ++ bs.drop (o + x.1.length)).take 4096) free

/-- The report is written with a release at SY, as soon as a way leads to its buffer; ATTST takes DONE then, and EXHAUSTED after the last index (24 R430, R431) (log 73). -/
def execAttstDone (s : State) : Out :=
  let x := s.iod.sec
  if !(x.attst.testBit 0) ∨ reaching s 4 x.report = .held then .next s
  else
    let (bs, s1) := freeBytes s 4096
    .next ((iodWrite s1 x.report (reportBytes s bs)).modSec fun y => { y with attst := if attestKeys ≤ y.index then 6 else 2 })

/-- SVNCOMMIT: a write of 1 raises FWSVN to the running image's SVN (24 R429). -/
def execSvncommit (v : Word) (s : State) : Out :=
  if hostReady s ∧ v = 1 then .next (s.modSec fun y => { y with fwsvn := max y.fwsvn y.svn }) else .next s

/-- A write to the RING register of a ring (21 R375; 24 R420). -/
def Ring.withRing (r : Ring) (v : Word) : Ring := { r with ring := v &&& 0x000FFFFFFFFFF01F }
/-- A write to the pointer register of a ring: TAIL, and LOST is cleared (21 R375). -/
def Ring.withPtr (r : Ring) (v : Word) : Ring := { r with tail := bits v 16 16, lost := 0 }

/-- A write to a register of a partition's block at an offset (00 R7; 09 R227; 11 R252; 21 R375, R394; 24 R419, R420). -/
def writePart (x : Part) (o : Nat) (v : Word) : Part :=
  match o with
  | 0x00 => { x with dutyctl := v &&& 0xFFFFFFFF0000000F }
  | 0x08 => { x with schedctl := v &&& 0x00C0FFFF000FFFFF }
  | 0x18 => { x with troot := v &&& 0x000FFFFFFFFF0001 }
  | 0x30 => { x with fltring := x.fltring.withRing v }
  | 0x48 => { x with savepool := v &&& 0x000FFFFFFFFF0FFF }
  | 0x50 => { x with dutydata := v }
  | 0x60 => { x with collbase := v &&& 0x000FFFFFFFFFF000 }
  | o =>
    let m := (o - 0x100) / 16
    if o < 0x100 ∨ 10 ≤ m then x
    else if o % 16 = 0 then { x with rings := Tab.mod {} x.rings m fun r => r.withRing v }
    else { x with rings := Tab.mod {} x.rings m fun r => r.withPtr v }

/-- A write to a register of a core's block at an offset (21 R398; 23 R410; 24 R419, R420). -/
def writeCore (s : State) (k o : Nat) (v : Word) : State :=
  let set (f : CoreRegs → CoreRegs) : State := s.modCore k fun c => { c with regs := f c.regs }
  match o with
  | 0x10 => set fun r => { r with dbgstop := bits v 0 4 }
  | 0x18 => set fun r => { r with servers := bits v 0 4 }
  | 0x28 => set fun r => { r with edgeRate := bits v 0 16 }
  | 0x30 => set fun r => { r with cswaddr := v &&& 0x000FFFFFFFFF0000 }
  | _ => s

/-- A doubleword written to a port's page where no event of its own stands for it (09 R214, R215): DLNEXT; half a token, which is dropped; CREDIT and the reserved field, which a port that takes writes ignores, and which another drops and counts. -/
def writePort (s : State) (q o : Nat) (v : Word) : State :=
  match o with
  | 0x00 | 0x08 => dropWrite s q
  | 0x18 | 0x38 => if portOpen (s.queue q) then s else dropWrite s q
  | 0x20 => writeDlnext s q v
  | _ => s

/-- A write to a register of a die's block at an offset (09 R214; 11 R264, R265; 24 R419, R420, R423). -/
def writeDie (s : State) (d o : Nat) (v : Word) : State :=
  if 0x40000 ≤ o ∧ o < 0x80000 then writePort s (d * 4096 + (o - 0x40000) / 64) (o % 64) v
  else if 0x84000 ≤ o ∧ o < 0x84040 then s.modRegs d fun r => { r with regbuf := putBytes r.regbuf (o - 0x84000) (bytesLE v.toNat 8) }
  else if o = 0x84040 then (if 2 ≤ bits v 14 2 then setRegst s d false else s)
  else if o = 0xB0008 then s.modRegs d fun r => { r with migdst := bits v 16 36 * 65536 }
  else if 0xC0000 ≤ o ∧ o < 0xD0000 then
    (if o % 0x1000 = 0 then
       s.setPool d ((o - 0xC0000) / 0x1000) { (s.pool d ((o - 0xC0000) / 0x1000)) with slack := bits v 42 2, rsvt := bits v 21 21, lowmark := bits v 0 21 }
     else s)
  else if 0x400000 ≤ o ∧ o < 0x400000 + 80 * 0x20000 then writeCore s (d * 128 + (o - 0x400000) / 0x20000) ((o - 0x400000) % 0x20000) v
  else s

/-- A write to a register of the IOD's block at an offset (19 R352; 23 R408, R411; 24 R419, R420, R430). -/
def writeIod (s : State) (o : Nat) (v : Word) : State :=
  if 0x20000 ≤ o ∧ o < 0x28000 then
    let h := (o - 0x20000) / 0x2000
    (if headOn s h then s
     else match (o - 0x20000) % 0x2000 with
      | 0x8 => s.modHead h fun x => { x with htim := v }
      | 0x10 => s.modHead h fun x => { x with hpclk := w64 (bits v 0 32) }
      | _ => s)
  else if 0x30000 ≤ o ∧ o < 0x300A0 then
    let i := (o - 0x30000) / 8
    setPoints (s.modDie (i / 5) fun x => { x with plains := Tab.mod {} x.plains (i % 5) fun p => { p with min := bits v 0 2 } })
  else if o = 0x30100 then s.modPower fun p => { p with pwrcfg := v &&& 0x0000FFFFFFFF0001 }
  else if o = 0x40000 then s.modIod fun i => { i with pkgid := bits v 0 12 }
  else if 0x40008 ≤ o ∧ o < 0x48008 then s.modIod fun i => { i with peerrt := Tab.put 0 i.peerrt ((o - 0x40008) / 8) (bits v 0 5) }
  else if o = 0x50000 then s.modIod fun i => { i with hostRing := i.hostRing.withRing v }
  else if o = 0x50008 then s.modIod fun i => { i with hostRing := i.hostRing.withPtr v }
  else if 0x60000 ≤ o ∧ o < 0x60020 then s.modSec fun x => { x with nonce := Tab.put 0 x.nonce ((o - 0x60000) / 8) v }
  else s

end Sys2Proof.Machine
end

