-- ==== Sys2Proof/Machine/Display.lean ====
section
/-! DEFINITION. The display synthesis engine: frames, bands and their paths, pixels and warps, and the DS instructions (19 R351 to R368, R438). -/
namespace Sys2Proof.Machine

/-- GUARD of a head (19 R352). -/
def Head.guard_ (h : Head) : Nat := bits h.hctl 48 16
/-- LEAD n of a head, n = 1 to 3 (19 R352). -/
def Head.lead (h : Head) (n : Nat) : Nat := bits h.hctl (48 - 8 * n) 8

/-- S(f, b): the value of LINE at which a band's first line leaves (19 R354). -/
def Head.start (h : Head) (f b : Nat) : Nat := f * h.vtot + 16 * b + 1
/-- D(f, b): the deadline of a band (19 R354). -/
def Head.due (h : Head) (f b : Nat) : Int := (h.start f b : Int) - h.guard_

/-- The open frame: the least f with LINE < D(f, 0) (19 R355). -/
def Head.openFrame (h : Head) : Nat := (h.line + h.guard_ - 1) / h.vtot + 1

/-- The frame f of a head, where it has a descriptor (19 R355). -/
def Head.frame (h : Head) (f : Nat) : Option Frame := h.frames.find? fun x => decide (x.f = f) && !x.blank
/-- The descriptor of frame f that DS instructions may name: the open frame's and that of the frame before it (19 R355, R361) (log 34). -/
def Head.holds (h : Head) (f : Nat) : Option Frame := if h.openFrame ≤ f + 1 then h.frame f else none
/-- The descriptor that the frame before f used (19 R355). -/
def Head.before (h : Head) (f : Nat) : Option Frame := if f = 0 then none else h.frame (f - 1)

/-- What is known of band b of frame f (19 R356). -/
def Head.band (h : Head) (f b : Nat) : Option Band := h.bands.find? fun x => decide (x.f = f) && decide (x.b = b)
/-- A band has committed (19 R356). -/
def Head.committed (h : Head) (f b : Nat) : Bool := (h.band f b).any fun x => decide (x.level ≠ 7)

/-- BSTAT of a band (19 R358). -/
def Head.status (h : Head) (b : Nat) : Word := Tab.look 0 h.bstat b

/-- The status word of a band's record (19 R358). -/
def Band.word (x : Band) : Word := w64 (x.f % 2 ^ 32 * 2 ^ 32 + x.margin * 2 ^ 16 + x.flags * 2 ^ 8 + x.level)

/-- A band's record is set, and BSTAT with it unless it holds the status of a later frame (19 R358) (log 37). -/
def setBand (s : State) (h : Nat) (x : Band) : State :=
  s.modHead h fun y =>
    let bands := y.bands.filter (fun z => !(decide (z.f = x.f) && decide (z.b = x.b))) ++ [x]
    { y with bands := bands, bstat := if y.bands.any fun z => decide (z.b = x.b) && decide (x.f < z.f) then y.bstat else Tab.put 0 y.bstat x.b x.word }

/-- A band commits by the fallback path: its status, and DISPLAY_FALLBACK (19 R356, R358, R359). -/
def commitFallback (s : State) (h : Nat) (x : Band) (level : Nat) : State :=
  let s := setBand s h { x with running := none, level := level }
  postEvent s dsCore (0x30 + h * 2 ^ 9 + level * 2 ^ 11 + (x.flags % 32) * 2 ^ 14 + x.b * 2 ^ 19) (x.f % 2 ^ 32)

/-- A band commits on the network path (19 R356) (log 37). -/
def commitNetwork (s : State) (h f b : Nat) : State :=
  let y := s.iod.head h
  setBand s h { f := f, b := b, level := 0, margin := min (y.start f b - y.line) 65535 }

/-- f over a list, in order, each result with a mark that is set where an access failed softly. -/
def mrMap {α β : Type} (f : State → α → Mr (β × Bool)) : List α → State → Mr (List β × Bool)
  | [], s => .ok ([], false) s
  | a :: l, s =>
    (f s a).andThen fun x s => (mrMap f l s).andThen fun y s => .ok (x.1 :: y.1, x.2 || y.2) s

/-- Who makes a DSE access: whether failures are dropped (R438), and whether it needs USR. -/
structure DsWho where
  soft : Bool := false
  user : Bool := false
  deriving DecidableEq, Repr

/-- A failed access is dropped where it is soft: the value it would give, marked (19 R438) (log 75). -/
def softly {α : Type} (w : DsWho) (v : α) (r : Mr α) : Mr (α × Bool) :=
  match r with
  | .ok x s => .ok (x, false) s
  | .wait s => .wait s
  | .fault c t s => if w.soft then .ok (v, true) s else .fault c t s

/-- A read of n bytes, naturally aligned, by the DSE: 0 where it fails softly (04 R79; 19 R361, R438). -/
def dsRead (w : DsWho) (n : Nat) (s : State) (va : Nat) : Mr (Nat × Bool) :=
  softly w 0 (if va % n ≠ 0 then .fault 0x24 va s else (vread s dsCore va n .read w.user).andThen fun bs s => .ok (ofBytesLE bs) s)

/-- A write of n bytes by the DSE, dropped where it fails softly (19 R361, R438). -/
def dsWrite (w : DsWho) (n : Nat) (s : State) (x : Nat × Nat) : Mr (Unit × Bool) :=
  softly w () (if x.1 % n ≠ 0 then .fault 0x24 x.1 s else vwrite s dsCore x.1 (bytesLE x.2 n) w.user)

/-- An image of FP16x4 pixels, row-major (19 R354). -/
structure Img where
  base : Nat
  w : Nat
  h : Nat
  deriving DecidableEq, Repr

/-- The address of a pixel. -/
def Img.at_ (i : Img) (x y : Nat) : Nat := i.base + 8 * (i.w * y + x)

/-- A coordinate in eighths of a pixel clamped to an image's side of n pixels (19 R356). -/
def clampTo (n : Nat) (u : Int) : Nat := min u.toNat (8 * (n - 1))

/-- The pixels that a bilinear sample at (u, v), in eighths, meets, with their weights in 64ths; a pixel of weight 0 is not met (19 R356). -/
def corners (i : Img) (u v : Int) : List ((Nat × Nat) × Nat) :=
  let u := clampTo i.w u
  let v := clampTo i.h v
  let x := u / 8
  let y := v / 8
  let fx := u % 8
  let fy := v % 8
  ([((x, y), (8 - fx) * (8 - fy)), ((min (x + 1) (i.w - 1), y), fx * (8 - fy)), ((x, min (y + 1) (i.h - 1)), (8 - fx) * fy),
    ((min (x + 1) (i.w - 1), min (y + 1) (i.h - 1)), fx * fy)] : List ((Nat × Nat) × Nat)).filter fun c => decide (c.2 ≠ 0)

/-- warp from the pixels met: each channel exact, rounded once (19 R356). -/
def blend (l : List (Word × Nat)) : Word :=
  lanesV .f16 fun i => roundFp fp16 .rne 0 (sumNum .rne (l.map fun (p, n) => mulNum (laneNum .f16 p i) (.fin false n (-6))))

/-- warp(F, u, v) of R356, coordinates in eighths of a pixel. -/
def warpPx (w : DsWho) (i : Img) (s : State) (uv : Int × Int) : Mr (Word × Bool) :=
  let cs := corners i uv.1 uv.2
  (mrMap (dsRead w 8) (cs.map fun c => i.at_ c.1.1 c.1.2) s).andThen fun l s =>
    .ok (blend ((l.1.zip cs).map fun (v, c) => (w64 v, c.2)), l.2) s

/-- OUT, and SRC, of a frame as images (19 R354). -/
def outImg (h : Head) (x : Frame) : Img := { base := x.out.toNat, w := h.hact, h := h.vact }
/-- See `outImg`. -/
def srcImg (x : Frame) : Img := { base := x.src.toNat, w := x.sw, h := x.sh }

/-- Blocks in a block row of a frame (19 R354, R364). -/
def Frame.blocks (x : Frame) : Nat := cdiv x.sw 8

/-- Where an output pixel samples at level 1, from its block's vector word (19 R354, R356). -/
def vecAt (x : Frame) (px py v : Nat) : Int × Int :=
  (8 * px + 2 * (x.scale : Int) * sextN (v % 65536) 16, 8 * py + 2 * (x.scale : Int) * sextN (v / 65536) 16)

/-- Where an output pixel samples at level 2 (19 R356). -/
def scaleAt (x : Frame) (px py : Nat) : Int × Int :=
  ((2 * (px : Int) + 1 - x.scale) * (4 / x.scale : Nat), (2 * (py : Int) + 1 - x.scale) * (4 / x.scale : Nat))

/-- An output pixel of level 1 or 2 (19 R356). -/
def levelPx (w : DsWho) (h : Head) (x : Frame) (prev : Option Frame) (lv : Nat) (s : State) (p : Nat × Nat) : Mr (Word × Bool) :=
  match lv, prev with
  | 1, some y =>
    (dsRead w 4 s (x.mv.toNat + 4 * (p.2 / x.scale / 8 * x.blocks + p.1 / x.scale / 8))).andThen fun v s =>
      (warpPx w (outImg h y) s (vecAt x p.1 p.2 v.1)).andThen fun r s => .ok (r.1, r.2 || v.2) s
  | _, _ => warpPx w (srcImg x) s (scaleAt x p.1 p.2)

/-- The pixels of a band, row-major (19 R354). -/
def bandPixels (h : Head) (b : Nat) : List (Nat × Nat) := (List.range 16).flatMap fun j => (List.range h.hact).map fun x => (x, 16 * b + j)

/-- A band written as a level computes it, from address `dest` on (19 R356, R365): whether an access failed softly. -/
def writeLevel (w : DsWho) (h : Head) (x : Frame) (lv b dest : Nat) (s : State) : Mr Bool :=
  (mrMap (levelPx w h x (h.before x.f) lv) (bandPixels h b) s).andThen fun r s =>
    (mrMap (dsWrite w 8) (r.1.zipIdx.map fun (v, i) => (dest + 8 * i, v.toNat)) s).andThen fun q s => .ok (r.2 || q.2) s

/-- Where a band lies in OUT of its frame (19 R354). -/
def bandAt (h : Head) (x : Frame) (b : Nat) : Nat := x.out.toNat + 8 * h.hact * 16 * b

/-- The block rows that a band reads (19 R356). -/
def bandRows (x : Frame) (b : Nat) : List Nat :=
  let lo := 2 * b / x.scale
  (List.range ((16 * b + 15) / (8 * x.scale) + 1 - lo)).map fun i => lo + i

/-- The inputs of level 1: PREV and the vectors of the band's block rows (19 R356, R357). -/
def haveVec (h : Head) (x : Frame) (b : Nat) : Bool := (h.before x.f).isSome && (bandRows x b).all fun r => x.rows.contains r

/-- One line of a band at level 3 is copied from PREV to OUT, dropped where an access fails, which sets MEMERR (19 R356, R438). An access that would wait for the host fails (log 75). -/
def copyLine (s : State) (h f b j : Nat) : State :=
  let y := s.iod.head h
  match y.frame f with
  | none => s
  | some x =>
    let row := 16 * b + j
    let put (s : State) (vs : List Nat) (bad : Bool) : State × Bool :=
      match mrMap (dsWrite { soft := true } 8) (vs.zipIdx.map fun (v, i) => ((outImg y x).at_ i row, v)) s with
      | .ok r s => (s, bad || r.2)
      | .fault _ _ s => (s, true)
      | .wait s => (s, true)
    let (s, bad) := match y.before f with
      | none => put s (List.replicate y.hact 0) false
      | some p =>
        if p.out = x.out then (s, false)
        else match mrMap (dsRead { soft := true } 8) ((List.range y.hact).map fun i => (outImg y p).at_ i row) s with
          | .ok r s => put s r.1 r.2
          | .fault _ _ s => (s, true)
          | .wait s => put s (List.replicate y.hact 0) true
    match bad, y.band f b with
    | true, some z => setBand s h { z with flags := z.flags % 32 + 32 }
    | _, _ => s

/-- Level 3 takes a band: it commits at once, and its lines are copied one line before they leave (19 R356). -/
def levelThree (s : State) (h : Nat) (x : Band) : State :=
  let y := s.iod.head h
  let s := commitFallback s h x 3
  ((List.range 16).filter fun j => decide (y.start x.f x.b + j ≤ y.line + 1)).foldl (fun s j => copyLine s h x.f x.b j) s

/-- DS.WARP and DS.NET operations of a band (19 R356). -/
def DsOp.ofBand (o : DsOp) (h f b : Nat) : Bool :=
  decide (bits o.a 16 32 = f) && decide (bits o.a 0 9 = b) &&
  match o.act with
  | .dsWarp _ _ _ hd => decide (hd.val = h)
  | .dsNet _ _ hd => decide (hd.val = h)
  | _ => false

/-- The level that a fallback path starts, with MVMISS and SRCMISS of the levels skipped for want of an input (19 R356, R358) (log 39). -/
def chooseLevel (h : Head) (x : Frame) (b lv : Nat) : Nat × Nat :=
  let s := h.start x.f b
  let one := decide (lv ≤ 1) && haveVec h x b
  let mv := if lv ≤ 1 ∧ !(haveVec h x b) then 4 else 0
  if one ∧ h.line + h.lead 1 ≤ s then (1, 0)
  else if lv ≤ 2 ∧ !x.taken ∧ h.line + h.lead 2 ≤ s then (2, mv)
  else (3, mv + if lv ≤ 2 ∧ x.taken then 2 else 0)

/-- The fallback path of a band from level lv on (19 R356, R368); on one that has begun a path or committed it has no effect (log 39). -/
def startFallback (s : State) (h f b lv : Nat) (forced late : Bool) : State :=
  let y := s.iod.head h
  match y.frame f with
  | none => s
  | some x =>
    if (y.band f b).isSome then s
    else
      let s := s.modIod fun i => { i with dsq := i.dsq.filter fun o => !(o.ofBand h f b) }
      let (level, miss) := chooseLevel y x b lv
      let z : Band := { f := f, b := b, running := some level, flags := miss + 8 * b2n late + 16 * b2n forced }
      let s := setBand s h z
      if level = 3 then levelThree s h z else s

/-- Frame f is settled at D(f, 0): the one registered, else that of the frame before taken over, else blank (19 R355). -/
def settleFrame (h : Head) (f : Nat) : Head :=
  if h.frames.any fun x => decide (x.f = f) then h
  else match h.before f with
    | some p => { h with frames := h.frames ++ [{ p with f := f, taken := true, rows := [] }] }
    | none => { h with frames := h.frames ++ [{ f := f, blank := true }] }

/-- The frames whose D(f, 0) LINE has reached are settled, in order, and older ones are forgotten (19 R355) (log 34). -/
def closeFrame (h : Head) : Head :=
  let h := ((List.range (h.openFrame - h.closed)).map fun i => h.closed + i).foldl settleFrame { h with closed := max h.closed h.openFrame }
  { h with frames := h.frames.filter fun x => decide (h.openFrame ≤ x.f + 4), bands := h.bands.filter fun x => decide (h.openFrame ≤ x.f + 4) }

/-- The frames a head scans out or will, in order. -/
def Head.live (h : Head) : List Frame := h.frames.filter fun x => !x.blank && decide (x.f < h.openFrame)

/-- The deadlines that LINE has reached, in ascending frame and band (19 R356) (log 84). -/
def dueBands (h : Head) : List (Nat × Nat) :=
  h.live.flatMap fun x => ((List.range (h.vact / 16)).filter fun b => decide (h.due x.f b ≤ h.line) && (h.band x.f b).isNone).map fun b => (x.f, b)

/-- A forced level that still runs as its band's deadline is reached makes the band late; its status is written at the commit (19 R358). -/
def markLate (h : Head) : Head :=
  { h with bands := h.bands.map fun x =>
      if x.running.isSome ∧ x.level = 7 ∧ h.due x.f x.b ≤ h.line ∧ !(x.flags.testBit 3) then { x with flags := x.flags + 8 } else x }

/-- A channel as the link carries it: round(1,023 * min(max(x, 0), 1), RNE), and 0 for a NaN (19 R353). -/
def linkChannel (v : Num) : Nat :=
  match v with
  | .nan | .zero _ | .inf true => 0
  | .inf false => 1023
  | .fin true _ _ => 0
  | .fin false m e =>
    if 0 ≤ e then 1023
    else
      let d := 2 ^ (-e).toNat
      let q := 1023 * m / d
      let r := 1023 * m % d
      min 1023 (if d < 2 * r ∨ (2 * r = d ∧ q % 2 = 1) then q + 1 else q)

/-- A pixel as the link carries it: red, green and blue (19 R351, R353). -/
def linkPixel (p : Word) : Nat × Nat × Nat := (linkChannel (laneNum .f16 p 0), linkChannel (laneNum .f16 p 1), linkChannel (laneNum .f16 p 2))

/-- The line that begins to leave is scanned out: an active line of a frame that is not blank sends the pixels of OUT, one of a blank frame pixels of value 0, a blanking line none; a read that fails, or would wait for the host, sends 0 (19 R353, R355, R438) (log 75). -/
def scanOut (s : State) (h : Nat) : State :=
  let y := s.iod.head h
  let n := y.line - 1
  let send (s : State) (l : Option (List Nat)) : State := s.modHead h fun y => { y with sent := l.map fun l => (n, l.map fun v => linkPixel (w64 v)) }
  let none_ := List.replicate y.hact 0
  if n % y.vtot < y.vact then
    match y.frame (n / y.vtot) with
    | none => send s (some none_)
    | some x =>
      match mrMap (dsRead { soft := true } 8) ((List.range y.hact).map fun i => (outImg y x).at_ i (n % y.vtot)) s with
      | .ok l s => send s (some l.1)
      | .fault _ _ s => send s (some none_)
      | .wait s => send s (some none_)
  else send s none

/-- The pending failure of the DSE queue traps the next DS instruction; then a head with EN = 0 does (19 R361). -/
def dsCheck (s : State) (h : Nat) (f : State → Out) : Out :=
  match s.iod.dsFault with
  | some (c, v) => trap (s.modIod fun i => { i with dsFault := none, emit := none }) c.code v
  | none => if headOn s h then f s else trap s 0x64 (w64 h)

/-- A band identifier is checked (19 R361). -/
def bandCheck (s : State) (h : Nat) (v : Word) (f : State → Out) : Out :=
  if bits v 48 16 ≠ 0 ∨ bits v 9 7 ≠ 0 ∨ (s.iod.head h).vact / 16 ≤ bits v 0 9 then trap s 0x63 v else f s

/-- A frame descriptor from its bytes, where its fields are as R354 states for a head. -/
def frameOf (h : Head) (b : List Byte) : Option Frame :=
  let sc := fld b 0x24 1
  if allZero (cut b 4 4) ∧ fld b 8 8 % 64 = 0 ∧ fld b 0x10 8 % 64 = 0 ∧ (sc = 1 ∨ sc = 2 ∨ sc = 4) ∧ fld b 0x20 2 * sc = h.hact ∧ fld b 0x22 2 * sc = h.vact ∧
      fld b 0x22 2 % 8 = 0 ∧ allZero (cut b 0x25 27) then
    some { f := fld b 0 4, out := w64 (fld b 8 8), src := w64 (fld b 0x10 8), mv := w64 (fld b 0x18 8), sw := fld b 0x20 2, sh := fld b 0x22 2, scale := sc }
  else none

/-- DS.BAND: registers a frame descriptor for a head's open frame; D := D(f, 0) (19 R354, R355, R362) (log 38). -/
def execDsBand (d a : Reg) (head : Fin 4) (s : State) : Out :=
  dsCheck s head.val fun s =>
    let at_ := bits (s.reg a) 0 14
    let y := s.iod.head head.val
    if at_ % 64 ≠ 0 then trap s 0x24 (w64 at_)
    else if (List.range 64).any fun i => Tab.look false (s.core s.actor.core).bad (at_ + i) then trap s 0x2F (w64 at_)
    else
      match frameOf y (localBytes (s.core s.actor.core) at_ 64) with
      | none => trap s 0x63 0
      | some x =>
        if x.f ≠ y.openFrame then trap s 0x64 (w64 x.f)
        else retireWith (s.modHead head.val fun h => { h with frames := h.frames.filter (fun z => decide (z.f ≠ x.f)) ++ [x] }) d (wI (y.due x.f 0))

/-- DS.FALL: D := BSTAT, after forcing the band's fallback path where LV is not 0 (19 R368). -/
def execDsFall (d a : Reg) (lv head : Fin 4) (s : State) : Out :=
  dsCheck s head.val fun s => bandCheck s head.val (s.reg a) fun s =>
    let v := s.reg a
    if ((s.iod.head head.val).holds (bits v 16 32)).isNone then trap s 0x64 v
    else
      let s := if lv.val = 0 then s else startFallback s head.val (bits v 16 32) (bits v 0 9) lv.val true false
      retireWith s d ((s.iod.head head.val).status (bits v 0 9))

/-- DS.LINE: D := LINE (19 R363). -/
def execDsLine (d : Reg) (head : Fin 4) (s : State) : Out :=
  dsCheck s head.val fun s => retireWith s d (w64 (s.iod.head head.val).line)

/-- DS.LINE.wait: waits until LINE reaches reg(A), then D := LINE (19 R363). -/
def execDsLineWait (d a : Reg) (head : Fin 4) (s : State) : Out :=
  dsCheck s head.val fun s =>
    if (s.reg a).toNat ≤ (s.iod.head head.val).line then retireWith s d (w64 (s.iod.head head.val).line)
    else waitFor s (.line head.val (s.reg a).toNat)

/-- An operation enters the DSE queue, or waits while it is full (19 R361). -/
def pushDs (s : State) (i : Instr) (a b : Word) : Out :=
  if 8 ≤ s.iod.dsq.length then .next s
  else retire (s.modIod fun x => { x with dsq := x.dsq ++ [{ act := i, a := a, b := b, user := s.user }] })

/-- DS.ME: queues motion estimation; a frame without a descriptor of its own faults (19 R361, R364). -/
def execDsMe (a b : Reg) (head : Fin 4) (s : State) : Out :=
  dsCheck s head.val fun s =>
    if ((s.iod.head head.val).holds (bits (s.reg a) 16 32)).any fun x => !x.taken then pushDs s (.dsMe a b head) (s.reg a) (s.reg b)
    else trap s 0x64 (s.reg a)

/-- DS.WARP and DS.NET queue an operation on a band (19 R361, R365, R366). -/
def queueBand (s : State) (h : Nat) (i : Instr) (a b : Word) : Out :=
  dsCheck s h fun s => bandCheck s h a fun s => if ((s.iod.head h).holds (bits a 16 32)).isNone then trap s 0x64 a else pushDs s i a b

/-- DS.WARP (19 R365). -/
def execDsWarp (a b : Reg) (up : Bool) (head : Fin 4) (s : State) : Out := queueBand s head.val (.dsWarp a b up head) (s.reg a) (s.reg b)

/-- DS.NET (19 R366). -/
def execDsNet (a b : Reg) (head : Fin 4) (s : State) : Out := queueBand s head.val (.dsNet a b head) (s.reg a) (s.reg b)

/-- A DS.EMIT whose checks have passed: the band has committed, or commits on the network path once no operation of it is queued; else it waits (19 R367). -/
def emitBand (s : State) (d : Reg) (h f b : Nat) : Out :=
  let y := s.iod.head h
  let done (s : State) : Out := retireWith (s.modIod fun i => { i with emit := none }) d ((s.iod.head h).status b)
  if y.committed f b then done s
  else if (y.band f b).isNone ∧ !(s.iod.dsq.any fun o => o.ofBand h f b) then done (commitNetwork s h f b)
  else .next (s.modIod fun i => { i with emit := some { pc := s.actor.pc, head := h, f := f, b := b } }).stay

/-- DS.EMIT: waits for the band's operations, then the band commits on the network path; D := BSTAT (19 R367). A band on the fallback path is waited for. One that waits already is not checked again, but a pending failure traps it. -/
def execDsEmit (d a : Reg) (head : Fin 4) (s : State) : Out :=
  let h := head.val
  let v := s.reg a
  let f := bits v 16 32
  let b := bits v 0 9
  if s.iod.emit = some { pc := s.actor.pc, head := h, f := f, b := b } ∧ s.iod.dsFault.isNone then emitBand s d h f b
  else dsCheck s h fun s => bandCheck s h v fun s => if ((s.iod.head h).holds f).isNone then trap s 0x64 v else emitBand s d h f b

end Sys2Proof.Machine
end

