-- ==== Sys2Proof/Machine/EvDisplay.lean ====
section
/-! DEFINITION. Events of the display synthesis engine: beacons, line starts, the end of fallback levels, the operations of the DSE queue, and the commit that a DS.EMIT waits for (09 R207, R208; 19 R355 to R367, R438). -/
namespace Sys2Proof.Machine

/-- A beacon reaches a die: its mirror takes LINE and LPER of an enabled head (09 R207, R208). -/
def execLineBeacon (die head : Nat) (s : State) : Out :=
  if die < 4 ∧ head < 4 ∧ headOn s head then
    let y := s.iod.head head
    .next (s.modDie die fun x => { x with heads := Tab.mod {} x.heads head fun m => { m with line := y.line, lper := lperOf y } })
  else .next s

/-- Levels that have not finished at S - LEAD3 are abandoned for level 3 (19 R356). -/
def abandonLate (s : State) (h : Nat) : State :=
  let y := s.iod.head h
  (y.bands.filter fun x => (x.running.any fun l => decide (l ≠ 3)) && decide (y.start x.f x.b ≤ y.line + y.lead 3)).foldl
    (fun s x => levelThree s h { x with flags := if x.flags.testBit 0 then x.flags else x.flags + 1 }) s

/-- A line begins: LINE goes up, the frame that closes is settled, late levels are abandoned, the deadlines reached are evaluated, level 3 copies its lines, and the line is scanned out (19 R352, R353, R355, R356) (log 84). -/
def execLineStart (head : Nat) (s : State) : Out :=
  if !(headOn s head) ∨ 4 ≤ head then .next s
  else
    let s := s.modHead head fun y => closeFrame { y with line := y.line + 1 }
    let y := s.iod.head head
    let copying := y.bands.filterMap fun x => if x.level = 3 ∧ y.start x.f x.b ≤ y.line + 1 ∧ y.line + 1 < y.start x.f x.b + 16 then some (x.f, x.b, y.line + 1 - y.start x.f x.b) else none
    let s := (abandonLate s head).modHead head markLate
    let s := (dueBands y).foldl (fun s (f, b) => startFallback s head f b 1 false true) s
    let s := copying.foldl (fun s (f, b, j) => copyLine s head f b j) s
    .next (scanOut s head)

/-- A fallback level finishes: its 16 lines are written, and the band commits (19 R356, R359, R438). It waits where an access waits for the host. -/
def execFallbackLevelFinish (head band : Nat) (s : State) : Out :=
  let y := s.iod.head head
  match y.bands.find? fun x => decide (x.b = band) && x.running.any fun l => decide (l = 1 ∨ l = 2) with
  | none => .next s
  | some z =>
    match y.frame z.f, z.running with
    | some x, some lv =>
      (match writeLevel { soft := true } y x lv band (bandAt y x band) s with
       | .wait s => .next s
       | .fault _ _ s => .next s
       | .ok bad s => .next (commitFallback s head { z with flags := z.flags + 32 * b2n bad } lv))
    | _, _ => .next s

/-- The head of the DSE queue. -/
def dsHead (s : State) : Option DsOp := s.iod.dsq.head?

/-- The head operation leaves the queue. -/
def dsPop (s : State) : State := s.modIod fun i => { i with dsq := i.dsq.drop 1 }

/-- The head operation has done one row or layer more. -/
def dsStep (s : State) : State := s.modIod fun i => { i with dsq := match i.dsq with
  | o :: l => { o with done := o.done + 1, val := 0 } :: l
  | [] => [] }

/-- The head operation fails: the failure is held pending, and the queue is empty (19 R361). -/
def dsFail (s : State) (c : Cause) (v : Nat) : State := s.modIod fun i => { i with dsFault := some (c, w64 v), dsq := [] }

/-- The end of an access by the head operation. -/
def Mr.ds {α : Type} (r : Mr α) (f : α → State → Out) : Out :=
  match r with
  | .ok v s => f v s
  | .wait s => .next s
  | .fault c t s => .next (dsFail s (causeOf c) t)

/-- Y of a pixel (19 R364). -/
def luma (p : Word) : Num :=
  mulNum (sumNum .rne [laneNum .f16 p 0, mulNum (laneNum .f16 p 1) (.fin false 1 1), laneNum .f16 p 2]) (.fin false 1 (-2))

/-- The pixels of a rectangle of an image, columns x0 to x1 and rows y0 to y1, by y * 2^16 + x. -/
def readRect (w : DsWho) (i : Img) (x0 x1 y0 y1 : Nat) (s : State) : Mr (Tab Word) :=
  let ps := (List.range (y1 + 1 - y0)).flatMap fun j => (List.range (x1 + 1 - x0)).map fun k => (x0 + k, y0 + j)
  (mrMap (dsRead w 8) (ps.map fun p => i.at_ p.1 p.2) s).andThen fun r s => .ok ((r.1.zip ps).map fun (v, p) => (p.2 * 65536 + p.1, w64 v)) s

/-- A sample of an image whose pixels are read. -/
def sampleAt (i : Img) (t : Tab Word) (u v : Int) : Word := blend ((corners i u v).map fun c => (Tab.look 0 t (c.1.2 * 65536 + c.1.1), c.2))

/-- cost(dx, dy) of R364 for the pixels of a block. -/
def blockCost (pre : Img) (t : Tab Word) (ps : List ((Nat × Nat) × Num)) (dx dy : Int) : Num :=
  sumNum .rne (ps.map fun (p, v) => Num.abs (sumNum .rne [v, Num.neg (luma (sampleAt pre t (8 * (p.1 : Int) + 2 * dx) (8 * (p.2 : Int) + 2 * dy)))]))

/-- The first of two costs is better: a NaN is worse than any other (19 R364). -/
def costLess (a b : Num) : Bool :=
  match a, b with
  | .nan, _ => false
  | _, .nan => true
  | .inf _, _ => false
  | _, .inf _ => true
  | _, _ => absBelow b a

/-- The vectors in the order that breaks ties: least |dx| + |dy|, then least dy, then least dx (19 R364). -/
def vectors : List (Int × Int) :=
  let side (r : Nat) : List Int := (List.range (2 * r + 1)).map fun (i : Nat) => Int.ofNat i - Int.ofNat r
  (List.range 513).flatMap fun n => ((side (min n 256)).flatMap fun dy =>
    let dx : Int := (n : Int) - (dy.natAbs : Int)
    if dx < 0 ∨ 256 < dx then [] else if dx = 0 then [(0, dy)] else [(-dx, dy), (dx, dy)])

/-- The vector of least cost, the first of equal ones (19 R364). -/
def bestVector (f : Int × Int → Num) : Int × Int :=
  (vectors.foldl (fun a v => match a with
    | none => some (v, f v)
    | some (w, c) => let k := f v; if costLess k c then some (v, k) else some (w, c)) none).elim (0, 0) Prod.fst

/-- The vector word of block (i, j) of a frame, against the SRC of the frame before where it is present (19 R354, R364) (log 36). -/
def blockVector (w : DsWho) (x : Frame) (prev : Option Frame) (j : Nat) (s : State) (i : Nat) : Mr (Nat × Bool) :=
  match prev with
  | none => .ok (0, false) s
  | some p =>
    let pre := srcImg p
    let x1 := min (8 * i + 7) (x.sw - 1)
    (readRect w (srcImg x) (8 * i) x1 (8 * j) (8 * j + 7) s).andThen fun t s =>
      (readRect w pre (min (8 * i - 64) (p.sw - 1)) (min (x1 + 64) (p.sw - 1)) (min (8 * j - 64) (p.sh - 1)) (min (8 * j + 71) (p.sh - 1)) s).andThen fun q s =>
        let ps := t.map fun (k, v) => ((k % 65536, k / 65536), luma v)
        let v := bestVector fun d => blockCost pre q ps d.1 d.2
        .ok (truncI v.1 16 + truncI v.2 16 * 65536, false) s

/-- SRCPREV of a frame: the SRC of the frame before, missing where that one was itself taken over (19 R355, R357) (log 36). -/
def srcBefore (h : Head) (f : Nat) : Option Frame := (h.before f).filter fun p => !p.taken

/-- The block rows of a DS.ME that has completed are complete (19 R357). -/
def coverRows (s : State) (h f : Nat) (l : List Nat) : State :=
  s.modHead h fun y => { y with frames := y.frames.map fun z => if z.f = f then { z with rows := z.rows ++ l.filter fun j => !(z.rows.contains j) } else z }

/-- DS.ME computes and writes the vectors of its next block row; the last makes all its rows complete, and a row beyond the frame fails it (19 R357, R364) (logs 38, 76). -/
def execDsMeRun (s : State) : Out :=
  match dsHead s with
  | none => .next s
  | some o =>
    match o.act with
    | .dsMe _ _ hd =>
      let y := s.iod.head hd.val
      let j := bits o.a 0 16 + o.done
      (match y.frame (bits o.a 16 32) with
       | none => .next (dsPop s)
       | some x =>
         if o.b.toNat ≤ o.done then .next (dsPop s)
         else if x.sh / 8 ≤ j then .next (dsFail s .displayFormat o.a.toNat)
         else
           let w : DsWho := { user := o.user }
           (mrMap (blockVector w x (srcBefore y x.f) j) (List.range x.blocks) s).ds fun r s =>
             (mrMap (dsWrite w 4) (r.1.zipIdx.map fun (v, i) => (x.mv.toNat + 4 * (j * x.blocks + i), v)) s).ds fun _ s =>
               if o.b.toNat ≤ o.done + 1 then .next (dsPop (coverRows s hd.val x.f ((List.range o.b.toNat).map fun i => bits o.a 0 16 + i)))
               else .next (dsStep s))
    | _ => .next s

/-- DS.WARP writes its band as level 1 or 2 computes it; a missing input fails it; one on a band that has committed is discarded (19 R365) (log 35). -/
def execDsWarpRun (s : State) : Out :=
  match dsHead s with
  | none => .next s
  | some o =>
    match o.act with
    | .dsWarp _ _ up hd =>
      let y := s.iod.head hd.val
      let f := bits o.a 16 32
      let b := bits o.a 0 9
      (match y.frame f with
       | none => .next (dsPop s)
       | some x =>
         if y.committed f b then .next (dsPop s)
         else if o.b.toNat % 64 ≠ 0 then .next (dsFail s .displayFormat o.b.toNat)
         else if (up ∧ x.taken) ∨ (!up ∧ !(haveVec y x b)) then .next (dsFail s .displayState 0)
         else (writeLevel { user := o.user } y x (if up then 2 else 1) b o.b.toNat s).ds fun _ s => .next (dsPop s))
    | _ => .next s

/-- A layer record of a network (19 R366). -/
structure NetLayer where
  src : Nat
  w : Nat
  out : Nat
  k : Nat
  n : Nat
  relu : Bool
  last : Bool
  sr : Bool
  deriving DecidableEq, Repr

/-- The offset of the first field of a layer record that is outside R366. `fin` says that it is the last of the network. -/
def badField (b : List Byte) (fin : Bool) : Option Nat :=
  let k := fld b 24 1
  let n := fld b 25 1
  let side (v : Nat) : Bool := decide (8 ≤ v ∧ v ≤ 64 ∧ v % 8 = 0)
  if !(side k) then some 24
  else if !(if fld b 27 1 = 1 then decide (n = 4) else side n) then some 25
  else if 1 < fld b 26 1 then some 26
  else if fld b 27 1 ≠ b2n fin then some 27
  else if fld b 28 1 ≠ 0 ∧ fld b 28 1 ≠ 5 then some 28
  else if !(allZero (cut b 29 3)) then some 29
  else none

/-- A layer record from its bytes. -/
def layerOf (b : List Byte) : NetLayer :=
  { src := fld b 0 8, w := fld b 8 8, out := fld b 16 8, k := fld b 24 1, n := fld b 25 1, relu := decide (fld b 26 1 = 1), last := decide (fld b 27 1 = 1), sr := decide (fld b 28 1 = 5) }

/-- A value of a layer before its rounding (06 R154; 19 R366). -/
def netValue (relu : Bool) (bias : Nat) (ps : List Num) : Num :=
  let y := num32 (cellSum true bias ps)
  match relu, y with
  | true, .zero _ => .zero false
  | true, .inf true => .zero false
  | true, .fin true _ _ => .zero false
  | _, y => y

/-- The rounding of a layer's value: E4M3, or FP16 in the last layer (06 R147, R148; 19 R366). -/
def netRound (g : NetLayer) (draw : Nat) (y : Num) : Nat := roundFp (if g.last then fp16 else e4m3) (if g.sr then .sr else .rne) draw y

/-- n single bytes from an address. -/
def dsBytes (w : DsWho) (a n : Nat) (s : State) : Mr (List Nat × Bool) := mrMap (dsRead w 1) ((List.range n).map fun i => a + i) s

/-- Value n of pixel p of a layer is computed from what memory then holds, rounded with a draw of the DSE generator under SR, and written; the draw is taken with the write (06 R150; 19 R366). `dest` is where the band lies in OUT. -/
def runValue (w : DsWho) (g : NetLayer) (dest p n : Nat) (s : State) : Mr Unit :=
  (dsBytes w (g.src + p * g.k) g.k s).andThen fun ins s =>
    (mrMap (dsRead w 1) ((List.range g.k).map fun k => g.w + k * g.n + n) s).andThen fun ws s =>
      (dsRead w 4 s (g.w + g.k * g.n + 4 * n)).andThen fun bias s =>
        let y := netValue g.relu bias.1 ((ins.1.zip ws.1).map fun (a, b) => mulNum (decodeFp e4m3 a) (decodeFp e4m3 b))
        let (us, seed) := if g.sr then srDraws 1 (s.core dsCore).seed else ([], (s.core dsCore).seed)
        let sz := if g.last then 2 else 1
        (dsWrite w sz s ((if g.last then dest else g.out) + sz * (p * g.n + n), netRound g (us.headD 0) y)).andThen fun _ s => .ok () (if g.sr then s.setSeed dsCore 64 seed else s)

/-- The values of the next layer of the head operation, m of them from value i on, each written before the next is computed; one that waits for the host keeps those done (19 R366). -/
def runLayer (w : DsWho) (g : NetLayer) (dest : Nat) : Nat → Nat → State → Mr Unit
  | 0, _, s => .ok () s
  | m + 1, i, s =>
    (runValue w g dest (i / g.n) (i % g.n) s).andThen fun _ s =>
      runLayer w g dest m (i + 1) (s.modIod fun x => { x with dsq := match x.dsq with
        | o :: l => { o with val := i + 1 } :: l
        | [] => [] })

/-- DS.NET runs its next layer over its band; one on a band that has committed is discarded, and a descriptor or layer field outside R366 fails with its address (19 R361, R366) (logs 35, 76). -/
def execDsNetRun (s : State) : Out :=
  match dsHead s with
  | none => .next s
  | some o =>
    match o.act with
    | .dsNet _ _ hd =>
      let y := s.iod.head hd.val
      let f := bits o.a 16 32
      let b := bits o.a 0 9
      let at_ := o.b.toNat
      let w : DsWho := { user := o.user }
      (match y.frame f with
       | none => .next (dsPop s)
       | some x =>
         if y.committed f b then .next (dsPop s)
         else if at_ % 64 ≠ 0 then .next (dsFail s .displayFormat at_)
         else
           (dsBytes w at_ 16 s).ds fun h s =>
             let nl := (h.1.headD 0)
             if nl < 1 ∨ 16 < nl then .next (dsFail s .displayFormat at_)
             else if (h.1.drop 1).any (· ≠ 0) then .next (dsFail s .displayFormat (at_ + 1))
             else
               let rec_ := at_ + 16 + 32 * o.done
               (dsBytes w rec_ 32 s).ds fun r s =>
                 let bs := r.1.map (BitVec.ofNat 8)
                 match badField bs (decide (o.done + 1 = nl)) with
                 | some k => .next (dsFail s .displayFormat (rec_ + k))
                 | none => 
                   let g := layerOf bs
                   if g.sr ∧ !(s.mayDraw dsCore 64) then .next s else
                   (runLayer w g (bandAt y x b) (16 * y.hact * g.n - o.val) o.val s).ds fun _ s => .next (if g.last then dsPop s else dsStep s))
    | _ => .next s

/-- The operations of the band of a waiting DS.EMIT have completed: the band commits on the network path (19 R367). -/
def execEmitCommit (s : State) : Out :=
  match s.iod.emit with
  | none => .next s
  | some e =>
    let y := s.iod.head e.head
    let c := s.ctx dsCore 0
    if c.run = .run ∧ c.pc = e.pc ∧ s.iod.dsFault.isNone ∧ (y.band e.f e.b).isNone ∧ !(s.iod.dsq.any fun o => o.ofBand e.head e.f e.b) then
      .next (commitNetwork s e.head e.f e.b)
    else .next s

end Sys2Proof.Machine
end

