-- ==== Sys2Proof/Machine/HostWrite.lean ====
section
/-! DEFINITION. What a write of the host at an aligned doubleword of BAR0 does: it sets the fields of a plain register, or it is the command that the register takes (24 R417 to R420). -/
namespace Sys2Proof.Machine

/-- A write to CTXCMD (24 R420). -/
def ctxCommand (k : Nat) (v : Word) (s : State) : Out :=
  match cmdOp v with
  | 1 => execCtxStart k v s
  | 2 => execCtxStop k v s
  | 3 => execCtxTrap k v s
  | _ => .next s

/-- A write to DSCMD: a context but 0 is counted whatever OP holds (24 R420). -/
def dsCommand (v : Word) (s : State) : Out :=
  match cmdOp v with
  | 1 => execDsCtxStart v s
  | 2 => execDsCtxStop v s
  | 3 => execDsCtxTrap v s
  | _ => .next (if cmdCtx v = 0 then s else ignoreCmd s dsCore)

/-- A write to CSWCMD; OP 0 and 3 are ignored (21 R398). -/
def cswCommand (k : Nat) (v : Word) (s : State) : Out :=
  match bits v 0 2 with
  | 1 => execCoreSave k v s
  | 2 => execCoreRestore k v s
  | _ => .next s

/-- The command that a write at an offset of a core's block is; none where it only sets fields (24 R419). -/
def coreCommand (k o : Nat) (v : Word) (s : State) : Option Out :=
  match o with
  | 0x00 => some (ctxCommand k v s)
  | 0x20 => some (execTokdropClear k s)
  | 0x38 => some (cswCommand k v s)
  | _ => none

/-- The command that a write at an offset of an ingress port is (09 R214). -/
def portCommand (d q o : Nat) (v : Word) (s : State) : Option Out :=
  match o with
  | 0x10 => some (execCredreq d q v s)
  | 0x28 => some (execDropsClear d q s)
  | 0x30 => some (execCreditRelease d q v s)
  | _ => none

/-- A write to REGCMD; a KIND but 0 and 1 is refused (24 R420, R423). -/
def regCommand (d : Nat) (v : Word) (s : State) : Out :=
  match bits v 14 2 with
  | 0 => execRegcmdQueue d (bits v 0 12) s
  | 1 => execRegcmdStage d (bits v 0 12) s
  | _ => .next (setRegst s d false)

/-- The command that a write at an offset of a die's block is (24 R419). -/
def dieCommand (d o : Nat) (v : Word) (s : State) : Option Out :=
  if 0x40000 ≤ o ∧ o < 0x80000 then portCommand d ((o - 0x40000) / 64) (o % 64) v s
  else if o = 0x84040 then some (regCommand d v s)
  else if 0x90000 ≤ o ∧ o < 0x90200 then some (execOccownWrite d ((o - 0x90000) / 8) v s)
  else if o = 0x90200 then some (execOccclr d v s)
  else if 0xA0000 ≤ o ∧ o < 0xA8000 then some (execOcccntWrite d ((o - 0xA0000) / 8) v s)
  else if o = 0xB0000 then some (execMigcmd d v s)
  else if 0xC0000 ≤ o ∧ o < 0xD0000 ∧ o % 0x1000 = 0x10 then some (execChunkpush d ((o - 0xC0000) / 0x1000) v s)
  else if 0x400000 ≤ o ∧ o < 0x400000 + 80 * 0x20000 then coreCommand (d * 128 + (o - 0x400000) / 0x20000) ((o - 0x400000) % 0x20000) v s
  else none

/-- The command that a write at an offset of a partition's block is (24 R419). -/
def partCommand (p o : Nat) (v : Word) (s : State) : Option Out :=
  match o with
  | 0x20 => some (execTinv p v s)
  | 0x38 => some (execFltptrWrite p v s)
  | 0x40 => some (execFltreply p v s)
  | 0x58 => some (execDutyReply p v s)
  | 0x68 => some (if bit v 63 then execPartitionSetup p v s else execPartitionEnd p s)
  | _ => none

/-- A write to HCTL (19 R352). -/
def headCommand (h : Nat) (v : Word) (s : State) : Out := if bit v 0 then execHeadEnable h v s else execHeadDisable h v s

/-- The command that a write at an offset of the IOD's block is (24 R419). -/
def iodCommand (o : Nat) (v : Word) (s : State) : Option Out :=
  if o = 0x100 then some (dsCommand v s)
  else if o = 0x110 then some (execDspartWrite v s)
  else if 0x20000 ≤ o ∧ o < 0x28000 ∧ o % 0x2000 = 0 then some (headCommand ((o - 0x20000) / 0x2000) v s)
  else if o = 0x60020 then some (execAttcmd v s)
  else if o = 0x60030 then some (execSvncommit v s)
  else none

/-- The command that a write at an offset of BAR0 is: the row of the register it names (24 R417, R419). -/
def commandAt (off : Nat) (v : Word) (s : State) : Option Out :=
  if off < 0x1000000 then iodCommand off v s
  else if off < 0x5000000 then dieCommand (off / 0x1000000 - 1) (off % 0x1000000) v s
  else if 0x5001000 ≤ off ∧ off < 0x6000000 then partCommand ((off - 0x5000000) / 0x1000) (off % 0x1000) v s
  else none

/-- The fields that a write at an offset of BAR0 sets; a read-only or reserved register ignores it (24 R417 to R420). -/
def fieldsAt (s : State) (off : Nat) (v : Word) : State :=
  if off < 0x1000000 then writeIod s off v
  else if off < 0x5000000 then writeDie s (off / 0x1000000 - 1) (off % 0x1000000) v
  else if 0x5001000 ≤ off ∧ off < 0x6000000 then s.modPart ((off - 0x5000000) / 0x1000) fun x => writePart x (off % 0x1000) v
  else s

/-- A write of an aligned doubleword at a BAR0 offset: the command of the register that it reaches, else its fields (24 R417 to R420) (logs 74, 81). -/
def execRegisterWrite (off : Nat) (v : Word) (s : State) : Out :=
  if !(hostReady s) ∨ off % 8 ≠ 0 then .next s else (commandAt off v s).getD (.next (fieldsAt s off v))

end Sys2Proof.Machine
end

