-- ==== Sys2Proof/Machine/SeqAlu.lean ====
section
/-! DEFINITION. The integer and logic instructions of the sequencer (04 R69 to R72). -/
namespace Sys2Proof.Machine

/-- sh := bits(b, 5, 0) of R69. -/
def shOf (b : Word) : Nat := b.toNat % 64

/-- A result of two registers, written to D. -/
def binary (s : State) (d a b : Reg) (f : Word → Word → Word) : Out := retireWith s d (f (s.reg a) (s.reg b))

/-- bits(a, pos + len - 1, pos) of R71. -/
def fieldOf (a : Word) (pos : BitVec 6) (len : BitVec 7) : Nat := bits a pos.toNat len.toNat

/-- ADD: trunc(a + b, 64) (04 R69). -/
def execAdd (d a b : Reg) (s : State) : Out := binary s d a b fun a b => a + b

/-- SUB: trunc(a - b, 64) (04 R69). -/
def execSub (d a b : Reg) (s : State) : Out := binary s d a b fun a b => a - b

/-- MUL: trunc(a × b, 64) (04 R69). -/
def execMul (d a b : Reg) (s : State) : Out := binary s d a b fun a b => a * b

/-- MULH: the high 64 bits of the signed product (04 R69). -/
def execMulh (d a b : Reg) (s : State) : Out := binary s d a b fun a b => wI (a.toInt * b.toInt / 2 ^ 64)

/-- MULHU: the high 64 bits of the unsigned product (04 R69). -/
def execMulhu (d a b : Reg) (s : State) : Out := binary s d a b fun a b => w64 (a.toNat * b.toNat / 2 ^ 64)

/-- DIV: truncating signed division with the edge cases of R70. -/
def execDiv (d a b : Reg) (s : State) : Out := binary s d a b fun a b => if b = 0 then -1 else wI (a.toInt.tdiv b.toInt)

/-- DIVU: unsigned division with the edge case of R70. -/
def execDivu (d a b : Reg) (s : State) : Out := binary s d a b fun a b => if b = 0 then -1 else a / b

/-- REM: the remainder with the sign of the dividend (04 R70). -/
def execRem (d a b : Reg) (s : State) : Out := binary s d a b fun a b => if b = 0 then a else wI (a.toInt - b.toInt * a.toInt.tdiv b.toInt)

/-- REMU: the unsigned remainder (04 R70). -/
def execRemu (d a b : Reg) (s : State) : Out := binary s d a b fun a b => if b = 0 then a else a % b

/-- AND (04 R69). -/
def execAnd (d a b : Reg) (s : State) : Out := binary s d a b fun a b => a &&& b

/-- OR (04 R69). -/
def execOr (d a b : Reg) (s : State) : Out := binary s d a b fun a b => a ||| b

/-- XOR (04 R69). -/
def execXor (d a b : Reg) (s : State) : Out := binary s d a b fun a b => a ^^^ b

/-- ANDN: a AND NOT b (04 R69). -/
def execAndn (d a b : Reg) (s : State) : Out := binary s d a b fun a b => a &&& ~~~b

/-- ORN: a OR NOT b (04 R69). -/
def execOrn (d a b : Reg) (s : State) : Out := binary s d a b fun a b => a ||| ~~~b

/-- SHL by bits(b, 5, 0) (04 R69). -/
def execShl (d a b : Reg) (s : State) : Out := binary s d a b fun a b => a <<< shOf b

/-- SHR by bits(b, 5, 0) (04 R69). -/
def execShr (d a b : Reg) (s : State) : Out := binary s d a b fun a b => a >>> shOf b

/-- SRA by bits(b, 5, 0) (04 R69). -/
def execSra (d a b : Reg) (s : State) : Out := binary s d a b fun a b => a.sshiftRight (shOf b)

/-- ROL by bits(b, 5, 0) (04 R69). -/
def execRol (d a b : Reg) (s : State) : Out := binary s d a b fun a b => a.rotateLeft (shOf b)

/-- ROR by bits(b, 5, 0) (04 R69). -/
def execRor (d a b : Reg) (s : State) : Out := binary s d a b fun a b => a.rotateRight (shOf b)

/-- MIN, signed (04 R69). -/
def execMin (d a b : Reg) (s : State) : Out := binary s d a b fun a b => if b.slt a then b else a

/-- MAX, signed (04 R69). -/
def execMax (d a b : Reg) (s : State) : Out := binary s d a b fun a b => if a.slt b then b else a

/-- MINU (04 R69). -/
def execMinu (d a b : Reg) (s : State) : Out := binary s d a b fun a b => if b.ult a then b else a

/-- MAXU (04 R69). -/
def execMaxu (d a b : Reg) (s : State) : Out := binary s d a b fun a b => if a.ult b then b else a

/-- CLZ: leading zero bits, 64 for 0 (04 R69). -/
def execClz (d a : Reg) (s : State) : Out := retireWith s d (w64 (clz (s.reg a).toNat 64))

/-- CTZ: trailing zero bits, 64 for 0 (04 R69). -/
def execCtz (d a : Reg) (s : State) : Out := retireWith s d (w64 (ctz (s.reg a).toNat 64))

/-- POPC: number of one bits (04 R69). -/
def execPopc (d a : Reg) (s : State) : Out := retireWith s d (w64 (popcount (s.reg a).toNat 64))

/-- BREV: bit i moves to bit 63 - i (04 R69). -/
def execBrev (d a : Reg) (s : State) : Out := retireWith s d (w64 (brev (s.reg a).toNat 64))

/-- SEL: a if p[C] is 1, else b (04 R69). -/
def execSel (d : Reg) (c : Pred) (a b : Reg) (s : State) : Out := retireWith s d (if s.pred c then s.reg a else s.reg b)

/-- BFX: the field, sign-extended (04 R71). -/
def execBfx (d a : Reg) (pos : BitVec 6) (len : BitVec 7) (s : State) : Out := retireWith s d (wI (sextN (fieldOf (s.reg a) pos len) len.toNat))

/-- BFXU: the field, zero-extended (04 R71). -/
def execBfxu (d a : Reg) (pos : BitVec 6) (len : BitVec 7) (s : State) : Out := retireWith s d (w64 (fieldOf (s.reg a) pos len))

/-- BFI: the low LEN bits of a placed into D (04 R71). -/
def execBfi (d a : Reg) (pos : BitVec 6) (len : BitVec 7) (s : State) : Out := retireWith s d (place (s.reg d) pos.toNat len.toNat (s.reg a).toNat)

/-- ADDI: the operation of ADD with the widened immediate (04 R72). -/
def execAddi (d a : Reg) (ti : Ti) (imm : BitVec 32) (s : State) : Out := retireWith s d (s.reg a + immOf ti imm)

/-- ANDI: the operation of AND with the widened immediate (04 R72). -/
def execAndi (d a : Reg) (ti : Ti) (imm : BitVec 32) (s : State) : Out := retireWith s d (s.reg a &&& immOf ti imm)

/-- ORI: the operation of OR with the widened immediate (04 R72). -/
def execOri (d a : Reg) (ti : Ti) (imm : BitVec 32) (s : State) : Out := retireWith s d (s.reg a ||| immOf ti imm)

/-- XORI: the operation of XOR with the widened immediate (04 R72). -/
def execXori (d a : Reg) (ti : Ti) (imm : BitVec 32) (s : State) : Out := retireWith s d (s.reg a ^^^ immOf ti imm)

/-- SHLI: as SHL with sh = imm32 (04 R72). -/
def execShli (d a : Reg) (sh : BitVec 6) (s : State) : Out := retireWith s d (s.reg a <<< sh.toNat)

/-- SHRI: as SHR with sh = imm32 (04 R72). -/
def execShri (d a : Reg) (sh : BitVec 6) (s : State) : Out := retireWith s d (s.reg a >>> sh.toNat)

/-- SRAI: as SRA with sh = imm32 (04 R72). -/
def execSrai (d a : Reg) (sh : BitVec 6) (s : State) : Out := retireWith s d ((s.reg a).sshiftRight sh.toNat)

/-- MOVI: the widened immediate (04 R72). -/
def execMovi (d : Reg) (ti : Ti) (imm : BitVec 32) (s : State) : Out := retireWith s d (immOf ti imm)

/-- MOVHI: imm32 above the low half of D (04 R72). -/
def execMovhi (d : Reg) (imm : BitVec 32) (s : State) : Out := retireWith s d (imm ++ (s.reg d).setWidth 32)

end Sys2Proof.Machine
end

