-- ==== Sys2Proof/Machine/Flags.lean ====
section
/-! DEFINITION. The conditions a branch or a compare tests (02 R43, 04 R74). The sequencer has no flags register: a compare writes predicates. -/
namespace Sys2Proof.Machine

/-- cond(u, v) of R74, and the conditions of R43. -/
def condHolds (c : Cond) (u v : Word) : Bool :=
  match c with
  | .eq => decide (u = v)
  | .ne => decide (u ≠ v)
  | .lt => u.slt v
  | .ge => !(u.slt v)
  | .ltu => u.ult v
  | .geu => !(u.ult v)

end Sys2Proof.Machine
end

