-- ==== Sys2Proof/Machine/SeqFlow.lean ====
section
/-! DEFINITION. The control flow of the sequencer (04 R76, R77; 02 R43; 01 R12). -/
namespace Sys2Proof.Machine

/-- BR: to the target where the condition holds (04 R76). -/
def execBr (cc : Cond) (a b : Reg) (off : BitVec 32) (s : State) : Out := if condHolds cc (s.reg a) (s.reg b) then retireTo s (targetOf s.actor.pc off) else retire s

/-- JMP (04 R76). -/
def execJmp (off : BitVec 32) (s : State) : Out := retireTo s (targetOf s.actor.pc off)

/-- JAL: A takes the address of the next parcel (04 R76). -/
def execJal (a : Reg) (off : BitVec 32) (s : State) : Out := retireTo (s.setReg a s.nextAddr) (targetOf s.actor.pc off)

/-- JALR: the target is read before the link is written (04 R76). -/
def execJalr (d a : Reg) (imm : BitVec 32) (s : State) : Out := retireTo (s.setReg d s.nextAddr) (pcOf (s.reg a + imm.signExtend 64))

/-- LOOP: A goes down by 1 and the branch is taken while it is not 0 (04 R76). -/
def execLoop (a : Reg) (off : BitVec 32) (s : State) : Out := 
  let c := s.reg a - 1
  if c ≠ 0 then retireTo (s.setReg a c) (targetOf s.actor.pc off) else retire (s.setReg a c)

end Sys2Proof.Machine
end

