-- ==== Sys2Proof/Machine/SeqPred.lean ====
section
/-! DEFINITION. The compares and predicate operations of the sequencer (04 R74, R75). -/
namespace Sys2Proof.Machine

/-- CMP: `write p[D] := c; write p[C] := not c`, in that order (04 R74). -/
def compare (s : State) (d c : Pred) (b : Bool) : Out := retire ((s.setPred d b).setPred c (!b))

/-- CMP.eq: the condition to p[D] and its complement to p[C] (04 R74). -/
def execCmpEq (d : Pred) (a b : Reg) (c : Pred) (s : State) : Out := compare s d c (condHolds .eq (s.reg a) (s.reg b))

/-- CMP.ne: the condition to p[D] and its complement to p[C] (04 R74). -/
def execCmpNe (d : Pred) (a b : Reg) (c : Pred) (s : State) : Out := compare s d c (condHolds .ne (s.reg a) (s.reg b))

/-- CMP.lt: the condition to p[D] and its complement to p[C] (04 R74). -/
def execCmpLt (d : Pred) (a b : Reg) (c : Pred) (s : State) : Out := compare s d c (condHolds .lt (s.reg a) (s.reg b))

/-- CMP.ge: the condition to p[D] and its complement to p[C] (04 R74). -/
def execCmpGe (d : Pred) (a b : Reg) (c : Pred) (s : State) : Out := compare s d c (condHolds .ge (s.reg a) (s.reg b))

/-- CMP.ltu: the condition to p[D] and its complement to p[C] (04 R74). -/
def execCmpLtu (d : Pred) (a b : Reg) (c : Pred) (s : State) : Out := compare s d c (condHolds .ltu (s.reg a) (s.reg b))

/-- CMP.geu: the condition to p[D] and its complement to p[C] (04 R74). -/
def execCmpGeu (d : Pred) (a b : Reg) (c : Pred) (s : State) : Out := compare s d c (condHolds .geu (s.reg a) (s.reg b))

/-- CMPI.eq: the condition with the widened immediate to p[D] (04 R74). -/
def execCmpiEq (d : Pred) (a : Reg) (ti : Ti) (imm : BitVec 32) (s : State) : Out := retire (s.setPred d (condHolds .eq (s.reg a) (immOf ti imm)))

/-- CMPI.ne: the condition with the widened immediate to p[D] (04 R74). -/
def execCmpiNe (d : Pred) (a : Reg) (ti : Ti) (imm : BitVec 32) (s : State) : Out := retire (s.setPred d (condHolds .ne (s.reg a) (immOf ti imm)))

/-- CMPI.lt: the condition with the widened immediate to p[D] (04 R74). -/
def execCmpiLt (d : Pred) (a : Reg) (ti : Ti) (imm : BitVec 32) (s : State) : Out := retire (s.setPred d (condHolds .lt (s.reg a) (immOf ti imm)))

/-- CMPI.ge: the condition with the widened immediate to p[D] (04 R74). -/
def execCmpiGe (d : Pred) (a : Reg) (ti : Ti) (imm : BitVec 32) (s : State) : Out := retire (s.setPred d (condHolds .ge (s.reg a) (immOf ti imm)))

/-- CMPI.ltu: the condition with the widened immediate to p[D] (04 R74). -/
def execCmpiLtu (d : Pred) (a : Reg) (ti : Ti) (imm : BitVec 32) (s : State) : Out := retire (s.setPred d (condHolds .ltu (s.reg a) (immOf ti imm)))

/-- CMPI.geu: the condition with the widened immediate to p[D] (04 R74). -/
def execCmpiGeu (d : Pred) (a : Reg) (ti : Ti) (imm : BitVec 32) (s : State) : Out := retire (s.setPred d (condHolds .geu (s.reg a) (immOf ti imm)))

/-- PSET: p[D] says whether reg(A) is not 0 (04 R75). -/
def execPset (d : Pred) (a : Reg) (s : State) : Out := retire (s.setPred d (decide (s.reg a ≠ 0)))

/-- PAND (04 R75). -/
def execPand (d a b : Pred) (s : State) : Out := retire (s.setPred d (s.pred a && s.pred b))

/-- POR (04 R75). -/
def execPor (d a b : Pred) (s : State) : Out := retire (s.setPred d (s.pred a || s.pred b))

/-- PXOR (04 R75). -/
def execPxor (d a b : Pred) (s : State) : Out := retire (s.setPred d (s.pred a != s.pred b))

/-- PNOT (04 R75). -/
def execPnot (d a : Pred) (s : State) : Out := retire (s.setPred d (!(s.pred a)))

end Sys2Proof.Machine
end

