-- ==== Sys2Proof/Machine/Dispatch.lean ====
section
/-! DEFINITION. The meaning of every instruction, one direct call for each. -/
namespace Sys2Proof.Machine

/-- What an instruction does: one arm for each row of the opcode table. -/
def exec (i : Instr) (s : State) : Host.Outcome State Fault Refusal :=
  match i with
  | .vadd d a b t => Sys2Proof.Machine.execVadd d a b t s
  | .vsub d a b t => Sys2Proof.Machine.execVsub d a b t s
  | .vadds d a b t => Sys2Proof.Machine.execVadds d a b t s
  | .vsubs d a b t => Sys2Proof.Machine.execVsubs d a b t s
  | .vmul d a b t => Sys2Proof.Machine.execVmul d a b t s
  | .vmulh d a b t => Sys2Proof.Machine.execVmulh d a b t s
  | .vmad d a b c t => Sys2Proof.Machine.execVmad d a b c t s
  | .vabs d a t => Sys2Proof.Machine.execVabs d a t s
  | .vneg d a t => Sys2Proof.Machine.execVneg d a t s
  | .vmin d a b t => Sys2Proof.Machine.execVmin d a b t s
  | .vmax d a b t => Sys2Proof.Machine.execVmax d a b t s
  | .vand d a b => Sys2Proof.Machine.execVand d a b s
  | .vor d a b => Sys2Proof.Machine.execVor d a b s
  | .vxor d a b => Sys2Proof.Machine.execVxor d a b s
  | .vandn d a b => Sys2Proof.Machine.execVandn d a b s
  | .vnot d a => Sys2Proof.Machine.execVnot d a s
  | .vshl d a b t => Sys2Proof.Machine.execVshl d a b t s
  | .vshr d a b t => Sys2Proof.Machine.execVshr d a b t s
  | .vsra d a b t => Sys2Proof.Machine.execVsra d a b t s
  | .vpopc d a t => Sys2Proof.Machine.execVpopc d a t s
  | .vclz d a t => Sys2Proof.Machine.execVclz d a t s
  | .vcmpEq d a b t p => Sys2Proof.Machine.execVcmpEq d a b t p s
  | .vcmpNe d a b t p => Sys2Proof.Machine.execVcmpNe d a b t p s
  | .vcmpLt d a b t p => Sys2Proof.Machine.execVcmpLt d a b t p s
  | .vcmpLe d a b t p => Sys2Proof.Machine.execVcmpLe d a b t p s
  | .vcmpGt d a b t p => Sys2Proof.Machine.execVcmpGt d a b t p s
  | .vcmpGe d a b t p => Sys2Proof.Machine.execVcmpGe d a b t p s
  | .vsel d a b c => Sys2Proof.Machine.execVsel d a b c s
  | .vperm d a b c => Sys2Proof.Machine.execVperm d a b c s
  | .vpack d a b t => Sys2Proof.Machine.execVpack d a b t s
  | .vunpk d a t => Sys2Proof.Machine.execVunpk d a t s
  | .fadd d a b t rm => Sys2Proof.Machine.execFadd d a b t rm s
  | .fsub d a b t rm => Sys2Proof.Machine.execFsub d a b t rm s
  | .fmul d a b t rm => Sys2Proof.Machine.execFmul d a b t rm s
  | .ffma d a b c t rm => Sys2Proof.Machine.execFfma d a b c t rm s
  | .fmin d a b t => Sys2Proof.Machine.execFmin d a b t s
  | .fmax d a b t => Sys2Proof.Machine.execFmax d a b t s
  | .fabs d a t => Sys2Proof.Machine.execFabs d a t s
  | .fneg d a t => Sys2Proof.Machine.execFneg d a t s
  | .fcmpEq d a b t p => Sys2Proof.Machine.execFcmpEq d a b t p s
  | .fcmpNe d a b t p => Sys2Proof.Machine.execFcmpNe d a b t p s
  | .fcmpLt d a b t p => Sys2Proof.Machine.execFcmpLt d a b t p s
  | .fcmpLe d a b t p => Sys2Proof.Machine.execFcmpLe d a b t p s
  | .fcmpGt d a b t p => Sys2Proof.Machine.execFcmpGt d a b t p s
  | .fcmpGe d a b t p => Sys2Proof.Machine.execFcmpGe d a b t p s
  | .fcmpUn d a b t p => Sys2Proof.Machine.execFcmpUn d a b t p s
  | .fclass d a t => Sys2Proof.Machine.execFclass d a t s
  | .fdiv d a b t rm => Sys2Proof.Machine.execFdiv d a b t rm s
  | .fsqrt d a t rm => Sys2Proof.Machine.execFsqrt d a t rm s
  | .frcp d a t rm => Sys2Proof.Machine.execFrcp d a t rm s
  | .frsq d a t rm => Sys2Proof.Machine.execFrsq d a t rm s
  | .fexp2 d a t rm => Sys2Proof.Machine.execFexp2 d a t rm s
  | .flog2 d a t rm => Sys2Proof.Machine.execFlog2 d a t rm s
  | .cvt d a ts td off rm => Sys2Proof.Machine.execCvt d a ts td off rm s
  | .crsub d a b lane rm => Sys2Proof.Machine.execCrsub d a b lane rm s
  | .dot d a b c t rm => Sys2Proof.Machine.execDot d a b c t rm s
  | .mov d a => Sys2Proof.Machine.execMov d a s
  | .const d ti imm => Sys2Proof.Machine.execConst d ti imm s
  | .tagi d a add n => Sys2Proof.Machine.execTagi d a add n s
  | .steer d a o => Sys2Proof.Machine.execSteer d a o s
  | .merge d di ti fi => Sys2Proof.Machine.execMerge d di ti fi s
  | .mergeu d tagb taga ai bi => Sys2Proof.Machine.execMergeu d tagb taga ai bi s
  | .gate d a cmask => Sys2Proof.Machine.execGate d a cmask s
  | .permit d ci di => Sys2Proof.Machine.execPermit d ci di s
  | .eos d a xv => Sys2Proof.Machine.execEos d a xv s
  | .sink d a keep n => Sys2Proof.Machine.execSink d a keep n s
  | .mark a => Sys2Proof.Machine.execMark a s
  | .redMin a t ri g => Sys2Proof.Machine.execRedMin a t ri g s
  | .redMax a t ri g => Sys2Proof.Machine.execRedMax a t ri g s
  | .redSum a t ri g => Sys2Proof.Machine.execRedSum a t ri g s
  | .send a b => Sys2Proof.Machine.execSend a b s
  | .rsv d a n => Sys2Proof.Machine.execRsv d a n s
  | .enq d a b => Sys2Proof.Machine.execEnq d a b s
  | .amplify d a m => Sys2Proof.Machine.execAmplify d a m s
  | .ldq d base index sz sc ord off => Sys2Proof.Machine.execLdq d base index sz sc ord off s
  | .stq d base index sz sc ord off => Sys2Proof.Machine.execStq d base index sz sc ord off s
  | .amoqAdd d base index sz sc ord off => Sys2Proof.Machine.execAmoqAdd d base index sz sc ord off s
  | .amoqAnd d base index sz sc ord off => Sys2Proof.Machine.execAmoqAnd d base index sz sc ord off s
  | .amoqOr d base index sz sc ord off => Sys2Proof.Machine.execAmoqOr d base index sz sc ord off s
  | .amoqXor d base index sz sc ord off => Sys2Proof.Machine.execAmoqXor d base index sz sc ord off s
  | .amoqMin d base index sz sc ord off => Sys2Proof.Machine.execAmoqMin d base index sz sc ord off s
  | .amoqMax d base index sz sc ord off => Sys2Proof.Machine.execAmoqMax d base index sz sc ord off s
  | .amoqMinu d base index sz sc ord off => Sys2Proof.Machine.execAmoqMinu d base index sz sc ord off s
  | .amoqMaxu d base index sz sc ord off => Sys2Proof.Machine.execAmoqMaxu d base index sz sc ord off s
  | .amoqSwap d base index sz sc ord off => Sys2Proof.Machine.execAmoqSwap d base index sz sc ord off s
  | .xlate d a b wr => Sys2Proof.Machine.execXlate d a b wr s
  | .occl d a b => Sys2Proof.Machine.execOccl d a b s
  | .vbmin d a b => Sys2Proof.Machine.execVbmin d a b s
  | .tsLd d a off => Sys2Proof.Machine.execTsLd d a off s
  | .tsSt a b off => Sys2Proof.Machine.execTsSt a b off s
  | .tsBlend a b mode => Sys2Proof.Machine.execTsBlend a b mode s
  | .tsDone a b => Sys2Proof.Machine.execTsDone a b s
  | .cpy a b c o => Sys2Proof.Machine.execCpy a b c o s
  | .gath a b c o => Sys2Proof.Machine.execGath a b c o s
  | .scat a b c o => Sys2Proof.Machine.execScat a b c o s
  | .fillb a b c o => Sys2Proof.Machine.execFillb a b c o s
  | .coll a b c o => Sys2Proof.Machine.execColl a b c o s
  | .pub o => Sys2Proof.Machine.execPub o s
  | .pubDef a b c o => Sys2Proof.Machine.execPubDef a b c o s
  | .pubDrop o => Sys2Proof.Machine.execPubDrop o s
  | .xfm a b c o => Sys2Proof.Machine.execXfm a b c o s
  | .imm d im => Sys2Proof.Machine.execImm d im s
  | .kld d k => Sys2Proof.Machine.execKld d k s
  | .env d e => Sys2Proof.Machine.execEnv d e s
  | .cand d sr f => Sys2Proof.Machine.execCand d sr f s
  | .subj d f => Sys2Proof.Machine.execSubj d f s
  | .copy d sr => Sys2Proof.Machine.execCopy d sr s
  | .addiv d im => Sys2Proof.Machine.execAddiv d im s
  | .addv d sr => Sys2Proof.Machine.execAddv d sr s
  | .subv d sr => Sys2Proof.Machine.execSubv d sr s
  | .andv d sr => Sys2Proof.Machine.execAndv d sr s
  | .orv d sr => Sys2Proof.Machine.execOrv d sr s
  | .minv d sr => Sys2Proof.Machine.execMinv d sr s
  | .maxv d sr => Sys2Proof.Machine.execMaxv d sr s
  | .shlv d sr => Sys2Proof.Machine.execShlv d sr s
  | .shrv d sr => Sys2Proof.Machine.execShrv d sr s
  | .mall => Sys2Proof.Machine.execMall s
  | .mkeepEq sr f => Sys2Proof.Machine.execMkeepEq sr f s
  | .mkeepNe sr f => Sys2Proof.Machine.execMkeepNe sr f s
  | .mkeepLt sr f => Sys2Proof.Machine.execMkeepLt sr f s
  | .mkeepGe sr f => Sys2Proof.Machine.execMkeepGe sr f s
  | .mcnt d => Sys2Proof.Machine.execMcnt d s
  | .scanMin d f => Sys2Proof.Machine.execScanMin d f s
  | .scanMax d f => Sys2Proof.Machine.execScanMax d f s
  | .jeq a sr o => Sys2Proof.Machine.execJeq a sr o s
  | .jne a sr o => Sys2Proof.Machine.execJne a sr o s
  | .jlt a sr o => Sys2Proof.Machine.execJlt a sr o s
  | .jge a sr o => Sys2Proof.Machine.execJge a sr o s
  | .jfw o => Sys2Proof.Machine.execJfw o s
  | .pick sr => Sys2Proof.Machine.execPick sr s
  | .idle => Sys2Proof.Machine.execIdle s
  | .preempt sr => Sys2Proof.Machine.execPreempt sr s
  | .keep => Sys2Proof.Machine.execKeep s
  | .restart => Sys2Proof.Machine.execRestart s
  | .kill => Sys2Proof.Machine.execKill s
  | .host => Sys2Proof.Machine.execHost s
  | .migrate sr => Sys2Proof.Machine.execMigrate sr s
  | .mxLdb a sr bt => Sys2Proof.Machine.execMxLdb a sr bt s
  | .mxScale a sr aen ben => Sys2Proof.Machine.execMxScale a sr aen ben s
  | .mxThr a => Sys2Proof.Machine.execMxThr a s
  | .mxSamp a b => Sys2Proof.Machine.execMxSamp a b s
  | .mm a b o => Sys2Proof.Machine.execMm a b o s
  | .mmz a b o => Sys2Proof.Machine.execMmz a b o s
  | .mmr a b z o => Sys2Proof.Machine.execMmr a b z o s
  | .mxDrain a b rm clr mark bank dt => Sys2Proof.Machine.execMxDrain a b rm clr mark bank dt s
  | .mxWait n => Sys2Proof.Machine.execMxWait n s
  | .mxGang a => Sys2Proof.Machine.execMxGang a s
  | .mxGangLeave => Sys2Proof.Machine.execMxGangLeave s
  | .mxEdge a b sx sy g ne => Sys2Proof.Machine.execMxEdge a b sx sy g ne s
  | .dsBand d a head => Sys2Proof.Machine.execDsBand d a head s
  | .dsFall d a lv head => Sys2Proof.Machine.execDsFall d a lv head s
  | .dsLine d head => Sys2Proof.Machine.execDsLine d head s
  | .dsLineWait d a head => Sys2Proof.Machine.execDsLineWait d a head s
  | .dsMe a b head => Sys2Proof.Machine.execDsMe a b head s
  | .dsWarp a b up head => Sys2Proof.Machine.execDsWarp a b up head s
  | .dsNet a b head => Sys2Proof.Machine.execDsNet a b head s
  | .dsEmit d a head => Sys2Proof.Machine.execDsEmit d a head s
  | .add d a b => Sys2Proof.Machine.execAdd d a b s
  | .sub d a b => Sys2Proof.Machine.execSub d a b s
  | .mul d a b => Sys2Proof.Machine.execMul d a b s
  | .mulh d a b => Sys2Proof.Machine.execMulh d a b s
  | .mulhu d a b => Sys2Proof.Machine.execMulhu d a b s
  | .div d a b => Sys2Proof.Machine.execDiv d a b s
  | .divu d a b => Sys2Proof.Machine.execDivu d a b s
  | .rem d a b => Sys2Proof.Machine.execRem d a b s
  | .remu d a b => Sys2Proof.Machine.execRemu d a b s
  | .and d a b => Sys2Proof.Machine.execAnd d a b s
  | .or d a b => Sys2Proof.Machine.execOr d a b s
  | .xor d a b => Sys2Proof.Machine.execXor d a b s
  | .andn d a b => Sys2Proof.Machine.execAndn d a b s
  | .orn d a b => Sys2Proof.Machine.execOrn d a b s
  | .shl d a b => Sys2Proof.Machine.execShl d a b s
  | .shr d a b => Sys2Proof.Machine.execShr d a b s
  | .sra d a b => Sys2Proof.Machine.execSra d a b s
  | .rol d a b => Sys2Proof.Machine.execRol d a b s
  | .ror d a b => Sys2Proof.Machine.execRor d a b s
  | .min d a b => Sys2Proof.Machine.execMin d a b s
  | .max d a b => Sys2Proof.Machine.execMax d a b s
  | .minu d a b => Sys2Proof.Machine.execMinu d a b s
  | .maxu d a b => Sys2Proof.Machine.execMaxu d a b s
  | .clz d a => Sys2Proof.Machine.execClz d a s
  | .ctz d a => Sys2Proof.Machine.execCtz d a s
  | .popc d a => Sys2Proof.Machine.execPopc d a s
  | .brev d a => Sys2Proof.Machine.execBrev d a s
  | .sel d c a b => Sys2Proof.Machine.execSel d c a b s
  | .bfx d a pos len => Sys2Proof.Machine.execBfx d a pos len s
  | .bfxu d a pos len => Sys2Proof.Machine.execBfxu d a pos len s
  | .bfi d a pos len => Sys2Proof.Machine.execBfi d a pos len s
  | .addi d a ti imm => Sys2Proof.Machine.execAddi d a ti imm s
  | .andi d a ti imm => Sys2Proof.Machine.execAndi d a ti imm s
  | .ori d a ti imm => Sys2Proof.Machine.execOri d a ti imm s
  | .xori d a ti imm => Sys2Proof.Machine.execXori d a ti imm s
  | .shli d a sh => Sys2Proof.Machine.execShli d a sh s
  | .shri d a sh => Sys2Proof.Machine.execShri d a sh s
  | .srai d a sh => Sys2Proof.Machine.execSrai d a sh s
  | .movi d ti imm => Sys2Proof.Machine.execMovi d ti imm s
  | .movhi d imm => Sys2Proof.Machine.execMovhi d imm s
  | .cmpEq d a b c => Sys2Proof.Machine.execCmpEq d a b c s
  | .cmpNe d a b c => Sys2Proof.Machine.execCmpNe d a b c s
  | .cmpLt d a b c => Sys2Proof.Machine.execCmpLt d a b c s
  | .cmpGe d a b c => Sys2Proof.Machine.execCmpGe d a b c s
  | .cmpLtu d a b c => Sys2Proof.Machine.execCmpLtu d a b c s
  | .cmpGeu d a b c => Sys2Proof.Machine.execCmpGeu d a b c s
  | .cmpiEq d a ti imm => Sys2Proof.Machine.execCmpiEq d a ti imm s
  | .cmpiNe d a ti imm => Sys2Proof.Machine.execCmpiNe d a ti imm s
  | .cmpiLt d a ti imm => Sys2Proof.Machine.execCmpiLt d a ti imm s
  | .cmpiGe d a ti imm => Sys2Proof.Machine.execCmpiGe d a ti imm s
  | .cmpiLtu d a ti imm => Sys2Proof.Machine.execCmpiLtu d a ti imm s
  | .cmpiGeu d a ti imm => Sys2Proof.Machine.execCmpiGeu d a ti imm s
  | .pset d a => Sys2Proof.Machine.execPset d a s
  | .pand d a b => Sys2Proof.Machine.execPand d a b s
  | .por d a b => Sys2Proof.Machine.execPor d a b s
  | .pxor d a b => Sys2Proof.Machine.execPxor d a b s
  | .pnot d a => Sys2Proof.Machine.execPnot d a s
  | .br cc a b off => Sys2Proof.Machine.execBr cc a b off s
  | .jmp off => Sys2Proof.Machine.execJmp off s
  | .jal a off => Sys2Proof.Machine.execJal a off s
  | .jalr d a imm => Sys2Proof.Machine.execJalr d a imm s
  | .loop a off => Sys2Proof.Machine.execLoop a off s
  | .ld d base index sz sc ord off => Sys2Proof.Machine.execLd d base index sz sc ord off s
  | .ldLoc d base index sz off => Sys2Proof.Machine.execLdLoc d base index sz off s
  | .st d base index sz sc ord off => Sys2Proof.Machine.execSt d base index sz sc ord off s
  | .stLoc d base index sz off => Sys2Proof.Machine.execStLoc d base index sz off s
  | .amoAdd d base index sz sc ord off => Sys2Proof.Machine.execAmoAdd d base index sz sc ord off s
  | .amoAnd d base index sz sc ord off => Sys2Proof.Machine.execAmoAnd d base index sz sc ord off s
  | .amoOr d base index sz sc ord off => Sys2Proof.Machine.execAmoOr d base index sz sc ord off s
  | .amoXor d base index sz sc ord off => Sys2Proof.Machine.execAmoXor d base index sz sc ord off s
  | .amoMin d base index sz sc ord off => Sys2Proof.Machine.execAmoMin d base index sz sc ord off s
  | .amoMax d base index sz sc ord off => Sys2Proof.Machine.execAmoMax d base index sz sc ord off s
  | .amoMinu d base index sz sc ord off => Sys2Proof.Machine.execAmoMinu d base index sz sc ord off s
  | .amoMaxu d base index sz sc ord off => Sys2Proof.Machine.execAmoMaxu d base index sz sc ord off s
  | .amoSwap d base index sz sc ord off => Sys2Proof.Machine.execAmoSwap d base index sz sc ord off s
  | .amoLocAdd d base index sz off => Sys2Proof.Machine.execAmoLocAdd d base index sz off s
  | .amoLocAnd d base index sz off => Sys2Proof.Machine.execAmoLocAnd d base index sz off s
  | .amoLocOr d base index sz off => Sys2Proof.Machine.execAmoLocOr d base index sz off s
  | .amoLocXor d base index sz off => Sys2Proof.Machine.execAmoLocXor d base index sz off s
  | .amoLocMin d base index sz off => Sys2Proof.Machine.execAmoLocMin d base index sz off s
  | .amoLocMax d base index sz off => Sys2Proof.Machine.execAmoLocMax d base index sz off s
  | .amoLocMinu d base index sz off => Sys2Proof.Machine.execAmoLocMinu d base index sz off s
  | .amoLocMaxu d base index sz off => Sys2Proof.Machine.execAmoLocMaxu d base index sz off s
  | .amoLocSwap d base index sz off => Sys2Proof.Machine.execAmoLocSwap d base index sz off s
  | .cas d base index sz sc ord off => Sys2Proof.Machine.execCas d base index sz sc ord off s
  | .casLoc d base index sz off => Sys2Proof.Machine.execCasLoc d base index sz off s
  | .spill first last base sc ord off => Sys2Proof.Machine.execSpill first last base sc ord off s
  | .fill first last base sc ord off => Sys2Proof.Machine.execFill first last base sc ord off s
  | .fence sc ord => Sys2Proof.Machine.execFence sc ord s
  | .fenceF => Sys2Proof.Machine.execFenceF s
  | .nop => Sys2Proof.Machine.execNop s
  | .yield => Sys2Proof.Machine.execYield s
  | .halt => Sys2Proof.Machine.execHalt s
  | .brk code => Sys2Proof.Machine.execBrk code s
  | .trap imm => Sys2Proof.Machine.execTrap imm s
  | .eret => Sys2Proof.Machine.execEret s
  | .crr d idx => Sys2Proof.Machine.execCrr d idx s
  | .crw idx a => Sys2Proof.Machine.execCrw idx a s
  | .evpop d a => Sys2Proof.Machine.execEvpop d a s
  | .evwait d a => Sys2Proof.Machine.execEvwait d a s
  | .cyc d => Sys2Proof.Machine.execCyc d s
  | .dictLd d base off => Sys2Proof.Machine.execDictLd d base off s
  | .dictCommit => Sys2Proof.Machine.execDictCommit s
  | .dictRd d a stg h => Sys2Proof.Machine.execDictRd d a stg h s
  | .dictGen d => Sys2Proof.Machine.execDictGen d s
  | .dictGenId d => Sys2Proof.Machine.execDictGenId d s
  | .cfgLd d a auto ply => Sys2Proof.Machine.execCfgLd d a auto ply s
  | .cfgCommit ply => Sys2Proof.Machine.execCfgCommit ply s
  | .cfgDrop ply => Sys2Proof.Machine.execCfgDrop ply s
  | .cfgDropImg a => Sys2Proof.Machine.execCfgDropImg a s
  | .cfgQPly d => Sys2Proof.Machine.execCfgQPly d s
  | .cfgQImg d a => Sys2Proof.Machine.execCfgQImg d a s
  | .cfgQRsv d => Sys2Proof.Machine.execCfgQRsv d s
  | .rgnOpen a => Sys2Proof.Machine.execRgnOpen a s
  | .rgnWait d => Sys2Proof.Machine.execRgnWait d s
  | .rgnClose => Sys2Proof.Machine.execRgnClose s
  | .rgnCloseAbort => Sys2Proof.Machine.execRgnCloseAbort s
  | .portBindHnd a b => Sys2Proof.Machine.execPortBindHnd a b s
  | .portBindFar a b ply => Sys2Proof.Machine.execPortBindFar a b ply s
  | .portUnbindHnd b => Sys2Proof.Machine.execPortUnbindHnd b s
  | .portUnbindFar b ply => Sys2Proof.Machine.execPortUnbindFar b ply s
  | .permitK a k => Sys2Proof.Machine.execPermitK a k s
  | .qrsv d a n => Sys2Proof.Machine.execQrsv d a n s
  | .qpush a b c => Sys2Proof.Machine.execQpush a b c s
  | .policyLd a => Sys2Proof.Machine.execPolicyLd a s
  | .policySwap d => Sys2Proof.Machine.execPolicySwap d s
  | .strAff a port => Sys2Proof.Machine.execStrAff a port s
  | .strInd a port => Sys2Proof.Machine.execStrInd a port s
  | .strGo a port => Sys2Proof.Machine.execStrGo a port s
  | .strBar mask => Sys2Proof.Machine.execStrBar mask s
  | .strWait d mask => Sys2Proof.Machine.execStrWait d mask s
  | .winSet d a b entry port => Sys2Proof.Machine.execWinSet d a b entry port s
  | .winClr all entry port => Sys2Proof.Machine.execWinClr all entry port s
  | .coreReset core => Sys2Proof.Machine.execCoreReset core s
  | .boot => Sys2Proof.Machine.execBoot s
  | .ctxStart core v => Sys2Proof.Machine.execCtxStart core v s
  | .ctxStop core v => Sys2Proof.Machine.execCtxStop core v s
  | .ctxTrap core v => Sys2Proof.Machine.execCtxTrap core v s
  | .dsCtxStart v => Sys2Proof.Machine.execDsCtxStart v s
  | .dsCtxStop v => Sys2Proof.Machine.execDsCtxStop v s
  | .dsCtxTrap v => Sys2Proof.Machine.execDsCtxTrap v s
  | .tokenArrival core n => Sys2Proof.Machine.execTokenArrival core n s
  | .creditReturn core chan n => Sys2Proof.Machine.execCreditReturn core chan n s
  | .slotGrantTimeout core chan n => Sys2Proof.Machine.execSlotGrantTimeout core chan n s
  | .passForward core ply far stage => Sys2Proof.Machine.execPassForward core ply far stage s
  | .firingSquash core elem => Sys2Proof.Machine.execFiringSquash core elem s
  | .messageArrival n => Sys2Proof.Machine.execMessageArrival n s
  | .handlerDelivery core => Sys2Proof.Machine.execHandlerDelivery core s
  | .remoteEngineCommand core => Sys2Proof.Machine.execRemoteEngineCommand core s
  | .selectionPortToken core => Sys2Proof.Machine.execSelectionPortToken core s
  | .drainMarkerForward core ply elem => Sys2Proof.Machine.execDrainMarkerForward core ply elem s
  | .plyCommit core ctx => Sys2Proof.Machine.execPlyCommit core ctx s
  | .regionComplete core ctx => Sys2Proof.Machine.execRegionComplete core ctx s
  | .blockChoice core ctx => Sys2Proof.Machine.execBlockChoice core ctx s
  | .strandDelivery core ctx => Sys2Proof.Machine.execStrandDelivery core ctx s
  | .placementSample die stage => Sys2Proof.Machine.execPlacementSample die stage s
  | .launchToken die queue => Sys2Proof.Machine.execLaunchToken die queue s
  | .dispatchDecisionStart die cluster => Sys2Proof.Machine.execDispatchDecisionStart die cluster s
  | .preemptionDecisionStart die cluster queue => Sys2Proof.Machine.execPreemptionDecisionStart die cluster queue s
  | .faultDecisionStart core ctx => Sys2Proof.Machine.execFaultDecisionStart core ctx s
  | .policyBudgetExpiry die cluster dec => Sys2Proof.Machine.execPolicyBudgetExpiry die cluster dec s
  | .decisionCommit die cluster dec => Sys2Proof.Machine.execDecisionCommit die cluster dec s
  | .sliceTokenDelivery die slice => Sys2Proof.Machine.execSliceTokenDelivery die slice s
  | .sliceEnd die slice => Sys2Proof.Machine.execSliceEnd die slice s
  | .budgetExhaustion core ctx => Sys2Proof.Machine.execBudgetExhaustion core ctx s
  | .swapTokenArrival part die => Sys2Proof.Machine.execSwapTokenArrival part die s
  | .swapDieAck part die => Sys2Proof.Machine.execSwapDieAck part die s
  | .swapComplete part => Sys2Proof.Machine.execSwapComplete part s
  | .lineBeacon die head => Sys2Proof.Machine.execLineBeacon die head s
  | .lineStart head => Sys2Proof.Machine.execLineStart head s
  | .fallbackLevelFinish head band => Sys2Proof.Machine.execFallbackLevelFinish head band s
  | .dsMeRun => Sys2Proof.Machine.execDsMeRun s
  | .dsWarpRun => Sys2Proof.Machine.execDsWarpRun s
  | .dsNetRun => Sys2Proof.Machine.execDsNetRun s
  | .emitCommit => Sys2Proof.Machine.execEmitCommit s
  | .pageWalk core va acc user => Sys2Proof.Machine.execPageWalk core va acc user s
  | .dutyWaitExpiry part tag => Sys2Proof.Machine.execDutyWaitExpiry part tag s
  | .dutyReply part v => Sys2Proof.Machine.execDutyReply part v s
  | .streamElement core port => Sys2Proof.Machine.execStreamElement core port s
  | .windowFill core port => Sys2Proof.Machine.execWindowFill core port s
  | .streamLineWriteback core port => Sys2Proof.Machine.execStreamLineWriteback core port s
  | .streamCommandComplete core port => Sys2Proof.Machine.execStreamCommandComplete core port s
  | .requestResponse core elem => Sys2Proof.Machine.execRequestResponse core elem s
  | .occlSlotAdd core elem n => Sys2Proof.Machine.execOcclSlotAdd core elem n s
  | .compressedWriteback n => Sys2Proof.Machine.execCompressedWriteback n s
  | .pageRelayout n => Sys2Proof.Machine.execPageRelayout n s
  | .snpdata die pa => Sys2Proof.Machine.execSnpdata die pa s
  | .snpinv die pa => Sys2Proof.Machine.execSnpinv die pa s
  | .snpcur die pa => Sys2Proof.Machine.execSnpcur die pa s
  | .hostReadDeviceMemory pa own => Sys2Proof.Machine.execHostReadDeviceMemory pa own s
  | .hostWriteDeviceMemory pa v => Sys2Proof.Machine.execHostWriteDeviceMemory pa v s
  | .migcmd die v => Sys2Proof.Machine.execMigcmd die v s
  | .migrationCommit die => Sys2Proof.Machine.execMigrationCommit die s
  | .tinv part v => Sys2Proof.Machine.execTinv part v s
  | .tinvComplete part => Sys2Proof.Machine.execTinvComplete part s
  | .occclr die v => Sys2Proof.Machine.execOccclr die v s
  | .occclrStep die => Sys2Proof.Machine.execOccclrStep die s
  | .occownWrite die g v => Sys2Proof.Machine.execOccownWrite die g v s
  | .occcntWrite die slot v => Sys2Proof.Machine.execOcccntWrite die slot v s
  | .chunkpush die tile v => Sys2Proof.Machine.execChunkpush die tile v s
  | .chunkpop die tile => Sys2Proof.Machine.execChunkpop die tile s
  | .mxLdbExecute core => Sys2Proof.Machine.execMxLdbExecute core s
  | .mxScaleExecute core => Sys2Proof.Machine.execMxScaleExecute core s
  | .mmRowFire core => Sys2Proof.Machine.execMmRowFire core s
  | .accumulatorRowWrite core => Sys2Proof.Machine.execAccumulatorRowWrite core s
  | .mxDrainExecute core => Sys2Proof.Machine.execMxDrainExecute core s
  | .mxEdgeExecute core => Sys2Proof.Machine.execMxEdgeExecute core s
  | .gangFormed core => Sys2Proof.Machine.execGangFormed core s
  | .gangRowArrival core => Sys2Proof.Machine.execGangRowArrival core s
  | .matrixOpComplete core => Sys2Proof.Machine.execMatrixOpComplete core s
  | .engineCommandAccept core n => Sys2Proof.Machine.execEngineCommandAccept core n s
  | .engineCommandBegin core eng => Sys2Proof.Machine.execEngineCommandBegin core eng s
  | .engineCommandComplete core eng => Sys2Proof.Machine.execEngineCommandComplete core eng s
  | .collectiveBegin part group => Sys2Proof.Machine.execCollectiveBegin part group s
  | .pubFlip core eng => Sys2Proof.Machine.execPubFlip core eng s
  | .snapshotSave core ply elem => Sys2Proof.Machine.execSnapshotSave core ply elem s
  | .containment core ctx => Sys2Proof.Machine.execContainment core ctx s
  | .rollback core ctx => Sys2Proof.Machine.execRollback core ctx s
  | .regionMigration core ctx => Sys2Proof.Machine.execRegionMigration core ctx s
  | .fltreply part v => Sys2Proof.Machine.execFltreply part v s
  | .fltptrWrite part v => Sys2Proof.Machine.execFltptrWrite part v s
  | .contextSwitchComplete core ctx => Sys2Proof.Machine.execContextSwitchComplete core ctx s
  | .coreSave core v => Sys2Proof.Machine.execCoreSave core v s
  | .coreRestore core v => Sys2Proof.Machine.execCoreRestore core v s
  | .ingressToken die queue tok whole => Sys2Proof.Machine.execIngressToken die queue tok whole s
  | .credreq die queue v => Sys2Proof.Machine.execCredreq die queue v s
  | .creditRelease die queue v => Sys2Proof.Machine.execCreditRelease die queue v s
  | .dropsClear die queue => Sys2Proof.Machine.execDropsClear die queue s
  | .tokdropClear core => Sys2Proof.Machine.execTokdropClear core s
  | .regcmdQueue die num => Sys2Proof.Machine.execRegcmdQueue die num s
  | .regcmdStage die num => Sys2Proof.Machine.execRegcmdStage die num s
  | .partitionSetup part v => Sys2Proof.Machine.execPartitionSetup part v s
  | .partitionEnd part => Sys2Proof.Machine.execPartitionEnd part s
  | .dspartWrite v => Sys2Proof.Machine.execDspartWrite v s
  | .headEnable head v => Sys2Proof.Machine.execHeadEnable head v s
  | .headDisable head v => Sys2Proof.Machine.execHeadDisable head v s
  | .attcmd v => Sys2Proof.Machine.execAttcmd v s
  | .svncommit v => Sys2Proof.Machine.execSvncommit v s
  | .registerWrite off v => Sys2Proof.Machine.execRegisterWrite off v s
  | .edgeMeterWindow core => Sys2Proof.Machine.execEdgeMeterWindow core s
  | .powerSample meas => Sys2Proof.Machine.execPowerSample meas s
  | .plainClockResume die cluster => Sys2Proof.Machine.execPlainClockResume die cluster s
  | .powerGrant msg => Sys2Proof.Machine.execPowerGrant msg s
  | .powerLend msg => Sys2Proof.Machine.execPowerLend msg s
  | .grantLeaseEnd => Sys2Proof.Machine.execGrantLeaseEnd s
  | .lendLeaseEnd n => Sys2Proof.Machine.execLendLeaseEnd n s
  | .lentReturn n => Sys2Proof.Machine.execLentReturn n s
  | .flitCrcFail link => Sys2Proof.Machine.execFlitCrcFail link s
  | .linkDown link => Sys2Proof.Machine.execLinkDown link s
  | .hostLinkDown => Sys2Proof.Machine.execHostLinkDown s
  | .ideIntegrity => Sys2Proof.Machine.execIdeIntegrity s
  | .thermalTrip => Sys2Proof.Machine.execThermalTrip s
  | .illegalParcel cause fetch psz tval => Sys2Proof.Machine.execIllegalParcel cause fetch psz tval s
  | .endOfALoad core ply => Sys2Proof.Machine.execEndOfALoad core ply s
  | .linkRetrained link => Sys2Proof.Machine.execLinkRetrained link s
  | .attstDone => Sys2Proof.Machine.execAttstDone s
  | .sendLend pkg watts lease => Sys2Proof.Machine.execSendLend pkg watts lease s

end Sys2Proof.Machine
end

