-- ==== Sys2Proof/Machine/Place.lean ====
section
/-! DEFINITION. Placing one instruction where the next step fetches it (log 1): in memory at address 0 for a sequencer, as rule 0 of element 0 for an element, as a one-instruction program for a policy unit. -/
namespace Sys2Proof.Machine

/-- The leaf under which a placed parcel is fetched: page 0 at physical page 0, readable, writable, executable, for users, A and D set (11 R253). -/
def placeLeaf : Word := 0x37B

/-- A canonical word at address 0 of core k, context 0 of which runs there and issues next (log 1). -/
def placeSeq (s : State) (k : Nat) (w : Code) : State :=
  let s := s.modMem fun m => m.set 0 (bytesOfWord w)
  let s := s.modCore k fun c => { addXlat c { vpn := 0, pages := 1, leaf := placeLeaf } with last := 3 }
  { (s.modCtx k 0 fun c => { c with pc := 0, run := .run, await := none, hold := false, going := none, ext := none }) with agenda := [.issue k] }

/-- A data token of ply 0 with data 0. -/
def placeToken : Token := {}

/-- The inputs that an action needs a token on although its trigger names none (07 R172 to R174). -/
def placeInputs (i : Instr) : List Nat :=
  match firesOf i with
  | .merge .. | .mergeu .. | .permit .. => [0, 1, 2, 3]
  | _ => []

/-- An action as rule 0 of element 0 in ply 0 of core 0, with the trigger word 0, which fires next. -/
def placeElem (s : State) (w : Code) (i : Instr) : State :=
  let s := s.modPly 0 0 fun p => { p with st := .active, rules := Tab.set p.rules 0 [(0, { word := w, act := i })] }
  let s := s.modElem 0 0 0 fun x => { x with stopped := false, heldB := false }
  { ((placeInputs i).foldl (fun s j => s.modChan 0 (chanKey 0 j) fun c => { c with toks := [placeToken] }) s) with agenda := [.fire 0 0] }

/-- A policy instruction as a program of its own in the one decision of cluster 0 of die 0. -/
def placePolicy (s : State) (h : BitVec 16) : State :=
  { (s.modDie 0 fun d => { d with disps := Tab.set d.disps 0 { (Tab.look {} d.disps 0) with decs := [{ prog := some { code := [h] } }] } }) with
    agenda := [.policy 0 0 0] }

end Sys2Proof.Machine
end

