-- ==== Sys2Proof/Machine/Turns.lean ====
section
/-! DEFINITION. The turns: which units an event row stands for, what another package or the host brings, and what the turn of a step brings to execution (01 R25; 13 R305; 23 R409, R415; 24 R424, R427; 25 R433). -/
namespace Sys2Proof.Machine

/-- The clusters, as die and number, whose units an event row stands for: they stand while its plain's clock does (23 R409). A launch token is its queue's HOME dispatcher's, a slice its core's, a collective that of every local member. What acts from outside a plain, such as the host or a memory tile, has none. -/
def unitsOf (s : State) (i : Instr) : List (Nat × Nat) :=
  let at_ (k : Nat) : Nat × Nat := (dieOf k, clusterOf k)
  match i with
  | .tokenArrival k _ | .creditReturn k _ _ | .slotGrantTimeout k _ _ | .passForward k _ _ _ | .firingSquash k _
  | .handlerDelivery k | .remoteEngineCommand k | .selectionPortToken k | .drainMarkerForward k _ _ | .plyCommit k _
  | .regionComplete k _ | .blockChoice k _ | .strandDelivery k _ | .faultDecisionStart k _ | .budgetExhaustion k _
  | .streamElement k _ | .windowFill k _ | .streamLineWriteback k _ | .streamCommandComplete k _ | .requestResponse k _
  | .mxLdbExecute k | .mxScaleExecute k | .mmRowFire k | .accumulatorRowWrite k | .mxDrainExecute k | .mxEdgeExecute k
  | .gangFormed k | .gangRowArrival k | .matrixOpComplete k | .engineCommandAccept k _ | .engineCommandBegin k _
  | .engineCommandComplete k _ | .pubFlip k _ | .snapshotSave k _ _ | .containment k _ | .rollback k _
  | .regionMigration k _ | .contextSwitchComplete k _ | .endOfALoad k _ => [at_ k]
  | .dispatchDecisionStart d c | .preemptionDecisionStart d c _ | .policyBudgetExpiry d c _ | .decisionCommit d c _ => [(d, c)]
  | .launchToken d q => [(d, (s.queue (d * 4096 + q)).home)]
  | .sliceTokenDelivery d n | .sliceEnd d n => (Tab.find (s.die d).slices n).toList.map fun x => at_ x.core
  | .collectiveBegin p g => ((groupEntry s p g).1.filterMap memberCore).map at_
  | _ => []

/-- The clock of a core's plain stands (23 R409). -/
def coreStands (s : State) (k : Nat) : Bool := decide (k ≠ dsCore) && (s.plain (dieOf k) (clusterOf k)).stopped

/-- An instruction that stands for an event: it has no code of its own, and is no parcel that traps. -/
def isEvent (i : Instr) : Bool :=
  match i with
  | .illegalParcel .. => false
  | _ => (encBody i).isNone && (encodePolicy i).isNone

/-- A message reaches this package through a Thonazon port, whose link carries it: it is delivered as one of TYPE 0, and a power message reaches the coordinator (23 R412; 24 R424, R427) (log 105). -/
def peerMessage (port : Nat) (m : Wide) (s : State) : State :=
  let k := contCore m
  if 12 ≤ port ∨ portWay s port ≠ .clear ∨ crossing s 4 (dieOf k) ≠ .clear then s
  else if msgKind m = 6 then powerArrival s m
  else match msgTo m with
    | .peer _ => portMessage s k m none
    | _ => if realCore k then dropMessage s k 1 else s

/-- What a turn brings to execution (log 2): nothing after a thermal trip (23 R415), and nothing of a plain whose clock stands (23 R409). -/
noncomputable def pick (t : Turn) (s : State) : Pick :=
  if s.iod.thermal then .out (.next s) else
  match t with
  | .issue k => if coreStands s k then .out (.next s) else if (s.part (s.partOf k)).ending.isSome then .out (.next (endPartition s k)) else issuePick k s
  | .fire k e => if coreStands s k then .out (.next s) else firePick k e s
  | .policy d c n => if (s.plain d c).stopped then .out (.next s) else policyPick d c n s
  | .ev i => if isEvent i && !((unitsOf s i).any fun x => (s.plain x.1 x.2).stopped) then .run i { s with actor := {} } else .out (.next s)
  | .clock c => .out (.next (tick c s))
  | .resume k n => if coreStands s k then .out (.next s) else resumePick k n s
  | .evict d line => .out (.next (s.modMem fun m => m.evict d line))
  | .memError pa => .out (.next (s.modMem fun m => { m with bad := Tab.set m.bad pa true }))
  | .bufError k a => .out (.next (s.modCore k fun c => { c with bad := Tab.set c.bad a true }))
  | .passFlit n => .out (.next (passFlit n s))
  | .perform k => .out (.next (performNext k s))
  | .prefetch k n a => .out (.next (if coreStands s k then s else prefetch k n a s))
  | .junction => .out (.next (slowPlains s))
  | .hostStore pa v => .out (.next (hostStore pa v s))
  | .peer port m => .out (.next (peerMessage port m s))
  | .arrayError k => .out (.next (s.modMx k fun m => { m with err := true }))

/-- The turn of this step: the next one of the agenda, else a free one (log 2). -/
def nextTurn (s : State) : Turn × State :=
  match s.agenda with
  | t :: ts => (t, { s with agenda := ts })
  | [] => (Config.freeTurn s.fresh, { s with fresh := s.fresh + 1 })

end Sys2Proof.Machine
end

