-- ==== Sys2Proof/Machine/Step.lean ====
section
/-! DEFINITION. One step of the part: a turn is taken and what it brings is executed (log 2); and placing an instruction where the next step fetches it (log 1). -/
namespace Sys2Proof.Machine

/-- One step: the turn of the step, the instruction it brings, its meaning, and what ends every step (log 2). -/
noncomputable def step (s : State) : Host.Outcome State Fault Refusal :=
  match pick (nextTurn s).1 (nextTurn s).2 with
  | .run i s' => settleOut s (exec i s')
  | .out o => settleOut s o

/-- s with one instruction placed where the next step fetches it (logs 1, 7). -/
noncomputable def State.withFetchWord (s : State) (nbits w : Nat) : State :=
  if nbits = 16 then placePolicy s (BitVec.ofNat 16 w)
  else
    let c : Code := BitVec.ofNat 64 w
    let op := (c.extractLsb' 54 8).toNat
    if runs .core op then placeSeq s 0 c
    else if runs .display op then placeSeq s dsCore c
    else
      match decodeTableWord nbits w with
      | some i => placeElem s c i
      | none => s

end Sys2Proof.Machine
end

