-- ==== Sys2Proof/Certificates/Slice0/Obligations.lean ====
section
/-! DEFINITION. The statements for the provers, and the words they are written in. -/

namespace Sys2Proof.Claims

open Sys2Proof Sys2Proof.Machine

/-- s once the acting instruction has retired with the PC at a. -/
def moved (s : State) (a : Word) : State := s.modMe fun c => { c with pc := a, resume := none, going := none }

/-- s once the acting instruction has retired. -/
def retired (s : State) : State := moved s s.nextPc

/-- s once the acting instruction has written v to register d and retired. -/
def wrote (s : State) (d : Reg) (v : Word) : State := retired (s.setReg d v)

/-- s once the acting instruction has trapped with a cause code and a TVAL (01 R29). -/
def trapped (s : State) (code : Nat) (val : Word) : State :=
  enterTrap (s.modMe fun c => { c with resume := none }) s.actor.core s.actor.ctx { code := code, val := val, at_ := s.actor.pc, psz := s.actor.psz }

/-- 64 bits of an exact integer. -/
def w (i : Int) : Word := BitVec.ofInt 64 i

/-- The results of R69 (but the counts of bits), of R71 and of R72, as exact integer arithmetic cut to 64 bits. -/
def integerResult (s : State) : Instr → Option (Reg × Word)
  | .add d a b => some (d, w ((s.reg a).toNat + (s.reg b).toNat))
  | .sub d a b => some (d, w ((s.reg a).toNat - (s.reg b).toNat))
  | .mul d a b => some (d, w ((s.reg a).toNat * (s.reg b).toNat))
  | .mulh d a b => some (d, w ((s.reg a).toInt * (s.reg b).toInt / 2 ^ 64))
  | .mulhu d a b => some (d, w ((s.reg a).toNat * (s.reg b).toNat / 2 ^ 64))
  | .and d a b => some (d, s.reg a &&& s.reg b)
  | .or d a b => some (d, s.reg a ||| s.reg b)
  | .xor d a b => some (d, s.reg a ^^^ s.reg b)
  | .andn d a b => some (d, s.reg a &&& ~~~(s.reg b))
  | .orn d a b => some (d, s.reg a ||| ~~~(s.reg b))
  | .shl d a b => some (d, w ((s.reg a).toNat * 2 ^ ((s.reg b).toNat % 64)))
  | .shr d a b => some (d, w ((s.reg a).toNat / 2 ^ ((s.reg b).toNat % 64)))
  | .sra d a b => some (d, w ((s.reg a).toInt / 2 ^ ((s.reg b).toNat % 64)))
  | .rol d a b => let h := (s.reg b).toNat % 64; some (d, w ((s.reg a).toNat * 2 ^ h + (s.reg a).toNat / 2 ^ (64 - h)))
  | .ror d a b => let h := (s.reg b).toNat % 64; some (d, w ((s.reg a).toNat / 2 ^ h + (s.reg a).toNat * 2 ^ (64 - h)))
  | .min d a b => some (d, w (min (s.reg a).toInt (s.reg b).toInt))
  | .max d a b => some (d, w (max (s.reg a).toInt (s.reg b).toInt))
  | .minu d a b => some (d, w (min (s.reg a).toNat (s.reg b).toNat))
  | .maxu d a b => some (d, w (max (s.reg a).toNat (s.reg b).toNat))
  | .sel d c a b => some (d, if s.pred c then s.reg a else s.reg b)
  | .bfx d a pos len => some (d, (((s.reg a) >>> pos.toNat).setWidth len.toNat).signExtend 64)
  | .bfxu d a pos len => some (d, w ((s.reg a).toNat / 2 ^ pos.toNat % 2 ^ len.toNat))
  | .bfi d a pos len =>
    some (d, w ((s.reg d).toNat % 2 ^ pos.toNat + (s.reg a).toNat % 2 ^ len.toNat * 2 ^ pos.toNat
      + (s.reg d).toNat / 2 ^ (pos.toNat + len.toNat) * 2 ^ (pos.toNat + len.toNat)))
  | .addi d a ti imm => some (d, w ((s.reg a).toNat + (immOf ti imm).toNat))
  | .andi d a ti imm => some (d, s.reg a &&& immOf ti imm)
  | .ori d a ti imm => some (d, s.reg a ||| immOf ti imm)
  | .xori d a ti imm => some (d, s.reg a ^^^ immOf ti imm)
  | .shli d a sh => some (d, w ((s.reg a).toNat * 2 ^ sh.toNat))
  | .shri d a sh => some (d, w ((s.reg a).toNat / 2 ^ sh.toNat))
  | .srai d a sh => some (d, w ((s.reg a).toInt / 2 ^ sh.toNat))
  | .movi d ti imm => some (d, immOf ti imm)
  | .movhi d imm => some (d, w (imm.toNat * 2 ^ 32 + (s.reg d).toNat % 2 ^ 32))
  | _ => none

/-- The results of R70. -/
def divisionResult (s : State) : Instr → Option (Reg × Word)
  | .div d a b =>
    some (d, if s.reg b = 0 then w (2 ^ 64 - 1)
      else if (s.reg a).toInt = -2 ^ 63 ∧ (s.reg b).toInt = -1 then s.reg a
      else w ((s.reg a).toInt.tdiv (s.reg b).toInt))
  | .rem d a b =>
    some (d, if s.reg b = 0 then s.reg a
      else if (s.reg a).toInt = -2 ^ 63 ∧ (s.reg b).toInt = -1 then 0
      else w ((s.reg a).toInt - (s.reg b).toInt * (s.reg a).toInt.tdiv (s.reg b).toInt))
  | .divu d a b => some (d, if s.reg b = 0 then w (2 ^ 64 - 1) else w ((s.reg a).toNat / (s.reg b).toNat))
  | .remu d a b => some (d, if s.reg b = 0 then s.reg a else w ((s.reg a).toNat - (s.reg b).toNat * ((s.reg a).toNat / (s.reg b).toNat)))
  | _ => none

/-- cond(u, v) of R74 by its suffix. -/
def cond : Cond → Word → Word → Prop
  | .eq, u, v => u = v
  | .ne, u, v => u ≠ v
  | .lt, u, v => u.toInt < v.toInt
  | .ge, u, v => v.toInt ≤ u.toInt
  | .ltu, u, v => u.toNat < v.toNat
  | .geu, u, v => v.toNat ≤ u.toNat

/-- The condition of a compare, its operands and its predicates: D, and C where there is one (04 R74). -/
def compareOf (s : State) : Instr → Option (Cond × Word × Word × Pred × Option Pred)
  | .cmpEq d a b c => some (.eq, s.reg a, s.reg b, d, some c)
  | .cmpNe d a b c => some (.ne, s.reg a, s.reg b, d, some c)
  | .cmpLt d a b c => some (.lt, s.reg a, s.reg b, d, some c)
  | .cmpGe d a b c => some (.ge, s.reg a, s.reg b, d, some c)
  | .cmpLtu d a b c => some (.ltu, s.reg a, s.reg b, d, some c)
  | .cmpGeu d a b c => some (.geu, s.reg a, s.reg b, d, some c)
  | .cmpiEq d a ti imm => some (.eq, s.reg a, immOf ti imm, d, none)
  | .cmpiNe d a ti imm => some (.ne, s.reg a, immOf ti imm, d, none)
  | .cmpiLt d a ti imm => some (.lt, s.reg a, immOf ti imm, d, none)
  | .cmpiGe d a ti imm => some (.ge, s.reg a, immOf ti imm, d, none)
  | .cmpiLtu d a ti imm => some (.ltu, s.reg a, immOf ti imm, d, none)
  | .cmpiGeu d a ti imm => some (.geu, s.reg a, immOf ti imm, d, none)
  | _ => none

/-- The result of a predicate operation (04 R75). -/
def predicateResult (s : State) : Instr → Option (Pred × Bool)
  | .pset d a => some (d, decide (s.reg a ≠ 0))
  | .pand d a b => some (d, s.pred a && s.pred b)
  | .por d a b => some (d, s.pred a || s.pred b)
  | .pxor d a b => some (d, s.pred a ^^ s.pred b)
  | .pnot d a => some (d, !(s.pred a))
  | _ => none

/-- An instruction that writes registers or predicates of its context and nothing in memory: the register and the predicates it may write. -/
def registerForm (s : State) (i : Instr) : Option (Option Reg × List Pred) :=
  match integerResult s i, divisionResult s i, compareOf s i, predicateResult s i with
  | some (d, _), _, _, _ => some (some d, [])
  | _, some (d, _), _, _ => some (some d, [])
  | _, _, some (_, _, _, d, c), _ => some (none, d :: c.toList)
  | _, _, _, some (d, _) => some (none, [d])
  | _, _, _, _ =>
    match i with
    | .clz d _ => some (some d, [])
    | .ctz d _ => some (some d, [])
    | .popc d _ => some (some d, [])
    | .brev d _ => some (some d, [])
    | .br .. => some (none, [])
    | .jmp .. => some (none, [])
    | .jal a _ => some (some a, [])
    | .jalr d _ _ => some (some d, [])
    | .loop a _ => some (some a, [])
    | .cyc d => some (some d, [])
    | .nop => some (none, [])
    | .ldLoc d .. => some (some d, [])
    | _ => none

/-- The control registers that only supervisor mode reads and writes (01 R16). -/
def supervisorOnly (x : Nat) : Prop := x = 1 ∨ x = 2 ∨ x = 3 ∨ x = 4 ∨ x = 5

/-- The control registers that no CRW writes (01 R16). -/
def readOnly (x : Nat) : Prop := x = 0 ∨ x = 0x10 ∨ x = 0x11 ∨ x = 0x12 ∨ x = 0x13 ∨ x = 0x14 ∨ x = 0x15 ∨ x = 0x20

/-- What the mode of a context refuses with PERMISSION as it is decoded, whatever its guard (01 R16, R19, R28; 04 R89, R90; 10 R244; log 19). -/
def refusedByMode (priv : Bool) (i : Instr) : Prop :=
  (priv = false ∧ (i = .eret ∨ (∃ a, i = .policyLd a) ∨ (∃ d, i = .policySwap d) ∨ (∃ d x, i = .crr d x ∧ supervisorOnly x.toNat))) ∨
  ∃ x a, i = .crw x a ∧ (readOnly x.toNat ∨ (priv = false ∧ supervisorOnly x.toNat))

end Sys2Proof.Claims

open Sys2Proof Sys2Proof.Machine Sys2Proof.Claims

/-- 01 R11, R15, R16, R23; 06 R149: after reset every context is OFF in supervisor mode with its registers, its trap registers and its dictionary banks clear; p0 reads as 1; local memory reads as zero; SR.SEED has its reset value; memory lists nothing. (The model's own choices in it: logs 5, 6.) -/
def Obligations.ResetState : Prop :=
  (∀ k n : Nat, ∀ r : Reg, ∀ p : Pred,
    (State.reset.ctx k n).run = .off ∧ (State.reset.ctx k n).reg r = 0 ∧ (State.reset.ctx k n).pred p = decide (p = 0) ∧
    (State.reset.ctx k n).priv = true ∧ (State.reset.ctx k n).tr = { cause := 0, epc := 0, tval := 0, tstat := 0, tvec := 0 } ∧
    (State.reset.ctx k n).frm = 0 ∧ (State.reset.ctx k n).pfloor = 0 ∧
    (State.reset.ctx k n).dict.active = [] ∧ (State.reset.ctx k n).dict.staged = [] ∧ (State.reset.ctx k n).dict.gen = 0) ∧
  (∀ k : Nat, (State.reset.core k).local_ = [] ∧ (State.reset.core k).seed = 0x2545F4914F6CDD1D ∧ (State.reset.core k).evq = []) ∧
  State.reset.mem.bytes = []

/-- 01 R25, R28; 02 R31, R32, R35; 23 R409; 24 R420: where the clock of its plain runs and its partition is not ending, the sequencer of core k issues the parcel of the first context that may issue; where its guard holds, or its mode refuses it (log 19), the step executes the decoded instruction, and else the instruction retires with no other effect. What the search, the fetch and the decode answer stands in the model's own names. (The model's own choices in it: logs 2, 19, 66.) -/
def Obligations.StepRunsDecodedInstruction : Prop :=
  ∀ (s t : State) (k n : Nat) (ts : List Turn) (g : Guard) (i : Instr) (psz : Fin 4) (v : Word),
    s.agenda = .issue k :: ts → s.iod.thermal = false → coreStands s k = false → (s.part (s.partOf k)).ending = none →
    firstIssue k (searchOrder (s.core k).last) ((List.range 4).foldl (fun s n => settle s k n) { s with agenda := ts }) = (some (n, .run g i psz v), t) →
    let u : State := { (t.modCore k fun c => { c with last := n }) with actor := { core := k, ctx := n, pc := (t.ctx k n).pc, psz := psz.val, bits := v, guard := g, act := i } }
    (guardHolds (t.ctx k n) g = true ∨ refusedByMode (t.ctx k n).priv i → step s = settleOut { s with agenda := ts } (exec i u)) ∧
    (guardHolds (t.ctx k n) g = false → ¬ refusedByMode (t.ctx k n).priv i → step s = settleOut { s with agenda := ts } (.next (retired u)))

/-- 01 R12, R13; 02 R31: a context whose parcel is a canonical word, each halfword of which is read through its translation, fetches and decodes it: what it may issue is the decoder's answer on the word. (The model's own choices in it: log 4.) -/
def Obligations.FetchDecodesCanonicalWord : Prop :=
  ∀ (s s1 s2 s3 s4 : State) (k n h0 h1 h2 h3 : Nat),
    h0 / 2 ^ 14 = 2 → h0 < 2 ^ 16 →
    fetchHalf s k (s.ctx k n) (s.ctx k n).pc = .ok h0 s1 →
    fetchHalf s1 k (s.ctx k n) (pcOf ((s.ctx k n).pc + 2)) = .ok h1 s2 →
    fetchHalf s2 k (s.ctx k n) (pcOf (pcOf ((s.ctx k n).pc + 2) + 2)) = .ok h2 s3 →
    fetchHalf s3 k (s.ctx k n) (pcOf (pcOf (pcOf ((s.ctx k n).pc + 2) + 2) + 2)) = .ok h3 s4 →
    peek s k n = (match decode (executorOf k) (BitVec.ofNat 64 (((h0 * 65536 + h1) * 65536 + h2) * 65536 + h3)) with
      | .ok g i => .run g i 2 (BitVec.ofNat 64 (((h0 * 65536 + h1) * 65536 + h2) * 65536 + h3))
      | .bad c => .bad c false 2 (BitVec.ofNat 64 (((h0 * 65536 + h1) * 65536 + h2) * 65536 + h3)), s4)

/-- 05 R102; 06 R150; 10 R229, R230; 23 R409: while the clock of its plain runs, an element turn fires the rule that the element selects, where its draws come in the order of the core's, and the step executes that rule's action; a policy turn of a decision that runs executes the instruction at its program's index; an event turn executes its event; and an instruction that has issued and waits goes on (01 R25) (log 2). -/
def Obligations.StepRunsRulesPoliciesAndEvents : Prop :=
  (∀ (s : State) (k e q r : Nat) (ts : List Turn),
    s.agenda = .fire k e :: ts → s.iod.thermal = false → coreStands s k = false →
    selectFiring { s with agenda := ts } k e = some (q, r) →
    let u : State := { s with agenda := ts, actor := { core := k, elem := e, ply := q, rule := r } }
    drawsInOrder u (s.ruleAt k q e r).act = true →
    step s = settleOut { s with agenda := ts } (exec (s.ruleAt k q e r).act u)) ∧
  (∀ (s : State) (d c n : Nat) (ts : List Turn) (x : Decision) (p : Program) (h : BitVec 16) (i : Instr),
    s.agenda = .policy d c n :: ts → s.iod.thermal = false → (s.plain d c).stopped = false →
    s.decision d c n = some x → x.running = true → x.prog = some p → p.code[x.ix]? = some h → decodePolicy h = some i →
    step s = settleOut { s with agenda := ts } (exec i { s with agenda := ts, actor := { die := d, cluster := c, dec := n } })) ∧
  (∀ (s : State) (i : Instr) (ts : List Turn),
    s.agenda = .ev i :: ts → s.iod.thermal = false → isEvent i = true → (∀ x ∈ unitsOf { s with agenda := ts } i, (s.plain x.1 x.2).stopped = false) →
    step s = settleOut { s with agenda := ts } (exec i { s with agenda := ts, actor := {} })) ∧
  (∀ (s : State) (k n : Nat) (ts : List Turn) (g : Going),
    s.agenda = .resume k n :: ts → s.iod.thermal = false → coreStands s k = false → (s.ctx k n).going = some g →
    step s = settleOut { s with agenda := ts }
      (exec g.act { s with agenda := ts, actor := { core := k, ctx := n, pc := (s.ctx k n).pc, psz := g.psz, bits := g.bits, act := g.act } }))

/-- 02 R31 to R48; 04 R70: words written out from the tables of the spec decode to the instructions they stand for. -/
def Obligations.WrittenWordsDecode : Prop :=
  decode .core 0x8054032140000000 = .ok none (.div 3 4 5) ∧
  decode .core 0x9400000000000000 = .ok none .nop ∧
  decode .display 0x9440000100000007 = .ok none (.trap 7) ∧
  decode .element 0x8054032140000000 = .bad .wrongExecutor

/-- 02 R31 to R48: the word of a well-formed instruction with a guard that its executor allows, which on an element is none (02 R35), decodes to it and to that guard. -/
def Obligations.WordRoundTrip : Prop :=
  ∀ (ex : Executor) (g : Guard) (i : Instr) (v : Code),
    instrWf i = true → encode g i = some v → runs ex (v.extractLsb' 54 8).toNat = true → (ex = .element → g = none) →
    decode ex v = .ok g i

/-- 10 R234: the halfword of a well-formed policy instruction decodes to it. -/
def Obligations.PolicyRoundTrip : Prop :=
  ∀ (i : Instr) (h : BitVec 16), instrWf i = true → encodePolicy i = some h → decodePolicy h = some i

/-- Memory's canonical form (log 5) holds after reset: addresses rise strictly, and no entry equals what an unlisted byte reads as. -/
def Obligations.MemoryCanonicalAtReset : Prop := State.reset.mem.wf = true

/-- Memory keeps its canonical form (log 5) in every step. -/
def Obligations.MemoryCanonicalKept : Prop := ∀ s t : State, s.mem.wf = true → step s = .next t → t.mem.wf = true

/-- 04 R69, R71, R72: what the integer, logic, shift, bit-field and immediate instructions write to D; they retire, whatever the state, and write nothing else. CLZ and CTZ count leading and trailing zero bits, 64 for 0; POPC counts one bits; BREV moves bit i to bit 63 - i. -/
def Obligations.IntegerResults : Prop :=
  (∀ (s : State) (i : Instr) (d : Reg) (v : Word), instrWf i = true → integerResult s i = some (d, v) → exec i s = .next (wrote s d v)) ∧
  ∀ (s : State) (d a : Reg),
    (∃ n : Nat, exec (.clz d a) s = .next (wrote s d (w n)) ∧ n ≤ 64 ∧ (s.reg a).toNat < 2 ^ (64 - n) ∧ (n < 64 → 2 ^ (63 - n) ≤ (s.reg a).toNat)) ∧
    (∃ n : Nat, exec (.ctz d a) s = .next (wrote s d (w n)) ∧ n ≤ 64 ∧ (∀ j < n, (s.reg a).getLsbD j = false) ∧ (n < 64 → (s.reg a).getLsbD n = true)) ∧
    exec (.popc d a) s = .next (wrote s d (w ((List.range 64).filter fun j => (s.reg a).getLsbD j).length)) ∧
    (∃ v, exec (.brev d a) s = .next (wrote s d v) ∧ ∀ j < 64, v.getLsbD j = (s.reg a).getLsbD (63 - j))

/-- 04 R70: DIV, REM, DIVU and REMU, with their edge cases; division never traps. -/
def Obligations.DivisionResults : Prop :=
  ∀ (s : State) (i : Instr) (d : Reg) (v : Word), divisionResult s i = some (d, v) → exec i s = .next (wrote s d v)

/-- 04 R74, R75: a compare writes its condition to p[D] and then, where it has C, the complement to p[C]; D and C alike receive the complement. The predicate operations write their result to p[D]. -/
def Obligations.CompareAndPredicateResults : Prop :=
  (∀ (s : State) (i : Instr) (x : Cond) (u v : Word) (d : Pred) (c : Option Pred),
    compareOf s i = some (x, u, v, d, c) →
    ∃ b : Bool, (b = true ↔ cond x u v) ∧
      exec i s = .next (retired (match c with
        | some c => (s.setPred d b).setPred c (!b)
        | none => s.setPred d b))) ∧
  (∀ (s : State) (i : Instr) (d : Pred) (b : Bool), predicateResult s i = some (d, b) → exec i s = .next (retired (s.setPred d b)))

/-- 04 R76, R43; 01 R12: BR goes to its target where its condition holds and on where it does not; JMP goes to its target; JAL and JALR link and go, JALR's target being read before its link is written; LOOP counts down and goes while the count is not 0. A target is the parcel's address and twice the immediate, in 55 bits with bit 0 clear. -/
def Obligations.ControlFlow : Prop :=
  ∀ (s : State) (x : Cond) (d a b : Reg) (imm : BitVec 32),
    let target := pcOf (w (s.actor.pc.toNat + 2 * imm.toInt))
    (cond x (s.reg a) (s.reg b) → exec (.br x a b imm) s = .next (moved s target)) ∧
    (¬ cond x (s.reg a) (s.reg b) → exec (.br x a b imm) s = .next (retired s)) ∧
    exec (.jmp imm) s = .next (moved s target) ∧
    exec (.jal a imm) s = .next (moved (s.setReg a s.nextAddr) target) ∧
    exec (.jalr d a imm) s = .next (moved (s.setReg d s.nextAddr) (pcOf (w ((s.reg a).toNat + imm.toInt)))) ∧
    (s.reg a ≠ 1 → exec (.loop a imm) s = .next (moved (s.setReg a (s.reg a - 1)) target)) ∧
    (s.reg a = 1 → exec (.loop a imm) s = .next (retired (s.setReg a 0)))

/-- 01 R11; 04 R68: an instruction that only writes a register or predicates leaves every other register of its context, every other predicate, the trap registers, the mode, the dictionary, every other context, every byte of memory and of local memory, and everything beyond its core as it was. LD.loc is among them where it does not trap. -/
def Obligations.RegisterFormFrame : Prop :=
  ∀ (s t : State) (i : Instr) (d : Option Reg) (ps : List Pred),
    registerForm s i = some (d, ps) → exec i s = .next t →
    (∀ (dl bs ix : Reg) (sz : Sz) (o : BitVec 22), i = .ldLoc dl bs ix sz o →
      let ea := eaIndexed (s.reg bs) (s.reg ix) o
      ea.toNat % szBytes sz = 0 ∧ ea.toNat < 0x4000 ∧ ∀ j < szBytes sz, Tab.look false (s.core s.actor.core).bad (ea.toNat + j) = false) →
    (∀ r : Reg, some r ≠ d → t.reg r = s.reg r) ∧ (∀ p : Pred, p ∉ ps → t.pred p = s.pred p) ∧
    t.me.tr = s.me.tr ∧ t.me.priv = s.me.priv ∧ t.me.frm = s.me.frm ∧ t.me.dict = s.me.dict ∧ t.me.mx = s.me.mx ∧ t.me.rsv = s.me.rsv ∧
    (∀ k n, (k ≠ s.actor.core ∨ n ≠ s.actor.ctx) → t.ctx k n = s.ctx k n) ∧
    (∀ k, (t.core k).local_ = (s.core k).local_ ∧ (t.core k).evq = (s.core k).evq ∧ (t.core k).fab = (s.core k).fab ∧ (t.core k).seed = (s.core k).seed) ∧
    (∀ a, t.mem.byte a = s.mem.byte a) ∧ t.dies = s.dies ∧ t.parts = s.parts ∧ t.iod = s.iod ∧ t.net = s.net

namespace Sys2Proof.Claims

open Sys2Proof Sys2Proof.Machine

/-- Where LD, ST, LD.loc and ST.loc access (02 R42), as the integers of the rule. -/
def indexed (s : State) (base index : Reg) (off : BitVec 22) : Word := w ((s.reg base).toNat + (s.reg index).toNat + off.toInt)

/-- Where the other MEM instructions access (02 R42). -/
def direct (s : State) (base : Reg) (off : BitVec 22) : Word := w ((s.reg base).toNat + off.toInt)

/-- A loaded value of n bytes: sign-extended for SZ 0 to 2, otherwise zero-extended (04 R78). -/
def loaded (sz : Sz) (v : Nat) : Word :=
  match sz with
  | .b => (BitVec.ofNat 8 v).signExtend 64
  | .h => (BitVec.ofNat 16 v).signExtend 64
  | .w => (BitVec.ofNat 32 v).signExtend 64
  | .bu => w (v % 2 ^ 8)
  | .hu => w (v % 2 ^ 16)
  | .wu => w (v % 2 ^ 32)
  | .d => w v

/-- Local memory serves an access of n bytes at ea (01 R14, 04 R79). -/
def localServes (s : State) (ea : Word) (n : Nat) : Prop :=
  ea.toNat % n = 0 ∧ ea.toNat < 0x4000 ∧ ∀ j < n, Tab.look false (s.core s.actor.core).bad (ea.toNat + j) = false

/-- A byte of the acting core's local memory. -/
def localByte (s : State) (k a : Nat) : Byte := Tab.look 0 (s.core k).local_ a

/-- A virtual address of core k is mapped in its translation cache for an access, to a byte of plain memory on a die that links reach while no flits are held, with no uncorrectable byte among n (11 R253, R255; 04 R79). -/
def mappedAt (s : State) (k va n : Nat) (acc : Acc) (user : Bool) (pa : Nat) : Prop :=
  va < 2 ^ 55 ∧
  (∃ x, xlatHit (s.core k) va acc = some x ∧ permits x.leaf.toNat acc user = true ∧ leafLoc x.leaf.toNat x.vpn va = .plain pa) ∧
  reaching s (accessDie k) pa = .clear ∧ physBad s pa n = false

/-- f(old, o) of R80 on 8n bits. -/
def atomicResult : Instr → Nat → Nat → Nat → Option Nat
  | .amoAdd .., n, old, o => some ((old + o) % 2 ^ (8 * n))
  | .amoAnd .., _, old, o => some (old &&& o)
  | .amoOr .., _, old, o => some (old ||| o)
  | .amoXor .., _, old, o => some (old ^^^ o)
  | .amoMin .., n, old, o => some (if (BitVec.ofNat (8 * n) o).toInt < (BitVec.ofNat (8 * n) old).toInt then o else old)
  | .amoMax .., n, old, o => some (if (BitVec.ofNat (8 * n) old).toInt < (BitVec.ofNat (8 * n) o).toInt then o else old)
  | .amoMinu .., _, old, o => some (min o old)
  | .amoMaxu .., _, old, o => some (max o old)
  | .amoSwap .., _, _, o => some o
  | .amoLocAdd .., n, old, o => some ((old + o) % 2 ^ (8 * n))
  | .amoLocAnd .., _, old, o => some (old &&& o)
  | .amoLocOr .., _, old, o => some (old ||| o)
  | .amoLocXor .., _, old, o => some (old ^^^ o)
  | .amoLocMin .., n, old, o => some (if (BitVec.ofNat (8 * n) o).toInt < (BitVec.ofNat (8 * n) old).toInt then o else old)
  | .amoLocMax .., n, old, o => some (if (BitVec.ofNat (8 * n) old).toInt < (BitVec.ofNat (8 * n) o).toInt then o else old)
  | .amoLocMinu .., _, old, o => some (min o old)
  | .amoLocMaxu .., _, old, o => some (max o old)
  | .amoLocSwap .., _, _, o => some o
  | _, _, _, _ => none

/-- The fields of an AMO.loc: D, base, the operand register, SZ and the offset. -/
def amoLocFields : Instr → Option (Reg × Reg × Reg × Sz × BitVec 22)
  | .amoLocAdd d b i sz o => some (d, b, i, sz, o)
  | .amoLocAnd d b i sz o => some (d, b, i, sz, o)
  | .amoLocOr d b i sz o => some (d, b, i, sz, o)
  | .amoLocXor d b i sz o => some (d, b, i, sz, o)
  | .amoLocMin d b i sz o => some (d, b, i, sz, o)
  | .amoLocMax d b i sz o => some (d, b, i, sz, o)
  | .amoLocMinu d b i sz o => some (d, b, i, sz, o)
  | .amoLocMaxu d b i sz o => some (d, b, i, sz, o)
  | .amoLocSwap d b i sz o => some (d, b, i, sz, o)
  | _ => none

/-- The fields of an AMO: D, base, the operand register, SZ and the offset. -/
def amoFields : Instr → Option (Reg × Reg × Reg × Sz × BitVec 22)
  | .amoAdd d b i sz _ _ o => some (d, b, i, sz, o)
  | .amoAnd d b i sz _ _ o => some (d, b, i, sz, o)
  | .amoOr d b i sz _ _ o => some (d, b, i, sz, o)
  | .amoXor d b i sz _ _ o => some (d, b, i, sz, o)
  | .amoMin d b i sz _ _ o => some (d, b, i, sz, o)
  | .amoMax d b i sz _ _ o => some (d, b, i, sz, o)
  | .amoMinu d b i sz _ _ o => some (d, b, i, sz, o)
  | .amoMaxu d b i sz _ _ o => some (d, b, i, sz, o)
  | .amoSwap d b i sz _ _ o => some (d, b, i, sz, o)
  | _ => none

/-- The acting core's local memory with n bytes of v at a, the least significant first. -/
def localStored (s : State) (a n v : Nat) : State :=
  s.modCore s.actor.core fun c => { c with local_ := putBytes c.local_ a (bytesLE v n) }

/-- The value in the slot of register r: of x0 the predicates p7 to p0, p0 as 1 (04 R83). -/
def slotValue (s : State) (r : Nat) : Word :=
  if r = 0 then w (((List.range 8).map fun i => if i = 0 ∨ s.me.p.getLsbD i = true then 2 ^ i else 0).sum : Nat) else Tab.look 0 s.me.x r

/-- Units k to k + n - 1 of a SPILL or a FILL, each served (04 R83). -/
def unitsServed (ea f : Nat) (unit : State → Nat → Nat → Mr Unit) : Nat → Nat → State → Option State
  | 0, _, s => some s
  | n + 1, k, s =>
    match unit s (f + k) (ea + 8 * k) with
    | .ok _ t => unitsServed ea f unit n (k + 1) t
    | _ => none

end Sys2Proof.Claims

/-- 04 R78 to R82; 01 R14: LD.loc and ST.loc of an aligned address below 0x4000 with no uncorrectable byte retire; LD.loc writes the extended value of the n bytes there to D, and ST.loc stores the low n bytes of D there, the least significant first, and changes no other byte of local memory. AMO.loc and CAS.loc retire with the old value in D (sign-extended from 32 bits where n is 4) and local memory holding f(old, o), or for CAS the new value where the old one is the one expected. (The model's own choices in it: log 80.) -/
def Obligations.LocalAccesses : Prop :=
  ∀ (s : State) (d b x : Reg) (sz : Sz) (o : BitVec 22),
    let n := szBytes sz
    (let ea := indexed s b x o;
      localServes s ea n →
      (exec (.ldLoc d b x sz o) s = .next (wrote s d (loaded sz (ofBytesLE ((List.range n).map fun j => localByte s s.actor.core (ea.toNat + j)))))) ∧
      (∃ t, exec (.stLoc d b x sz o) s = .next (retired t) ∧
        (∀ j < n, localByte t s.actor.core (ea.toNat + j) = BitVec.ofNat 8 ((s.reg d).toNat / 2 ^ (8 * j))) ∧
        (∀ k a, (k ≠ s.actor.core ∨ a < ea.toNat ∨ ea.toNat + n ≤ a) → localByte t k a = localByte s k a) ∧
        t.mem = s.mem ∧ t.me = s.me)) ∧
    (let ea := direct s b o;
      let old := ofBytesLE ((List.range n).map fun j => localByte s s.actor.core (ea.toNat + j));
      atomSz sz = true → localServes s ea n →
      (∀ i v, amoLocFields i = some (d, b, x, sz, o) → atomicResult i n old ((s.reg x).toNat % 2 ^ (8 * n)) = some v →
        exec i s = .next (wrote (localStored s ea.toNat n v) d (loaded sz old))) ∧
      (old = (s.reg d).toNat % 2 ^ (8 * n) →
        exec (.casLoc d b x sz o) s = .next (wrote (localStored s ea.toNat n ((s.reg x).toNat % 2 ^ (8 * n))) d (loaded sz old))) ∧
      (old ≠ (s.reg d).toNat % 2 ^ (8 * n) → exec (.casLoc d b x sz o) s = .next (wrote s d (loaded sz old))))

/-- 04 R78, R79; 11 R253, R255: LD and ST of an aligned address that the core's translation cache maps to plain memory retire: LD writes the extended value of the n bytes at the physical address to D and changes no byte of memory; ST stores the low n bytes of D there, the least significant first, and changes no other byte of memory and no register. (The model's own choices in it: logs 4, 85.) -/
def Obligations.UnifiedLoadAndStore : Prop :=
  ∀ (s : State) (d b x : Reg) (sz : Sz) (sc : Scope) (od : Ord) (o : BitVec 22) (pa : Nat),
    let ea := indexed s b x o
    let n := szBytes sz
    ea.toNat % n = 0 → rangeReserved pa n = false →
    (mappedAt s s.actor.core ea.toNat n .read s.user pa →
      ∃ t, exec (.ld d b x sz sc od o) s = .next (wrote t d (loaded sz (ofBytesLE ((List.range n).map fun j => s.mem.byte (pa + j))))) ∧
        (∀ a, t.mem.byte a = s.mem.byte a) ∧ t.cores = s.cores ∧ t.actor = s.actor) ∧
    (mappedAt s s.actor.core ea.toNat n .write s.user pa →
      ∃ t, exec (.st d b x sz sc od o) s = .next (retired t) ∧
        (∀ j < n, t.mem.byte (pa + j) = BitVec.ofNat 8 ((s.reg d).toNat / 2 ^ (8 * j))) ∧
        (∀ a, (a < pa ∨ pa + n ≤ a) → t.mem.byte a = s.mem.byte a) ∧ t.cores = s.cores ∧ t.actor = s.actor)

/-- 04 R79; 01 R14, R27; 11 R252 to R254: a local or unified access that is misaligned traps with MISALIGNED; an aligned local one at or above 0x4000 with LOCAL_BOUNDS, and one of an uncorrectable byte with MEM_UNCORRECTABLE; an aligned unified one at or above 2^55, or in a page whose walk by the hardware finds translation off or the entry of level 0 not valid, with PAGE_FAULT_READ for a load and PAGE_FAULT_WRITE for a store or an atomic, one that its cached leaf does not permit with PERMISSION, and a load or atomic of an uncorrectable byte with MEM_UNCORRECTABLE. TVAL is ea, and D and memory are as they were. (The model's own choices in it: logs 80, 85, 88.) -/
def Obligations.AccessTraps : Prop :=
  (∀ (s : State) (d b x : Reg) (sz : Sz) (o : BitVec 22) (i : Instr) (ea : Word),
    ((i = .ldLoc d b x sz o ∨ i = .stLoc d b x sz o) ∧ ea = indexed s b x o) ∨ ((amoLocFields i = some (d, b, x, sz, o) ∨ i = .casLoc d b x sz o) ∧ ea = direct s b o) →
    (ea.toNat % szBytes sz ≠ 0 → exec i s = .next (trapped s 0x24 ea)) ∧
    (ea.toNat % szBytes sz = 0 → 0x4000 ≤ ea.toNat → exec i s = .next (trapped s 0x23 ea)) ∧
    (ea.toNat % szBytes sz = 0 → ea.toNat < 0x4000 → (∃ j < szBytes sz, Tab.look false (s.core s.actor.core).bad (ea.toNat + j) = true) →
      exec i s = .next (trapped s 0x2F ea))) ∧
  (∀ (s : State) (i : Instr) (d b x : Reg) (sz : Sz) (sc : Scope) (od : Ord) (o : BitVec 22) (ea : Word) (acc : Acc),
    (i = .ld d b x sz sc od o ∧ ea = indexed s b x o ∧ acc = .read) ∨ (i = .st d b x sz sc od o ∧ ea = indexed s b x o ∧ acc = .write) ∨
      ((amoFields i = some (d, b, x, sz, o) ∨ i = .cas d b x sz sc od o) ∧ ea = direct s b o ∧ acc = .amo) →
    (ea.toNat % szBytes sz ≠ 0 → exec i s = .next (trapped s 0x24 ea)) ∧
    (ea.toNat % szBytes sz = 0 → 2 ^ 55 ≤ ea.toNat → exec i s = .next (trapped s (if acc = .read then 0x20 else 0x21) ea)) ∧
    (∀ y, ea.toNat % szBytes sz = 0 → ea.toNat < 2 ^ 55 → xlatHit (s.core s.actor.core) ea.toNat acc = some y → permits y.leaf.toNat acc s.user = false →
      exec i s = .next (trapped s 0x22 ea)) ∧
    (∀ pa, ea.toNat % szBytes sz = 0 → acc ≠ .write → rangeReserved pa (szBytes sz) = false → ea.toNat < 2 ^ 55 →
      (∃ y, xlatHit (s.core s.actor.core) ea.toNat acc = some y ∧ permits y.leaf.toNat acc s.user = true ∧ leafLoc y.leaf.toNat y.vpn ea.toNat = .plain pa) →
      reaching s (accessDie s.actor.core) pa = .clear → physBad s pa (szBytes sz) = true →
      ∃ t, exec i s = .next (trapped t 0x2F ea) ∧ t.cores = s.cores ∧ t.actor = s.actor ∧ ∀ a, t.mem.byte a = s.mem.byte a) ∧
    (let p := s.part (s.partOf s.actor.core)
     let y := s.die (walkDie s.actor.core)
     let at_ := entryAt ea.toNat 3 (trootBase p)
     ea.toNat % szBytes sz = 0 → ea.toNat < 2 ^ 55 → xlatHit (s.core s.actor.core) ea.toNat acc = none →
      p.duties = [] → p.dutyctl.getLsbD 0 = false → y.walkq = [] → y.walks = [] → y.wcache = [] → (walksOf s (walkDie s.actor.core)).length < walkCap →
      pageWalked s (walkDie s.actor.core) (s.partOf s.actor.core) ea.toNat = false →
      (p.troot.getLsbD 0 = false ∨
        (walkWay s (walkDie s.actor.core) at_ = .clear ∧ l2Full s (walkDie s.actor.core) (at_ / 128) = false ∧ (s.mem.val at_ 8).testBit 0 = false)) →
      ∃ t, exec i s = .next (trapped t (if acc = .read then 0x20 else 0x21) ea) ∧ t.cores = s.cores ∧ t.actor = s.actor ∧ ∀ a, t.mem.byte a = s.mem.byte a))

/-- 04 R80, R81: an AMO or CAS of an aligned address that the core's translation cache maps to plain memory retires with the old value in D, and the n bytes at the physical address hold f(old, o), or for CAS the new value where the old one is the one expected and the old bytes otherwise; no other byte of memory changes. (The model's own choices in it: logs 4, 85.) -/
def Obligations.UnifiedAtomics : Prop :=
  ∀ (s : State) (i : Instr) (d b x : Reg) (sz : Sz) (sc : Scope) (od : Ord) (o : BitVec 22) (pa v : Nat), atomSz sz = true →
    let ea := direct s b o
    let n := szBytes sz
    let old := ofBytesLE ((List.range n).map fun j => s.mem.byte (pa + j))
    let opnd := (s.reg x).toNat % 2 ^ (8 * n)
    ea.toNat % n = 0 → rangeReserved pa n = false → mappedAt s s.actor.core ea.toNat n .amo s.user pa →
    (amoFields i = some (d, b, x, sz, o) ∧ atomicResult i n old opnd = some v) ∨
      (i = .cas d b x sz sc od o ∧ v = if old = (s.reg d).toNat % 2 ^ (8 * n) then opnd else old) →
    ∃ t, exec i s = .next (wrote t d (loaded sz old)) ∧
      (∀ j < n, t.mem.byte (pa + j) = BitVec.ofNat 8 (v / 2 ^ (8 * j))) ∧
      (∀ a, (a < pa ∨ pa + n ≤ a) → t.mem.byte a = s.mem.byte a) ∧ t.cores = s.cores ∧ t.actor = s.actor

/-- 04 R83; 01 R29, R30: SPILL and FILL of an aligned ea begin at the resume count, take their units in ascending register order and retire once each has been served; where a unit k faults they trap with XFER = k, keeping the units before it. A unit of SPILL leaves in the slot of its register, where it is plain memory, the register's value, of x0 the predicates, and a unit of FILL the other way round. A release part is performed before the first unit. A misaligned ea traps with MISALIGNED. (The model's own choices in it: logs 4, 61.) -/
def Obligations.SpillAndFill : Prop :=
  (∀ (s : State) (r : Reg) (a pa : Nat), rangeReserved pa 8 = false →
    (mappedAt s s.actor.core a 8 .write s.user pa →
      ∃ t, spillUnit s r.val a = .ok () t ∧ (∀ j < 8, t.mem.byte (pa + j) = BitVec.ofNat 8 ((slotValue s r.val).toNat / 2 ^ (8 * j))) ∧
        (∀ x, (x < pa ∨ pa + 8 ≤ x) → t.mem.byte x = s.mem.byte x) ∧ t.cores = s.cores ∧ t.actor = s.actor) ∧
    (mappedAt s s.actor.core a 8 .read s.user pa →
      ∃ t, fillUnit s r.val a = .ok () t ∧ (∀ x, t.mem.byte x = s.mem.byte x) ∧ t.actor = s.actor ∧ t.me.pc = s.me.pc ∧
        (r ≠ 0 → Tab.look 0 t.me.x r.val = w (s.mem.val pa 8) ∧ t.me.p = s.me.p ∧ ∀ x, x ≠ r.val → Tab.look 0 t.me.x x = Tab.look 0 s.me.x x) ∧
        (r = 0 → t.me.x = s.me.x ∧ t.me.p.getLsbD 0 = true ∧ ∀ j, 1 ≤ j → j < 8 → t.me.p.getLsbD j = (s.mem.val pa 8).testBit j))) ∧
  ∀ (s : State) (f l b : Reg) (sc : Scope) (od : Ord) (o : BitVec 22) (i : Instr) (unit : State → Nat → Nat → Mr Unit),
    (i = .spill f l b sc od o ∧ unit = spillUnit) ∨ (i = .fill f l b sc od o ∧ unit = fillUnit) →
    let ea := direct s b o
    let k0 := s.me.resume.getD 0
    let s0 := if (od = .rel ∨ od = .ar) ∧ sc ≠ .el then settleCore s s.actor.core else s
    (∀ x ∈ s0.mem.late, (od = .rel ∨ od = .ar) → sc ≠ .el → x.core ≠ s.actor.core) ∧
    (ea.toNat % 8 ≠ 0 → exec i s = .next (enterTrap (s.modMe fun c => { c with resume := none }) s.actor.core s.actor.ctx
      { code := 0x24, val := ea, at_ := s.actor.pc, psz := s.actor.psz, done := some 0 })) ∧
    (∀ t, ea.toNat % 8 = 0 → unitsServed ea.toNat f.val unit (l.val - f.val + 1 - k0) k0 s0 = some t → exec i s = .next (retired t)) ∧
    (∀ t t' k c v, ea.toNat % 8 = 0 → k0 ≤ k → k ≤ l.val - f.val → unitsServed ea.toNat f.val unit (k - k0) k0 s0 = some t →
      unit t (f.val + k) (ea.toNat + 8 * k) = .fault c v t' →
      exec i s = .next (enterTrap (t'.modMe fun x => { x with resume := none }) t'.actor.core t'.actor.ctx
        { code := c, val := w v, at_ := t'.actor.pc, psz := t'.actor.psz, done := some k }))

namespace Sys2Proof.Claims

open Sys2Proof Sys2Proof.Machine

/-- The value that CRR answers for an index of R16. -/
def controlValue (s : State) : Nat → Word
  | 0x000 => if s.me.priv then 1 else 0
  | 0x001 => s.me.tr.cause
  | 0x002 => s.me.tr.epc
  | 0x003 => s.me.tr.tval
  | 0x004 => s.me.tr.tstat
  | 0x005 => s.me.tr.tvec
  | 0x008 => w s.me.frm
  | 0x009 => s.seedRead s.actor.core
  | 0x010 => w s.me.dict.gen.toNat
  | 0x011 => ctxId s.actor.core s.actor.ctx
  | 0x012 => w (s.partOf s.actor.core)
  | 0x013 => (s.part (s.partOf s.actor.core)).dutyctl
  | 0x014 => (s.part (s.partOf s.actor.core)).schedctl
  | 0x015 => polstat (s.part (s.partOf s.actor.core))
  | 0x016 => pfloorRead s s.actor.core s.me
  | 0x020 => w (s.cyc s.actor.core)
  | _ => 0

/-- An index of the table of R16. -/
def named (x : Nat) : Prop := readOnly x ∨ supervisorOnly x ∨ x = 8 ∨ x = 9 ∨ x = 0x16

/-- The context a trap on the parcel at a leaves, by the pseudocode of R29 with TIN clear; `done` is none where the instruction is not restartable. -/
def afterTrap (c : Ctx) (code : Nat) (val a : Word) (psz : Nat) (fetch : Bool) (done : Option Nat) : Ctx :=
  { c with
    tr := { epc := a, cause := w code, tval := val, tvec := c.tr.tvec
            tstat := w (c.dict.gen.toNat * 2 ^ 32 + (done.getD 0) * 2 ^ 15 + (if done.isSome then 2 ^ 14 else 0) + (if fetch then 2 ^ 13 else 0)
              + psz * 2 ^ 10 + (if c.priv then 2 ^ 8 else 0) + 1) }
    priv := true, pc := pcOf c.tr.tvec, run := .run, await := none, going := none, hold := false }

/-- Bit i of a template whose holes take a fill: hole h of start S and width W takes W bits, after those of the holes before it (03 R54, R56). -/
def filledBit (e : DictEntry) (fill i : Nat) : Bool :=
  let d := e.desc.toNat
  let (s0, w0) := (d / 2 ^ 24 % 64, d / 2 ^ 20 % 16)
  let (s1, w1) := (d / 2 ^ 14 % 64, d / 2 ^ 10 % 16)
  let (s2, w2) := (d / 2 ^ 4 % 64, d % 16)
  if s2 ≤ i ∧ i < s2 + w2 then fill.testBit (w0 + w1 + (i - s2))
  else if s1 ≤ i ∧ i < s1 + w1 then fill.testBit (w0 + (i - s1))
  else if s0 ≤ i ∧ i < s0 + w0 then fill.testBit (i - s0)
  else e.template.getLsbD i

end Sys2Proof.Claims

/-- 01 R29; 21 R374, R375: a trap on the parcel at a, with TIN clear, writes EPC, CAUSE, TVAL and TSTAT, enters supervisor mode and goes to TVEC; with TIN set the context stops in OFF, its registers stand, and the DOUBLE_TRAP record is written to the partition's ring where that has room: the second trap's cause, TVAL and EPC, its context, ply, region and partition. ERET restores PC, the mode and the resume count and clears RST and TIN. (No selection of the context is latched, and no external trap is pending.) -/
def Obligations.TrapEntryAndReturn : Prop :=
  ∀ (s : State) (k n code psz : Nat) (val a : Word) (fetch : Bool) (done : Option Nat), (s.ctx k n).latch = none →
    let t := enterTrap s k n { code := code, val := val, at_ := a, psz := psz, fetch := fetch, done := done }
    (bit (s.ctx k n).tr.tstat 0 = false →
      t.ctx k n = afterTrap (s.ctx k n) code val a psz fetch done ∧ t.mem = s.mem ∧ (∀ j m, (j ≠ k ∨ m ≠ n) → t.ctx j m = s.ctx j m)) ∧
    (bit (s.ctx k n).tr.tstat 0 = true →
      (t.ctx k n).run = .off ∧ (t.ctx k n).x = (s.ctx k n).x ∧ (t.ctx k n).tr = (s.ctx k n).tr ∧ (t.ctx k n).pc = (s.ctx k n).pc ∧ (t.ctx k n).priv = (s.ctx k n).priv ∧
      (let r := (s.part (s.partOf k)).fltring
       let at_ := r.base + 64 * (r.head % r.size)
       r.room = true → reaching s 4 at_ = .clear → rangeReserved at_ 64 = false →
        (t.part (s.partOf k)).fltring = { r with head := (r.head + 1) % 65536 } ∧
        t.mem.val at_ 8 = (r.head * 2 ^ 48 + s.partOf k * 2 ^ 36 + n * 2 ^ 24 + ((s.ctx k n).bound.getD 0) * 2 ^ 22 + 6 * 2 ^ 10 + 0x70) % 2 ^ 64 ∧
        t.mem.val (at_ + 8) 8 = val.toNat ∧ t.mem.val (at_ + 16) 8 = (dieOf k * 2 ^ 13 + coreIn k * 2 ^ 6) % 2 ^ 64 ∧
        t.mem.val (at_ + 24) 8 = ((s.ctx k n).region.map (·.rcb.toNat)).getD 0 ∧ t.mem.val (at_ + 32) 8 = a.toNat ∧
        t.mem.val (at_ + 40) 8 = (s.die (dieOf k)).dlc % 2 ^ 64 ∧ t.mem.val (at_ + 48) 8 = 0 ∧ t.mem.val (at_ + 56) 8 = code % 2 ^ 64)) ∧
    (s.me.priv = true → s.me.ext = none →
      ∃ u, exec .eret s = .next u ∧ u.me.pc = pcOf s.me.tr.epc ∧ u.me.priv = bit s.me.tr.tstat 8 ∧
        u.me.resume = (if bit s.me.tr.tstat 14 then some (bits s.me.tr.tstat 15 9) else none) ∧
        bit u.me.tr.tstat 14 = false ∧ bit u.me.tr.tstat 0 = false ∧ u.me.x = s.me.x ∧ u.me.p = s.me.p ∧ u.mem = s.mem)

/-- 04 R86, R88, R89; 01 R16, R28: NOP only retires; TRAP takes SOFTWARE_TRAP with its immediate; BRK takes BREAKPOINT with its code where its debug stop enable is clear, and where it is set stops the context at the BRK; ERET in user mode takes PERMISSION with the parcel's bits; a parcel that was not fetched or decoded takes its cause. (The model's own choices in it: log 19.) -/
def Obligations.SystemTraps : Prop :=
  ∀ (s : State) (imm : BitVec 32) (code : BitVec 16) (c : Cause) (f : Bool) (z : Fin 4) (v : Word),
    exec .nop s = .next (retired s) ∧
    exec (.trap imm) s = .next (trapped s 0x02 (w imm.toNat)) ∧
    ((s.core s.actor.core).regs.dbgstop.testBit s.actor.ctx = false → exec (.brk code) s = .next (trapped s 0x01 (w code.toNat))) ∧
    ((s.core s.actor.core).regs.dbgstop.testBit s.actor.ctx = true →
      ∃ t, exec (.brk code) s = .next t ∧ t.me.run = .off ∧ t.me.pc = s.actor.pc ∧ t.me.x = s.me.x ∧ t.me.priv = s.me.priv) ∧
    (s.me.priv = false → exec .eret s = .next (trapped s 0x22 s.actor.bits)) ∧
    exec (.illegalParcel c f z v) s = .next (enterTrap (s.modMe fun x => { x with resume := none }) s.actor.core s.actor.ctx
      { code := c.code, val := v, at_ := s.actor.pc, psz := z.val, fetch := f })

/-- 04 R90; 01 R16; 23 R414: CRR of an index of the table writes the register's value to D; in user mode CAUSE, EPC, TVAL, TSTAT and TVEC trap with PERMISSION; an index not in the table traps with RESERVED_FIELD. TVAL holds the parcel's bits. (The model's own choices in it: logs 20, 89.) -/
def Obligations.ControlRegisterReads : Prop :=
  ∀ (s : State) (d : Reg) (x : BitVec 12),
    (named x.toNat → (s.me.priv = true ∨ ¬ supervisorOnly x.toNat) → exec (.crr d x) s = .next (wrote s d (controlValue s x.toNat))) ∧
    (supervisorOnly x.toNat → s.me.priv = false → exec (.crr d x) s = .next (trapped s 0x22 s.actor.bits)) ∧
    (¬ named x.toNat → exec (.crr d x) s = .next (trapped s 0x05 s.actor.bits))

/-- 04 R90; 01 R16 to R19; 06 R149; 23 R414: in supervisor mode CRW of CAUSE, EPC, TVAL, TSTAT and TVEC, and in either mode CRW of FRM, SR.SEED and PFLOOR, retires with the register holding reg(A) with its reserved bits clear, PFLOOR with its bit 8 kept where reg(A) has it 0 and cleared where it is 1; a read-only register, and in user mode a supervisor register, traps with PERMISSION; FRM refuses 6 and 7; an index not in the table traps with RESERVED_FIELD. (No external trap is pending.) (The model's own choices in it: log 10.) -/
def Obligations.ControlRegisterWrites : Prop :=
  ∀ (s : State) (a : Reg) (x : BitVec 12), s.me.ext = none →
    let v := s.reg a
    (s.me.priv = true → ∃ t1 t2 t3 t4 t5,
      exec (.crw 0x001 a) s = .next t1 ∧ t1.me.tr = { s.me.tr with cause := v &&& 0xFF } ∧
      exec (.crw 0x002 a) s = .next t2 ∧ t2.me.tr = { s.me.tr with epc := v } ∧
      exec (.crw 0x003 a) s = .next t3 ∧ t3.me.tr = { s.me.tr with tval := v } ∧
      exec (.crw 0x004 a) s = .next t4 ∧ t4.me.tr = { s.me.tr with tstat := v &&& 0xFFFFFFFF00FFED01 } ∧
      exec (.crw 0x005 a) s = .next t5 ∧ t5.me.tr = { s.me.tr with tvec := v &&& 0xFFFFFFFFFFFFFFFE } ∧
      t1.me.pc = s.nextPc ∧ t5.me.pc = s.nextPc) ∧
    (v.toNat % 8 ≤ 5 → ∃ t, exec (.crw 0x008 a) s = .next t ∧ t.me.frm = v.toNat % 8 ∧ t.me.pc = s.nextPc ∧ t.me.x = s.me.x) ∧
    (5 < v.toNat % 8 → exec (.crw 0x008 a) s = .next (trapped s 0x05 s.actor.bits)) ∧
    (∃ t, exec (.crw 0x009 a) s = .next t ∧ (t.core s.actor.core).seed = (if v = 0 then 0x2545F4914F6CDD1D else v) ∧ t.me.pc = s.nextPc) ∧
    (∃ t, exec (.crw 0x016 a) s = .next t ∧ t.me.pfloor.getLsbD 0 = v.getLsbD 0 ∧ t.me.pfloor.getLsbD 8 = (s.me.pfloor.getLsbD 8 && !(v.getLsbD 8)) ∧
      (∀ j < 64, j ≠ 0 → j ≠ 8 → t.me.pfloor.getLsbD j = false) ∧ t.me.x = s.me.x ∧ t.me.pc = s.nextPc) ∧
    (¬ named x.toNat → exec (.crw x a) s = .next (trapped s 0x05 s.actor.bits)) ∧
    (readOnly x.toNat ∨ (supervisorOnly x.toNat ∧ s.me.priv = false) → exec (.crw x a) s = .next (trapped s 0x22 s.actor.bits))

/-- 01 R24; 04 R86, R91, R92: HALT with no pending failure retires and the context enters OFF with all of its registers kept; no token or rule of its ply changes. EVPOP and EVWAIT take the oldest record, its low doubleword into D and its high one into A; on an empty queue EVPOP writes zeros and retires, and EVWAIT enters WAIT. -/
def Obligations.HaltAndEvents : Prop :=
  (∀ s : State, pendingFault s = none →
    ∃ t, exec .halt s = .next t ∧ t.me.run = .off ∧ t.me.pc = s.nextPc ∧ t.me.x = s.me.x ∧ t.me.p = s.me.p ∧ t.me.tr = s.me.tr ∧ t.me.priv = s.me.priv ∧
      t.me.frm = s.me.frm ∧ t.me.dict = s.me.dict ∧ (t.core s.actor.core).fab = (s.core s.actor.core).fab ∧ t.mem = s.mem) ∧
  ∀ (s : State) (d a : Reg), (d ≠ a ∨ d = 0) →
    (∀ i r rest, (i = .evpop d a ∨ i = .evwait d a) → (s.core s.actor.core).evq = r :: rest →
      ∃ t, exec i s = .next t ∧ (t.core s.actor.core).evq = rest ∧ t.me.pc = s.nextPc ∧
        t.me.reg d = (if d = 0 then 0 else w (r.toNat % 2 ^ 64 : Nat)) ∧ t.me.reg a = (if a = 0 then 0 else w (r.toNat / 2 ^ 64 : Nat)) ∧
        (∀ x, x ≠ d → x ≠ a → t.me.reg x = s.me.reg x)) ∧
    ((s.core s.actor.core).evq = [] →
      exec (.evpop d a) s = .next (retired ((s.setReg d 0).setReg a 0)) ∧
      ∃ t, exec (.evwait d a) s = .next t ∧ t.me.run = .wait ∧ t.me.await = some .event ∧ t.me.pc = s.me.pc ∧ t.me.x = s.me.x)

/-- 04 R93: the word of CYC has the top halfword 0x9500, the register D, and every other field zero; a word of it with another field set is refused with RESERVED_FIELD. CYC writes to D the cycle counter as it stands in the ac that the instruction issues, and retires with no other effect. -/
def Obligations.CycleCounter : Prop :=
  (∀ (s : State) (d : Reg), exec (.cyc d) s = .next (wrote s d (w (s.cyc s.actor.core)))) ∧
  ∀ (d : BitVec 5) (r : BitVec 40),
    decode .core (0x9500#16 ++ 0#3 ++ d ++ r) = (if r = 0 then .ok none (.cyc d.toFin) else .bad .reservedField) ∧
    decode .display (0x9500#16 ++ 0#3 ++ d ++ r) = (if r = 0 then .ok none (.cyc d.toFin) else .bad .reservedField)

/-- 03 R58, R59, R61 to R64; 04 R84, R85: DICT.COMMIT marks a commit where an image is complete and else takes DICT_FORMAT; FENCE.F with PEND promotes the staged bank, counts GEN and clears PEND, while no load for the context is under way; DICT.RD and DICT.GEN answer entries and status; DICT.LD of an aligned image whose entries are all read and well formed loads the staged bank, misaligned it takes MISALIGNED, and an entry that faults leaves those before it and COMPLETE at 0. FENCE.F discards what the context has prefetched; FENCE retires, and with a release part at a scope wider than the agent every store of its core is performed. (The model's own choices in it: logs 4, 11.) -/
def Obligations.DictionaryInstructions : Prop :=
  ∀ (s : State) (d a : Reg) (g h : Bool) (o : BitVec 22) (sc : Scope) (od : Ord),
    (s.me.dict.complete = true → exec .dictCommit s = .next (retired (s.modMe fun c => { c with dict := { c.dict with pend := true } }))) ∧
    (s.me.dict.complete = false → exec .dictCommit s = .next (trapped s 0x0B 0)) ∧
    (s.me.dict.pend = true → loadingFor s = false → exec .fenceF s = .next (retired (s.modMe fun c =>
      { c with dict := { c.dict with active := c.dict.staged, activeId := c.dict.stagedId, gen := c.dict.gen + 1, pend := false }, pre := [] }))) ∧
    (s.me.dict.pend = false → exec .fenceF s = .next (retired (s.modMe fun c => { c with pre := [] }))) ∧
    (∃ t, exec (.fence sc od) s = .next (retired t) ∧ t.cores = s.cores ∧ t.actor = s.actor ∧ (∀ a, t.mem.byte a = s.mem.byte a) ∧
      (od = .rel ∨ od = .ar → sc ≠ .el → ∀ x ∈ t.mem.late, x.core ≠ s.actor.core)) ∧
    exec (.dictRd d a g h) s = .next (wrote s d
      (let e := Tab.look {} (if g then s.me.dict.staged else s.me.dict.active) ((s.reg a).toNat % 256); if h then e.desc.setWidth 64 else e.template)) ∧
    exec (.dictGen d) s = .next (wrote s d
      (w ((if s.me.dict.complete then 2 ^ 33 else 0) + (if s.me.dict.pend then 2 ^ 32 else 0) + s.me.dict.gen.toNat : Nat))) ∧
    exec (.dictGenId d) s = .next (wrote s d (w (s.me.dict.stagedId.toNat * 2 ^ 32 + s.me.dict.activeId.toNat))) ∧
    ((direct s a o).toNat % 16 ≠ 0 → exec (.dictLd d a o) s = .next (enterTrap (s.modMe fun c => { c with resume := none }) s.actor.core s.actor.ctx
      { code := 0x24, val := direct s a o, at_ := s.actor.pc, psz := s.actor.psz, done := some 0 })) ∧
    (let ea := (direct s a o).toNat
     let k0 := s.me.resume.getD 0
     let s0 := match s.me.resume with
       | none => s.modMe fun c => { c with dict := { c.dict with staged := [], pend := false, complete := false, stagedId := (s.reg d).setWidth 32 } }
       | some 0 => s.modMe fun c => { c with dict := { c.dict with pend := false, complete := false } }
       | some _ => s
     let unit : State → Nat → Nat → Mr Unit := fun s k _ => (vread s s.actor.core (ea + 16 * k) 16 .read s.user).andThen fun bs s =>
       let s := passStores s s.actor.core
       if (entryOf bs).valid && !((entryOf bs).wellFormed (ofBytesLE (bs.drop 12))) then .fault 0x0B (ea + 16 * k) s
       else .ok () (s.modMe fun c => { c with dict := { c.dict with staged := Tab.put {} c.dict.staged k (entryOf bs) } })
     ea % 16 = 0 →
     (∀ u, unitsServed 0 0 unit (256 - k0) k0 s0 = some u → exec (.dictLd d a o) s = .next (retired (u.modMe fun c => { c with dict := { c.dict with complete := true } }))) ∧
     (∀ u k c v t, k0 ≤ k → k < 256 → unitsServed 0 0 unit (k - k0) k0 s0 = some u → unit u k 0 = .fault c v t →
       exec (.dictLd d a o) s = .next (enterTrap (t.modMe fun x => { x with dict := { x.dict with complete := false }, resume := none }) t.actor.core t.actor.ctx
         { code := c, val := w v, at_ := t.actor.pc, psz := t.actor.psz, done := some k })))

/-- 02 R31; 03 R56, R57: a short parcel takes its entry from the active bank: an S16 parcel entry [13:8] with the fill [7:0], an S32 parcel entry [29:22] with the fill [21:0]; an entry that is not valid is DICT_UNDEFINED; an S16 parcel of a LONG entry, or holes wider than the fill, are DICT_SHORT_FILL; any other gives the entry's template with its holes taken, hole 0 first, from the fill's bits from 0 up. -/
def Obligations.ShortParcelExpansion : Prop :=
  ∀ (bank : Tab DictEntry) (p : Nat), p < 2 ^ 32 →
    let e16 := Tab.look {} bank (p / 256 % 64)
    let e32 := Tab.look {} bank (p / 2 ^ 22 % 256)
    let width (e : DictEntry) : Nat := e.desc.toNat / 2 ^ 20 % 16 + e.desc.toNat / 2 ^ 10 % 16 + e.desc.toNat % 16
    (e16.desc.getLsbD 31 = false → expandS16 bank p = .bad 0x06) ∧
    (e32.desc.getLsbD 31 = false → expandS32 bank p = .bad 0x06) ∧
    (e16.desc.getLsbD 31 = true → e16.desc.getLsbD 30 = true ∨ 8 < width e16 → expandS16 bank p = .bad 0x07) ∧
    (e32.desc.getLsbD 31 = true → 22 < width e32 → expandS32 bank p = .bad 0x07) ∧
    (e16.desc.getLsbD 31 = true → e16.desc.getLsbD 30 = false → width e16 ≤ 8 →
      ∃ v, expandS16 bank p = .word v ∧ ∀ i < 64, v.getLsbD i = filledBit e16 (p % 2 ^ 8) i) ∧
    (e32.desc.getLsbD 31 = true → width e32 ≤ 22 → ∃ v, expandS32 bank p = .word v ∧ ∀ i < 64, v.getLsbD i = filledBit e32 (p % 2 ^ 22) i)

/-- 05 R132 to R135, R117: CFG.LD with a free ply, whose image is read and passes its checks, fills it and writes its number to D, and with none traps with PLY_STATE; CFG.COMMIT of a ply staged for the context latches it, to retire with the commit, and of any other ply traps with PLY_STATE; CFG.DROP frees a staged ply of the context that is not latched; CFG.DROP.img removes the image's entry from the cache where no load is reading it; CFG.Q.ply, CFG.Q.img and CFG.Q.rsv answer in D and change nothing else. (The model's own choices in it: logs 21, 26.) -/
def Obligations.ConfigurationInstructions : Prop :=
  ∀ (s : State) (d a : Reg) (auto : Bool) (y : Fin 4),
    let k := s.actor.core
    let n := s.actor.ctx
    (∀ q p u, plyUnderLoad s k n = none → plyToLoad s k n auto y.val = some q → loadImage s k n (s.reg a) s.user = .ok p u →
      ∃ t, exec (.cfgLd d a auto y) s = .next (wrote t d (w q)) ∧ t.ply k q = p ∧ (∀ j, j ≠ q → t.ply k j = u.ply k j) ∧
        t.dies = u.dies ∧ t.parts = u.parts ∧ (∀ x, t.mem.byte x = u.mem.byte x)) ∧
    (plyUnderLoad s k n = none → auto = false → (s.ply k y.val).st ≠ .free → exec (.cfgLd d a auto y) s = .next (trapped s 0x31 0)) ∧
    (s.me.region = none → (s.ply k y.val).st = .staged → (s.ply k y.val).ctx = n →
      ∃ t, exec (.cfgCommit y) s = .next t ∧ t.me.latch = some { ply := y.val, commit := some s.nextPc } ∧ t.me.hold = true ∧ t.me.pc = s.me.pc ∧
        (s.me.bound = none → t.core k = { s.core k with ctxs := (t.core k).ctxs })) ∧
    (s.me.region = none → ((s.ply k y.val).st ≠ .staged ∨ (s.ply k y.val).ctx ≠ n) → exec (.cfgCommit y) s = .next (trapped s 0x31 0)) ∧
    ((s.me.latch.any fun l => decide (l.ply = y.val)) = false → (s.ply k y.val).st = .staged → (s.ply k y.val).ctx = n →
      ∃ t, exec (.cfgDrop y) s = .next t ∧ (t.ply k y.val).st = .free ∧ (∀ q, q ≠ y.val → t.ply k q = s.ply k q) ∧ t.me.pc = s.nextPc) ∧
    (∃ t, exec (.cfgDropImg a) s = .next t ∧ t.me.pc = s.nextPc ∧
      ((∀ x ∈ (s.core k).fab.cfg, x.addr = s.reg a → x.part = s.partOf k → (s.core k).fab.reads x = false) →
        cachedImage (t.core k) (s.reg a) (s.partOf k) = none)) ∧
    (∃ v, exec (.cfgQPly d) s = .next (wrote s d v) ∧ (s.me.bound = none → v.getLsbD 18 = false) ∧
      ∀ q < 4, v.toNat / 16 ^ q % 4 = plyCode (s.ply k q).st) ∧
    exec (.cfgQImg d a) s = .next (wrote s d (match cachedImage (s.core k) (s.reg a) (s.partOf k) with
      | some x => w (256 + x.slot)
      | none => 0)) ∧
    exec (.cfgQRsv d) s = .next (wrote s d (w (s.me.rsv.queue * 256 + s.me.rsv.count)))

/-- 05 R136 to R138; 04 R86, 09 R222: RGN.OPEN whose checks and store succeed binds the region and retires; RGN.WAIT waits on an open region, answers 0 for one that is done and 0x100 + CAUSE for one that failed; RGN.CLOSE unbinds a region that has ended and RGN.CLOSE.abort one that has ended too; with no region each of the three traps with REGION_STATE. YIELD outside an open region only retires, and in one it starts the next slice. -/
def Obligations.RegionInstructions : Prop :=
  ∀ (s : State) (d a : Reg),
    let k := s.actor.core
    let n := s.actor.ctx
    (∀ u, openRegion s k n (s.reg a) s.user = .ok () u → exec (.rgnOpen a) s = .next (retired u) ∧ ((u.ctx k n).region).isSome = true) ∧
    (s.me.region = none → exec (.rgnWait d) s = .next (trapped s 0x32 0) ∧ exec .rgnClose s = .next (trapped s 0x32 0) ∧
      exec .rgnCloseAbort s = .next (trapped s 0x32 0) ∧ exec .yield s = .next (retired s)) ∧
    (∀ g, s.me.region = some g →
      (g.state = .opened → (∃ t, exec (.rgnWait d) s = .next t ∧ t.me.run = .wait ∧ t.me.await = some .region ∧ t.me.pc = s.me.pc) ∧
        exec .rgnClose s = .next (trapped s 0x32 0) ∧
        (homeQueues s (dieOf k) (clusterOf k) = [] →
          exec .yield s = .next (retired (s.modMe fun c => { c with region := some { g with start := s.cyc k, used := 0 } })))) ∧
      (g.state = .done → exec (.rgnWait d) s = .next (wrote s d 0)) ∧
      (g.state = .faulted → exec (.rgnWait d) s = .next (wrote s d (w (0x100 + g.cause)))) ∧
      (g.state ≠ .opened → exec .yield s = .next (retired s) ∧ ∃ t, exec .rgnClose s = .next (retired t) ∧ exec .rgnCloseAbort s = .next (retired t) ∧ (t.ctx k n).region = none) ∧
      (∀ u, g.state = .opened → storeState s k g.rcb 3 s.user = .ok () u → ∃ t, exec .rgnCloseAbort s = .next (retired t) ∧ (t.ctx u.actor.core u.actor.ctx).region = none))

/-- 05 R111, R112, R139 to R141: PORT.BIND.hnd of a well-formed entry writes the handler table and PORT.UNBIND.hnd clears it; PORT.BIND.far and PORT.UNBIND.far bind and unbind an outgoing far index of a ply that the context holds; PERMIT.K sets K of an element of the bound ply; QRSV reserves in full or not at all; QPUSH puts its token into the queue and uses up one slot. (The model's own choices in it: logs 10, 78.) -/
def Obligations.PortAndQueueInstructions : Prop :=
  ∀ (s : State) (d a b c : Reg) (y : Fin 4) (kn : BitVec 4) (n : BitVec 5),
    let k := s.actor.core
    let q := (s.reg a).toNat % 2 ^ 14
    ((s.reg a).toNat / 2 ^ 14 = 0 → (s.reg a).toNat / 4 % 4 = 0 → (s.reg a).toNat / 2 ^ 12 % 4 ≠ 3 →
      ∃ t, exec (.portBindHnd a b) s = .next t ∧ Tab.find (t.core k).port.handlers ((s.reg b).toNat % 256) = some (s.reg a) ∧ t.me.pc = s.nextPc) ∧
    (∃ t, exec (.portUnbindHnd b) s = .next t ∧ Tab.find (t.core k).port.handlers ((s.reg b).toNat % 256) = none ∧ t.me.pc = s.nextPc) ∧
    (let i := (s.reg b).toNat % 8
     farOutgoing s y.val i = true →
      (let r := remoteOf k (s.reg a)
       coreIn r.core < 80 → s.partOf r.core = s.partOf k → declaredIncoming s r = true →
        ∃ t, exec (.portBindFar a b y) s = .next t ∧ (Tab.look {} (t.ply k y.val).fars i).bind = some r ∧ t.me.pc = s.nextPc) ∧
      (∃ t, exec (.portUnbindFar b y) s = .next t ∧ (Tab.look {} (t.ply k y.val).fars i).bind = none ∧ (Tab.look {} (t.ply k y.val).fars i).passes = [] ∧
        t.me.pc = s.nextPc)) ∧
    (∀ p, s.me.bound = some p → ∃ t, exec (.permitK a kn) s = .next t ∧ ((t.ply k p).elem ((s.reg a).toNat % 64)).k = kn.toNat ∧ t.me.pc = s.nextPc) ∧
    ((s.me.rsv.count = 0 ∨ s.me.rsv.queue = q) → queueWay s k q = .clear → (s.queue q).partid = s.partOf k → s.partOf k ≠ 0 →
      (s.me.rsv.count + n.toNat ≤ 255 → n.toNat ≤ (s.queue q).cap - ((s.queue q).toks.length + (s.queue q).reserved) →
        ∃ t, exec (.qrsv d a n) s = .next (wrote t d (w n.toNat)) ∧ (t.queue q).reserved = (s.queue q).reserved + n.toNat ∧
          t.me.rsv = { queue := q, count := s.me.rsv.count + n.toNat }) ∧
      ((255 < s.me.rsv.count + n.toNat ∨ (s.queue q).cap - ((s.queue q).toks.length + (s.queue q).reserved) < n.toNat) →
        exec (.qrsv d a n) s = .next (wrote s d 0))) ∧
    (s.me.rsv.queue = q → 0 < s.me.rsv.count → queueWay s k q = .clear →
      ∃ (t : State) (x : QTok), exec (.qpush a b c) s = .next (retired t) ∧ (t.queue q).toks = (s.queue q).toks ++ [x] ∧ x.tok = s.reg b ++ s.reg c ∧
        t.me.rsv = { s.me.rsv with count := s.me.rsv.count - 1 }) ∧
    ((s.me.rsv.queue ≠ q ∨ s.me.rsv.count = 0) → exec (.qpush a b c) s = .next (trapped s 0x33 0))

/-- 10 R244 to R246: in user mode POLICY.LD and POLICY.SWAP trap with PERMISSION; in supervisor mode, with no swap under way, POLICY.LD of x0 stages the built-in policy, and of another register the program that it reads; POLICY.SWAP with a staged policy and no swap under way begins the swap and writes the next generation to D. -/
def Obligations.PolicyLoadAndSwap : Prop :=
  ∀ (s : State) (d a : Reg),
    let p := s.partOf s.actor.core
    let x := (s.part p).policy
    (s.me.priv = false → exec (.policyLd a) s = .next (trapped s 0x22 s.actor.bits) ∧ exec (.policySwap d) s = .next (trapped s 0x22 s.actor.bits)) ∧
    (s.me.priv = true → x.swp = true → exec (.policyLd a) s = .next (trapped s 0x42 0) ∧ exec (.policySwap d) s = .next (trapped s 0x42 0)) ∧
    (s.me.priv = true → x.swp = false →
      (∃ t, exec (.policyLd 0) s = .next t ∧ (t.part p).policy = { x with staged := .builtin } ∧ t.me.pc = s.nextPc) ∧
      (∀ g u, a ≠ 0 → readPolicy s s.actor.core (s.reg a).toNat s.user = .ok g u →
        ∃ t, exec (.policyLd a) s = .next (retired t) ∧ (t.part p).policy.staged = .prog g) ∧
      (x.staged = .empty → exec (.policySwap d) s = .next (trapped s 0x42 0)) ∧
      (x.staged ≠ .empty → ∃ t, exec (.policySwap d) s = .next (wrote t d (w ((x.gen + 1) % 256))) ∧ (t.part p).policy.swp = true ∧
        (t.part p).policy.swapper = some s.actor.core ∧ t.cores = s.cores ∧ t.mem = s.mem))

/-- 11 R256; 12 R273 to R277: STR.AFF and STR.IND of a port that the context owns arm it with an aligned descriptor that keeps the rules; STR.GO of an armed port, whose checks pass, queues its command; STR.BAR retires and queues nothing: a command queued later on a port of its mask takes no step while one queued before on any of them is open; STR.WAIT answers the error bits of idle ports and clears them, and waits while one is not idle; WIN.SET of no bytes writes 0, WIN.CLR empties its entry or all; a port that the context does not own traps with STREAM_STATE. (The model's own choices in it: logs 30, 63.) -/
def Obligations.StreamInstructions : Prop :=
  ∀ (s : State) (d a b : Reg) (port : Fin 16) (e : Fin 4) (mask : BitVec 16) (ind : Bool),
    let k := s.actor.core
    let ea := (s.reg a).toNat % 2 ^ 14
    let bs := localBytes (s.core k) ea 64
    let i : Instr := if ind then .strInd a port else .strAff a port
    (ea % 64 ≠ 0 → exec i s = .next (trapped s 0x24 (w ea))) ∧
    (ea % 64 = 0 → portPly s k s.actor.ctx port.val = none → exec i s = .next (trapped s 0x37 (w port.val))) ∧
    (∀ q, ea % 64 = 0 → portPly s k s.actor.ctx port.val = some q → (∀ j < 64, Tab.look false (s.core k).bad (ea + j) = false) →
      ((ind = true ∨ fld bs 0x31 1 = 1) → ((s.ply k q).feeder (.stream port.val)).isSome = true) →
      (¬(ind = true ∨ fld bs 0x31 1 = 1) → ((s.ply k q).routeOf (.stream port.val)).isSome = true) →
      descOk ind bs = true → baseOk (descOf ind bs) = true →
      ∃ t, exec i s = .next t ∧ ((t.core k).stream port.val).armed = some (descOf ind bs, q) ∧
        ((t.core k).stream port.val).queue = ((s.core k).stream port.val).queue ∧ t.me.pc = s.nextPc) ∧
    (∀ x q, goFault s k s.actor.ctx port.val (s.reg a) = none → ((s.core k).stream port.val).armed = some (x, q) → ((s.core k).stream port.val).queue.length < 4 →
      ∃ t c, exec (.strGo a port) s = .next t ∧ ((t.core k).stream port.val).queue = ((s.core k).stream port.val).queue ++ [c] ∧
        c.desc = { x with base := goBase x (s.reg a) } ∧ c.ply = q ∧ c.after = ((s.core k).stream port.val).bar ∧ t.me.pc = s.nextPc) ∧
    (∃ t, exec (.strBar mask) s = .next t ∧ (∀ m, ((t.core k).stream m).queue = ((s.core k).stream m).queue) ∧ t.me.pc = s.nextPc ∧
      ∀ m < 16, (mask.getLsbD m = true → ∀ j < 16, mask.getLsbD j = true → ∀ y ∈ ((s.core k).stream j).ids, y ∈ ((t.core k).stream m).bar) ∧
        (mask.getLsbD m = false → ((t.core k).stream m).bar = ((s.core k).stream m).bar)) ∧
    (∀ m c rest, ((s.core k).stream m).run = none → ((s.core k).stream m).queue = c :: rest → (∃ y ∈ c.after, ∃ j < 16, y ∈ ((s.core k).stream j).ids) →
      exec (.streamElement k m) s = .next s) ∧
    ((∀ m < 16, mask.getLsbD m = true → streamIdle s k m = true) →
      ∃ t v, exec (.strWait d mask) s = .next (wrote t d v) ∧
        (∀ m < 16, v.getLsbD m = (mask.getLsbD m && ((s.core k).stream m).err)) ∧ (∀ m < 16, mask.getLsbD m = true → ((t.core k).stream m).err = false)) ∧
    ((∃ m < 16, mask.getLsbD m = true ∧ streamIdle s k m = false) →
      ∃ t, exec (.strWait d mask) s = .next t ∧ t.me.run = .wait ∧ t.me.await = some (.streams mask) ∧ t.me.pc = s.me.pc) ∧
    (∀ q, portPly s k s.actor.ctx port.val = some q →
      (s.reg b = 0 → exec (.winSet d a b e port) s = .next (wrote s d 0)) ∧
      (∀ x l u, s.reg b ≠ 0 → (s.reg a).toNat < 2 ^ 55 →
        windowWalk s k port.val 1 (s.reg a).toNat (winPages (s.reg a) (s.reg b)) .read (fun e => e.testBit 6) = .ok (some x, l) u →
        ∃ t y, exec (.winSet d a b e port) s = .next (wrote t d (w x.npg)) ∧ Tab.find ((t.core k).stream port.val).wins e.val = some y ∧
          y.vbase = (s.reg a).toNat / 65536 ∧ y.npg = x.npg ∧ y.pbase = x.pbase) ∧
      (∃ t, exec (.winClr true e port) s = .next t ∧ ((t.core k).stream port.val).wins = [] ∧ t.me.pc = s.nextPc) ∧
      (∃ t, exec (.winClr false e port) s = .next t ∧ Tab.find ((t.core k).stream port.val).wins e.val = none ∧ t.me.pc = s.nextPc)) ∧
    (portPly s k s.actor.ctx port.val = none → exec (.winSet d a b e port) s = .next (trapped s 0x37 (w port.val)) ∧
      exec (.winClr true e port) s = .next (trapped s 0x37 (w port.val)) ∧ exec (.winClr false e port) s = .next (trapped s 0x37 (w port.val)))

namespace Sys2Proof.Claims

open Sys2Proof Sys2Proof.Machine

/-- An instruction that enters the matrix queue: the registers it reads, by its constructor (08 R188). -/
def matrixOperands (s : State) : Instr → Option (Word × Word)
  | .mxLdb a _ _ => some (s.reg a, 0)
  | .mxScale a _ _ _ => some (s.reg a, 0)
  | .mxThr a => some (s.reg a, 0)
  | .mxSamp a b => some (s.reg a, s.reg b)
  | .mm a b _ => some (s.reg a, s.reg b)
  | .mmz a b _ => some (s.reg a, s.reg b)
  | .mmr a b _ _ => some (s.reg a, s.reg b)
  | .mxDrain a b _ _ _ _ _ => some (s.reg a, s.reg b)
  | .mxGang a => some (s.reg a, 0)
  | .mxGangLeave => some (0, 0)
  | .mxEdge a b _ _ _ _ => some (s.reg a, s.reg b)
  | _ => none

/-- The low 32 bits of v are an FP32 that is a NaN or below 0; -0 is neither (08 R196, R197). -/
def negativeOrNan (v : Word) : Prop := let x := v.toNat % 2 ^ 32; (0x7F800000 < x ∧ x < 0x80000000) ∨ 0x80000000 < x

/-- A register value that the issue checks of R191 to R203 refuse. -/
def matrixRefuses (s : State) : Instr → Word → Prop
  | .mxLdb a _ _, v => v = s.reg a ∧ (s.reg a).toNat % 64 ≠ 0
  | .mxScale a _ _ ben, v => v = s.reg a ∧ ben = true ∧ (s.reg a).toNat % 64 ≠ 0
  | .mxThr a, v => v = s.reg a ∧ negativeOrNan (s.reg a)
  | .mxSamp _ b, v => v = s.reg b ∧ negativeOrNan (s.reg b)
  | .mm a b _, v => mmBad (s.reg a) (s.reg b) = some v
  | .mmz a b _, v => mmBad (s.reg a) (s.reg b) = some v
  | .mmr a b _ _, v => mmBad (s.reg a) (s.reg b) = some v
  | .mxDrain a b _ _ _ _ dt, v => drainBad (s.reg a) (s.reg b) dt = some v
  | .mxGang a, v => v = s.reg a ∧
    ((s.reg a).toNat / 2 ^ 4 % 4 + 1 ≤ (s.reg a).toNat / 2 ^ 9 % 4 ∨ (s.reg a).toNat / 2 ^ 6 % 8 + 1 ≤ (s.reg a).toNat / 2 ^ 11 % 8)
  | .mxEdge a b _ _ g ne, v => edgeBad (s.reg a) (s.reg b) (g.val + 1) (ne.toNat + 1) = some v
  | _, _ => False

/-- What a DS instruction that queues an operation queues: the instruction with the values of its registers (19 R361). -/
def displayOperands (s : State) : Instr → Option (Fin 4 × Word × Word)
  | .dsMe a b h => some (h, s.reg a, s.reg b)
  | .dsWarp a b _ h => some (h, s.reg a, s.reg b)
  | .dsNet a b h => some (h, s.reg a, s.reg b)
  | _ => none

/-- The band identifier in v passes the check of R361 on its head. -/
def bandNamed (s : State) (h : Nat) (v : Word) : Prop :=
  v.toNat / 2 ^ 48 = 0 ∧ v.toNat / 2 ^ 9 % 2 ^ 7 = 0 ∧ v.toNat % 2 ^ 9 < (s.iod.head h).vact / 16

end Sys2Proof.Claims

/-- 08 R187, R189, R196, R200: a matrix instruction with no pending fault, whose issue check passes and with room in the queue of 16, enters the matrix queue with its operands, adds 1 to the context's outstanding count and retires; one whose check fails traps with MATRIX_FORMAT and the register's value; one issued with a pending fault traps with it. MX.WAIT retires where at most N operations are outstanding and otherwise waits. (The model's own choices in it: log 53.) -/
def Obligations.MatrixInstructionsEnterTheQueue : Prop :=
  ∀ (s : State) (i : Instr) (a b : Word) (n : BitVec 5),
    let k := s.actor.core
    (matrixOperands s i = some (a, b) →
      (s.me.mx.fault = none → (∀ v, ¬ matrixRefuses s i v) → (s.core k).mx.queue.length < 16 →
        ∃ t x, exec i s = .next t ∧ (t.core k).mx.queue = (s.core k).mx.queue ++ [x] ∧ x.act = i ∧ x.a = a ∧ x.b = b ∧ x.ctx = s.actor.ctx ∧
          t.me.mx = { s.me.mx with outstanding := s.me.mx.outstanding + 1 } ∧ t.me.pc = s.nextPc ∧ t.me.x = s.me.x) ∧
      (∀ v, s.me.mx.fault = none → matrixRefuses s i v → exec i s = .next (trapped s 0x51 v)) ∧
      (∀ c v, s.me.mx.fault = some (c, v) →
        exec i s = .next (trapped (s.modMe fun c => { c with mx := { c.mx with fault := none } }) c.code v))) ∧
    (s.me.mx.fault = none → s.me.mx.outstanding ≤ n.toNat → exec (.mxWait n) s = .next (retired s)) ∧
    (s.me.mx.fault = none → n.toNat < s.me.mx.outstanding →
      ∃ t, exec (.mxWait n) s = .next t ∧ t.me.run = .wait ∧ t.me.await = some (.matrix n.toNat) ∧ t.me.pc = s.me.pc)

/-- 19 R361 to R363, R367, R368: on an enabled head with no pending failure, DS.LINE writes LINE; DS.LINE.wait writes it once LINE reaches reg(A) and otherwise waits; DS.BAND of an aligned descriptor that is well formed for the open frame registers it and writes D(f, 0); DS.FALL with LV = 0 writes the band's status; DS.ME, DS.WARP and DS.NET on a frame with a descriptor of its own queue their operation; DS.EMIT of a committed band writes its status. On a disabled head each traps with DISPLAY_STATE, but a DS.EMIT that waits already. (The model's own choices in it: logs 34, 38, 39.) -/
def Obligations.DisplayInstructions : Prop :=
  ∀ (s : State) (d a : Reg) (h lv : Fin 4) (up : Bool),
    let y := s.iod.head h.val
    let f := (s.reg a).toNat / 2 ^ 16 % 2 ^ 32
    let b := (s.reg a).toNat % 2 ^ 9
    (s.iod.dsFault = none → bit y.hctl 0 = true →
      exec (.dsLine d h) s = .next (wrote s d (w y.line)) ∧
      ((s.reg a).toNat ≤ y.line → exec (.dsLineWait d a h) s = .next (wrote s d (w y.line))) ∧
      (y.line < (s.reg a).toNat → ∃ t, exec (.dsLineWait d a h) s = .next t ∧ t.me.run = .wait ∧ t.me.await = some (.line h.val (s.reg a).toNat) ∧ t.me.pc = s.me.pc) ∧
      (∀ x, (s.reg a).toNat % 64 = 0 →
        (∀ j < 64, Tab.look false (s.core s.actor.core).bad ((s.reg a).toNat % 2 ^ 14 + j) = false) →
        frameOf y (localBytes (s.core s.actor.core) ((s.reg a).toNat % 2 ^ 14) 64) = some x → x.f = y.openFrame →
        ∃ t, exec (.dsBand d a h) s = .next (wrote t d (w (y.due x.f 0))) ∧ x ∈ (t.iod.head h.val).frames ∧ t.cores = s.cores ∧ t.mem = s.mem) ∧
      (∀ x, bandNamed s h.val (s.reg a) → y.holds f = some x →
        exec (.dsFall d a 0 h) s = .next (wrote s d (y.status b)) ∧
        (lv ≠ 0 → exec (.dsFall d a lv h) s =
          .next (wrote (startFallback s h.val f b lv.val true false) d (((startFallback s h.val f b lv.val true false).iod.head h.val).status b))) ∧
        (y.committed f b = true → ∃ t, exec (.dsEmit d a h) s = .next (wrote t d (y.status b)) ∧ t.iod.heads = s.iod.heads ∧ t.cores = s.cores ∧ t.mem = s.mem) ∧
        (∀ i v, displayOperands s i = some (h, s.reg a, v) → x.taken = false → s.iod.dsq.length < 8 →
          ∃ t o, exec i s = .next t ∧ t.iod.dsq = s.iod.dsq ++ [o] ∧ o.act = i ∧ o.a = s.reg a ∧ o.b = v ∧ t.me.pc = s.nextPc))) ∧
    (s.iod.dsFault = none → bit y.hctl 0 = false →
      ∀ i, (i = .dsLine d h ∨ i = .dsLineWait d a h ∨ i = .dsBand d a h ∨ i = .dsFall d a lv h ∨ i = .dsMe a d h ∨ i = .dsNet a d h ∨
        i = .dsWarp a d up h ∨ (i = .dsEmit d a h ∧ s.iod.emit = none)) →
        exec i s = .next (trapped s 0x64 (w h.val)))

namespace Sys2Proof.Claims

open Sys2Proof Sys2Proof.Machine

/-- Lane j of a doubleword under a type (07 R156). -/
def laneOf (t : Ty) (x : Word) (j : Nat) : BitVec t.width := (x >>> (j * t.width)).setWidth t.width

/-- num(x, T, j) of an integer type (07 R156). -/
def num (t : Ty) (x : Word) (j : Nat) : Int := if tySignedLane t then (laneOf t x j).toInt else (laneOf t x j).toNat

/-- An integer clamped to the range of an integer type of width n (07 R158). -/
def clamp (t : Ty) (n : Nat) (x : Int) : Int := if tySignedLane t then max (-2 ^ (n - 1)) (min (2 ^ (n - 1) - 1) x) else max 0 (min (2 ^ n - 1) x)

/-- The type of half the width, and of twice the width, that holds packed and unpacked lanes (07 R161). -/
def halfTy : Ty → Ty
  | .i16 => .i8
  | .u16 => .u8
  | .i32 => .i16
  | .u32 => .u16
  | .i64 => .i32
  | _ => .u32

/-- See `halfTy`. -/
def doubleTy : Ty → Ty
  | .i8 => .i16
  | .u8 => .u16
  | .i16 => .i32
  | .u16 => .u32
  | .i32 => .i64
  | _ => .u64

/-- The actions of R158, R160, R161 and R169 that give a value: D, the sources, the type of the result's lanes, and each lane as an exact integer cut to the lane. -/
def laneResult (s : State) : Instr → Option (EDst × List ESrc × Ty × (Nat → Int))
  | .vadd d a b t => some (d, [a, b], t, fun j => num t (s.src a) j + num t (s.src b) j)
  | .vsub d a b t => some (d, [a, b], t, fun j => num t (s.src a) j - num t (s.src b) j)
  | .vadds d a b t => some (d, [a, b], t, fun j => clamp t t.width (num t (s.src a) j + num t (s.src b) j))
  | .vsubs d a b t => some (d, [a, b], t, fun j => clamp t t.width (num t (s.src a) j - num t (s.src b) j))
  | .vmul d a b t => some (d, [a, b], t, fun j => num t (s.src a) j * num t (s.src b) j)
  | .vmulh d a b t => some (d, [a, b], t, fun j => num t (s.src a) j * num t (s.src b) j / 2 ^ t.width)
  | .vmad d a b c t => some (d, [a, b, c], t, fun j => num t (s.src a) j * num t (s.src b) j + num t (s.src c) j)
  | .vabs d a t => some (d, [a], t, fun j => (num t (s.src a) j).natAbs)
  | .vneg d a t => some (d, [a], t, fun j => -(num t (s.src a) j))
  | .vmin d a b t => some (d, [a, b], t, fun j => min (num t (s.src a) j) (num t (s.src b) j))
  | .vmax d a b t => some (d, [a, b], t, fun j => max (num t (s.src a) j) (num t (s.src b) j))
  | .vand d a b => some (d, [a, b], .u64, fun _ => (s.src a &&& s.src b).toNat)
  | .vor d a b => some (d, [a, b], .u64, fun _ => (s.src a ||| s.src b).toNat)
  | .vxor d a b => some (d, [a, b], .u64, fun _ => (s.src a ^^^ s.src b).toNat)
  | .vandn d a b => some (d, [a, b], .u64, fun _ => (s.src a &&& ~~~(s.src b)).toNat)
  | .vnot d a => some (d, [a], .u64, fun _ => (~~~(s.src a)).toNat)
  | .vshl d a b t => some (d, [a, b], t, fun j => (laneOf t (s.src a) j).toNat * 2 ^ ((laneOf t (s.src b) j).toNat % t.width))
  | .vshr d a b t => some (d, [a, b], t, fun j => (laneOf t (s.src a) j).toNat / 2 ^ ((laneOf t (s.src b) j).toNat % t.width))
  | .vsra d a b t => some (d, [a, b], t, fun j => (laneOf t (s.src a) j).toInt / 2 ^ ((laneOf t (s.src b) j).toNat % t.width))
  | .vpopc d a t => some (d, [a], t, fun j => ((List.range t.width).filter fun i => (laneOf t (s.src a) j).getLsbD i).length)
  | .vclz d a t => some (d, [a], t, fun j => if (laneOf t (s.src a) j).toNat = 0 then t.width else (t.width : Int) - 1 - (laneOf t (s.src a) j).toNat.log2)
  | .vsel d a b c => some (d, [a, b, c], .u64, fun _ => ((s.src a &&& s.src c) ||| (s.src b &&& ~~~(s.src c))).toNat)
  | .vperm d a b c =>
    some (d, [a, b, c], .u8, fun j =>
      let k := (laneOf .u8 (s.src c) j).toNat
      if 128 ≤ k then 0 else if k % 16 < 8 then (laneOf .u8 (s.src a) (k % 16)).toNat else (laneOf .u8 (s.src b) (k % 16 - 8)).toNat)
  | .vpack d a b t =>
    some (d, [a, b], halfTy t, fun j => clamp t (t.width / 2) (if j < t.lanes then num t (s.src a) j else num t (s.src b) (j - t.lanes)))
  | .vunpk d a t => some (d, [a], doubleTy t, fun j => num t (s.src a) j)
  | .mov d a => some (d, [a], .u64, fun _ => (s.src a).toNat)
  | .const d ti imm => some (d, [], .u64, fun _ => (immOf ti imm).toNat)
  | _ => none

/-- The token that a data firing emits, and the one that an end firing emits (05 R103). -/
def dataToken (s : State) (l : List ESrc) (v : Word) (tag : Nat) : Token := { data := v, tag := tag, ply := s.actor.ply, ray := s.descends l }

/-- See `dataToken`. -/
def endToken (s : State) : Token := { ply := s.actor.ply, e := true, x := s.headsX, ray := s.heads.any (·.ray) }

/-- s1 once POP of the firing rule is popped and a token is placed on every output of a mask; none without room (05 R103, R107). -/
def placed (s s1 : State) (mask : Nat) (t : Token) : Option State :=
  let a := s.actor
  emitMask (popMask s1 a.core a.ply a.elem (trigPop s.trig)) a.core a.ply a.elem mask t none

/-- s with D of the firing element written from sources l. -/
def withD (s : State) (d : EDst) (l : List ESrc) (v : Word) : State := s.modEply fun x => x.setD d v (s.descends l)

/-- An instruction fires with the result v in D where the outputs have room, and without room changes nothing; on end heads it places an end token instead (05 R101, R103). -/
def firesWith (s : State) (i : Instr) (d : EDst) (l : List ESrc) (v : Word) : Prop :=
  (s.endFiring = false → exec i s = .next ((placed s (withD s d l v) (trigEmit s.trig) (dataToken s l v s.tg)).getD s)) ∧
  (s.endFiring = true → exec i s = .next ((placed s s (trigEmit s.trig) (endToken s)).getD s))

/-- The compares of R159: their type, predicate and condition. -/
def laneCompare : Instr → Option (EDst × ESrc × ESrc × Ty × Pred × (Int → Int → Bool))
  | .vcmpEq d a b t p => some (d, a, b, t, p, fun x y => x == y)
  | .vcmpNe d a b t p => some (d, a, b, t, p, fun x y => x != y)
  | .vcmpLt d a b t p => some (d, a, b, t, p, fun x y => decide (x < y))
  | .vcmpLe d a b t p => some (d, a, b, t, p, fun x y => decide (x ≤ y))
  | .vcmpGt d a b t p => some (d, a, b, t, p, fun x y => decide (x > y))
  | .vcmpGe d a b t p => some (d, a, b, t, p, fun x y => decide (x ≥ y))
  | _ => none

/-- -1, 0 or 1 as a value that is not NaN lies below, at or above another (07 R164); every finite value of a format is a whole multiple of 2^-1100. -/
def orderOf : Machine.Num → Machine.Num → Int
  | .inf x, .inf y => if x = y then 0 else if x then -1 else 1
  | .inf x, _ => if x then -1 else 1
  | _, .inf y => if y then 1 else -1
  | x, y => if x.atExp (-1100) < y.atExp (-1100) then -1 else if x.atExp (-1100) = y.atExp (-1100) then 0 else 1

/-- The compares of R164: their type, predicate, answer on a NaN, and condition on the order of the operands. -/
def floatCompare : Instr → Option (EDst × ESrc × ESrc × Ty × Pred × Bool × (Int → Bool))
  | .fcmpEq d a b t p => some (d, a, b, t, p, false, fun o => o == 0)
  | .fcmpNe d a b t p => some (d, a, b, t, p, true, fun o => o != 0)
  | .fcmpLt d a b t p => some (d, a, b, t, p, false, fun o => decide (o < 0))
  | .fcmpLe d a b t p => some (d, a, b, t, p, false, fun o => decide (o ≤ 0))
  | .fcmpGt d a b t p => some (d, a, b, t, p, false, fun o => decide (o > 0))
  | .fcmpGe d a b t p => some (d, a, b, t, p, false, fun o => decide (o ≥ 0))
  | .fcmpUn d a b t p => some (d, a, b, t, p, true, fun _ => false)
  | _ => none

/-- A masked compare fires: all ones in the lanes that hold, and the condition of lane 0 in its predicate (07 R159, R164). -/
def compareFires (s : State) (i : Instr) (d : EDst) (a b : ESrc) (t : Ty) (p : Pred) (holds : Nat → Bool) : Prop :=
  ∃ v : Word, (∀ j < t.lanes, laneOf t v j = if holds j then BitVec.allOnes t.width else 0) ∧
    (s.endFiring = false → exec i s = .next ((placed s (s.modEply fun x => (x.setD d v (s.descends [a, b])).setP p (holds 0) (s.descends [a, b])) (trigEmit s.trig)
      (dataToken s [a, b] v s.tg)).getD s)) ∧
    (s.endFiring = true → exec i s = .next ((placed s s (trigEmit s.trig) (endToken s)).getD s))

/-- The exact result of a lane of the rounding actions of R162, under a mode, in the number type of the model. -/
def exactResult (s : State) (m : Rm) : Instr → Option (EDst × List ESrc × Ty × Rm × (Nat → Machine.Num))
  | .fadd d a b t rm => some (d, [a, b], t, rm, fun j => sumNum m [s.num t a j, s.num t b j])
  | .fsub d a b t rm => some (d, [a, b], t, rm, fun j => sumNum m [s.num t a j, (s.num t b j).neg])
  | .fmul d a b t rm => some (d, [a, b], t, rm, fun j => mulNum (s.num t a j) (s.num t b j))
  | .ffma d a b c t rm => some (d, [a, b, c], t, rm, fun j => sumNum m [mulNum (s.num t a j) (s.num t b j), s.num t c j])
  | .fdiv d a b t rm => some (d, [a, b], t, rm, fun j => divNum (s.num t a j) (s.num t b j))
  | .frcp d a t rm => some (d, [a], t, rm, fun j => divNum (numOfInt 1) (s.num t a j))
  | .fsqrt d a t rm => some (d, [a], t, rm, fun j => sqrtNum (s.num t a j))
  | .frsq d a t rm => some (d, [a], t, rm, fun j => rsqNum (s.num t a j))
  | .fexp2 d a t rm => some (d, [a], t, rm, fun j => exp2Num (s.num t a j))
  | .flog2 d a t rm => some (d, [a], t, rm, fun j => log2Num (s.num t a j))
  | _ => none

/-- The floating-point actions that do not round: a lane of the result from the lanes of the sources (07 R162, R163, R165). -/
def plainFloat (s : State) : Instr → Option (EDst × List ESrc × Ty × (Nat → Nat))
  | .fabs d a t => some (d, [a], t, fun j => (laneOf t (s.src a) j).toNat % 2 ^ (t.width - 1))
  | .fneg d a t => some (d, [a], t, fun j => ((laneOf t (s.src a) j) ^^^ BitVec.ofNat _ (2 ^ (t.width - 1))).toNat)
  | .fmin d a b t => some (d, [a, b], t, fun j => minLane t false (laneU t (s.src a) j) (laneU t (s.src b) j))
  | .fmax d a b t => some (d, [a, b], t, fun j => minLane t true (laneU t (s.src a) j) (laneU t (s.src b) j))
  | .fclass d a t => some (d, [a], t, fun j => classOf t (laneU t (s.src a) j))
  | _ => none

/-- An action whose firing only computes: it gives a value from its sources, and stores, sends and requests nothing. -/
def computes (s : State) (i : Instr) : Option EDst :=
  match laneResult s i, laneCompare i, floatCompare i, exactResult s .rne i, plainFloat s i with
  | some (d, _), _, _, _, _ => some d
  | _, some (d, _), _, _, _ => some d
  | _, _, some (d, _), _, _ => some d
  | _, _, _, some (d, _), _ => some d
  | _, _, _, _, some (d, _) => some d
  | _, _, _, _, _ =>
    match i with
    | .tagi d _ _ _ => some d
    | .steer d _ _ => some d
    | .gate d _ _ => some d
    | .cvt d _ _ _ _ _ => some d
    | .crsub d _ _ _ _ => some d
    | .dot d _ _ _ _ _ => some d
    | .tsLd d _ _ => some d
    | _ => none

end Sys2Proof.Claims

/-- 07 R158, R160, R161, R169; 05 R103: the integer, logic, selection, packing and move actions give their lanes, each an exact integer cut to its lane, in D and on the outputs; without room on its outputs a firing changes nothing. -/
def Obligations.LaneResults : Prop :=
  ∀ (s : State) (i : Instr) (d : EDst) (l : List ESrc) (t : Ty) (f : Nat → Int), instrWf i = true →
    laneResult s i = some (d, l, t, f) →
    ∃ v : Word, (∀ j < t.lanes, laneOf t v j = BitVec.ofInt t.width (f j)) ∧ firesWith s i d l v

/-- 07 R159, R164: VCMP and FCMP give all ones in each lane whose condition holds and zero in the others, and the condition of lane 0 in their predicate; with a NaN operand FCMP.ne and FCMP.un hold and the other FCMP do not; -0 equals +0. -/
def Obligations.LaneCompares : Prop :=
  ∀ (s : State) (i : Instr) (d : EDst) (a b : ESrc) (t : Ty) (p : Pred), instrWf i = true →
    (∀ f, laneCompare i = some (d, a, b, t, p, f) → compareFires s i d a b t p fun j => f (num t (s.src a) j) (num t (s.src b) j)) ∧
    (∀ un f, floatCompare i = some (d, a, b, t, p, un, f) →
      compareFires s i d a b t p fun j =>
        if s.num t a j = .nan ∨ s.num t b j = .nan then un else f (orderOf (s.num t a j) (s.num t b j)))

/-- 07 R162, R163, R165 to R168; 06 R148, R150: the floating-point actions give in each lane the exact result of R162 (log 12 for FEXP2 and FLOG2) rounded once in the mode of the rule, with DYN from FRM and the draws of SR taken lane by lane; FABS and FNEG clear and invert the sign bit; FMIN, FMAX and FCLASS give their lanes; CVT, CRSUB and DOT complete with their one rounding. (The model's own choices in it: logs 12, 82.) -/
def Obligations.FloatResults : Prop :=
  ∀ (s : State) (i : Instr) (d : EDst) (l : List ESrc) (t : Ty), instrWf i = true →
    (∀ (g : Nat → Nat), plainFloat s i = some (d, l, t, g) →
      ∃ v : Word, (∀ j < t.lanes, (laneOf t v j).toNat = g j) ∧ firesWith s i d l v) ∧
    (∀ (m rm : Rm) (g : Nat → Machine.Num), m = s.mode rm → exactResult s m i = some (d, l, t, rm, g) →
      let us := (takeDraws s m t.lanes).1
      let s1 := (takeDraws s m t.lanes).2
      ∃ v : Word, (∀ j < t.lanes, (laneOf t v j).toNat = roundFp (fmtOf t) m ((us[j]?).getD 0) (g j)) ∧
        (s.endFiring = false → exec i s = .next ((placed s (s1.modEply fun x => x.setD d v (s.descends l)) (trigEmit s.trig) (dataToken s l v s.tg)).getD s)) ∧
        (s.endFiring = true → exec i s = .next ((placed s s (trigEmit s.trig) (endToken s)).getD s))) ∧
    (∀ (a : ESrc) (td : Ty) (o : BitVec 4) (rm : Rm), i = .cvt d a t td o rm → s.mode rm ≠ .sr →
      ∃ v : Word, firesWith s i d ([a] ++ dstSrc d) v ∧
        (td.lanes ≤ t.lanes → ∀ j < td.lanes, (laneOf td v j).toNat = convLane t td (s.mode rm) 0 (laneU t (s.src a) (o.toNat + j))) ∧
        (t.lanes < td.lanes → ∀ j < td.lanes, (laneOf td v j).toNat =
          if o.toNat ≤ j ∧ j < o.toNat + t.lanes then convLane t td (s.mode rm) 0 (laneU t (s.src a) (j - o.toNat)) else laneU td (s.oldD d) j)) ∧
    (∀ (a b : ESrc) (ln : Bool) (rm : Rm), i = .crsub d a b ln rm → s.mode rm ≠ .sr →
      ∃ v : Word, firesWith s i d ([a, b] ++ dstSrc d) v ∧
        (laneOf .f32 v (if ln then 1 else 0)).toNat = roundFp fp32 (s.mode rm) 0 (sumNum (s.mode rm) [s.num .f64 a 0, (s.num .f64 b 0).neg]) ∧
        laneOf .f32 v (if ln then 0 else 1) = laneOf .f32 (s.oldD d) (if ln then 0 else 1)) ∧
    (∀ (a b c : ESrc) (rm : Rm), i = .dot d a b c t rm → s.mode rm ≠ .sr →
      ∃ v : Word, firesWith s i d [a, b, c] v ∧ laneOf .f32 v 1 = laneOf .f32 (s.src c) 1 ∧
        (tyFloat t = true → (laneOf .f32 v 0).toNat = roundFp fp32 (s.mode rm) 0
          (sumNum (s.mode rm) (s.num .f32 c 0 :: (List.range t.lanes).map fun j => mulNum (s.num t a j) (s.num t b j)))) ∧
        (tyFloat t = false → laneOf .i32 v 0 = BitVec.ofInt 32 (clamp .i32 32
          (num .i32 (s.src c) 0 + ((List.range t.lanes).map fun j => num t (s.src a) j * num t (s.src b) j).sum))))

/-- 06 R143, R148: rounding, in any mode and whatever the draw, gives back every encoding of a format that is not a NaN from its own value; a NaN gives the canonical NaN. -/
def Obligations.RoundingKeepsRepresentable : Prop :=
  ∀ (f : Fmt) (rm : Rm) (u x : Nat), f ∈ [fp64, fp32, fp16, bf16, e5m2, e4m3, e2m1] → x < 2 ^ f.bits →
    (decodeFp f x ≠ .nan → roundFp f rm u (decodeFp f x) = x) ∧ (decodeFp f x = .nan → roundFp f rm u (decodeFp f x) = f.nan)

/-- 05 R95, R103: an action that only computes leaves every d register of its element but D, every context of every core, all of memory, local memory, the tile store, the dies, the partitions and the I/O die as they were. -/
def Obligations.ElementFiringFrame : Prop :=
  ∀ (s t : State) (i : Instr) (d : EDst), computes s i = some d → exec i s = .next t →
    (∀ c a o, i = .tsLd c a o → (tsAddr (s.src a) o) % 8 = 0 ∧ tsAddr (s.src a) o < 0x40000 ∧ (mapBuf (s.core s.actor.core) 4 (tsAddr (s.src a) o)).isSome = true) →
    (∀ r : Fin 8, d ≠ .d r → Tab.look 0 t.eply.d r.val = Tab.look 0 s.eply.d r.val) ∧
    (∀ k n, t.ctx k n = s.ctx k n) ∧ t.mem = s.mem ∧ t.dies = s.dies ∧ t.parts = s.parts ∧ t.iod = s.iod ∧ t.net = s.net ∧
    (∀ k, (t.core k).local_ = (s.core k).local_ ∧ (t.core k).ts = (s.core k).ts ∧ (t.core k).ab = (s.core k).ab ∧ (t.core k).wb = (s.core k).wb ∧
      (t.core k).evq = (s.core k).evq)

namespace Sys2Proof.Claims

open Sys2Proof Sys2Proof.Machine

/-- s1 once a mask of inputs is popped and each token placed on the outputs of its mask; none without room (05 R103, R107). -/
def placedAll (s s1 : State) (pops : Nat) (outs : List (Nat × Token)) : Option State :=
  let a := s.actor
  outs.foldlM (fun s (m, t) => emitMask s a.core a.ply a.elem m t none) (popMask s1 a.core a.ply a.elem pops)

/-- A data token and an end token of the firing's ply. -/
def dataTok (s : State) (v : Word) (tag : Nat) (ray : Bool) : Token := { data := v, tag := tag, ply := s.actor.ply, ray := ray }

/-- See `dataTok`. -/
def endTok (s : State) (v : Word) (tag : Nat) (x ray : Bool) : Token := { data := v, tag := tag, ply := s.actor.ply, e := true, x := x, ray := ray }

/-- The memory requests of an element: what they do, D, the sources, the address and the operand (12 R280, R282, R283). -/
def requestOf (s : State) : Instr → Option (ReqKind × EDst × List ESrc × Word × Word)
  | .ldq d b x sz _ _ o => some (.load sz, d, [b, x], w ((s.src b).toNat + (s.src x).toNat + o.toInt), 0)
  | .stq d b x sz _ _ o => some (.store sz, .null, [d, b, x], w ((s.src b).toNat + (s.src x).toNat + o.toInt), s.src d)
  | .amoqAdd d b x sz _ _ o => some (.amo 0 sz, d, [b, x], w ((s.src b).toNat + o.toInt), s.src x)
  | .amoqAnd d b x sz _ _ o => some (.amo 1 sz, d, [b, x], w ((s.src b).toNat + o.toInt), s.src x)
  | .amoqOr d b x sz _ _ o => some (.amo 2 sz, d, [b, x], w ((s.src b).toNat + o.toInt), s.src x)
  | .amoqXor d b x sz _ _ o => some (.amo 3 sz, d, [b, x], w ((s.src b).toNat + o.toInt), s.src x)
  | .amoqMin d b x sz _ _ o => some (.amo 4 sz, d, [b, x], w ((s.src b).toNat + o.toInt), s.src x)
  | .amoqMax d b x sz _ _ o => some (.amo 5 sz, d, [b, x], w ((s.src b).toNat + o.toInt), s.src x)
  | .amoqMinu d b x sz _ _ o => some (.amo 6 sz, d, [b, x], w ((s.src b).toNat + o.toInt), s.src x)
  | .amoqMaxu d b x sz _ _ o => some (.amo 7 sz, d, [b, x], w ((s.src b).toNat + o.toInt), s.src x)
  | .amoqSwap d b x sz _ _ o => some (.amo 8 sz, d, [b, x], w ((s.src b).toNat + o.toInt), s.src x)
  | .xlate d a b wr => some (.xlate wr, d, [a, b], s.src a, s.src b)
  | .occl d a b => some (.occl, d, [a, b], s.src a, s.src b)
  | _ => none

/-- The engine commands of an element: what they do and their operands (17 R323, R326). -/
def engineOf (s : State) : Instr → Option (EngKind × Word × Word × Word)
  | .cpy a b c o => some (.cpy o, s.src a, s.src b, s.src c)
  | .gath a b c o => some (.gath o, s.src a, s.src b, s.src c)
  | .scat a b c o => some (.scat o, s.src a, s.src b, s.src c)
  | .fillb a b c o => some (.fillb o, s.src a, s.src b, s.src c)
  | .coll a b c o => some (.coll o, s.src a, s.src b, s.src c)
  | .pub o => some (.pub o, 0, 0, 0)
  | .pubDef a b c o => some (.pubDef o, s.src a, s.src b, s.src c)
  | .pubDrop o => some (.pubDrop o, 0, 0, 0)
  | .xfm a b c o => some (.xfm o (s.mode (xfmMode o)), s.src a, s.src b, s.src c)
  | _ => none

/-- A RED action: its value, group and result input, and what it makes of the contributions of a round (07 R179). -/
def reductionOf : Instr → Option (ESrc × Fin 4 × Fin 8 × (List Word → Word))
  | .redMin a t ri g => some (a, ri, g, redLanes t (pickLane t false))
  | .redMax a t ri g => some (a, ri, g, redLanes t (pickLane t true))
  | .redSum a t ri g => some (a, ri, g, redSumLanes t)
  | _ => none

end Sys2Proof.Claims

/-- 07 R169, R171 to R178: TAGI sets or adds to the tag; STEER sends its value to one arm and its condition to the decider's outputs; MERGE takes the arm that its decider names; MERGEU takes an arm and tags its token; GATE adds a credit; PERMIT admits under a new tag and takes credits back; EOS emits an end token; SINK consumes data and counts ends; MARK emits a snapshot marker. Each where its outputs have room. -/
def Obligations.DataflowActions : Prop :=
  ∀ (s : State) (d : EDst) (a : ESrc) (add keep xv : Bool) (n tb ta cm : BitVec 4) (cnt : BitVec 8) (o : SteerOpts) (i j l : Fin 4) (t : State) (h k : Token),
    let em := trigEmit s.trig
    (s.endFiring = false →
      (placed s (withD s d [a] (s.src a)) em (dataToken s [a] (s.src a) (if add then (s.tg + n.toNat) % 16 else n.toNat)) = some t →
        exec (.tagi d a add n) s = .next t) ∧
      (let ray := s.descends (a :: steerReads o)
       let c := steerCond s o
       placedAll s (withD s d (a :: steerReads o) (s.src a)) (trigPop s.trig)
        [((if c then o.tmask else o.fmask).toNat, dataTok s (s.src a) s.tg ray), (o.dmask.toNat, dataTok s (if c then 1 else 0) s.tg ray)] = some t →
        exec (.steer d a o) s = .next t) ∧
      (placedAll s (withD s d [a] (s.src a)) (trigPop s.trig)
        [(em &&& (15 - cm.toNat), dataTok s (s.src a) s.tg (s.descends [a])), (cm.toNat, dataTok s 0 s.tg (s.descends [a]))] = some t →
        exec (.gate d a cm) s = .next t)) ∧
    (placed s (withD s d [a] (s.src a)) em (endTok s (s.src a) s.tg (xv || s.headsX) (s.descends [a])) = some t → exec (.eos d a xv) s = .next t) ∧
    (s.head i.val = some h → h.e = false → s.head (if h.data.getLsbD 0 then j else l).val = some k → k.e = false →
      placedAll s (s.modEply fun x => x.setD d k.data (h.ray || k.ray)) (2 ^ i.val + 2 ^ (if h.data.getLsbD 0 then j else l).val)
        [(em, dataTok s k.data k.tag (h.ray || k.ray))] = some t →
      exec (.merge d i j l) s = .next t) ∧
    (∀ b, mergeuArm (Tab.look {} s.eply.mergeu s.actor.rule) (s.head i.val) (s.head j.val) = some b → s.head (if b then j else i).val = some h → h.e = false →
      placedAll s ((modMergeu s fun m => { m with lastB := b }).modEply fun x => x.setD d h.data h.ray) (2 ^ (if b then j else i).val)
        [(em, dataTok s h.data (if b then tb else ta).toNat h.ray)] = some t →
      exec (.mergeu d tb ta i j) s = .next t) ∧
    (s.head i.val = some h → h.e = false →
      exec (.permit d i j) s = .next (popMask (s.modEply fun x => { x with infl := setBit x.infl (h.tag % 16) false }) s.actor.core s.actor.ply s.actor.elem (2 ^ i.val))) ∧
    (s.head i.val = none → s.head j.val = some h → h.e = false → s.eply.inFlight < s.eply.k →
      placedAll s (s.modEply fun x => { x.setD d h.data h.ray with infl := setBit x.infl (nextTag s.eply) true, nt := (nextTag s.eply + 1) % 16 }) (2 ^ j.val)
        [(em, dataTok s h.data (nextTag s.eply) h.ray)] = some t →
      exec (.permit d i j) s = .next t) ∧
    (∀ hs, s.heads = h :: hs → h.e = false →
      exec (.sink d a keep cnt) s = .next (popMask (if keep then withD s d [a] (s.src a) else s) s.actor.core s.actor.ply s.actor.elem (trigPop s.trig))) ∧
    (∀ hs, s.heads = h :: hs → h.e = true → (Tab.look {} s.eply.sinks s.actor.rule).count < cnt.toNat →
      let y : SinkSt := { count := (Tab.look {} s.eply.sinks s.actor.rule).count + 1, err := (Tab.look {} s.eply.sinks s.actor.rule).err || h.x }
      exec (.sink d a keep cnt) s =
        .next (popMask (s.modEply fun x => { x with sinks := Tab.set x.sinks s.actor.rule y }) s.actor.core s.actor.ply s.actor.elem (trigPop s.trig))) ∧
    (markInputs (s.ply s.actor.core s.actor.ply) s.actor.elem ≠ [] →
      placed s s em { dataTok s (w ((s.src a).toNat % 2 ^ 16)) 0 false with mark := .snap } = some t → exec (.mark a) s = .next t)

/-- 07 R179 to R182: a RED contribution that is not the last of its round is held with the round; the last one delivers the result to every participant. SEND gives both halves of a message to its outputs. RSV and AMPLIFY reserve in full or not at all, at once where nothing that the element and ply sent to a queue before still waits, and else behind it; ENQ sends its token to the reserved queue, where it lands at once when no request of the element and ply that was selected before is open, no earlier push of the element waits and the links carry it (13 R299; 23 R405). Each where its outputs have room. (The model's own choices in it: logs 44, 82.) -/
def Obligations.ReductionAndQueueActions : Prop :=
  ∀ (s : State) (d : EDst) (a b : ESrc) (n : BitVec 5) (m : BitVec 9) (t : State),
    let k := s.actor.core
    let p := s.actor.ply
    let q := (s.src a).toNat % 2 ^ 14
    (∀ i ri g f, reductionOf i = some (a, ri, g, f) → s.endFiring = false →
      let l := Tab.look [] (s.ply k p).reds g.val ++ [{ elem := s.actor.elem, data := s.src a, e := false, x := false }]
      let s2 := popMask ((s.modEply fun x => { x with redDone := setBit x.redDone g.val true }).modChan k (chanKey s.actor.elem ri.val) fun c =>
        { c with grants := c.grants ++ [{ prod := 8 + p, seen := false }] }) k p s.actor.elem (trigPop s.trig)
      ((∃ e ∈ redMembers (s.ply k p) g.val, ∀ y ∈ l, y.elem ≠ e.1) → exec i s = .next (s2.modPly k p fun y => { y with reds := Tab.set y.reds g.val l })) ∧
      ((∀ e ∈ redMembers (s.ply k p) g.val, ∃ y ∈ l, y.elem = e.1) →
        exec i s = .next ((redDeliver s2 k p g.val (redToken p l f)).modPly k p fun y => { y with reds := Tab.drop y.reds g.val }))) ∧
    (s.endFiring = false →
      emitMask (popMask s k p s.actor.elem (trigPop s.trig)) k p s.actor.elem (trigEmit s.trig) (dataTok s (s.src a) 0 false)
        (some { a := s.src a, b := s.src b, core := k, ply := p, elem := s.actor.elem, rule := s.actor.rule, before := (s.core k).fab.reqNo }) = some t →
      exec (.send a b) s = .next t) ∧
    ((s.eply.rv.count = 0 ∨ s.eply.rv.queue = q) → queueWay s k q = .clear → (s.queue q).partid = s.partOf k → s.partOf k ≠ 0 →
      (s.queueWaits = true → exec (.rsv d a n) s =
        .next (popMask (s.queueOp q (.grant false n.toNat (trigEmit s.trig) s.tg d (s.descends [a]))) k p s.actor.elem (trigPop s.trig))) ∧
      (s.queueWaits = false → s.eply.rv.count + n.toNat ≤ 256 → n.toNat ≤ (s.queue q).room →
        placed s ((reserveSlots s q n.toNat).modEply fun x =>
            let y := x.setD d (w n.toNat) (s.descends [a])
            { y with rv := { y.rv with queue := q, count := s.eply.rv.count + n.toNat } })
          (trigEmit s.trig) (dataToken s [a] (w n.toNat) s.tg) = some t →
        exec (.rsv d a n) s = .next t) ∧
      (s.queueWaits = false → (256 < s.eply.rv.count + n.toNat ∨ (s.queue q).room < n.toNat) →
        placed s (withD s d [a] 0) (trigEmit s.trig) (dataToken s [a] 0 s.tg) = some t → exec (.rsv d a n) s = .next t)) ∧
    (queueWay s k q = .clear → (s.queue q).partid = s.partOf k → s.partOf k ≠ 0 → s.queueWaits = false →
      let s1 := returnSlots s s.eply.rv.queue s.eply.rv.count
      m.toNat ≤ (s1.queue q).room →
      placed s ((reserveSlots s1 q m.toNat).modEply fun x =>
          let y := x.setD d (w m.toNat) (s.descends [a])
          { y with rv := { queue := q, count := m.toNat, amp := true } })
        (trigEmit s.trig) (dataToken s [a] (w m.toNat) s.tg) = some t →
      exec (.amplify d a m) s = .next t) ∧
    (s.endFiring = false → 0 < s.eply.rv.count →
      placed s ((sendPush s (s.src a ++ s.src b)).modEply fun x =>
          let y := x.setD d (w (s.eply.rv.count - 1 : Nat)) (s.descends [a, b])
          { y with rv := { y.rv with count := s.eply.rv.count - 1 } })
        (trigEmit s.trig) (dataToken s [a, b] (w (s.eply.rv.count - 1 : Nat)) s.tg) = some t →
      exec (.enq d a b) s = .next t) ∧
    (queueWay s k s.eply.rv.queue = .clear → (∀ x ∈ (s.core k).fab.pushes, x.elem ≠ s.actor.elem) →
      (∀ y ∈ (s.core k).fab.reqsIn p s.actor.elem, y.no < (s.core k).fab.reqNo → y.open_ = false) →
      ∃ x : QTok, ((sendPush s (s.src a ++ s.src b)).queue s.eply.rv.queue).toks = (s.queue s.eply.rv.queue).toks ++ [x] ∧ x.tok = s.src a ++ s.src b)

/-- 12 R278, R280, R282, R283; 17 R322, R323, R326: a memory request of an element pops its inputs and enters the element's request unit with its address and operands as they stand at selection, behind the requests before it; an engine command pops its inputs and leaves on the outputs with its operands, where they have room, unless a READY head is an end token. (The model's own choices in it: log 25.) -/
def Obligations.ElementRequests : Prop :=
  ∀ (s t : State) (i : Instr),
    (∀ kind d l ea v, requestOf s i = some (kind, d, l, ea, v) → s.endFiring = false →
      ∃ u y, exec i s = .next u ∧ (u.core s.actor.core).fab.reqsOf s.actor.elem = (s.core s.actor.core).fab.reqsOf s.actor.elem ++ [y] ∧
        y.kind = kind ∧ y.dst = d ∧ y.ea = ea ∧ y.opnd = v ∧ y.st = .waiting ∧ y.ply = s.actor.ply ∧ y.rule = s.actor.rule ∧ y.tag = s.tg ∧
        y.no = (s.core s.actor.core).fab.reqNo ∧ u.mem = s.mem ∧ ∀ r, Tab.look 0 u.eply.d r = Tab.look 0 s.eply.d r) ∧
    (∀ kind a b c, engineOf s i = some (kind, a, b, c) → (∀ h ∈ s.heads, h.e = false) →
      emitMask (popMask s s.actor.core s.actor.ply s.actor.elem (trigPop s.trig)) s.actor.core s.actor.ply s.actor.elem (trigEmit s.trig) { ply := s.actor.ply }
        (some { word := s.actionWord, kind := kind, a := a, b := b, c := c, core := s.actor.core, ply := s.actor.ply, elem := s.actor.elem, rule := s.actor.rule
                before := (s.core s.actor.core).fab.reqNo }) = some t →
      exec i s = .next t)

/-- 12 R284 to R287: with an aligned tile store address in range, mapped by no other shadow, TS.LD gives the word there, TS.ST stores its word and VBMIN keeps the smaller of the word and the clamped key and gives the old word; TS.BLEND and TS.DONE of a slot up to 55 hand a request to the tile unit. Each where its outputs have room. A misaligned address faults with MISALIGNED and one beyond the tile store with BUFFER_BOUNDS. (The model's own choices in it: log 51.) -/
def Obligations.TileActions : Prop :=
  ∀ (s t : State) (d : EDst) (a b : ESrc) (o : BitVec 18) (m : BlendMode), s.endFiring = false →
    let at_ := (s.src a).toNat % 2 ^ 18 + o.toNat
    let bt := (s.src b).toNat % 2 ^ 18
    let word (x : Nat) : Word := w (ofBytesLE (bufRead s s.actor.core 4 x 8))
    let em := trigEmit s.trig
    (at_ % 8 = 0 → at_ < 0x40000 → (mapBuf (s.core s.actor.core) 4 at_).isSome = true →
      (placed s (withD s d [a] (word at_)) em (dataToken s [a] (word at_) s.tg) = some t → exec (.tsLd d a o) s = .next t) ∧
      (placed s ((tsWrite s s.actor.core at_ (bytesLE (s.src b).toNat 8)).modEply id) em (dataToken s [a, b] 0 s.tg) = some t → exec (.tsSt a b o) s = .next t)) ∧
    (at_ % 8 ≠ 0 → exec (.tsLd d a o) s = fireFault s .misaligned (tagged 4 at_) ∧ exec (.tsSt a b o) s = fireFault s .misaligned (tagged 4 at_)) ∧
    (at_ % 8 = 0 → 0x40000 ≤ at_ → exec (.tsLd d a o) s = fireFault s .bufferBounds (tagged 4 at_) ∧ exec (.tsSt a b o) s = fireFault s .bufferBounds (tagged 4 at_)) ∧
    (bt % 8 = 0 → (mapBuf (s.core s.actor.core) 4 bt).isSome = true →
      placed s ((tsWrite s s.actor.core bt (bytesLE (min (clampKey (s.src a)).toNat (word bt).toNat) 8)).modEply fun x => x.setD d (word bt) (s.descends [a, b]))
        em (dataToken s [a, b] (word bt) s.tg) = some t → exec (.vbmin d a b) s = .next t) ∧
    ((s.src a).toNat / 2 ^ 8 % 2 ^ 6 ≤ 55 →
      (placed s ((tileArrive s s.actor.core { done := false, a := s.src a, b := s.src b, mode := m, elem := s.actor.elem, ply := s.actor.ply, rule := s.actor.rule, word := s.actionWord, ctx := (s.ply s.actor.core s.actor.ply).ctx }).modEply id)
        em (dataToken s [a, b] 0 s.tg) = some t → exec (.tsBlend a b m) s = .next t) ∧
      ((s.src b).toNat % 2 ^ 9 ≤ 256 →
        placed s ((tileArrive s s.actor.core { done := true, a := s.src a, b := s.src b, mode := .rep, elem := s.actor.elem, ply := s.actor.ply, rule := s.actor.rule, word := s.actionWord, ctx := (s.ply s.actor.core s.actor.ply).ctx }).modEply id)
        em (dataToken s [a, b] 0 s.tg) = some t → exec (.tsDone a b) s = .next t))

namespace Sys2Proof.Claims

open Sys2Proof Sys2Proof.Machine

/-- The decision whose program instruction acts. -/
def acting (s : State) : Option Decision := s.decision s.actor.die s.actor.cluster s.actor.dec

/-- An instruction of a program that runs takes n ac and leaves the acting decision as f makes it, at the next instruction, or where the budget ends before its last ac stops in it; every other decision, and everything but the die, is as it was (10 R229, R230). -/
def policyDoes (s : State) (i : Instr) (n : Nat) (f : Decision → Decision) : Prop :=
  ∀ x, acting s = some x → x.running = true →
    ∃ t, exec i s = .next t ∧ acting t = some (if x.prog.any (fun p => decide (p.budget < x.time + n)) then { x with time := x.time + n } else f { x with ix := x.ix + 1, time := x.time + n }) ∧
      (∀ d c m, (d ≠ s.actor.die ∨ c ≠ s.actor.cluster ∨ m ≠ s.actor.dec) → t.decision d c m = s.decision d c m) ∧
      t.cores = s.cores ∧ t.mem = s.mem ∧ t.parts = s.parts ∧ t.iod = s.iod

/-- Register d of a policy unit set to v. -/
def setV (x : Decision) (d : PReg) (v : Word) : Decision := x.setReg d v

/-- The two-register operations of R235 on a decision's registers. -/
def policyArithmetic (x : Decision) : Instr → Option (PReg × Word)
  | .addv d r => some (d, w ((x.reg d).toNat + (x.reg r).toNat))
  | .subv d r => some (d, w ((x.reg d).toNat - (x.reg r).toNat))
  | .andv d r => some (d, x.reg d &&& x.reg r)
  | .orv d r => some (d, x.reg d ||| x.reg r)
  | .minv d r => some (d, w (min (x.reg d).toInt (x.reg r).toInt))
  | .maxv d r => some (d, w (max (x.reg d).toInt (x.reg r).toInt))
  | .shlv d r => some (d, w ((x.reg d).toNat * 2 ^ ((x.reg r).toNat % 64)))
  | .shrv d r => some (d, w ((x.reg d).toNat / 2 ^ ((x.reg r).toNat % 64)))
  | _ => none

/-- What the loads and moves of R234 write. -/
def policyLoad (x : Decision) : Instr → Option (PReg × Word)
  | .imm d i => some (d, w i.toInt)
  | .kld d k => some (d, (((x.prog.getD {}).consts)[k.val]?).getD 0)
  | .env d e => some (d, (x.env[e.toNat]?).getD 0)
  | .cand d r f => some (d, if (x.reg r).toNat < x.cands.length then x.field (x.reg r).toNat f.toNat else 0)
  | .subj d f => some (d, (x.subj[f.toNat]?).getD 0)
  | .copy d r => some (d, x.reg r)
  | .addiv d i => some (d, w ((x.reg d).toNat + i.toInt))
  | .mcnt d => some (d, w ((List.range 32).filter fun j => x.m.getLsbD j).length)
  | _ => none

/-- The condition of a conditional jump or of a MKEEP: eq, ne, lt, ge, signed (10 R235). -/
def policyCond : Cond → Word → Word → Prop
  | .eq, u, v => u = v
  | .ne, u, v => u ≠ v
  | .lt, u, v => u.toInt < v.toInt
  | _, u, v => v.toInt ≤ u.toInt

/-- The jumps: condition, registers and distance (10 R234). -/
def jumpOf : Instr → Option (Cond × PReg × PReg × Nat)
  | .jeq a r o => some (.eq, a, r, o.toNat)
  | .jne a r o => some (.ne, a, r, o.toNat)
  | .jlt a r o => some (.lt, a, r, o.toNat)
  | .jge a r o => some (.ge, a, r, o.toNat)
  | .jfw o => some (.eq, 0, 0, o.toNat)
  | _ => none

/-- The MKEEPs: condition, register and field (10 R234). -/
def keepOf : Instr → Option (Cond × PReg × Nat)
  | .mkeepEq r f => some (.eq, r, f.toNat)
  | .mkeepNe r f => some (.ne, r, f.toNat)
  | .mkeepLt r f => some (.lt, r, f.toNat)
  | .mkeepGe r f => some (.ge, r, f.toNat)
  | _ => none

/-- The verdicts: code and operand (10 R236). -/
def verdictOf (x : Decision) : Instr → Option (Nat × Nat)
  | .pick r => some (0, (x.reg r).toNat)
  | .idle => some (1, 0)
  | .preempt r => some (2, (x.reg r).toNat)
  | .keep => some (3, 0)
  | .restart => some (4, 0)
  | .kill => some (5, 0)
  | .host => some (6, 0)
  | .migrate r => some (7, (x.reg r).toNat % 4)
  | _ => none

/-- SCAN finds index i: bit i of M is set, no other set bit has a better value of the field, and none below it an equal one (10 R235). -/
def scanFinds (x : Decision) (f : Nat) (mx : Bool) (i : Nat) : Prop :=
  i < 32 ∧ x.m.getLsbD i = true ∧ ∀ j < 32, x.m.getLsbD j = true →
    let u := (x.field i f).toInt
    let v := (x.field j f).toInt
    (if mx then v ≤ u else u ≤ v) ∧ (v = u → i ≤ j)

end Sys2Proof.Claims

/-- 10 R235: the operations of the policy bytecode act as the rule's table says, in wrapping 64-bit arithmetic with signed comparisons; SCAN gives the index of the set bit of M whose field is least or greatest, the lower one on a tie, and 2^64 - 1 where M is 0; every instruction of a program that runs executes. (The model's own choices in it: log 23.) -/
def Obligations.PolicyArithmetic : Prop :=
  ∀ (s : State) (x : Decision), acting s = some x → x.running = true →
    (∀ i d v, policyArithmetic x i = some (d, v) → policyDoes s i 1 fun y => setV y d v) ∧
    (∀ i d f mx, (i = .scanMin d f ∧ mx = false ∨ i = .scanMax d f ∧ mx = true) →
      (x.m = 0 → policyDoes s i 4 fun y => setV y d (w (2 ^ 64 - 1))) ∧
      (x.m ≠ 0 → ∃ n, scanFinds x f.toNat mx n ∧ policyDoes s i 4 fun y => setV y d (w n))) ∧
    (∀ i c r f, keepOf i = some (c, r, f) →
      ∃ m : BitVec 32, (∀ j < 32, m.getLsbD j = true ↔ (x.m.getLsbD j = true ∧ (j < x.cands.length → policyCond c (x.field j f) (x.reg r)))) ∧
        policyDoes s i 1 fun y => { y with m := m })

/-- 10 R229, R230, R232 to R234, R236: the loads and moves of the policy bytecode write their register; MALL sets a mask bit for each candidate; a jump whose condition holds goes its distance beyond the next instruction; a verdict ends the program with its code and operand; the instructions of a decision that does not run change nothing. (The model's own choices in it: log 23.) -/
def Obligations.PolicyLoadsJumpsAndVerdicts : Prop :=
  ∀ (s : State) (x : Decision), acting s = some x →
    (x.running = true →
      (∀ i d v, policyLoad x i = some (d, v) → policyDoes s i 1 fun y => setV y d v) ∧
      policyDoes s .mall 1 (fun y => { y with m := BitVec.ofNat 32 (2 ^ x.cands.length - 1) }) ∧
      (∀ i c a r o, jumpOf i = some (c, a, r, o) →
        (policyCond c (x.reg a) (x.reg r) → policyDoes s i 1 fun y => { y with ix := y.ix + o }) ∧
        (¬ policyCond c (x.reg a) (x.reg r) → policyDoes s i 1 id)) ∧
      ∀ i v, verdictOf x i = some v → policyDoes s i 1 fun y => { y with ix := x.ix, verdict := some v, byProg := true }) ∧
    (x.running = false → ∀ i, (verdictOf x i).isSome = true ∨ (policyLoad x i).isSome = true ∨ (policyArithmetic x i).isSome = true ∨ (jumpOf i).isSome = true →
      exec i s = .next s)

namespace Sys2Proof.Claims

open Sys2Proof Sys2Proof.Machine

/-- The host reaches the registers (24 R429, R431). -/
def hostReaches (s : State) : Prop := s.iod.sec.bootstat = 1 ∧ s.iod.linkDown = false

/-- A core of a compute die (24 R419). -/
def onDie (k : Nat) : Prop := k / 128 < 4 ∧ k % 128 < 80

/-- s with a start or trap command counted as ignored (24 R420). -/
def ignored (s : State) (k : Nat) : State := s.modCore k fun c => { c with regs := { c.regs with ign := min 65535 (c.regs.ign + 1) } }

/-- A start command takes a context from OFF to RUN at an address; any other it leaves and counts (01 R23). -/
def starts (s : State) (k n : Nat) (v : Word) (i : Instr) : Prop :=
  ((s.ctx k n).run = .off → exec i s = .next (s.modCtx k n fun c =>
    { c with pc := pcOf (w (v.toNat % 2 ^ 55)), priv := if v.getLsbD 59 then c.priv else true, run := .run, await := none })) ∧
  ((s.ctx k n).run ≠ .off → exec i s = .next (ignored s k))

/-- A stop command stops a context that has issued nothing with its registers kept, at once; another stops when that is over (24 R421). -/
def stops (s : State) (k n : Nat) (i : Instr) : Prop :=
  let c := s.ctx k n
  (c.run = .off → exec i s = .next s) ∧
  (c.run = .wait ∨ (c.run = .run ∧ c.hold = false ∧ c.going = none) →
    ∃ t, exec i s = .next t ∧ (t.ctx k n).run = .off ∧ (t.ctx k n).x = c.x ∧ (t.ctx k n).p = c.p ∧ (t.ctx k n).pc = c.pc ∧ (t.ctx k n).tr = c.tr ∧
      (t.ctx k n).rsv = {} ∧ t.mem = s.mem) ∧
  (c.run = .run → (c.hold = true ∨ c.going.isSome = true) → exec i s = .next (s.modCtx k n fun c => { c with stopping := true }))

/-- A trap command traps a context that is not OFF with cause 3 of the external causes, once TIN is 0 (01 R29; 21 R377). -/
def extTraps (s : State) (k n : Nat) (v : Word) (i : Instr) : Prop :=
  let c := s.ctx k n
  (c.run = .off → exec i s = .next (ignored s k)) ∧
  (c.run ≠ .off → c.tr.tstat.getLsbD 0 = false → c.going = none →
    ∃ t, exec i s = .next t ∧ (t.ctx k n).tr.cause = 0x83 ∧ (t.ctx k n).tr.epc = c.pc ∧ (t.ctx k n).tr.tval = w (v.toNat % 2 ^ 55) ∧
      (t.ctx k n).priv = true ∧ (t.ctx k n).pc = pcOf c.tr.tvec ∧ (t.ctx k n).run = .run ∧ (t.ctx k n).x = c.x ∧ (t.ctx k n).ext = none) ∧
  (c.run ≠ .off → (c.tr.tstat.getLsbD 0 = true ∨ c.going.isSome = true) →
    ∃ t, exec i s = .next t ∧ (t.ctx k n).ext = some (w (v.toNat % 2 ^ 55)) ∧ (t.ctx k n).pc = c.pc ∧ (t.ctx k n).tr = c.tr)

end Sys2Proof.Claims

/-- 01 R22, R23; 21 R377; 24 R420, R421, R429: CTXCMD and DSCMD start, stop and trap a context once the device has booted; DSCMD does so for context 0 of a display sequencer that a partition owns. BOOT ends with BOOTSTAT 1 or 2. (The model's own choices in it: logs 14, 74.) -/
def Obligations.ContextCommands : Prop :=
  ∀ (s : State) (k : Nat) (v : Word),
    let op := v.toNat / 2 ^ 62
    let n := v.toNat / 2 ^ 60 % 4
    (hostReaches s → onDie k →
      (op = 1 → starts s k n v (.ctxStart k v)) ∧ (op = 2 → stops s k n (.ctxStop k v)) ∧ (op = 3 → extTraps s k n v (.ctxTrap k v))) ∧
    (hostReaches s →
      (op = 1 → n = 0 → s.iod.dspart.getLsbD 12 = true → (s.part (s.iod.dspart.toNat % 2 ^ 12)).partclu.getLsbD 63 = true → starts s dsCore 0 v (.dsCtxStart v)) ∧
      (op = 2 → n = 0 → stops s dsCore 0 (.dsCtxStop v)) ∧ (op = 3 → n = 0 → extTraps s dsCore 0 v (.dsCtxTrap v)) ∧
      (op = 1 → n ≠ 0 → exec (.dsCtxStart v) s = .next (ignored s dsCore))) ∧
    (s.iod.sec.bootstat = 0 → ∃ t, exec .boot s = .next t ∧ (t.iod.sec.bootstat = 1 ∨ t.iod.sec.bootstat = 2) ∧ t.mem = s.mem ∧ t.cores = s.cores)

/-- 01 R15, R21; 21 R395, R398, R399; 24 R429: a core reset clears the core and its CYC. SAVE sets BUSY; once all four contexts are ready to be switched it completes with the contexts OFF and BUSY clear. RESTORE of a core that is clear, whose section and images pass the checks, completes with BUSY clear, the seed of the section, and each context with the registers, predicates, pc, mode, trap registers and STATE of its image, bound to the ply that the image fills, with a region where it holds one. A load that the loader runs for the block scheduler ends with its ply latched. (The model's own choices in it: logs 17, 67.) -/
def Obligations.CoreResetSaveAndRestore : Prop :=
  ∀ (s : State) (k n : Nat) (v : Word),
    (onDie k → ∃ t, exec (.coreReset k) s = .next t ∧ t.cyc k = 0 ∧ (∀ m, t.ctx k m = {}) ∧ (t.core k).local_ = [] ∧ (t.core k).evq = [] ∧
      (t.core k).fab = {} ∧ (t.core k).mx = {} ∧ (t.core k).streams = [] ∧ (t.core k).seed = 0x2545F4914F6CDD1D ∧ (t.core k).regs.edgeLimit = s.iod.power.limit ∧ ∀ a, t.mem.byte a = s.mem.byte a) ∧
    (hostReaches s → onDie k → v.toNat % 4 = 1 → (s.core k).regs.csw = none →
      ∃ t, exec (.coreSave k v) s = .next t ∧ (t.core k).regs.csw = some v ∧ (t.core k).regs.cswst.getLsbD 0 = true ∧ t.mem = s.mem) ∧
    ((s.core k).regs.csw = some v → v.toNat % 4 = 1 → (∀ m < 4, switchReady s k m = true ∧ (s.ctx k m).switch = none) → n < 4 →
      cswWay s k (v.toNat / 2 ^ 4 % 2 ^ 5) = .clear → saveBad (s.core k) (v.toNat / 2 ^ 4 % 2 ^ 5) = false →
      ∃ t, exec (.contextSwitchComplete k n) s = .next t ∧ (t.core k).regs.csw = none ∧ (t.core k).regs.cswst.getLsbD 0 = false ∧
        ∀ m < 4, (t.ctx k m).run = .off ∧ (t.ctx k m).bound = none ∧ (t.ctx k m).region = none) ∧
    (∀ h s1 l u, hostReaches s → onDie k → v.toNat % 4 = 2 → (s.core k).regs.csw = none →
      let b := beginCsw s k v
      cswWay b k 0 = .clear → agentRead b k (cswBase b k + 0x40000) coreSize = (h, s1) → cswWay b k (fld h 6 1) = .clear → coreClear b k = true →
      sectionOk b k h = true → loadAll k (cswBase b k) 4 0 s1 = .ok l u →
      ∃ t, exec (.coreRestore k v) s = .next t ∧ (t.core k).regs.csw = none ∧ (t.core k).regs.cswst.toNat % 256 = 0 ∧ (t.core k).seed = w (fld h 0x18 8) ∧
        ∀ x ∈ l, let c := t.ctx k x.1
          (∀ i < 31, Tab.look 0 c.x (i + 1) = w (fld x.2.1 (0x48 + 8 * i) 8)) ∧ c.p = BitVec.ofNat 8 (fld x.2.1 0x40 1) ||| 1 ∧ c.pc = pcOf (w (fld x.2.1 0x140 8)) ∧
          c.priv = (fld x.2.1 0x148 1).testBit 0 ∧ c.tr.cause = w (fld x.2.1 0x150 8) &&& causeMask ∧ c.tr.epc = w (fld x.2.1 0x158 8) ∧ c.tr.tval = w (fld x.2.1 0x160 8) ∧
          c.tr.tstat = w (fld x.2.1 0x168 8) &&& tstatMask ∧ c.tr.tvec = w (fld x.2.1 0x170 8) &&& ~~~(1 : Word) ∧
          c.run = (if (fld x.2.1 6 1).testBit 3 then .run else .off) ∧ c.bound = x.2.2.1.map Prod.fst ∧ c.region.isSome = x.2.2.2.isSome) ∧
    (∀ q b g u, (s.core k).regs.csw = none → (s.ply k q).st = .loading → (s.ply k q).byInstr = false → (s.ply k q).ctx = n → (s.ply k q).loader = some b →
      (∃ r, (s.ctx k n).region = some r ∧ r.strand = true ∧ r.state = .opened) → loadImage s k n (s.ply k q).image false = .ok g u →
      ∃ t, exec (.endOfALoad k q) s = .next t ∧ (t.ctx k n).latch = some { ply := q, commit := none } ∧ t.mem = u.mem)

/-- 09 R209, R210, R212 to R215; 05 R127, R129; 24 R420, R423: an ingress port whose queue has EN and ING takes a token against a credit, gives credits in full or not at all, takes credits back and clears its DROPS; a port without them drops the write and counts it. A queue or stage descriptor that passes its checks is registered. (The model's own choices in it: logs 72, 74.) -/
def Obligations.IngressAndRegistration : Prop :=
  ∀ (s : State) (d n m : Nat) (v : Word) (tok : BitVec 128),
    hostReaches s → d < 4 → n < 4096 →
    let q := d * 4096 + n
    let x := s.queue q
    let b := regBytes (s.die d).regs
    let dropped := s.modQueue q fun x => { x with drops := x.drops + 1 }
    (portOpen x = true →
      (0 < x.credit → ∃ t y, exec (.ingressToken d n tok true) s = .next t ∧ (t.queue q).toks = x.toks ++ [y] ∧ y.tok = tok ∧
        y.dl = arrive (s.die d) x.dlnext ∧ (t.queue q).credit = x.credit - 1 ∧ (t.queue q).drops = x.drops) ∧
      (1 ≤ v.toNat → v.toNat ≤ 65536 → v.toNat + x.toks.length + x.reserved ≤ x.cap →
        ∃ t, exec (.credreq d n v) s = .next t ∧ (t.queue q).credit = x.credit + v.toNat ∧ (t.queue q).reserved = x.reserved + v.toNat) ∧
      (x.cap < v.toNat + x.toks.length + x.reserved → 1 ≤ v.toNat → exec (.credreq d n v) s = .next s) ∧
      (∃ t, exec (.creditRelease d n v) s = .next t ∧ (t.queue q).credit = x.credit - min v.toNat x.credit ∧
        (t.queue q).reserved = x.reserved - min v.toNat x.credit) ∧
      (∃ t, exec (.dropsClear d n) s = .next t ∧ (t.queue q).drops = 0 ∧ (t.queue q).toks = x.toks)) ∧
    ((portOpen x = false ∨ x.credit = 0) →
      exec (.ingressToken d n tok true) s = .next dropped) ∧
    (portOpen x = false → exec (.credreq d n v) s = .next dropped ∧ exec (.creditRelease d n v) s = .next dropped) ∧
    (queueDescOk b = true → ∃ t, exec (.regcmdQueue d n) s = .next t ∧ (t.die d).regs.regst = 1 ∧ (t.queue q).image = w (fld b 8 8) ∧
      (t.queue q).cap = fld b 4 4 ∧ (t.queue q).toks = x.toks ∧ (t.queue q).dlnext = w (fld b 0x18 8) ∧ (t.queue q).blocked = false) ∧
    (queueDescOk b = false → ∃ t, exec (.regcmdQueue d n) s = .next t ∧ (t.die d).regs.regst = 2 ∧ t.queue q = x) ∧
    (stageDescOk b = true → m < 256 → ∃ t, exec (.regcmdStage d m) s = .next t ∧ (t.die d).regs.regst = 1 ∧
      (Tab.look {} (t.die d).stages m).image = w (fld b 0 8) ∧ (Tab.look {} (t.die d).stages m).cores = (Tab.look {} (s.die d).stages m).cores) ∧
    (stageDescOk b = false → m < 256 → ∃ t, exec (.regcmdStage d m) s = .next t ∧ (t.die d).regs.regst = 2 ∧ (t.die d).stages = (s.die d).stages)

/-- 10 R243; 11 R266; 19 R352; 21 R375; 24 R417 to R421, R429, R430: what the other register writes of the host do: a partition is set up or ended, its clusters released once its contexts are OFF, the display sequencer is handed over, a head goes on and off, an attestation is asked for and its report delivered, the security version is committed, counters are cleared; a write to a command register is its command, and a register without behaviour of its own takes its fields. (The model's own choices in it: logs 33, 66, 73, 74, 81.) -/
def Obligations.HostRegisterWrites : Prop :=
  ∀ (s : State) (k p h : Nat) (v : Word),
    hostReaches s →
    (onDie k → ∃ t, exec (.tokdropClear k) s = .next t ∧ (t.core k).port.tokdrop = 0 ∧ (t.core k).ctxs = (s.core k).ctxs) ∧
    (∃ t, exec (.fltptrWrite p v) s = .next t ∧ (t.part p).fltring.tail = v.toNat / 2 ^ 16 % 2 ^ 16 ∧ (t.part p).fltring.lost = 0 ∧
      (t.part p).fltring.head = (s.part p).fltring.head) ∧
    (v.getLsbD 63 = true → 0 < p → p < 4096 →
      ((s.part p).ending = none → (∀ x ∈ s.parts, x.1 ≠ p → Part.holds x.2 &&& v.toNat % 2 ^ 20 = 0) →
        ∃ t, exec (.partitionSetup p v) s = .next t ∧ (t.part p).partclu = w (2 ^ 63 + v.toNat % 2 ^ 20) ∧
          ((s.part p).partclu.getLsbD 63 = false → (t.part p).policy = {})) ∧
      ((s.part p).ending ≠ none ∨ (∃ x ∈ s.parts, x.1 ≠ p ∧ Part.holds x.2 &&& v.toNat % 2 ^ 20 ≠ 0) → exec (.partitionSetup p v) s = .next s)) ∧
    (0 < p → p < 4096 → (s.part p).partclu.getLsbD 63 = true →
      ∃ t, exec (.partitionEnd p) s = .next t ∧ (t.part p).partclu = 0 ∧ (t.part p).policy.active = .empty ∧ (t.part p).policy.staged = .empty ∧
        let m := (s.part p).partclu.toNat % 2 ^ 20
        ((∀ x ∈ endingCtxs s p m, (s.ctx x.1 x.2).hold = false ∧ (s.ctx x.1 x.2).going = none) →
          (t.part p).ending = none ∧ ∀ c ∈ maskCores m, s.partOf c = p → t.partOf c = 0) ∧
        ((∃ x ∈ endingCtxs s p m, (s.ctx x.1 x.2).run = .run ∧ (s.ctx x.1 x.2).going ≠ none) → (t.part p).ending = some m)) ∧
    ((s.ctx dsCore 0).run = .off → ∃ t, exec (.dspartWrite v) s = .next t ∧ t.iod.dspart = w (v.toNat % 2 ^ 13) ∧
      (w (v.toNat % 2 ^ 13) ≠ s.iod.dspart → (t.core dsCore).local_ = [] ∧ t.iod.dsq = [])) ∧
    ((s.ctx dsCore 0).run ≠ .off → exec (.dspartWrite v) s = .next s) ∧
    (h < 4 → leadsOk v = true →
      (v.getLsbD 0 = true → (s.iod.head h).hctl.getLsbD 0 = false → timingOk (s.iod.head h) = true →
        ∃ t, exec (.headEnable h v) s = .next t ∧ (t.iod.head h).hctl = v &&& hctlMask ∧ (t.iod.head h).line = 0 ∧ (t.iod.head h).frames = [] ∧
          ∀ d < 4, ((t.die d).lines h).line = 0 ∧ ((t.die d).lines h).lgen = (((s.die d).lines h).lgen + 1) % 65536) ∧
      (v.getLsbD 0 = true → (s.iod.head h).hctl.getLsbD 0 = false → timingOk (s.iod.head h) = false →
        ∃ t, exec (.headEnable h v) s = .next t ∧ (t.iod.head h).hctl.getLsbD 0 = false) ∧
      (v.getLsbD 0 = false → ∃ t, exec (.headDisable h v) s = .next t ∧ (t.iod.head h).hctl = v &&& hctlMask ∧ (t.iod.head h).line = (s.iod.head h).line)) ∧
    (h < 4 → leadsOk v = false → exec (.headEnable h v) s = .next s ∧ exec (.headDisable h v) s = .next s) ∧
    (s.iod.sec.attst.testBit 0 = false → s.iod.sec.index < 2 ^ 20 →
      ∃ t, exec (.attcmd v) s = .next t ∧ t.iod.sec.attst = 1 ∧ t.iod.sec.index = s.iod.sec.index + 1 ∧ t.iod.sec.report = v.toNat / 4096 * 4096) ∧
    (s.iod.sec.attst.testBit 0 = true → reaching s 4 s.iod.sec.report ≠ .held →
      ∃ t, exec .attstDone s = .next t ∧ t.iod.sec.attst = (if 2 ^ 20 ≤ s.iod.sec.index then 6 else 2) ∧ t.cores = s.cores ∧
        (reaching s 4 s.iod.sec.report = .clear → rangeReserved s.iod.sec.report 4096 = false → ∃ bs, t.mem.get s.iod.sec.report 4096 = reportBytes s bs)) ∧
    (exec (.svncommit 1) s = .next (s.modIod fun i => { i with sec := { i.sec with fwsvn := max i.sec.fwsvn i.sec.svn } })) ∧
    (v ≠ 1 → exec (.svncommit v) s = .next s) ∧
    (0 < p → p < 4096 → exec (.registerWrite (0x5000000 + 0x1000 * p + 0x38) v) s = exec (.fltptrWrite p v) s ∧
      exec (.registerWrite (0x5000000 + 0x1000 * p + 0x40) v) s = exec (.fltreply p v) s ∧ exec (.registerWrite (0x5000000 + 0x1000 * p + 0x20) v) s = exec (.tinv p v) s) ∧
    (k / 128 < 4 → k % 128 < 80 → let o := 0x1000000 * (k / 128 + 1) + 0x400000 + 0x20000 * (k % 128)
      (v.toNat / 2 ^ 62 = 1 → exec (.registerWrite o v) s = exec (.ctxStart k v) s) ∧ exec (.registerWrite (o + 0x20) v) s = exec (.tokdropClear k) s ∧
      exec (.registerWrite (o + 0x10) v) s = .next (s.modCore k fun c => { c with regs := { c.regs with dbgstop := v.toNat % 16 } })) ∧
    (0 < p → p < 4096 → ∃ t, exec (.registerWrite (0x5000000 + 0x1000 * p + 0x18) v) s = .next t ∧ (t.part p).troot = v &&& 0x000FFFFFFFFF0001 ∧ t.mem = s.mem) ∧
    (exec (.registerWrite 0x40000 v) s = .next (s.modIod fun i => { i with pkgid := v.toNat % 2 ^ 12 })) ∧
    (∀ o, o % 8 ≠ 0 → exec (.registerWrite o v) s = .next s)

/-- 00 R8, R9; 11 R253 to R255, R265; 13 R305, R306; 24 R425, R426: a walk that is due and succeeds puts its leaf into the core's cache. A request whose WAIT has expired is given up, and the host's reply to one that is not answers it. An invalidation drops the cached translations it names and completes once its walks and accesses are over. Snoops take lines from a die's L2, and the host reads and writes device memory coherently. MIGCMD copies the page to its new frame; a migration whose page has not been written since puts the frame into the leaf and drops the page's translations, and one whose page has is abandoned. (The model's own choices in it: logs 47, 68, 70, 71, 81.) -/
def Obligations.MemoryEvents : Prop :=
  ∀ (s : State) (k p d pa : Nat) (v va : Word) (acc : Acc) (user own : Bool),
    (∀ r u, walkDue s k va.toNat acc user = true → hostWalk s k va.toNat acc (fun e => permits e acc user) = .ok r u →
      ∃ t, exec (.pageWalk k va acc user) s = .next t ∧ (∃ x ∈ (t.core k).xlats, x.vpn = r.2.1 ∧ x.pages = r.2.2 ∧ x.leaf = w r.1) ∧ t.mem = u.mem) ∧
    (∀ x tag, dutyOf s p tag = some x → dutyDue s x = true →
      ∃ t, exec (.dutyWaitExpiry p tag) s = .next t ∧
        ((x.func = 0 ∧ ∃ y ∈ (t.part p).duties, y.tag = tag ∧ y.expired = true) ∨ (x.func ≠ 0 ∧ dutyOf t p tag = none))) ∧
    (∀ x, hostReaches s → dutyOf s p (v.toNat / 2 ^ 48) = some x → x.reply = none → x.expired = false → x.stale = false → (s.die x.die).walkq = [] → dutyDue s x = false →
      (x.func = 0 → v.toNat % 8 ≤ 1 →
        ∃ t y, exec (.dutyReply p v) s = .next t ∧ dutyOf t p x.tag = some y ∧ y.reply = some (v.toNat % 8, v.toNat / 2 ^ 8 % 2 ^ 7, (s.part p).dutydata) ∧ t.mem = s.mem) ∧
      (x.func ≠ 0 → x.func ≠ 2 → ∃ t, exec (.dutyReply p v) s = .next t ∧ dutyOf t p x.tag = none ∧ t.mem = s.mem) ∧
      (x.func = 2 → v.toNat % 8 = 0 → ∃ t, exec (.dutyReply p v) s = .next t ∧ dutyOf t p x.tag = none)) ∧
    (hostReaches s →
      ((s.part p).tinvs = [] → ∃ t, exec (.tinv p v) s = .next t ∧ (∃ l, (t.part p).tinvs = [(v, l)]) ∧
        (∀ j ∈ coresOf s p, ∀ x ∈ (t.core j).xlats, rangeHits (tinvRange v) x.vpn x.pages = false) ∧ t.mem = s.mem) ∧
      ((s.part p).tinvs ≠ [] → ∃ t l, exec (.tinv p v) s = .next t ∧ (t.part p).tinvs = (s.part p).tinvs ++ [(v, l)] ∧ t.cores = s.cores)) ∧
    (∀ l rest, (s.part p).tinvs = (v, l) :: rest → accessesOver s p (tinvRange v) = true → walkBehind s p = false → (∀ x ∈ (s.part p).duties, x.inFlight = true → x.tag ∉ l) →
      ∃ t, exec (.tinvComplete p) s = .next t ∧ (t.part p).tinvs = rest ∧ t.mem.bytes = s.mem.bytes ∧
        (∀ j ∈ coresOf s p, ∀ y ∈ (t.core j).xlats, rangeHits (tinvRange v) y.vpn y.pages = false)) ∧
    (hostReaches s → d < 5 → 2 ^ 51 ≤ pa → pa < 2 ^ 52 →
      ((s.mem.l2At d (pa / 128)).st = .m ∨ (s.mem.l2At d (pa / 128)).st = .e →
        ∃ t, exec (.snpdata d pa) s = .next t ∧ (t.mem.l2At d (pa / 128)).st = .s ∧ t.mem.bytes = s.mem.bytes) ∧
      (∃ t, exec (.snpinv d pa) s = .next t ∧ (t.mem.l2At d (pa / 128)).st = .i ∧ t.mem.bytes = s.mem.bytes)) ∧
    (∃ t, exec (.snpcur d pa) s = .next t ∧ t.mem.bytes = s.mem.bytes ∧ t.mem.l2 = s.mem.l2 ∧ t.cores = s.cores) ∧
    (hostReaches s → pa < 2 ^ 38 →
      (∃ t, exec (.hostReadDeviceMemory pa own) s = .next t ∧ t.mem.snoopAt (pa / 128) = (if own then .excl else .shared) ∧ t.mem.bytes = s.mem.bytes ∧
        (own = true → ∀ j < 4, (t.mem.l2At j (pa / 128)).st = .i)) ∧
      (pa % 8 = 0 → ∃ t, exec (.hostWriteDeviceMemory pa v) s = .next t ∧ t.mem.val pa 8 = v.toNat ∧ (∀ a, a < pa ∨ pa + 8 ≤ a → t.mem.byte a = s.mem.byte a) ∧
        (∀ j < 4, (t.mem.l2At j (pa / 128)).st = .i))) ∧
    (∀ e lv a, hostReaches s → d < 4 → (s.die d).regs.migst ≠ 1 → (findLeaf s d (v.toNat % 2 ^ 12) (v.toNat / 2 ^ 16 % 2 ^ 39 * 65536) .read).1 = .found e lv a →
      lv = 2 → e.testBit 7 = false → entryAddr e < 2 ^ 38 → homeDie (entryAddr e) = d → (s.die d).regs.migdst < 2 ^ 38 → (s.die d).regs.migdst % 65536 = 0 → crossing s d (homeDie (s.die d).regs.migdst) = .clear →
      ∃ t g, exec (.migcmd d v) s = .next t ∧ (t.die d).mig = some g ∧ g.src = entryAddr e ∧ g.dst = (s.die d).regs.migdst ∧ g.entry = a ∧ g.stage = .copied ∧ (t.die d).regs.migst = 1 ∧
        (∀ i < 65536, t.mem.byte (g.dst + i) = s.mem.byte (g.src + i)) ∧ (∀ x, x < g.dst ∨ g.dst + 65536 ≤ x → t.mem.byte x = s.mem.byte x)) ∧
    (∀ g, (s.die d).mig = some g → g.stage = .copied → accessesOver s g.part (g.va / 65536, 1) = true → reaching s d g.entry = .clear → rangeReserved g.entry 8 = false →
      let same := Tab.look 0 (s.die d).versions (g.src / 65536) = g.version ∧ leafCore (s.mem.val g.entry 8) = leafCore g.leaf.toNat
      ∃ t, exec (.migrationCommit d) s = .next t ∧ (t.die d).mig = none ∧
        (same → (t.die d).regs.migst = 2 ∧ (let e := s.mem.val g.entry 8; t.mem.val g.entry 8 = (e - e / 2 ^ 10 % 2 ^ 42 * 2 ^ 10 + g.dst) % 2 ^ 64) ∧
          (∀ x, x < g.entry ∨ g.entry + 8 ≤ x → t.mem.byte x = s.mem.byte x) ∧
          ∀ j ∈ coresOf s g.part, ∀ y ∈ (t.core j).xlats, rangeHits (g.va / 65536, 1) y.vpn y.pages = false) ∧
        (¬ same → (t.die d).regs.migst = 4 ∧ t.mem = s.mem ∧ t.cores = s.cores))

/-- 11 R260 to R264; 18 R345, R346; 23 R405: the write-back of a dirty line that reaches its tile and need not wait stores its block where it fits its slot and locks the page where it does not. The locked page is laid out again, every block in its new slot and the lock gone, or where chunks are short is marked BROKEN and the write discarded. Chunk frames are pushed and popped. An OCCL adds to an owned slot, saturating; slots are counted, owned and cleared by the host's writes. (The model's own choices in it: logs 48, 69.) -/
def Obligations.CompressionAndOcclusionEvents : Prop :=
  ∀ (s : State) (n d k e i : Nat) (v : Word),
    (∀ l, s.mem.cmp[n]? = some l → cmpOk s.mem l.desc = true → writebackWaits s.mem l = false → writebackWay s l = .clear →
      (cmpBroken s.mem l.desc = true → ∃ t, exec (.compressedWriteback n) s = .next t ∧ ∀ y ∈ t.mem.cmp, y.desc ≠ l.desc ∨ y.line ≠ l.line) ∧
      (cmpBroken s.mem l.desc = false → lineFits s.mem l = true → exec (.compressedWriteback n) s = .next (s.modMem fun m => storeBlock m l)) ∧
      (cmpBroken s.mem l.desc = false → lineFits s.mem l = false → (s.part l.part).dutyctl.getLsbD 2 = false →
        ∃ t, exec (.compressedWriteback n) s = .next t ∧ t.mem.val (l.desc + 0x240) 8 = 1 ∧ t.mem.cmp = (s.mem.cmp.map fun x =>
          if x.desc = l.desc ∧ x.line = l.line then { x with outgrown := true, duty := none } else x))) ∧
    (∀ l, s.mem.cmp[n]? = some l → l.outgrown = true → l.duty = none → cmpLock s.mem l.desc = true → cmpOk s.mem l.desc = true →
      (s.part l.part).fltring.en = false → s.iod.hostRing.en = false →
      let q := s.pool (homeDie l.desc) (l.desc / 2 ^ 12 % 2 ^ 4)
      let size (b : Nat) : Nat := if b = l.line / 2 then (cmpPack (mergedBlock s.mem l)).1 else cmpSize s.mem l.desc b
      let caps := (List.range 256).map fun b => min 8 (size b + min 2 q.slack)
      let need := (caps.sum + 127) / 128
      (∀ c ∈ cmpChunks s.mem l.desc ++ q.free ++ q.reserve, c % 4096 = 0 ∧ 0 < c ∧ c < 2 ^ 38 ∧ (c + 4096 ≤ l.desc ∨ l.desc + 1024 ≤ c)) →
      ∃ t, exec (.pageRelayout n) s = .next t ∧ (∀ y ∈ t.mem.cmp, y.desc ≠ l.desc ∨ y.line ≠ l.line) ∧
        (q.free.length + q.reserve.length + (cmpChunks s.mem l.desc).length < need → t.mem.val (l.desc + 0x240) 8 = 2 ∧
          ∀ a, a < l.desc + 0x240 ∨ l.desc + 0x248 ≤ a → t.mem.byte a = s.mem.byte a) ∧
        (need ≤ q.free.length + q.reserve.length + (cmpChunks s.mem l.desc).length → t.mem.val (l.desc + 0x240) 8 = 0 ∧
          ∀ b < 256, t.mem.val (l.desc + 2 * b) 2 = size b * 2 ^ 12 + (caps.take b).sum)) ∧
    (∀ y, ((s.core k).fab.reqsOf e)[n]? = some y → y.kind = .occl → reqMay s k y = true →
      let slot := y.ea.toNat % 2 ^ 14
      (s.die (slot / 4096)).ownsOcc (s.partOf k) (slot % 4096) = true →
      ∃ t, exec (.occlSlotAdd k e n) s = .next t ∧
        Tab.look 0 (t.die (slot / 4096)).regs.occs (slot % 4096) =
          min 0xFFFFFFFE (Tab.look 0 (s.die (slot / 4096)).regs.occs (slot % 4096) + y.opnd.toNat % 2 ^ 32) ∧
        ((t.core k).fab.reqsOf e)[n]? = some { y with st := .done 0 } ∧ ((∀ z ∈ (s.core k).fab.pushes, z.elem ≠ e) → t.mem = s.mem)) ∧
    (hostReaches s → d < 4 →
      (v.toNat % 2 ^ 12 ≤ v.toNat / 2 ^ 16 % 2 ^ 12 →
        ∃ t, exec (.occclr d v) s = .next t ∧ (t.die d).regs.clears = (s.die d).regs.clears ++ [(v.toNat % 2 ^ 12, v.toNat / 2 ^ 16 % 2 ^ 12)]) ∧
      (i < 64 → v.toNat % 2 ^ 13 ≠ Tab.look 0 (s.die d).regs.owners i →
        ∃ t, exec (.occownWrite d i v) s = .next t ∧ Tab.look 0 (t.die d).regs.owners i = v.toNat % 2 ^ 13 ∧
          ∀ j < 64, Tab.look 0 (t.die d).regs.occs (64 * i + j) = 0) ∧
      (i < 4096 → ∃ t, exec (.occcntWrite d i v) s = .next t ∧ Tab.look 0 (t.die d).regs.occs i = min 0xFFFFFFFE (v.toNat % 2 ^ 32)) ∧
      (i < 16 → let f := v.toNat / 2 ^ 12 % 2 ^ 40 * 4096
        (f < 2 ^ 38 → tileOf f = 16 * d + i → ∃ t, exec (.chunkpush d i v) s = .next t ∧
          ((s.pool d i).reserve.length < (s.pool d i).rsvt → (t.pool d i).reserve = (s.pool d i).reserve ++ [f] ∧ (t.pool d i).free = (s.pool d i).free) ∧
          ((s.pool d i).rsvt ≤ (s.pool d i).reserve.length → (t.pool d i).free = (s.pool d i).free ++ [f] ∧ (t.pool d i).reserve = (s.pool d i).reserve)) ∧
        (∀ g rest, (s.pool d i).free = g :: rest → ∃ t, exec (.chunkpop d i) s = .next t ∧ (t.pool d i).free = rest))) ∧
    (∀ f l rest, (s.die d).regs.clears = (f, l) :: rest → f ≤ l →
      ∃ t, exec (.occclrStep d) s = .next t ∧ (∀ j, f ≤ j → j ≤ l → j < f + 64 → Tab.look 0 (t.die d).regs.occs j = 0) ∧
        (∀ j, (j < f ∨ l < j ∨ f + 64 ≤ j) → Tab.look 0 (t.die d).regs.occs j = Tab.look 0 (s.die d).regs.occs j) ∧
        (t.die d).regs.clears = if l < f + 64 then rest else (f + 64, l) :: rest)

/-- 05 R99, R105 to R113, R117 to R119, R437; 07 R178, R180; 17 R335; 21 R387: a token on its way enters its channel, in the order of its ply and destination; grants become seen and return; a pass hands on its oldest token; a squashed firing has no effect; a message reaches the inbox of its core and is delivered at the ENTRY of its handler; an engine command in a message enters its queue; a selection token names the next block; markers are passed on; an element saves a cut and puts its markers on its outputs, where these have room. (The model's own choices in it: logs 50, 56, 82, 90.) -/
def Obligations.TokenAndMessageEvents : Prop :=
  ∀ (s : State) (k n e ch q : Nat),
    (∀ f, (s.core k).fab.flights[n]? = some f → f.dst = .chan e ch → f.tok.mark = .none → f.tok.e = false →
      (∀ g ∈ (s.core k).fab.flights.take n, g.dst ≠ f.dst ∨ g.tok.ply ≠ f.tok.ply) →
      ∃ t, exec (.tokenArrival k n) s = .next t ∧ ((t.core k).fab.chan (chanKey e ch)).toks = ((s.core k).fab.chan (chanKey e ch)).toks ++ [f.tok] ∧
        (t.core k).fab.flights = (s.core k).fab.flights.eraseIdx n ∧ t.mem = s.mem) ∧
    (∀ g, ((s.core k).fab.chan ch).grants[n]? = some g →
      (∃ t, exec (.creditReturn k ch n) s = .next t ∧ ((t.core k).fab.chan ch).grants[n]? = some { g with seen := true } ∧
        ((t.core k).fab.chan ch).toks = ((s.core k).fab.chan ch).toks) ∧
      (g.seen = true → g.prod < 5 → ∃ t, exec (.slotGrantTimeout k ch n) s = .next t ∧ ((t.core k).fab.chan ch).toks = ((s.core k).fab.chan ch).toks ∧
        (((t.core k).fab.chan ch).grants = ((s.core k).fab.chan ch).grants.eraseIdx n ∨
          ∃ y, ((t.core k).fab.chan ch).grants = ((s.core k).fab.chan ch).grants.eraseIdx n ++ [y]))) ∧
    (∀ i j x a rest, Tab.find (s.ply k q).fars i = some x → x.pass j = a :: rest → j + 1 < x.passes.length → (x.pass (j + 1)).length < 8 →
      ∃ t y, exec (.passForward k q i j) s = .next t ∧ Tab.find (t.ply k q).fars i = some y ∧ y.pass j = rest ∧ y.pass (j + 1) = x.pass (j + 1) ++ [a]) ∧
    exec (.firingSquash k e) s = .next s ∧
    (∀ x j v, s.net[n]? = some x → (∀ y ∈ s.net.take n, y.src ≠ x.src ∨ msgTo y.msg ≠ msgTo x.msg) → msgTo x.msg = .core j →
      crossing s (accessDie x.src) (dieOf j) = .clear → x.rest = [] → msgKind x.msg = 0 → Tab.find (s.core j).port.handlers (msgIndex x.msg) = some v → entryOpen s j v = true →
      ∃ t, exec (.messageArrival n) s = .next t ∧ (t.core j).port.inbox = (s.core j).port.inbox ++ [{ msg := x.msg, entry := some v, no := (s.core j).port.arrivals }] ∧ t.net = s.net.eraseIdx n) ∧
    (∀ m v rest u, (s.core k).port.second = none → (s.core k).port.inbox = m :: rest → m.entry = some v → entryOpen s k v = true →
      handlerTarget v = (q, e, ch) → ((s.ply k q).elem e).stopped = false →
      portPut (s.modPort k fun p => { p with inbox := rest }) k e ch (handlerTokens v m.msg).1 = some u →
      ∃ t, exec (.handlerDelivery k) s = .next t ∧ (t.core k).port.inbox = rest ∧ (t.core k).fab = (u.core k).fab ∧
        (t.core k).port.second = (handlerTokens v m.msg).2.map fun y => (.chan e ch, y)) ∧
    (∀ m rest bs u c, (s.core k).port.remote = m :: rest →
      let i := nbits (msgIndex m.msg) 0 2
      ((s.core k).engine i).queue.length + (s.core k).fab.coming (.engine i) < 8 → vreadMany k .read true 1 32 (msgCont m.msg) s = .ok bs u → remoteCmd k i bs = some c →
      ∃ t y z, exec (.remoteEngineCommand k) s = .next t ∧ ((t.core k).engine i).queue = ((u.core k).engine i).queue ++ [{ c with acc := y, num := z }] ∧
        (t.core k).port.remote = rest) ∧
    (∀ a i rest g, (s.core k).fab.selq = (a, i) :: rest → (s.ctx k i).latch = none → strandOf s k i = some g → a.data.toNat % 16 < g.blocks.length →
      ∃ t, exec (.selectionPortToken k) s = .next t ∧ (t.ctx k i).region = some { g with override := some (a.data.toNat % 16) } ∧
        (t.core k).fab.selq = rest) ∧
    (∀ u, (s.ply k q).draining = true → e < 64 → e ∈ drainNodes (s.ply k q) → e ∉ (s.ply k q).forwarded → forwardElem s k q e = some u →
      ∃ t, exec (.drainMarkerForward k q e) s = .next t ∧ e ∈ (t.ply k q).forwarded ∧ t.mem = u.mem) ∧
    (∀ j js c u, markInputs (s.ply k q) e = j :: js → (s.core k).fab.firingsAt q e = [] → ((s.ply k q).elem e).markDue = 0 → (∀ i ∈ j :: js, cutAtHead (s.core k).fab q e i = some c) → (s.ply k q).st = .active → (s.ply k q).frozen = false →
      emitMask ((j :: js).foldl (fun s i => s.modChan k (chanKey e i) fun h => { h with toks := h.toks.eraseP fun x => decide (x.ply = q) }) (saveCut s k q e c))
        k q e 15 { data := w64 c, ply := q, mark := .snap } none = some u →
      ∃ t, exec (.snapshotSave k q e) s = .next t ∧ (t.core k).fab.flights = (u.core k).fab.flights ∧ (t.core k).fab.chans = (u.core k).fab.chans ∧
        ((t.ply k q).elem e).markDue = 0 ∧ (t.ply k q).snaps = (u.ply k q).snaps ∧ t.mem = u.mem)

/-- 05 R117, R119, R121 to R126; 09 R216; 18 R344: a latched selection whose old ply is quiescent commits, and the old ply is FREE; a region that has reported and whose accesses are performed stores DONEVAL where DONEVA is not 0, then STATE, and completes; the block scheduler begins the load of the block it has chosen; a strand of the running block is delivered at ENTRY. (The model's own choices in it: logs 27, 77, 91, 92.) -/
def Obligations.CommitAndRegionEvents : Prop :=
  ∀ (s : State) (k n : Nat),
    (∀ l, (s.ctx k n).latch = some l → stagedFor s k n l.ply = true → (∀ q, (s.ctx k n).bound = some q → plyQuiet s k q = true) →
      ∃ t, exec (.plyCommit k n) s = .next t ∧ (t.ctx k n).bound = some l.ply ∧ (t.ctx k n).latch = none ∧ (t.ply k l.ply).st = .active ∧
        (∀ q, (s.ctx k n).bound = some q → q ≠ l.ply → (t.ply k q).st = .free) ∧ (∀ pc, l.commit = some pc → (t.ctx k n).pc = pc ∧ (t.ctx k n).hold = false) ∧ t.mem = s.mem) ∧
    (∀ g q m v u, (s.ctx k n).region = some g → g.state = .opened → g.strand = false → (s.ctx k n).bound = some q → g.mark = some m →
      accessesDone s k q m = true → g.cause = 0 →
      (g.doneva = 0 ∧ v = s ∨ g.doneva ≠ 0 ∧ g.stored = false ∧ g.doneva.toNat % 8 = 0 ∧ vwrite s k g.doneva.toNat (bytesLE g.doneval.toNat 8) true = .ok () v) →
      storeState v k g.rcb 2 true = .ok () u → g.served = false → sliceOn u k n = none →
      ∃ t r, exec (.regionComplete k n) s = .next t ∧ (t.ctx k n).region = some r ∧ r.state = .done ∧ r.cause = 0 ∧ t.mem = u.mem) ∧
    (∀ g i q b, (s.ctx k n).region = some g → g.strand = true → g.state = .opened → (s.ctx k n).latch = none →
      (∀ p < 4, (s.ply k p).st = .loading → (s.ply k p).ctx ≠ n) → (g.choice = none → ∀ b, g.block = some b → strandsOf s k b = 0) →
      (g.choice = some i ∨ g.choice = none ∧ chooseBlock s k g = some i ∧ g.running ≠ some i) → plyToLoad s k n true 0 = some q → g.blocks[i]? = some b →
      ∃ t, exec (.blockChoice k n) s = .next t ∧ (t.ply k q).st = .loading ∧ (t.ply k q).ctx = n ∧ (t.ply k q).image = b.image ∧ (t.ply k q).loader = some i ∧
        t.mem = s.mem) ∧
    (∀ g q b e ch x rest u, (s.ctx k n).region = some g → (s.ctx k n).bound = some q → g.block = some b → (s.ply k q).entry = some (.chan e ch) →
      g.state = .opened → g.exhausted = false → (s.ply k q).st = .active → (s.ply k q).draining = false → (s.ply k q).frozen = false →
      (s.queue (localQueue k b.queue)).toks = x :: rest → msgKind x.tok = 0 →
      portPut (s.modQueue (localQueue k b.queue) fun y => { y with toks := rest }) k e ch { data := w64 (msgOperand x.tok), ply := q, port := true } = some u →
      exec (.strandDelivery k n) s = .next u)

/-- 05 R130; 09 R216 to R222; 10 R230, R240, R241, R246; 21 R381, R393, R395: a decision starts for an eligible queue where a server and a policy unit are free, ends with the built-in verdict when its budget is used up, and commits in order: IDLE and KEEP change nothing; a PICK begins a slice on a FREE server for messages, on the WARM server that holds the image, or with a load; a PREEMPT begins the queue's slice on a WARM server with its image, or a full switch of the victim; a usable fault verdict acts; a slice delivers its tokens, and ends when it has none left; a launch token sets IMAGE; a budget used up stops a slice; the placement controller samples; a swap token switches a die, which acknowledges, and the swap completes. (The model's own choices in it: logs 28, 60, 100.) -/
def Obligations.SchedulerEvents : Prop :=
  ∀ (s : State) (d c n k : Nat) (q : Nat),
    (let p := clusterPart s d c
     let es := eligibleQueues s d c (stealDie (s.part p)) (stealPkg (s.part p))
     let vs := candidateQueues s es
     ∀ l u, p ≠ 0 → es ≠ [] → (s.disp d c).decs.length < 4 → dispatchesIn s d c < idleServers s d c →
      queueBudgets d c vs s = .ok l u → (u.part (clusterPart u d c)).dutyctl.getLsbD 1 = false →
      ∃ t x, exec (.dispatchDecisionStart d c) s = .next t ∧ (t.disp d c).decs = (u.disp d c).decs ++ [x] ∧ x.kind = .dispatch ∧ x.ids = vs ∧ x.eligible = es ∧
        x.cands = (vs.zip l).map (fun y => queueRecord u d c y.1 y.2) ∧ t.mem = u.mem) ∧
    (∀ l u, idleServers s d c = 0 → q ∈ homeQueues s d c → q ∈ (s.disp d c).newly → openYields s d c = [] → mayPreempt s d c = true →
      queueBudgets d c [q] s = .ok l u → (u.part (clusterPart u d c)).dutyctl.getLsbD 1 = false →
      ∃ t x, exec (.preemptionDecisionStart d c q) s = .next t ∧ (t.disp d c).decs = (u.disp d c).decs ++ [x] ∧ x.kind = .preempt ∧ x.subjQ = q ∧ t.mem = u.mem) ∧
    (∀ x p, s.decision d c n = some x → x.verdict = none → x.host = none → x.prog = some p → p.budget ≤ x.time →
      ∃ t, exec (.policyBudgetExpiry d c n) s = .next t ∧ (∃ y, t.decision d c n = some y ∧ y.verdict = some x.builtin) ∧
        (t.part x.part).policy.ovr = min (2 ^ 24 - 1) ((s.part x.part).policy.ovr + 1)) ∧
    (∀ x, s.decision d c 0 = some x → x.kind = .dispatch → x.verdict = some (1, 0) →
      ∃ t, exec (.decisionCommit d c 0) s = .next t ∧ (t.disp d c).decs = (s.disp d c).decs.drop 1 ∧ (t.die d).slices = (s.die d).slices ∧ t.mem = s.mem) ∧
    (∀ x i v, s.decision d c 0 = some x → x.kind = .dispatch → x.verdict = some (0, i) → i < x.cands.length → x.ids[i]? = some v →
      (eligibleQueues s d c x.stealDi x.stealPk).contains v = true → suspendedOf s v = none → c < 5 →
      let picks (j m : Nat) (p : Slice → State → Prop) : Prop := ∃ t a y, exec (.decisionCommit d c 0) s = .next t ∧ (t.disp d c).decs = (s.disp d c).decs.drop 1 ∧
        Tab.find (t.die d).slices a = some y ∧ y.queue = v ∧ y.core = j ∧ y.ctx = m ∧ p y t
      (∀ j m, (s.queue v).image = 0 → (serversOf s d c .free).head? = some (j, m) → picks j m fun y _ => y.messages = true ∧ y.ply = none) ∧
      (∀ j m p, (s.queue v).image ≠ 0 → warmHolds s d c (s.queue v).image = some (j, m) → (s.ctx j m).bound = some p → (s.ctx j m).region.isSome = true →
        picks j m fun y t => y.ply = some p ∧ y.loading = false ∧ (t.core j).fab.order.head? = some p) ∧
      (∀ j m p, (s.queue v).image ≠ 0 → warmHolds s d c (s.queue v).image = none → freeServerWithPly s d c = some (j, m, p) →
        picks j m fun y t => y.ply = some p ∧ y.loading = true ∧ (t.ply j p).st = .loading ∧ (t.ply j p).ctx = m ∧ (t.ply j p).image = (s.queue v).image)) ∧
    (∀ x i, s.decision d c 0 = some x → x.kind = .preempt →
      let u := s.modDisp d c fun p => { p with decs := p.decs.drop 1 }
      (x.verdict = some (3, i) → exec (.decisionCommit d c 0) s = .next u) ∧
      (∀ a y p, x.verdict = some (2, i) → i < x.cands.length → x.ids[i]? = some a → x.server = none → (homeQueues u d c).contains x.subjQ = true →
        Tab.find (u.die d).slices a = some y → y.core / 128 = d → y.messages = false → y.loading = false → y.ply = some p → (u.ctx y.core y.ctx).switch = none →
        (∀ m, plyServer u y.core x.subjQ = some (m, true) → (u.ctx y.core m).bound.isSome = true → (u.ctx y.core m).region.isSome = true →
          ∃ t b z, exec (.decisionCommit d c 0) s = .next t ∧ Tab.find (t.die d).slices b = some z ∧ z.queue = x.subjQ ∧ z.core = y.core ∧ z.ctx = m ∧
            (t.ply y.core p).st = (s.ply y.core p).st) ∧
        (∀ slot, plyServer u y.core x.subjQ = none → freeSlot u (u.partOf y.core) = some slot → farBound u y.core p = false →
          ∃ t z r, exec (.decisionCommit d c 0) s = .next t ∧ (t.ctx y.core y.ctx).switch = some r ∧ r.slot = slot ∧ r.queue = x.subjQ ∧
            slot ∈ (t.part (s.partOf y.core)).slots ∧ Tab.find (t.die d).slices a = some z ∧ z.delivering = false))) ∧
    (∀ x f v, s.decision d c 0 = some x → x.kind = .fault → x.fault = some f → x.verdict = some v →
      let u := s.modDisp d c fun p => { p with decs := p.decs.drop 1 }
      f ∈ (s.part f.part).faults → faultUsable u f v.1 v.2 = true →
      exec (.decisionCommit d c 0) s = .next (actFault u f v.1 v.2) ∧
      (loadFault s f = false →
        (v.1 = 5 → { f with verdict := 5, awaiting := false } ∈ ((actFault u f v.1 v.2).part f.part).faults) ∧
        (v.1 = 6 → { f with awaiting := true } ∈ ((actFault u f v.1 v.2).part f.part).faults) ∧
        (v.1 = 7 → { f with verdict := 7, target := v.2 % 4, awaiting := false } ∈ ((actFault u f v.1 v.2).part f.part).faults))) ∧
    (∀ t0 rest, (s.queue (d * 4096 + n)).toks = t0 :: rest → n < 4096 → isLaunch t0.tok = true → (s.queue (d * 4096 + n)).en = true → msgOperand t0.tok % 64 = 0 →
      ∃ t, exec (.launchToken d n) s = .next t ∧ (t.queue (d * 4096 + n)).toks = rest ∧ (t.queue (d * 4096 + n)).image = w (msgOperand t0.tok) ∧ t.mem = s.mem) ∧
    (∀ x t0 rest u, Tab.find (s.die d).slices n = some x → x.loading = false → x.delivering = true → x.exhausted = false → x.spent s = false →
      (x.ply = none ∧ x.messages = true ∨ ∃ p, x.ply = some p ∧ (s.ply x.core p).st = .active ∧ (s.ply x.core p).draining = false ∧ (s.ply x.core p).frozen = false) →
      x.stolen = none → x.closed = false → (s.queue x.queue).toks = t0 :: rest → isLaunch t0.tok = false →
      sliceToken (s.modQueue x.queue fun q => { q with toks := rest }) n x t0.tok = some u →
      ∃ t, exec (.sliceTokenDelivery d n) s = .next t ∧ (Tab.look {} (t.die d).slices n).dl = t0.dl ∧ t.mem = u.mem) ∧
    (∀ x, Tab.find (s.die d).slices n = some x → x.loading = false → x.exhausted = false → x.stage = none → sliceDry s x = true →
      (x.ply = none → x.messages = true → (s.core x.core).port.holds n = false →
        exec (.sliceEnd d n) s = .next (s.modDie d fun y => { y with slices := Tab.drop y.slices n })) ∧
      (∀ p g, x.ply = some p → plyIdle s x.core p = true → faultOpen s x.core x.ctx = false → (s.ctx x.core x.ctx).switch = none →
        (s.ctx x.core x.ctx).region = some g → g.cause = 0 →
        ∃ t, exec (.sliceEnd d n) s = .next t ∧ (t.ctx x.core x.ctx).region = some { g with slice := none } ∧ t.mem = s.mem)) ∧
    (∀ i x b, sliceOn s k n = some (i, x) → Tab.find (s.die (dieOf k)).slices i = some x → x.loading = false → x.exhausted = false → x.ply.isSome = true →
      x.budget = some b → b ≤ x.count s →
      ∃ t y, exec (.budgetExhaustion k n) s = .next t ∧ Tab.find (t.die (dieOf k)).slices i = some y ∧ y.exhausted = true) ∧
    (∀ x, Tab.find (s.die d).stages n = some x → x.period ≠ 0 → x.next ≤ (s.plain d 0).ac →
      let z := { x with
        next := (s.plain d 0).ac + x.period
        above := if x.grow < (s.queue (d * 4096 + x.queue)).toks.length then x.above + 1 else 0
        below := if (s.queue (d * 4096 + x.queue)).toks.length < x.shrink then x.below + 1 else 0 }
      (z.above < x.hyst → z.below < x.hyst → exec (.placementSample d n) s = .next (s.modDie d fun y => { y with stages := Tab.set y.stages n z })) ∧
      (∀ j, x.hyst ≤ z.above → x.cores.length < x.maxc → (s.queue (d * 4096 + x.queue)).partid ≠ 0 → stageGrows s d n = false →
        stageCore s d (s.queue (d * 4096 + x.queue)).partid x = some j →
        ∃ t, exec (.placementSample d n) s = .next t ∧ (t.ply j 0).st = .loading ∧ (t.ply j 0).ctx = 0 ∧ (t.ply j 0).image = x.image)) ∧
    (let y := (s.part q).policy
     (y.swp = true → d ∈ partDies s q → d ∉ y.switched →
        exec (.swapTokenArrival q d) s = .next (s.modPart q fun x => { x with policy := { x.policy with switched := x.policy.switched ++ [d] } })) ∧
     (y.swp = true → d ∈ y.switched → d ∉ y.acked → (∀ x ∈ decisionsOf s q d, x.gen = (y.gen + 1) % 256) →
        exec (.swapDieAck q d) s = .next (s.modPart q fun x => { x with policy := { x.policy with acked := x.policy.acked ++ [d] } })) ∧
     (y.swp = true → (∀ j ∈ partDies s q, j ∈ y.acked) →
        ∃ t, exec (.swapComplete q) s = .next t ∧ (t.part q).policy.gen = (y.gen + 1) % 256 ∧ (t.part q).policy.active = y.staged ∧ (t.part q).policy.swp = false ∧
          (t.part q).policy.staged = .empty))

/-- 21 R374 to R376, R378, R381 to R386, R389, R390: a firing that faults writes its record and posts its event where there is room; a fault decision starts for the first fault of a context; the host's reply acts as its verdict; KILL contains its group once it is quiescent; ROLLBACK goes back to the group's cut; MIGRATE switches the region out and loads it at its target. (The model's own choices in it: logs 40, 49, 51, 83.) -/
def Obligations.FaultEvents : Prop :=
  ∀ (s : State) (k n : Nat) (v : Word),
    (∀ (d : EDst) (a : ESrc) (o : BitVec 18),
      let b := s.actor
      let at_ := (s.src a).toNat % 2 ^ 18 + o.toNat
      let m := (s.ply b.core b.ply).ctx
      let p := s.partOf b.core
      let r := (s.part p).fltring
      let x := r.base + 64 * (r.head % r.size)
      let g := (s.ctx b.core m).region
      at_ % 8 ≠ 0 → s.endFiring = false → (s.ctx b.core m).latch = none → sliceOn s b.core m = none → (s.ply b.core b.ply).snaps = [] → r.room = true → reaching s 4 x = .clear →
      rangeReserved x 64 = false → (s.core b.core).evq.length < 256 → (s.core b.core).lost = false →
      ∃ t, exec (.tsLd d a o) s = .next t ∧ (t.part p).fltring = { r with head := (r.head + 1) % 65536 } ∧
        t.mem.val x 8 = (r.head * 2 ^ 48 + p * 2 ^ 36 + 2 ^ 26 + m * 2 ^ 24 + b.ply % 4 * 2 ^ 22 + min 31 ((g.map (·.nflt)).getD 0) * 2 ^ 17 + b.rule * 2 ^ 13 + 2 * 2 ^ 10 + 0x24) % 2 ^ 64 ∧
        t.mem.val (x + 8) 8 = tagged 4 at_ % 2 ^ 64 ∧ t.mem.val (x + 16) 8 = (dieOf b.core * 2 ^ 13 + coreIn b.core * 2 ^ 6 + b.elem) % 2 ^ 64 ∧
        t.mem.val (x + 24) 8 = (g.map (·.rcb.toNat)).getD 0 ∧ t.mem.val (x + 32) 8 = s.actionWord.toNat ∧ t.mem.val (x + 40) 8 = (s.die (dieOf b.core)).dlc % 2 ^ 64 ∧
        t.mem.val (x + 48) 8 = 0 ∧ t.mem.val (x + 56) 8 = 0 ∧
        (t.core b.core).evq = (s.core b.core).evq ++
          [BitVec.ofNat 128 ((g.map (·.rcb.toNat)).getD 0 * 2 ^ 64 + (0x11 + m * 2 ^ 9 + b.ply % 4 * 2 ^ 11 + 0x24 * 2 ^ 13 + r.head * 2 ^ 20) % 2 ^ 64)]) ∧
    (∀ f, (faultsOf s k n).find? (fun f => !f.started) = some f → stillHeld s f = true → (faultSlice s f).isSome = true → (faultsOf s k n).any FaultRef.pending = false →
      (s.disp (dieOf k) (clusterOf k)).decs.length < 4 → (s.part f.part).dutyctl.getLsbD 3 = false →
      ∃ t x, exec (.faultDecisionStart k n) s = .next t ∧ (t.disp (dieOf k) (clusterOf k)).decs = (s.disp (dieOf k) (clusterOf k)).decs ++ [x] ∧
        x.kind = .fault ∧ x.fault = some { f with started := true } ∧ x.builtin = builtinFault (setFault s f (some { f with started := true })) { f with started := true } ∧ t.mem = s.mem) ∧
    (∀ p f, hostReaches s → (s.part p).faults.find? (fun f => f.awaiting && decide (f.seq = v.toNat / 2 ^ 48)) = some f → f.saved = false → v.toNat % 8 = 5 →
      exec (.fltreply p v) s = .next (actFault s f 5 (v.toNat / 2 ^ 4 % 4))) ∧
    (∀ f, (faultsOf s k n).find? (fun f => decide (f.verdict = 5) && groupQuiet s k f.ply (killGroup s f)) = some f →
      let u := containGroup s k f.ply (killGroup s f)
      allContained (u.ply k f.ply) = false →
      ∃ t, exec (.containment k n) s = .next t ∧ (∀ e ∈ killGroup s f, e < 64 → ((t.ply k f.ply).elem e).stopped = true) ∧ t.mem = s.mem) ∧
    (∀ f c, (faultsOf s k n).find? (fun f => decide (f.verdict = 4) && groupQuiet s k f.ply (groupOf (s.ply k f.ply) f.elem)) = some f →
      usableCut s k f.ply (groupOf (s.ply k f.ply) f.elem) = some c →
      let u := rollbackGroup s k f.ply (groupOf (s.ply k f.ply) f.elem) c
      ∃ t, exec (.rollback k n) s = .next t ∧ t.cores = u.cores ∧ t.mem = u.mem ∧ f ∉ (t.part f.part).faults) ∧
    (∀ f i x g slot j m p, (faultsOf s k n).find? (fun f => decide (f.verdict = 7)) = some f → movedSlice s k n = some (i, x) → (s.ctx k n).region = some g →
      freeSlot s f.part = some slot → moveTarget s f.part f.target = some (j, m, p) → reaching s (accessDie k) (slotAddr s f.part slot) = .clear →
      groupQuiet s k f.ply (nodesOf (s.ply k f.ply)) = true → switchReady s k n = true →
      ∃ t, exec (.regionMigration k n) s = .next t ∧ (t.ctx k n).region = none ∧ (t.ctx k n).bound = none ∧ (t.ply j p).st = .loading ∧ (t.ply j p).ctx = m)

/-- 09 R207, R208; 19 R353, R355 to R358, R361, R364 to R367: a beacon carries LINE and LPER to a die; a line start counts LINE; a fallback level whose accesses succeed commits its band; the operations of the DSE queue run and leave it; the band of a waiting DS.EMIT commits on the network path. (The model's own choices in it: logs 36, 38, 75, 84.) -/
def Obligations.DisplayEvents : Prop :=
  ∀ (s : State) (d h b : Nat),
    (d < 4 → h < 4 → (s.iod.head h).hctl.getLsbD 0 = true →
      ∃ t, exec (.lineBeacon d h) s = .next t ∧ ((t.die d).lines h).line = (s.iod.head h).line ∧ ((t.die d).lines h).lper = lperOf (s.iod.head h) ∧
        ((t.die d).lines h).lgen = ((s.die d).lines h).lgen ∧ t.iod = s.iod) ∧
    (h < 4 → (s.iod.head h).hctl.getLsbD 0 = true → ∃ t, exec (.lineStart h) s = .next t ∧ (t.iod.head h).line = (s.iod.head h).line + 1) ∧
    (∀ z lv x bad u, (s.iod.head h).bands.find? (fun x => decide (x.b = b) && x.running.any fun l => decide (l = 1 ∨ l = 2)) = some z → z.running = some lv →
      (s.iod.head h).frame z.f = some x → writeLevel { soft := true } (s.iod.head h) x lv b (bandAt (s.iod.head h) x b) s = .ok bad u →
      ∃ t, exec (.fallbackLevelFinish h b) s = .next t ∧ (t.iod.head h).committed z.f b = true ∧ t.mem = u.mem) ∧
    (∀ o rest, s.iod.dsq = o :: rest →
      let hd (i : Fin 4) := s.iod.head i.val
      let f := o.a.toNat / 2 ^ 16 % 2 ^ 32
      let bn := o.a.toNat % 2 ^ 9
      (∀ a c i x r u r' u', o.act = .dsMe a c i → (hd i).frame f = some x →
        let j := o.a.toNat % 2 ^ 16 + o.done
        o.done < o.b.toNat → j < x.sh / 8 → mrMap (blockVector { user := o.user } x (srcBefore (hd i) x.f) j) (List.range x.blocks) s = .ok r u →
        mrMap (dsWrite { user := o.user } 4) (r.1.zipIdx.map fun (v, m) => (x.mv.toNat + 4 * (j * x.blocks + m), v)) u = .ok r' u' →
        exec .dsMeRun s = .next (if o.b.toNat ≤ o.done + 1 then dsPop (coverRows u' i.val x.f ((List.range o.b.toNat).map fun m => o.a.toNat % 2 ^ 16 + m)) else dsStep u')) ∧
      (∀ a c up i x bad u, o.act = .dsWarp a c up i → (hd i).frame f = some x → (hd i).committed f bn = false → o.b.toNat % 64 = 0 →
        (if up then x.taken = false else haveVec (hd i) x bn = true) →
        writeLevel { user := o.user } (hd i) x (if up then 2 else 1) bn o.b.toNat s = .ok bad u →
        exec .dsWarpRun s = .next (u.modIod fun y => { y with dsq := y.dsq.drop 1 })) ∧
      (∀ a c up i x, o.act = .dsWarp a c up i → (hd i).frame f = some x → (hd i).committed f bn = false → o.b.toNat % 64 ≠ 0 →
        exec .dsWarpRun s = .next (dsFail s .displayFormat o.b.toNat)) ∧
      (∀ a c i x, o.act = .dsNet a c i → (hd i).frame f = some x → (hd i).committed f bn = false → o.b.toNat % 64 ≠ 0 →
        exec .dsNetRun s = .next (dsFail s .displayFormat o.b.toNat)) ∧
      (∀ a c i x hs u rs u1 u2, o.act = .dsNet a c i → (hd i).frame f = some x → (hd i).committed f bn = false → o.b.toNat % 64 = 0 →
        dsBytes { user := o.user } o.b.toNat 16 s = .ok hs u → 1 ≤ hs.1.headD 0 → hs.1.headD 0 ≤ 16 → (∀ z ∈ hs.1.drop 1, z = 0) →
        dsBytes { user := o.user } (o.b.toNat + 16 + 32 * o.done) 32 u = .ok rs u1 →
        let l := rs.1.map (BitVec.ofNat 8)
        (∀ m, badField l (decide (o.done + 1 = hs.1.headD 0)) = some m →
          exec .dsNetRun s = .next (dsFail u1 .displayFormat (o.b.toNat + 16 + 32 * o.done + m))) ∧
        (badField l (decide (o.done + 1 = hs.1.headD 0)) = none → ((layerOf l).sr = true → u1.mayDraw dsCore 64 = true) → runLayer { user := o.user } (layerOf l) (bandAt (hd i) x bn) (16 * (hd i).hact * (layerOf l).n - o.val) o.val u1 = .ok () u2 →
          exec .dsNetRun s = .next (if (layerOf l).last then dsPop u2 else dsStep u2)))) ∧
    (∀ e, s.iod.emit = some e → (s.ctx dsCore 0).run = .run → (s.ctx dsCore 0).pc = e.pc → s.iod.dsFault = none → (s.iod.head e.head).band e.f e.b = none →
      (∀ o ∈ s.iod.dsq, o.ofBand e.head e.f e.b = false) →
      ∃ t, exec .emitCommit s = .next t ∧ (t.iod.head e.head).committed e.f e.b = true ∧ t.mem = s.mem ∧ t.cores = s.cores)

/-- 11 R256, R257; 12 R267 to R271, R276, R278 to R281; 13 R303: a stream port takes up its next command, reads and writes elements, fills and writes back its lines and completes; an element's request is performed and its response emitted. Each where its access succeeds and its outputs have room, and no port before it has a token to send. (The model's own choices in it: logs 4, 44, 65, 102.) -/
def Obligations.StreamAndRequestEvents : Prop :=
  ∀ (s : State) (k n e : Nat),
    let p := (s.core k).stream n
    (∀ c rest, p.run = none → p.queue = c :: rest → (s.ply k c.ply).st = .active → (s.ply k c.ply).frozen = false → (s.ply k c.ply).draining = false → c.after = [] →
      ∃ t, exec (.streamElement k n) s = .next t ∧ ((t.core k).stream n).run = some { cmd := c } ∧ ((t.core k).stream n).queue = rest ∧
        t.mem = (performStores s fun x => decide (x.core = k) && x.owed.contains c.id).mem) ∧
    (∀ r, p.run = some r → p.faulted = false → (s.ply k r.cmd.ply).frozen = false → meterBehind s k n = false → r.eosDue = false → r.last = false →
      let d := r.cmd.desc
      let a := tagged d.space (truncI (d.elem r.e) 60)
      (∀ sp off u, d.ind = false → d.write = false → d.space ≠ 0 → 0 ≤ d.elem r.e → d.elem r.e < 2 ^ 60 → bufSpan (s.core k) (streamSpaces false) a d.esz = (0, sp, off) → bufBad s k sp off d.esz = false →
        streamSend s k n r.cmd.ply { data := streamData d (bufRead s k sp off d.esz), ply := r.cmd.ply } = some u →
        exec (.streamElement k n) s = .next (u.modStream k n fun p => { p with run := some r.past })) ∧
      (∀ off x rest, d.ind = false → d.write = true → d.space ≠ 0 → 0 ≤ d.elem r.e → d.elem r.e < 2 ^ 60 → bufSpan (s.core k) (streamSpaces true) a d.esz = (0, d.space, off) →
        p.given r.cmd.ply = x :: rest → x.e = false →
        ∃ t, exec (.streamElement k n) s = .next t ∧ ((t.core k).stream n).run = some r.past ∧
          (t.core k).buf d.space = ((bufPut s k d.space off (bytesLE x.data.toNat d.esz)).core k).buf d.space ∧ t.mem = s.mem) ∧
      (∀ l u bs u', let va := vaOf (d.elem r.e)
        d.ind = false → d.write = false → d.space = 0 → r.e < d.n0 * d.n1 * d.n2 → p.lines = [] →
        streamReach s k n va (vaOf d.span.2) false = .ok l u → locFetch u k va l.line 128 false = .ok bs u' →
        ∃ t x, exec (.windowFill k n) s = .next t ∧ ((t.core k).stream n).lines = [x] ∧ x.bytes = putBytes [] 0 bs ∧ t.mem = u'.mem)) ∧
    (∀ r l rest u, p.run = some r → p.lines = l :: rest → l.stuck = false → r.cmd.desc.write = true → writeRuns k l.va l.loc (byteRuns l.bytes) s = .ok () u →
      exec (.streamLineWriteback k n) s = .next (u.modStream k n fun p => { p with lines := rest })) ∧
    (∀ r, p.run = some r → r.last = true → r.eosDue = false → p.faulted = false → (r.cmd.desc.write = true → p.lines = [] ∧ r.cmd.desc.ctok = false) →
      exec (.streamCommandComplete k n) s = .next ((dropOlds s k n).modStream k n fun p => { p with run := none, lines := [], past := some (r.cmd.id, r.sent) })) ∧
    (∀ y ys v u w, (∀ z ∈ (s.core k).fab.park, z.elem = e → z.st = .held) → (s.core k).fab.reqsOf e = y :: ys → reqMay s k y = true → y.kind ≠ .occl →
      performReq s k y = .done v u → (u.core k).fab.reqsOf e = y :: ys → respond (putReq k e 0 (some { y with st := .done v }) u) k { y with st := .done v } = some w →
      exec (.requestResponse k e) s = .next (flushPushes (w.modReqs k e fun _ => ys) k e))

/-- 17 R322, R326 to R335; 24 R428: an engine accepts a command in order, begins the next one whose checks pass, runs it to its end and reports it; a publish inverts FLIP of its window; a collective whose members agree runs for all of them, one with a member that is no core of the partition fails with ENGINE_STATE, and one with members in other packages waits for the ports to them, fails where one is down, and else waits for theirs, fails everywhere or begins as they answer. (The model's own choices in it: logs 4, 22, 79.) -/
def Obligations.EngineEvents : Prop :=
  ∀ (s : State) (k n : Nat),
    (∀ f c, (s.core k).fab.flights[n]? = some f → f.cmd = some c → ∀ i < 3, f.dst = .engine i → (s.ply k c.ply).frozen = false →
      (∀ g ∈ (s.core k).fab.flights.take n, g.dst ≠ .engine i) →
      ∃ t z, exec (.engineCommandAccept k n) s = .next t ∧ ((t.core k).engine i).queue = ((s.core k).engine i).queue ++ [{ c with acc := (s.core k).nextEng, num := z }] ∧
        (t.core k).fab.flights = (s.core k).fab.flights.eraseIdx n ∧ t.mem = s.mem) ∧
    (∀ i c, ((s.core k).engine n).cur = none → nextCmd ((s.core k).engine n) = some (i, c) → releaseMet (s.core k) c = true → shadowWaits (s.core k) c = false →
      (∀ o, c.kind ≠ .coll o) → beginCheck (s.core k) c = none →
      exec (.engineCommandBegin k n) s = .next (s.modEngine k n fun e => { e with queue := e.queue.eraseIdx i, cur := some c })) ∧
    (∀ c c' u, ((s.core k).engine n).toks = [] → ((s.core k).engine n).cur = some c → engRun k n c s = .done c' u →
      let x := { c' with wrote := wroteAt u k n, done := true }
      (∀ y ∈ collOthers u k x, y.2.done = true) → exec (.engineCommandComplete k n) s = .next (completeCmd u k n x)) ∧
    (∀ c o, ((s.core k).engine n).cur = some c → c.kind = .pub o → c.done = false →
      ∃ t, exec (.pubFlip k n) s = .next t ∧ (Tab.look {} (t.core k).shadows o.w.val).flip = !(Tab.look {} (s.core k).shadows o.w.val).flip ∧
        ((t.core k).engine n).cur = some { c with done := true } ∧ t.mem = s.mem) ∧
    (∀ p g ms u j c rest, groupEntry s p g = (ms, u) →
      let l := (ms.filterMap memberCore).filterMap (collReady u g)
      let far := decide ((ms.filterMap memberCore).length ≠ ms.length)
      l.length = (ms.filterMap memberCore).length → l = (j, c) :: rest → (∀ x ∈ ms.filterMap memberCore, u.partOf x = p) →
      (∀ x ∈ l, x.2.num = c.num) → (∀ x ∈ l, collShape x.2 = collShape c) →
      (far = false → ∀ src u1, (∀ x ∈ l, collCheck (u.core x.1) x.2 ms.length = none) → collRead (bits c.c 0 32) (collMembers ms l) u = .inl (src, u1) →
        exec (.collectiveBegin p g) s = .next (collBegin u1 l (collResult c src) none)) ∧
      (∀ x ∈ ms, peerWay u x = .held → exec (.collectiveBegin p g) s = .next s) ∧
      ((∀ x ∈ ms, peerWay u x ≠ .held) → (∃ x ∈ ms, peerWay u x = .down) → exec (.collectiveBegin p g) s = .next (collFail u l none .linkDown)) ∧
      (far = true → (∀ x ∈ ms, peerWay u x = .clear) → ∃ f, exec (.collectiveBegin p g) s = .next { s with fresh := f } ∨
        exec (.collectiveBegin p g) s = .next (collFail { u with fresh := f } l none .collMismatch) ∨
        ∃ pf, exec (.collectiveBegin p g) s = .next (collStart { u with fresh := f } ms l c pf))) ∧
    (∀ p g ms u j c rest, groupEntry s p g = (ms, u) →
      let own := (ms.filterMap memberCore).filter fun x => decide (u.partOf x = p)
      let l := own.filterMap (collReady u g)
      l.length = own.length → l = (j, c) :: rest → (∀ x ∈ l, x.2.num = c.num) → own.length ≠ (ms.filterMap memberCore).length →
      exec (.collectiveBegin p g) s = .next (collFail u l none .engineState))

namespace Sys2Proof.Claims

open Sys2Proof Sys2Proof.Machine

/-- The operation at the head of the matrix queue of a core is x. -/
def mxHead (s : State) (k : Nat) (x : MxOp) : Prop := ∃ rest, (s.core k).mx.queue = x :: rest

/-- s with the operation at the head of the queue replaced. -/
def mxNow (s : State) (k : Nat) (x : MxOp) : Prop := (s.core k).mx.queue.head? = some x

end Sys2Proof.Claims

/-- 08 R187, R190 to R195, R197, R199, R203: the operation at the head of the matrix queue does its next part: MX.LDB the values of its next unit, MX.SCALE its scales, an MM its next row, which is then added to its bank row, MX.DRAIN its next row, converted and written to AB, MX.EDGE the mask of its next edge, and after the last the masks of its groups in AB; MX.GANG joins; one whose work is done leaves the queue and the outstanding count of its context. Each where its buffers hold readable data in range. (The model's own choices in it: logs 13, 64, 103.) -/
def Obligations.MatrixEvents : Prop :=
  ∀ (s : State) (k : Nat) (x : MxOp), mxHead s k x →
    (∀ a sl bt mb bs vs, x.act = .mxLdb a sl bt → mxStopped s k x = false → x.row < 128 * (4 * MTy.p bt) →
      mxRead (if x.begun then s else setSlice s k sl.val fun y => { y with valid := false, aen := false, ben := false }) k 2 (bufAddr x.a + x.row / 4) 1 = .ok mb →
      let mode := nbits (ofBytesLE mb) (2 * (x.row % 4)) 2
      mode ≠ 3 →
      mxRead (if x.begun then s else setSlice s k sl.val fun y => { y with valid := false, aen := false, ben := false }) k 2
        (bufAddr x.a + 128 * MTy.p bt + x.written) (unitBytes (MTy.bits bt) mode) = .ok bs →
      unitValues (MTy.bits bt) mode bs = some vs →
      ∃ t y, exec (.mxLdbExecute k) s = .next t ∧ mxNow t k y ∧ y.row = x.row + 1 ∧
        (x.row + 1 = 128 * (4 * MTy.p bt) → ((t.core k).mx.slice sl.val).valid = true ∧ ((t.core k).mx.slice sl.val).bt = bt) ∧
        (∀ i v, vs[i]? = some v → Tab.look 0 ((t.core k).mx.slice sl.val).vals ((32 * (x.row / 128) + i) * 128 + x.row % 128) = v) ∧
        (mode = 0 → vs = List.replicate 32 0) ∧ (mode = 1 → vs = (List.range 32).map fun i => ofBytesLE bs / 2 ^ (MTy.bits bt * i) % 2 ^ MTy.bits bt) ∧ t.mem = s.mem) ∧
    (∀ a sl aen, x.act = .mxScale a sl aen false → x.begun = false → mxStopped s k x = false → ((s.core k).mx.slice sl.val).valid = true →
      (aen = true → MTy.scaled ((s.core k).mx.slice sl.val).bt = true) →
      ∃ t y, exec (.mxScaleExecute k) s = .next t ∧ mxNow t k y ∧ y.begun = true ∧ ((t.core k).mx.slice sl.val).aen = aen ∧
        ((t.core k).mx.slice sl.val).ben = false ∧ ((t.core k).mx.slice sl.val).vals = ((s.core k).mx.slice sl.val).vals) ∧
    (∀ a sl aen bs, x.act = .mxScale a sl aen true → x.begun = false → mxStopped s k x = false → ((s.core k).mx.slice sl.val).valid = true →
      MTy.scaled ((s.core k).mx.slice sl.val).bt = true →
      mxRead (setSlice s k sl.val fun y => { y with aen := aen, ben := true }) k 2 (bufAddr x.a) (128 * (4 * MTy.p ((s.core k).mx.slice sl.val).bt)) = .ok bs →
      ∃ t y, exec (.mxScaleExecute k) s = .next t ∧ mxNow t k y ∧ y.begun = true ∧ ((t.core k).mx.slice sl.val).ben = true ∧
        ((t.core k).mx.slice sl.val).scales = (bs.map BitVec.toNat).zipIdx.map fun v => (v.2, v.1)) ∧
    (∀ o z m r, mmOf x.act = some (o, z, m) → x.fail = none → x.row < cRows x.b → mxStopped s k x = false → x.begun = true → o.gang = false → o.pres = false →
      readRow (setOp s k x) k x o x.row = .ok r →
      ∃ t y, exec (.mmRowFire k) s = .next t ∧ mxNow t k y ∧ y.row = x.row + 1 ∧ y.fired = x.fired ++ [r] ∧ (t.core k).cb = (s.core k).cb ∧ t.mem = s.mem) ∧
    (∀ o z m r rest, mmOf x.act = some (o, z, m) → x.fired = r :: rest → o.apx = false → (m = true → (s.core k).mx.err = false) → (z = true ∨ rowBad (s.core k) o.bank.val (cRow0 x.b + x.written) = false) →
      let y := (s.core k).mx.slice o.s.val
      let av := rowNums o.at_ y.aen x.degraded r
      let cell (n : Nat) : Nat := cellSum (MTy.float o.at_) (if z then 0 else cellOf (s.core k) o.bank.val (cRow0 x.b + x.written) n)
        (av.zipIdx.map fun a => mulNum a.1 (sliceNum y x.degraded a.2 n))
      ∃ t u, exec (.accumulatorRowWrite k) s = .next t ∧ mxNow t k u ∧ u.fired = rest ∧ u.written = x.written + 1 ∧
        (t.core k).cb = putBytes (s.core k).cb (cellAt o.bank.val (cRow0 x.b + x.written) 0) (((List.range 128).map cell).flatMap fun v => bytesLE v 4) ∧ t.mem = s.mem) ∧
    (∀ a b c mark bank dt rm, x.act = .mxDrain a b rm c mark bank dt → mxStopped s k x = false → (x.rm = .sr → s.mayDraw k 64 = true) → x.written < cRows x.b → drainFits dt ((s.core k).mx.floatBank bank.val) = true →
      rowBad (s.core k) bank.val (cRow0 x.b + x.written) = false → bufShut (s.core k) 1 (bufAddr x.a + drainRow dt * x.written) (drainRow dt) = false →
      ∃ t y, exec (.mxDrainExecute k) s = .next t ∧ mxNow t k y ∧ y.written = x.written + 1 ∧ (c = false → (t.core k).cb = (s.core k).cb) ∧
        (x.rm ≠ .sr → (t.core k).seed = (s.core k).seed ∧
          (t.core k).ab = ((bufPut s k 1 (bufAddr x.a + drainRow dt * x.written) (bytesLE (pack (drainRow dt / 16)
            ((List.range 128).map fun n => drainCell dt x.rm 0 (cellOf (s.core k) bank.val (cRow0 x.b + x.written) n))) (drainRow dt))).core k).ab) ∧
        (c = true → (t.core k).cb = putBytes (s.core k).cb (cellAt bank.val (cRow0 x.b + x.written) 0) ((List.replicate 128 0).flatMap fun v => bytesLE v 4)) ∧
        t.mem = s.mem) ∧
    (∀ a b sx sy g ne bs, x.act = .mxEdge a b sx sy g ne → mxStopped s k x = false → x.written = 0 → x.row < ne.toNat + 1 → mxRead s k 1 (bufAddr x.a + 16 * x.row) 16 = .ok bs →
      ∃ t y, exec (.mxEdgeExecute k) s = .next t ∧ mxNow t k y ∧ y.row = x.row + 1 ∧ (t.core k).ab = (s.core k).ab ∧
        (let f (o : Nat) : Int := sextN (fld bs o 4) 32
         ∀ i < 256, y.mask.testBit i = (decide (0 ≤ f 0 * (256 * (i % 16) + sx.toNat : Nat) + f 4 * (256 * (i / 16) + sy.toNat : Nat) + f 8) &&
           (decide (x.row % (g.val + 1) = 0) || x.mask.testBit i))) ∧
        y.masks = (if (x.row + 1) % (g.val + 1) = 0 then x.masks ++ [y.mask] else x.masks) ∧ t.mem = s.mem) ∧
    (∀ a b sx sy g ne, x.act = .mxEdge a b sx sy g ne → mxStopped s k x = false → x.written = 0 → x.row = ne.toNat + 1 →
      (∀ m < x.masks.length, bufShut (s.core k) 1 (bufAddr x.b + 32 * m) 32 = false) →
      ∃ t y, exec (.mxEdgeExecute k) s = .next t ∧ mxNow t k y ∧ y.written = x.masks.length ∧ y.row = x.row ∧
        (t.core k).ab = ((x.masks.zipIdx.foldl (fun u v => bufPut u k 1 (bufAddr x.b + 32 * v.2) (bytesLE v.1 32)) s).core k).ab ∧ t.mem = s.mem) ∧
    (∀ a, x.act = .mxGang a → x.joined = false → mxStopped s k x = false → ∀ y, gangJoin s k x.a = .ok y →
      ∃ t u, exec (.gangFormed k) s = .next t ∧ mxNow t k u ∧ u.joined = true ∧ (t.core k).mx.gang.isSome = true ∧
        Tab.find (t.die (dieOf k)).gangs (gangAsk x.a).1 = some y) ∧
    (∀ g r rest, (s.core k).mx.coming = r :: rest → (s.core k).mx.gang = some g →
      ∃ t y, exec (.gangRowArrival k) s = .next t ∧ mxNow t k y ∧ (t.core k).mx.coming = rest ∧ y.fired = x.fired ++ (if g.col = 0 then [r] else []) ∧
        (t.core k).mx.rowq = (s.core k).mx.rowq ++ (if g.col = 0 then [] else [r])) ∧
    ((match x.act with
      | .mxLdb _ _ bt => x.row = 128 * (4 * MTy.p bt)
      | .mxScale .. => x.begun = true
      | .mm .. | .mmz .. | .mmr .. => x.written = cRows x.b ∧ x.fail = none
      | .mxDrain .. => x.written = cRows x.b
      | .mxEdge _ _ _ _ _ ne => x.row = ne.toNat + 1 ∧ x.written ≠ 0
      | .mxSamp .. | .mxThr _ => mxStopped s k x = false
      | .mxGang _ => x.joined = true ∧ x.written = 1
      | _ => False) →
      ∃ t, exec (.matrixOpComplete k) s = .next t ∧ (t.core k).mx.queue = (s.core k).mx.queue.drop 1 ∧
        (t.ctx k x.ctx).mx.outstanding = (s.ctx k x.ctx).mx.outstanding - 1 ∧ (∀ a, x.act = .mxThr a → (t.ctx k x.ctx).mx.thr = thrOf x.a) ∧ t.mem = s.mem)

/-- 23 R405, R409 to R413, R415; 24 R427, R431: the edge meter begins its window; the coordinator samples MEAS, and takes and gives its grants and loans; a clock resumes at its point; a flit that fails is replayed eight times before the link is retrained; a link or the host link that fails is down; a thermal trip stops every plain. (The model's own choices in it: logs 58, 59.) -/
def Obligations.PowerAndLinkEvents : Prop :=
  ∀ (s : State) (k n m lease : Nat) (msg : BitVec 128),
    (s.cyc k / 256 ≠ (s.core k).regs.edgeWin →
      ∃ t, exec (.edgeMeterWindow k) s = .next t ∧ (t.core k).regs.edgeWin = s.cyc k / 256 ∧ (t.core k).regs.edgeCount = 0 ∧
        ((s.core k).regs.edgeRate ≠ 0 → s.iod.power.limit ≠ 0 → (t.core k).regs.edgeLimit = min (s.core k).regs.edgeRate s.iod.power.limit) ∧
        (s.iod.power.limit = 0 → (t.core k).regs.edgeLimit = (s.core k).regs.edgeRate)) ∧
    (let b := powerBudget s.iod.power
     (m < 65536 → m ≤ b → 9 * b < 10 * m →
        ∃ t, exec (.powerSample m) s = .next t ∧ t.iod.power = { s.iod.power with meas := m, above := 0, under := 0 } ∧ t.dies = s.dies) ∧
     (m < 65536 → b < m → s.iod.power.above < 2 → 10 * m > 9 * b →
        ∃ t, exec (.powerSample m) s = .next t ∧ t.iod.power = { s.iod.power with meas := m, above := s.iod.power.above + 1, under := 0 } ∧ t.dies = s.dies) ∧
     (m < 65536 → b < m → 2 ≤ s.iod.power.above → s.iod.power.limit = 0 →
        ∃ t, exec (.powerSample m) s = .next t ∧ t.iod.power.limit = 64 ∧ t.iod.power.slowed = s.iod.power.slowed)) ∧
    (s.iod.thermal = false → ∃ t, exec (.plainClockResume n m) s = .next t ∧ (t.plain n m).stopped = false ∧ (t.plain n m).point = (s.plain n m).point) ∧
    (msgKind msg = 6 → msgIndex msg = 0 → powerLease msg ≠ 0 → s.iod.power.pwrcfg.getLsbD 0 = true →
      exec (.powerGrant msg) s = .next (s.modPower fun p => { p with grant := some (powerWatts msg, s.iod.dlc + 700000 * powerLease msg) })) ∧
    (msgKind msg = 6 → msgIndex msg = 1 → powerLease msg ≠ 0 → s.iod.power.pwrcfg.getLsbD 0 = true →
      exec (.powerLend msg) s = .next (s.modPower fun p => { p with borr := p.borr + powerWatts msg, borrows := p.borrows ++ [(powerWatts msg, s.iod.dlc + 700000 * powerLease msg)] })) ∧
    (∀ v, s.iod.power.grant = some v → v.2 ≤ s.iod.dlc → exec .grantLeaseEnd s = .next (s.modPower fun p => { p with grant := none })) ∧
    (∀ v, s.iod.power.borrows[n]? = some v → v.2 ≤ s.iod.dlc → exec (.lendLeaseEnd n) s = .next (s.modPower fun p => { p with borr := p.borr - v.1, borrows := p.borrows.eraseIdx n })) ∧
    (∀ v, s.iod.power.lends[n]? = some v → v.2 ≤ s.iod.dlc → exec (.lentReturn n) s = .next (s.modPower fun p => { p with lent := p.lent - v.1, lends := p.lends.eraseIdx n })) ∧
    (s.iod.power.pwrcfg.getLsbD 0 = true → 1 ≤ lease → lease < 65536 → m < 65536 →
      (s.iod.power.lent + m + s.iod.power.meas ≤ powerG s.iod.power →
        exec (.sendLend n m lease) s = .next (s.modPower fun p => { p with lent := p.lent + m, lends := p.lends ++ [(m, s.iod.dlc + 700000 * (lease + cdiv lease 64 + 1))] })) ∧
      (powerG s.iod.power < s.iod.power.lent + m + s.iod.power.meas → exec (.sendLend n m lease) s = .next s)) ∧
    (let l := Tab.look {} s.iod.links n
     l.down = false →
      (l.retraining = false →
        (l.replays < 8 → ∃ t, exec (.flitCrcFail n) s = .next t ∧ Tab.look {} t.iod.links n = { l with replays := l.replays + 1 }) ∧
        (8 ≤ l.replays → ∃ t, exec (.flitCrcFail n) s = .next t ∧ (Tab.look {} t.iod.links n).retraining = true)) ∧
      (l.retraining = true →
        (∃ t, exec (.linkRetrained n) s = .next t ∧ Tab.look {} t.iod.links n = { l with retraining := false }) ∧
        (∃ t, exec (.linkDown n) s = .next t ∧ (Tab.look {} t.iod.links n).down = true))) ∧
    (s.iod.linkDown = false → (∃ t, exec .hostLinkDown s = .next t ∧ t.iod.linkDown = true) ∧ ∃ t, exec .ideIntegrity s = .next t ∧ t.iod.linkDown = true) ∧
    (∃ t, exec .thermalTrip s = .next t ∧ t.iod.thermal = true ∧ ∀ d < 4, ∀ c < 5, (t.plain d c).stopped = true)
end

