-- ==== Sys2Proof/Laws/Tab.lean ====
section
/-! SUPPORT. Laws of tables and of memory bytes: a read after a write, and the canonical form kept by every operation. -/
namespace Sys2Proof.Machine

theorem Tab.find_drop {α : Type} (t : Tab α) (k j : Nat) : Tab.find (Tab.drop t k) j = if j = k then none else Tab.find t j := by
  induction t with
  | nil => simp [Tab.drop, Tab.find]
  | cons e t ih =>
    obtain ⟨i, v⟩ := e
    by_cases h : k = i
    · subst h; simp only [Tab.drop, if_true, ih, Tab.find]; by_cases g : j = k <;> simp [g]
    · simp only [Tab.drop, h, if_false, Tab.find, ih]
      by_cases g : j = i
      · subst g; simp [Ne.symm h]
      · simp [g]

theorem Tab.find_set {α : Type} (t : Tab α) (k : Nat) (v : α) (j : Nat) :
    Tab.find (Tab.set t k v) j = if j = k then some v else Tab.find t j := by
  induction t with
  | nil => simp [Tab.set, Tab.find]
  | cons e t ih =>
    obtain ⟨i, u⟩ := e
    simp only [Tab.set]
    by_cases h : k = i
    · subst h; simp only [if_true, Tab.find]; by_cases g : j = k <;> simp [g]
    · simp only [h, if_false]
      by_cases l : k < i
      · simp only [l, if_true, Tab.find]
      · simp only [l, if_false, Tab.find, ih]
        by_cases g : j = i
        · subst g; simp [Ne.symm h]
        · simp [g]

@[simp] theorem Tab.look_set {α : Type} (d : α) (t : Tab α) (k : Nat) (v : α) (j : Nat) :
    Tab.look d (Tab.set t k v) j = if j = k then v else Tab.look d t j := by
  simp only [Tab.look, Tab.find_set]; split <;> rfl

@[simp] theorem Tab.look_put {α : Type} [DecidableEq α] (d : α) (t : Tab α) (k : Nat) (v : α) (j : Nat) :
    Tab.look d (Tab.put d t k v) j = if j = k then v else Tab.look d t j := by
  unfold Tab.put
  split
  · next h => subst h; simp only [Tab.look, Tab.find_drop]; split <;> rfl
  · simp

@[simp] theorem Tab.look_mod {α : Type} (d : α) (t : Tab α) (k : Nat) (f : α → α) (j : Nat) :
    Tab.look d (Tab.mod d t k f) j = if j = k then f (Tab.look d t k) else Tab.look d t j := by
  simp [Tab.mod]

theorem Tab.risesFrom_le {α : Type} {t : Tab α} {a b : Nat} (h : a ≤ b) (r : Tab.risesFrom b t = true) : Tab.risesFrom a t = true := by
  cases t with
  | nil => rfl
  | cons e t => simp only [Tab.risesFrom, Bool.and_eq_true, decide_eq_true_eq] at r ⊢; exact ⟨by omega, r.2⟩

theorem Tab.risesFrom_drop {α : Type} {t : Tab α} {a k : Nat} (r : Tab.risesFrom a t = true) : Tab.risesFrom a (Tab.drop t k) = true := by
  induction t generalizing a with
  | nil => rfl
  | cons e t ih =>
    obtain ⟨i, u⟩ := e
    simp only [Tab.risesFrom, Bool.and_eq_true, decide_eq_true_eq] at r
    simp only [Tab.drop]
    split
    · exact Tab.risesFrom_le (by omega) (ih r.2)
    · simp only [Tab.risesFrom, Bool.and_eq_true, decide_eq_true_eq]; exact ⟨r.1, ih r.2⟩

theorem Tab.risesFrom_set {α : Type} {t : Tab α} {a k : Nat} {v : α} (l : a ≤ k) (r : Tab.risesFrom a t = true) :
    Tab.risesFrom a (Tab.set t k v) = true := by
  induction t generalizing a with
  | nil => simp [Tab.set, Tab.risesFrom, l]
  | cons e t ih =>
    obtain ⟨i, u⟩ := e
    simp only [Tab.risesFrom, Bool.and_eq_true, decide_eq_true_eq] at r
    simp only [Tab.set]
    split
    · next h => subst h; simp [Tab.risesFrom, r]
    · split
      · next h => simp only [Tab.risesFrom, Bool.and_eq_true, decide_eq_true_eq]; exact ⟨l, by omega, r.2⟩
      · next h g => simp only [Tab.risesFrom, Bool.and_eq_true, decide_eq_true_eq]; exact ⟨r.1, ih (by omega) r.2⟩

theorem Tab.mem_drop {α : Type} {t : Tab α} {k : Nat} {e : Nat × α} (h : e ∈ Tab.drop t k) : e ∈ t := by
  induction t with
  | nil => exact h
  | cons x t ih =>
    obtain ⟨i, u⟩ := x
    simp only [Tab.drop] at h
    split at h
    · exact .tail _ (ih h)
    · cases h with
      | head => exact .head _
      | tail _ h => exact .tail _ (ih h)

theorem Tab.mem_set {α : Type} {t : Tab α} {k : Nat} {v : α} {e : Nat × α} (h : e ∈ Tab.set t k v) : e = (k, v) ∨ e ∈ t := by
  induction t with
  | nil => simpa [Tab.set] using h
  | cons x t ih =>
    obtain ⟨i, u⟩ := x
    simp only [Tab.set] at h
    split at h
    · rcases List.mem_cons.1 h with h | h
      · exact .inl h
      · exact .inr (.tail _ h)
    · split at h
      · rcases List.mem_cons.1 h with h | h
        · exact .inl h
        · exact .inr h
      · rcases List.mem_cons.1 h with h | h
        · exact .inr (h ▸ .head _)
        · rcases ih h with h | h
          · exact .inl h
          · exact .inr (.tail _ h)

/-- Writing a value keeps the canonical form of a table. -/
theorem Tab.wf_put {α : Type} [DecidableEq α] {d : α} {t : Tab α} {k : Nat} {v : α} (h : Tab.wf d t = true) : Tab.wf d (Tab.put d t k v) = true := by
  simp only [Tab.wf, Bool.and_eq_true, List.all_eq_true, decide_eq_true_eq] at h ⊢
  unfold Tab.put
  split
  · exact ⟨Tab.risesFrom_drop h.1, fun e m => h.2 e (Tab.mem_drop m)⟩
  · next n =>
    refine ⟨Tab.risesFrom_set (Nat.zero_le _) h.1, fun e m => ?_⟩
    rcases Tab.mem_set m with rfl | m
    · exact n
    · exact h.2 e m

@[simp] theorem Memory.byte_setByte (m : Memory) (pa : Nat) (b : Byte) (a : Nat) : (m.setByte pa b).byte a = if a = pa then b else m.byte a := by
  simp [Memory.byte, Memory.setByte]

/-- Writing one byte keeps the canonical form of memory. -/
theorem Memory.wf_setByte {m : Memory} (pa : Nat) (b : Byte) (h : m.wf = true) : (m.setByte pa b).wf = true := Tab.wf_put h

/-- Writing bytes keeps the canonical form of memory. -/
theorem Memory.wf_set (bs : List Byte) : ∀ {m : Memory} (pa : Nat), m.wf = true → (m.set pa bs).wf = true := by
  induction bs with
  | nil => intro _ _ h; exact h
  | cons b bs ih => intro m pa h; exact ih _ (Memory.wf_setByte pa b h)

/-- A byte outside those written reads as before. -/
theorem Memory.byte_set_other (bs : List Byte) : ∀ (m : Memory) (pa a : Nat), a < pa ∨ pa + bs.length ≤ a → (m.set pa bs).byte a = m.byte a := by
  induction bs with
  | nil => intros; rfl
  | cons b bs ih =>
    intro m pa a h
    simp only [List.length_cons] at h
    simp only [Memory.set]
    rw [ih _ _ _ (by omega), Memory.byte_setByte, if_neg (by omega)]

/-- A byte among those written reads as written. -/
theorem Memory.byte_set_at (bs : List Byte) : ∀ (m : Memory) (pa i : Nat) (h : i < bs.length), (m.set pa bs).byte (pa + i) = bs[i] := by
  induction bs with
  | nil => intro _ _ _ h; exact absurd h (Nat.not_lt_zero _)
  | cons b bs ih =>
    intro m pa i h
    simp only [Memory.set]
    cases i with
    | zero => rw [Memory.byte_set_other _ _ _ _ (by omega)]; simp
    | succ i =>
      have := ih (m.setByte pa b) (pa + 1) i (by simpa using h)
      rw [show pa + (i + 1) = pa + 1 + i by omega, this]; simp

end Sys2Proof.Machine
end

