-- ==== Sys2Proof/Laws/State.lean ====
section
/-! SUPPORT. What each update of the state leaves alone, field by field, and the reads that follow a write. -/
namespace Sys2Proof.Machine

@[simp] theorem State.setCore_mem (s : State) (k : Nat) (c : CoreSt) : (s.setCore k c).mem = s.mem := rfl
@[simp] theorem State.setCore_dies (s : State) (k : Nat) (c : CoreSt) : (s.setCore k c).dies = s.dies := rfl
@[simp] theorem State.setCore_parts (s : State) (k : Nat) (c : CoreSt) : (s.setCore k c).parts = s.parts := rfl
@[simp] theorem State.setCore_iod (s : State) (k : Nat) (c : CoreSt) : (s.setCore k c).iod = s.iod := rfl
@[simp] theorem State.setCore_net (s : State) (k : Nat) (c : CoreSt) : (s.setCore k c).net = s.net := rfl
@[simp] theorem State.setCore_agenda (s : State) (k : Nat) (c : CoreSt) : (s.setCore k c).agenda = s.agenda := rfl
@[simp] theorem State.setCore_actor (s : State) (k : Nat) (c : CoreSt) : (s.setCore k c).actor = s.actor := rfl
@[simp] theorem State.setCore_fresh (s : State) (k : Nat) (c : CoreSt) : (s.setCore k c).fresh = s.fresh := rfl

@[simp] theorem State.modCore_mem (s : State) (k : Nat) (f : CoreSt → CoreSt) : (s.modCore k f).mem = s.mem := rfl
@[simp] theorem State.modCore_dies (s : State) (k : Nat) (f : CoreSt → CoreSt) : (s.modCore k f).dies = s.dies := rfl
@[simp] theorem State.modCore_parts (s : State) (k : Nat) (f : CoreSt → CoreSt) : (s.modCore k f).parts = s.parts := rfl
@[simp] theorem State.modCore_iod (s : State) (k : Nat) (f : CoreSt → CoreSt) : (s.modCore k f).iod = s.iod := rfl
@[simp] theorem State.modCore_net (s : State) (k : Nat) (f : CoreSt → CoreSt) : (s.modCore k f).net = s.net := rfl
@[simp] theorem State.modCore_agenda (s : State) (k : Nat) (f : CoreSt → CoreSt) : (s.modCore k f).agenda = s.agenda := rfl
@[simp] theorem State.modCore_actor (s : State) (k : Nat) (f : CoreSt → CoreSt) : (s.modCore k f).actor = s.actor := rfl
@[simp] theorem State.modCore_fresh (s : State) (k : Nat) (f : CoreSt → CoreSt) : (s.modCore k f).fresh = s.fresh := rfl

@[simp] theorem State.setCtx_mem (s : State) (k n : Nat) (x : Ctx) : (s.setCtx k n x).mem = s.mem := rfl
@[simp] theorem State.setCtx_dies (s : State) (k n : Nat) (x : Ctx) : (s.setCtx k n x).dies = s.dies := rfl
@[simp] theorem State.setCtx_parts (s : State) (k n : Nat) (x : Ctx) : (s.setCtx k n x).parts = s.parts := rfl
@[simp] theorem State.setCtx_iod (s : State) (k n : Nat) (x : Ctx) : (s.setCtx k n x).iod = s.iod := rfl
@[simp] theorem State.setCtx_net (s : State) (k n : Nat) (x : Ctx) : (s.setCtx k n x).net = s.net := rfl
@[simp] theorem State.setCtx_agenda (s : State) (k n : Nat) (x : Ctx) : (s.setCtx k n x).agenda = s.agenda := rfl
@[simp] theorem State.setCtx_actor (s : State) (k n : Nat) (x : Ctx) : (s.setCtx k n x).actor = s.actor := rfl
@[simp] theorem State.setCtx_fresh (s : State) (k n : Nat) (x : Ctx) : (s.setCtx k n x).fresh = s.fresh := rfl

@[simp] theorem State.modCtx_mem (s : State) (k n : Nat) (f : Ctx → Ctx) : (s.modCtx k n f).mem = s.mem := rfl
@[simp] theorem State.modCtx_dies (s : State) (k n : Nat) (f : Ctx → Ctx) : (s.modCtx k n f).dies = s.dies := rfl
@[simp] theorem State.modCtx_parts (s : State) (k n : Nat) (f : Ctx → Ctx) : (s.modCtx k n f).parts = s.parts := rfl
@[simp] theorem State.modCtx_iod (s : State) (k n : Nat) (f : Ctx → Ctx) : (s.modCtx k n f).iod = s.iod := rfl
@[simp] theorem State.modCtx_net (s : State) (k n : Nat) (f : Ctx → Ctx) : (s.modCtx k n f).net = s.net := rfl
@[simp] theorem State.modCtx_agenda (s : State) (k n : Nat) (f : Ctx → Ctx) : (s.modCtx k n f).agenda = s.agenda := rfl
@[simp] theorem State.modCtx_actor (s : State) (k n : Nat) (f : Ctx → Ctx) : (s.modCtx k n f).actor = s.actor := rfl
@[simp] theorem State.modCtx_fresh (s : State) (k n : Nat) (f : Ctx → Ctx) : (s.modCtx k n f).fresh = s.fresh := rfl

@[simp] theorem State.setMe_mem (s : State) (x : Ctx) : (s.setMe x).mem = s.mem := rfl
@[simp] theorem State.setMe_dies (s : State) (x : Ctx) : (s.setMe x).dies = s.dies := rfl
@[simp] theorem State.setMe_parts (s : State) (x : Ctx) : (s.setMe x).parts = s.parts := rfl
@[simp] theorem State.setMe_iod (s : State) (x : Ctx) : (s.setMe x).iod = s.iod := rfl
@[simp] theorem State.setMe_net (s : State) (x : Ctx) : (s.setMe x).net = s.net := rfl
@[simp] theorem State.setMe_agenda (s : State) (x : Ctx) : (s.setMe x).agenda = s.agenda := rfl
@[simp] theorem State.setMe_actor (s : State) (x : Ctx) : (s.setMe x).actor = s.actor := rfl
@[simp] theorem State.setMe_fresh (s : State) (x : Ctx) : (s.setMe x).fresh = s.fresh := rfl

@[simp] theorem State.modMe_mem (s : State) (f : Ctx → Ctx) : (s.modMe f).mem = s.mem := rfl
@[simp] theorem State.modMe_dies (s : State) (f : Ctx → Ctx) : (s.modMe f).dies = s.dies := rfl
@[simp] theorem State.modMe_parts (s : State) (f : Ctx → Ctx) : (s.modMe f).parts = s.parts := rfl
@[simp] theorem State.modMe_iod (s : State) (f : Ctx → Ctx) : (s.modMe f).iod = s.iod := rfl
@[simp] theorem State.modMe_net (s : State) (f : Ctx → Ctx) : (s.modMe f).net = s.net := rfl
@[simp] theorem State.modMe_agenda (s : State) (f : Ctx → Ctx) : (s.modMe f).agenda = s.agenda := rfl
@[simp] theorem State.modMe_actor (s : State) (f : Ctx → Ctx) : (s.modMe f).actor = s.actor := rfl
@[simp] theorem State.modMe_fresh (s : State) (f : Ctx → Ctx) : (s.modMe f).fresh = s.fresh := rfl

@[simp] theorem State.setReg_mem (s : State) (i : Reg) (v : Word) : (s.setReg i v).mem = s.mem := rfl
@[simp] theorem State.setReg_dies (s : State) (i : Reg) (v : Word) : (s.setReg i v).dies = s.dies := rfl
@[simp] theorem State.setReg_parts (s : State) (i : Reg) (v : Word) : (s.setReg i v).parts = s.parts := rfl
@[simp] theorem State.setReg_iod (s : State) (i : Reg) (v : Word) : (s.setReg i v).iod = s.iod := rfl
@[simp] theorem State.setReg_net (s : State) (i : Reg) (v : Word) : (s.setReg i v).net = s.net := rfl
@[simp] theorem State.setReg_agenda (s : State) (i : Reg) (v : Word) : (s.setReg i v).agenda = s.agenda := rfl
@[simp] theorem State.setReg_actor (s : State) (i : Reg) (v : Word) : (s.setReg i v).actor = s.actor := rfl
@[simp] theorem State.setReg_fresh (s : State) (i : Reg) (v : Word) : (s.setReg i v).fresh = s.fresh := rfl

@[simp] theorem State.setPred_mem (s : State) (i : Pred) (b : Bool) : (s.setPred i b).mem = s.mem := rfl
@[simp] theorem State.setPred_dies (s : State) (i : Pred) (b : Bool) : (s.setPred i b).dies = s.dies := rfl
@[simp] theorem State.setPred_parts (s : State) (i : Pred) (b : Bool) : (s.setPred i b).parts = s.parts := rfl
@[simp] theorem State.setPred_iod (s : State) (i : Pred) (b : Bool) : (s.setPred i b).iod = s.iod := rfl
@[simp] theorem State.setPred_net (s : State) (i : Pred) (b : Bool) : (s.setPred i b).net = s.net := rfl
@[simp] theorem State.setPred_agenda (s : State) (i : Pred) (b : Bool) : (s.setPred i b).agenda = s.agenda := rfl
@[simp] theorem State.setPred_actor (s : State) (i : Pred) (b : Bool) : (s.setPred i b).actor = s.actor := rfl
@[simp] theorem State.setPred_fresh (s : State) (i : Pred) (b : Bool) : (s.setPred i b).fresh = s.fresh := rfl

@[simp] theorem State.modDie_mem (s : State) (d : Nat) (f : Die → Die) : (s.modDie d f).mem = s.mem := rfl
@[simp] theorem State.modDie_cores (s : State) (d : Nat) (f : Die → Die) : (s.modDie d f).cores = s.cores := rfl
@[simp] theorem State.modDie_parts (s : State) (d : Nat) (f : Die → Die) : (s.modDie d f).parts = s.parts := rfl
@[simp] theorem State.modDie_iod (s : State) (d : Nat) (f : Die → Die) : (s.modDie d f).iod = s.iod := rfl
@[simp] theorem State.modDie_net (s : State) (d : Nat) (f : Die → Die) : (s.modDie d f).net = s.net := rfl
@[simp] theorem State.modDie_agenda (s : State) (d : Nat) (f : Die → Die) : (s.modDie d f).agenda = s.agenda := rfl
@[simp] theorem State.modDie_actor (s : State) (d : Nat) (f : Die → Die) : (s.modDie d f).actor = s.actor := rfl
@[simp] theorem State.modDie_fresh (s : State) (d : Nat) (f : Die → Die) : (s.modDie d f).fresh = s.fresh := rfl

@[simp] theorem State.modPart_mem (s : State) (p : Nat) (f : Part → Part) : (s.modPart p f).mem = s.mem := rfl
@[simp] theorem State.modPart_cores (s : State) (p : Nat) (f : Part → Part) : (s.modPart p f).cores = s.cores := rfl
@[simp] theorem State.modPart_dies (s : State) (p : Nat) (f : Part → Part) : (s.modPart p f).dies = s.dies := rfl
@[simp] theorem State.modPart_iod (s : State) (p : Nat) (f : Part → Part) : (s.modPart p f).iod = s.iod := rfl
@[simp] theorem State.modPart_net (s : State) (p : Nat) (f : Part → Part) : (s.modPart p f).net = s.net := rfl
@[simp] theorem State.modPart_agenda (s : State) (p : Nat) (f : Part → Part) : (s.modPart p f).agenda = s.agenda := rfl
@[simp] theorem State.modPart_actor (s : State) (p : Nat) (f : Part → Part) : (s.modPart p f).actor = s.actor := rfl
@[simp] theorem State.modPart_fresh (s : State) (p : Nat) (f : Part → Part) : (s.modPart p f).fresh = s.fresh := rfl

@[simp] theorem State.modFab_mem (s : State) (k : Nat) (f : Fabric → Fabric) : (s.modFab k f).mem = s.mem := rfl
@[simp] theorem State.modFab_dies (s : State) (k : Nat) (f : Fabric → Fabric) : (s.modFab k f).dies = s.dies := rfl
@[simp] theorem State.modFab_parts (s : State) (k : Nat) (f : Fabric → Fabric) : (s.modFab k f).parts = s.parts := rfl
@[simp] theorem State.modFab_iod (s : State) (k : Nat) (f : Fabric → Fabric) : (s.modFab k f).iod = s.iod := rfl
@[simp] theorem State.modFab_net (s : State) (k : Nat) (f : Fabric → Fabric) : (s.modFab k f).net = s.net := rfl
@[simp] theorem State.modFab_agenda (s : State) (k : Nat) (f : Fabric → Fabric) : (s.modFab k f).agenda = s.agenda := rfl
@[simp] theorem State.modFab_actor (s : State) (k : Nat) (f : Fabric → Fabric) : (s.modFab k f).actor = s.actor := rfl
@[simp] theorem State.modFab_fresh (s : State) (k : Nat) (f : Fabric → Fabric) : (s.modFab k f).fresh = s.fresh := rfl

@[simp] theorem State.modPly_mem (s : State) (k q : Nat) (f : Ply → Ply) : (s.modPly k q f).mem = s.mem := rfl
@[simp] theorem State.modPly_dies (s : State) (k q : Nat) (f : Ply → Ply) : (s.modPly k q f).dies = s.dies := rfl
@[simp] theorem State.modPly_parts (s : State) (k q : Nat) (f : Ply → Ply) : (s.modPly k q f).parts = s.parts := rfl
@[simp] theorem State.modPly_iod (s : State) (k q : Nat) (f : Ply → Ply) : (s.modPly k q f).iod = s.iod := rfl
@[simp] theorem State.modPly_net (s : State) (k q : Nat) (f : Ply → Ply) : (s.modPly k q f).net = s.net := rfl
@[simp] theorem State.modPly_agenda (s : State) (k q : Nat) (f : Ply → Ply) : (s.modPly k q f).agenda = s.agenda := rfl
@[simp] theorem State.modPly_actor (s : State) (k q : Nat) (f : Ply → Ply) : (s.modPly k q f).actor = s.actor := rfl
@[simp] theorem State.modPly_fresh (s : State) (k q : Nat) (f : Ply → Ply) : (s.modPly k q f).fresh = s.fresh := rfl

@[simp] theorem State.modStream_mem (s : State) (k n : Nat) (f : SPort → SPort) : (s.modStream k n f).mem = s.mem := rfl
@[simp] theorem State.modStream_dies (s : State) (k n : Nat) (f : SPort → SPort) : (s.modStream k n f).dies = s.dies := rfl
@[simp] theorem State.modStream_parts (s : State) (k n : Nat) (f : SPort → SPort) : (s.modStream k n f).parts = s.parts := rfl
@[simp] theorem State.modStream_iod (s : State) (k n : Nat) (f : SPort → SPort) : (s.modStream k n f).iod = s.iod := rfl
@[simp] theorem State.modStream_net (s : State) (k n : Nat) (f : SPort → SPort) : (s.modStream k n f).net = s.net := rfl
@[simp] theorem State.modStream_agenda (s : State) (k n : Nat) (f : SPort → SPort) : (s.modStream k n f).agenda = s.agenda := rfl
@[simp] theorem State.modStream_actor (s : State) (k n : Nat) (f : SPort → SPort) : (s.modStream k n f).actor = s.actor := rfl
@[simp] theorem State.modStream_fresh (s : State) (k n : Nat) (f : SPort → SPort) : (s.modStream k n f).fresh = s.fresh := rfl

@[simp] theorem State.modMx_mem (s : State) (k : Nat) (f : Matrix → Matrix) : (s.modMx k f).mem = s.mem := rfl
@[simp] theorem State.modMx_dies (s : State) (k : Nat) (f : Matrix → Matrix) : (s.modMx k f).dies = s.dies := rfl
@[simp] theorem State.modMx_parts (s : State) (k : Nat) (f : Matrix → Matrix) : (s.modMx k f).parts = s.parts := rfl
@[simp] theorem State.modMx_iod (s : State) (k : Nat) (f : Matrix → Matrix) : (s.modMx k f).iod = s.iod := rfl
@[simp] theorem State.modMx_net (s : State) (k : Nat) (f : Matrix → Matrix) : (s.modMx k f).net = s.net := rfl
@[simp] theorem State.modMx_agenda (s : State) (k : Nat) (f : Matrix → Matrix) : (s.modMx k f).agenda = s.agenda := rfl
@[simp] theorem State.modMx_actor (s : State) (k : Nat) (f : Matrix → Matrix) : (s.modMx k f).actor = s.actor := rfl
@[simp] theorem State.modMx_fresh (s : State) (k : Nat) (f : Matrix → Matrix) : (s.modMx k f).fresh = s.fresh := rfl

@[simp] theorem State.modEngine_mem (s : State) (k n : Nat) (f : Engine → Engine) : (s.modEngine k n f).mem = s.mem := rfl
@[simp] theorem State.modEngine_dies (s : State) (k n : Nat) (f : Engine → Engine) : (s.modEngine k n f).dies = s.dies := rfl
@[simp] theorem State.modEngine_parts (s : State) (k n : Nat) (f : Engine → Engine) : (s.modEngine k n f).parts = s.parts := rfl
@[simp] theorem State.modEngine_iod (s : State) (k n : Nat) (f : Engine → Engine) : (s.modEngine k n f).iod = s.iod := rfl
@[simp] theorem State.modEngine_net (s : State) (k n : Nat) (f : Engine → Engine) : (s.modEngine k n f).net = s.net := rfl
@[simp] theorem State.modEngine_agenda (s : State) (k n : Nat) (f : Engine → Engine) : (s.modEngine k n f).agenda = s.agenda := rfl
@[simp] theorem State.modEngine_actor (s : State) (k n : Nat) (f : Engine → Engine) : (s.modEngine k n f).actor = s.actor := rfl
@[simp] theorem State.modEngine_fresh (s : State) (k n : Nat) (f : Engine → Engine) : (s.modEngine k n f).fresh = s.fresh := rfl

@[simp] theorem State.modPort_mem (s : State) (k : Nat) (f : Port → Port) : (s.modPort k f).mem = s.mem := rfl
@[simp] theorem State.modPort_dies (s : State) (k : Nat) (f : Port → Port) : (s.modPort k f).dies = s.dies := rfl
@[simp] theorem State.modPort_parts (s : State) (k : Nat) (f : Port → Port) : (s.modPort k f).parts = s.parts := rfl
@[simp] theorem State.modPort_iod (s : State) (k : Nat) (f : Port → Port) : (s.modPort k f).iod = s.iod := rfl
@[simp] theorem State.modPort_net (s : State) (k : Nat) (f : Port → Port) : (s.modPort k f).net = s.net := rfl
@[simp] theorem State.modPort_agenda (s : State) (k : Nat) (f : Port → Port) : (s.modPort k f).agenda = s.agenda := rfl
@[simp] theorem State.modPort_actor (s : State) (k : Nat) (f : Port → Port) : (s.modPort k f).actor = s.actor := rfl
@[simp] theorem State.modPort_fresh (s : State) (k : Nat) (f : Port → Port) : (s.modPort k f).fresh = s.fresh := rfl

@[simp] theorem State.modQueue_mem (s : State) (q : Nat) (f : Queue → Queue) : (s.modQueue q f).mem = s.mem := rfl
@[simp] theorem State.modQueue_cores (s : State) (q : Nat) (f : Queue → Queue) : (s.modQueue q f).cores = s.cores := rfl
@[simp] theorem State.modQueue_parts (s : State) (q : Nat) (f : Queue → Queue) : (s.modQueue q f).parts = s.parts := rfl
@[simp] theorem State.modQueue_iod (s : State) (q : Nat) (f : Queue → Queue) : (s.modQueue q f).iod = s.iod := rfl
@[simp] theorem State.modQueue_net (s : State) (q : Nat) (f : Queue → Queue) : (s.modQueue q f).net = s.net := rfl
@[simp] theorem State.modQueue_agenda (s : State) (q : Nat) (f : Queue → Queue) : (s.modQueue q f).agenda = s.agenda := rfl
@[simp] theorem State.modQueue_actor (s : State) (q : Nat) (f : Queue → Queue) : (s.modQueue q f).actor = s.actor := rfl
@[simp] theorem State.modQueue_fresh (s : State) (q : Nat) (f : Queue → Queue) : (s.modQueue q f).fresh = s.fresh := rfl

@[simp] theorem State.modHead_mem (s : State) (h : Nat) (f : Head → Head) : (s.modHead h f).mem = s.mem := rfl
@[simp] theorem State.modHead_cores (s : State) (h : Nat) (f : Head → Head) : (s.modHead h f).cores = s.cores := rfl
@[simp] theorem State.modHead_dies (s : State) (h : Nat) (f : Head → Head) : (s.modHead h f).dies = s.dies := rfl
@[simp] theorem State.modHead_parts (s : State) (h : Nat) (f : Head → Head) : (s.modHead h f).parts = s.parts := rfl
@[simp] theorem State.modHead_net (s : State) (h : Nat) (f : Head → Head) : (s.modHead h f).net = s.net := rfl
@[simp] theorem State.modHead_agenda (s : State) (h : Nat) (f : Head → Head) : (s.modHead h f).agenda = s.agenda := rfl
@[simp] theorem State.modHead_actor (s : State) (h : Nat) (f : Head → Head) : (s.modHead h f).actor = s.actor := rfl
@[simp] theorem State.modHead_fresh (s : State) (h : Nat) (f : Head → Head) : (s.modHead h f).fresh = s.fresh := rfl

@[simp] theorem State.modIod_mem (s : State) (f : Iod → Iod) : (s.modIod f).mem = s.mem := rfl
@[simp] theorem State.modIod_cores (s : State) (f : Iod → Iod) : (s.modIod f).cores = s.cores := rfl
@[simp] theorem State.modIod_dies (s : State) (f : Iod → Iod) : (s.modIod f).dies = s.dies := rfl
@[simp] theorem State.modIod_parts (s : State) (f : Iod → Iod) : (s.modIod f).parts = s.parts := rfl
@[simp] theorem State.modIod_net (s : State) (f : Iod → Iod) : (s.modIod f).net = s.net := rfl
@[simp] theorem State.modIod_agenda (s : State) (f : Iod → Iod) : (s.modIod f).agenda = s.agenda := rfl
@[simp] theorem State.modIod_actor (s : State) (f : Iod → Iod) : (s.modIod f).actor = s.actor := rfl
@[simp] theorem State.modIod_fresh (s : State) (f : Iod → Iod) : (s.modIod f).fresh = s.fresh := rfl

@[simp] theorem State.modMem_cores (s : State) (f : Memory → Memory) : (s.modMem f).cores = s.cores := rfl
@[simp] theorem State.modMem_dies (s : State) (f : Memory → Memory) : (s.modMem f).dies = s.dies := rfl
@[simp] theorem State.modMem_parts (s : State) (f : Memory → Memory) : (s.modMem f).parts = s.parts := rfl
@[simp] theorem State.modMem_iod (s : State) (f : Memory → Memory) : (s.modMem f).iod = s.iod := rfl
@[simp] theorem State.modMem_net (s : State) (f : Memory → Memory) : (s.modMem f).net = s.net := rfl
@[simp] theorem State.modMem_agenda (s : State) (f : Memory → Memory) : (s.modMem f).agenda = s.agenda := rfl
@[simp] theorem State.modMem_actor (s : State) (f : Memory → Memory) : (s.modMem f).actor = s.actor := rfl
@[simp] theorem State.modMem_fresh (s : State) (f : Memory → Memory) : (s.modMem f).fresh = s.fresh := rfl

@[simp] theorem Ctx.setReg_p (c : Ctx) (i : Reg) (v : Word) : (c.setReg i v).p = c.p := by unfold Ctx.setReg; split <;> rfl
@[simp] theorem Ctx.setReg_pc (c : Ctx) (i : Reg) (v : Word) : (c.setReg i v).pc = c.pc := by unfold Ctx.setReg; split <;> rfl
@[simp] theorem Ctx.setReg_run (c : Ctx) (i : Reg) (v : Word) : (c.setReg i v).run = c.run := by unfold Ctx.setReg; split <;> rfl
@[simp] theorem Ctx.setReg_await (c : Ctx) (i : Reg) (v : Word) : (c.setReg i v).await = c.await := by unfold Ctx.setReg; split <;> rfl
@[simp] theorem Ctx.setReg_hold (c : Ctx) (i : Reg) (v : Word) : (c.setReg i v).hold = c.hold := by unfold Ctx.setReg; split <;> rfl
@[simp] theorem Ctx.setReg_priv (c : Ctx) (i : Reg) (v : Word) : (c.setReg i v).priv = c.priv := by unfold Ctx.setReg; split <;> rfl
@[simp] theorem Ctx.setReg_tr (c : Ctx) (i : Reg) (v : Word) : (c.setReg i v).tr = c.tr := by unfold Ctx.setReg; split <;> rfl
@[simp] theorem Ctx.setReg_frm (c : Ctx) (i : Reg) (v : Word) : (c.setReg i v).frm = c.frm := by unfold Ctx.setReg; split <;> rfl
@[simp] theorem Ctx.setReg_pfloor (c : Ctx) (i : Reg) (v : Word) : (c.setReg i v).pfloor = c.pfloor := by unfold Ctx.setReg; split <;> rfl
@[simp] theorem Ctx.setReg_resume (c : Ctx) (i : Reg) (v : Word) : (c.setReg i v).resume = c.resume := by unfold Ctx.setReg; split <;> rfl
@[simp] theorem Ctx.setReg_going (c : Ctx) (i : Reg) (v : Word) : (c.setReg i v).going = c.going := by unfold Ctx.setReg; split <;> rfl
@[simp] theorem Ctx.setReg_pre (c : Ctx) (i : Reg) (v : Word) : (c.setReg i v).pre = c.pre := by unfold Ctx.setReg; split <;> rfl
@[simp] theorem Ctx.setReg_stopping (c : Ctx) (i : Reg) (v : Word) : (c.setReg i v).stopping = c.stopping := by unfold Ctx.setReg; split <;> rfl
@[simp] theorem Ctx.setReg_ext (c : Ctx) (i : Reg) (v : Word) : (c.setReg i v).ext = c.ext := by unfold Ctx.setReg; split <;> rfl
@[simp] theorem Ctx.setReg_dict (c : Ctx) (i : Reg) (v : Word) : (c.setReg i v).dict = c.dict := by unfold Ctx.setReg; split <;> rfl
@[simp] theorem Ctx.setReg_rsv (c : Ctx) (i : Reg) (v : Word) : (c.setReg i v).rsv = c.rsv := by unfold Ctx.setReg; split <;> rfl
@[simp] theorem Ctx.setReg_bound (c : Ctx) (i : Reg) (v : Word) : (c.setReg i v).bound = c.bound := by unfold Ctx.setReg; split <;> rfl
@[simp] theorem Ctx.setReg_latch (c : Ctx) (i : Reg) (v : Word) : (c.setReg i v).latch = c.latch := by unfold Ctx.setReg; split <;> rfl
@[simp] theorem Ctx.setReg_region (c : Ctx) (i : Reg) (v : Word) : (c.setReg i v).region = c.region := by unfold Ctx.setReg; split <;> rfl
@[simp] theorem Ctx.setReg_switch (c : Ctx) (i : Reg) (v : Word) : (c.setReg i v).switch = c.switch := by unfold Ctx.setReg; split <;> rfl
@[simp] theorem Ctx.setReg_mx (c : Ctx) (i : Reg) (v : Word) : (c.setReg i v).mx = c.mx := by unfold Ctx.setReg; split <;> rfl

@[simp] theorem Ctx.setPred_x (c : Ctx) (i : Pred) (b : Bool) : (c.setPred i b).x = c.x := by unfold Ctx.setPred; split <;> rfl
@[simp] theorem Ctx.setPred_pc (c : Ctx) (i : Pred) (b : Bool) : (c.setPred i b).pc = c.pc := by unfold Ctx.setPred; split <;> rfl
@[simp] theorem Ctx.setPred_run (c : Ctx) (i : Pred) (b : Bool) : (c.setPred i b).run = c.run := by unfold Ctx.setPred; split <;> rfl
@[simp] theorem Ctx.setPred_await (c : Ctx) (i : Pred) (b : Bool) : (c.setPred i b).await = c.await := by unfold Ctx.setPred; split <;> rfl
@[simp] theorem Ctx.setPred_hold (c : Ctx) (i : Pred) (b : Bool) : (c.setPred i b).hold = c.hold := by unfold Ctx.setPred; split <;> rfl
@[simp] theorem Ctx.setPred_priv (c : Ctx) (i : Pred) (b : Bool) : (c.setPred i b).priv = c.priv := by unfold Ctx.setPred; split <;> rfl
@[simp] theorem Ctx.setPred_tr (c : Ctx) (i : Pred) (b : Bool) : (c.setPred i b).tr = c.tr := by unfold Ctx.setPred; split <;> rfl
@[simp] theorem Ctx.setPred_frm (c : Ctx) (i : Pred) (b : Bool) : (c.setPred i b).frm = c.frm := by unfold Ctx.setPred; split <;> rfl
@[simp] theorem Ctx.setPred_pfloor (c : Ctx) (i : Pred) (b : Bool) : (c.setPred i b).pfloor = c.pfloor := by unfold Ctx.setPred; split <;> rfl
@[simp] theorem Ctx.setPred_resume (c : Ctx) (i : Pred) (b : Bool) : (c.setPred i b).resume = c.resume := by unfold Ctx.setPred; split <;> rfl
@[simp] theorem Ctx.setPred_going (c : Ctx) (i : Pred) (b : Bool) : (c.setPred i b).going = c.going := by unfold Ctx.setPred; split <;> rfl
@[simp] theorem Ctx.setPred_pre (c : Ctx) (i : Pred) (b : Bool) : (c.setPred i b).pre = c.pre := by unfold Ctx.setPred; split <;> rfl
@[simp] theorem Ctx.setPred_stopping (c : Ctx) (i : Pred) (b : Bool) : (c.setPred i b).stopping = c.stopping := by unfold Ctx.setPred; split <;> rfl
@[simp] theorem Ctx.setPred_ext (c : Ctx) (i : Pred) (b : Bool) : (c.setPred i b).ext = c.ext := by unfold Ctx.setPred; split <;> rfl
@[simp] theorem Ctx.setPred_dict (c : Ctx) (i : Pred) (b : Bool) : (c.setPred i b).dict = c.dict := by unfold Ctx.setPred; split <;> rfl
@[simp] theorem Ctx.setPred_rsv (c : Ctx) (i : Pred) (b : Bool) : (c.setPred i b).rsv = c.rsv := by unfold Ctx.setPred; split <;> rfl
@[simp] theorem Ctx.setPred_bound (c : Ctx) (i : Pred) (b : Bool) : (c.setPred i b).bound = c.bound := by unfold Ctx.setPred; split <;> rfl
@[simp] theorem Ctx.setPred_latch (c : Ctx) (i : Pred) (b : Bool) : (c.setPred i b).latch = c.latch := by unfold Ctx.setPred; split <;> rfl
@[simp] theorem Ctx.setPred_region (c : Ctx) (i : Pred) (b : Bool) : (c.setPred i b).region = c.region := by unfold Ctx.setPred; split <;> rfl
@[simp] theorem Ctx.setPred_switch (c : Ctx) (i : Pred) (b : Bool) : (c.setPred i b).switch = c.switch := by unfold Ctx.setPred; split <;> rfl
@[simp] theorem Ctx.setPred_mx (c : Ctx) (i : Pred) (b : Bool) : (c.setPred i b).mx = c.mx := by unfold Ctx.setPred; split <;> rfl

@[simp] theorem CoreSt.setCtx_part (c : CoreSt) (n : Nat) (x : Ctx) : (c.setCtx n x).part = c.part := rfl
@[simp] theorem CoreSt.setCtx_cycBase (c : CoreSt) (n : Nat) (x : Ctx) : (c.setCtx n x).cycBase = c.cycBase := rfl
@[simp] theorem CoreSt.setCtx_seed (c : CoreSt) (n : Nat) (x : Ctx) : (c.setCtx n x).seed = c.seed := rfl
@[simp] theorem CoreSt.setCtx_drawn (c : CoreSt) (n : Nat) (x : Ctx) : (c.setCtx n x).drawn = c.drawn := rfl
@[simp] theorem CoreSt.setCtx_last (c : CoreSt) (n : Nat) (x : Ctx) : (c.setCtx n x).last = c.last := rfl
@[simp] theorem CoreSt.setCtx_local_ (c : CoreSt) (n : Nat) (x : Ctx) : (c.setCtx n x).local_ = c.local_ := rfl
@[simp] theorem CoreSt.setCtx_bad (c : CoreSt) (n : Nat) (x : Ctx) : (c.setCtx n x).bad = c.bad := rfl
@[simp] theorem CoreSt.setCtx_olds (c : CoreSt) (n : Nat) (x : Ctx) : (c.setCtx n x).olds = c.olds := rfl
@[simp] theorem CoreSt.setCtx_ab (c : CoreSt) (n : Nat) (x : Ctx) : (c.setCtx n x).ab = c.ab := rfl
@[simp] theorem CoreSt.setCtx_wb (c : CoreSt) (n : Nat) (x : Ctx) : (c.setCtx n x).wb = c.wb := rfl
@[simp] theorem CoreSt.setCtx_cb (c : CoreSt) (n : Nat) (x : Ctx) : (c.setCtx n x).cb = c.cb := rfl
@[simp] theorem CoreSt.setCtx_ts (c : CoreSt) (n : Nat) (x : Ctx) : (c.setCtx n x).ts = c.ts := rfl
@[simp] theorem CoreSt.setCtx_evq (c : CoreSt) (n : Nat) (x : Ctx) : (c.setCtx n x).evq = c.evq := rfl
@[simp] theorem CoreSt.setCtx_lost (c : CoreSt) (n : Nat) (x : Ctx) : (c.setCtx n x).lost = c.lost := rfl
@[simp] theorem CoreSt.setCtx_xlats (c : CoreSt) (n : Nat) (x : Ctx) : (c.setCtx n x).xlats = c.xlats := rfl
@[simp] theorem CoreSt.setCtx_fab (c : CoreSt) (n : Nat) (x : Ctx) : (c.setCtx n x).fab = c.fab := rfl
@[simp] theorem CoreSt.setCtx_port (c : CoreSt) (n : Nat) (x : Ctx) : (c.setCtx n x).port = c.port := rfl
@[simp] theorem CoreSt.setCtx_streams (c : CoreSt) (n : Nat) (x : Ctx) : (c.setCtx n x).streams = c.streams := rfl
@[simp] theorem CoreSt.setCtx_nextCmd (c : CoreSt) (n : Nat) (x : Ctx) : (c.setCtx n x).nextCmd = c.nextCmd := rfl
@[simp] theorem CoreSt.setCtx_mx (c : CoreSt) (n : Nat) (x : Ctx) : (c.setCtx n x).mx = c.mx := rfl
@[simp] theorem CoreSt.setCtx_tile (c : CoreSt) (n : Nat) (x : Ctx) : (c.setCtx n x).tile = c.tile := rfl
@[simp] theorem CoreSt.setCtx_shadows (c : CoreSt) (n : Nat) (x : Ctx) : (c.setCtx n x).shadows = c.shadows := rfl
@[simp] theorem CoreSt.setCtx_nextEng (c : CoreSt) (n : Nat) (x : Ctx) : (c.setCtx n x).nextEng = c.nextEng := rfl
@[simp] theorem CoreSt.setCtx_engines (c : CoreSt) (n : Nat) (x : Ctx) : (c.setCtx n x).engines = c.engines := rfl
@[simp] theorem CoreSt.setCtx_regs (c : CoreSt) (n : Nat) (x : Ctx) : (c.setCtx n x).regs = c.regs := rfl

@[simp] theorem State.core_setCore (s : State) (k : Nat) (c : CoreSt) (j : Nat) : (s.setCore k c).core j = if j = k then c else s.core j := by
  simp [State.core, State.setCore]
@[simp] theorem State.core_modCore (s : State) (k : Nat) (f : CoreSt → CoreSt) (j : Nat) : (s.modCore k f).core j = if j = k then f (s.core k) else s.core j := by
  simp [State.modCore]
@[simp] theorem CoreSt.ctx_setCtx (c : CoreSt) (n : Nat) (x : Ctx) (m : Nat) : (c.setCtx n x).ctx m = if m = n then x else c.ctx m := by
  simp [CoreSt.ctx, CoreSt.setCtx]
@[simp] theorem State.core_setCtx (s : State) (k n : Nat) (x : Ctx) (j : Nat) : (s.setCtx k n x).core j = if j = k then (s.core k).setCtx n x else s.core j := by
  simp [State.setCtx]
@[simp] theorem State.core_modCtx (s : State) (k n : Nat) (f : Ctx → Ctx) (j : Nat) : (s.modCtx k n f).core j = if j = k then (s.core k).setCtx n (f (s.ctx k n)) else s.core j := by
  simp [State.modCtx]
theorem State.ctx_setCtx (s : State) (k n : Nat) (x : Ctx) (j m : Nat) : (s.setCtx k n x).ctx j m = if j = k ∧ m = n then x else s.ctx j m := by
  simp only [State.ctx, State.core_setCtx]
  by_cases h : j = k
  · subst h; simp [CoreSt.ctx_setCtx]
  · simp [h]
theorem State.ctx_modCtx (s : State) (k n : Nat) (f : Ctx → Ctx) (j m : Nat) : (s.modCtx k n f).ctx j m = if j = k ∧ m = n then f (s.ctx k n) else s.ctx j m := by
  simp only [State.modCtx, State.ctx_setCtx]
@[simp] theorem State.me_modMe (s : State) (f : Ctx → Ctx) : (s.modMe f).me = f s.me := by
  show (s.setCtx s.actor.core s.actor.ctx _).ctx s.actor.core s.actor.ctx = _
  simp [State.ctx_setCtx]
@[simp] theorem State.die_modDie (s : State) (d : Nat) (f : Die → Die) (e : Nat) : (s.modDie d f).die e = if e = d then f (s.die d) else s.die e := by
  simp [State.die, State.modDie]
@[simp] theorem State.part_modPart (s : State) (p : Nat) (f : Part → Part) (q : Nat) : (s.modPart p f).part q = if q = p then f (s.part p) else s.part q := by
  simp [State.part, State.modPart]

/-- A register after a write: x0 stays zero (01 R11). -/
theorem Ctx.reg_setReg (c : Ctx) (i j : Reg) (v : Word) : (c.setReg i v).reg j = if j = i ∧ i ≠ 0 then v else c.reg j := by
  unfold Ctx.reg Ctx.setReg
  by_cases hi : i = 0
  · simp [hi]
  · by_cases hj : j = 0
    · simp [hi, hj]
      intro h; exact absurd h.symm hi
    · simp only [hi, hj, if_false, Tab.look_put]
      by_cases h : j = i
      · simp [h, hi]
      · have : j.val ≠ i.val := fun e => h (Fin.ext e)
        simp [h, this]

@[simp] theorem Ctx.reg_zero (c : Ctx) : c.reg 0 = 0 := rfl
@[simp] theorem Ctx.pred_zero (c : Ctx) : c.pred 0 = true := rfl

theorem Ctx.reg_setPred (c : Ctx) (i : Pred) (b : Bool) (j : Reg) : (c.setPred i b).reg j = c.reg j := by
  simp [Ctx.reg]

theorem Ctx.pred_setReg (c : Ctx) (i : Reg) (v : Word) (j : Pred) : (c.setReg i v).pred j = c.pred j := by
  simp [Ctx.pred]

/-- A register of the acting context after a write. -/
theorem State.reg_setReg (s : State) (i j : Reg) (v : Word) : (s.setReg i v).reg j = if j = i ∧ i ≠ 0 then v else s.reg j := by
  simp [State.reg, State.setReg, Ctx.reg_setReg]

end Sys2Proof.Machine
end

