-- ==== Sys2Proof/Laws/Ops.lean ====
section
/-! SUPPORT. What each shared operation can do, said once: retiring, taking a trap, and the operations over memory, every one of which keeps memory's canonical form. -/
namespace Sys2Proof.Machine

/-- A fold keeps what each of its steps keeps. -/
theorem foldl_keeps {α β : Type} {p : β → Prop} {f : β → α → β} (l : List α) (h : ∀ b a, p b → p (f b a)) : ∀ b, p b → p (l.foldl f b) := by
  induction l with
  | nil => intro _ g; exact g
  | cons a l ih => intro b g; exact ih _ (h b a g)

/-- Retiring answers a next state, in which the acting context alone is another: its PC is at the address given, and the resume count is used up. -/
theorem retireTo_next (s : State) (pc : Word) :
    ∃ t, retireTo s pc = .next t ∧ t.me.pc = pc ∧ t.me.resume = none ∧ t.me.going = none ∧ t.me.x = s.me.x ∧ t.me.p = s.me.p ∧ t.me.tr = s.me.tr ∧
      t.mem = s.mem ∧ t.dies = s.dies ∧ t.parts = s.parts ∧ t.iod = s.iod ∧ t.net = s.net :=
  ⟨_, rfl, by simp, by simp, by simp, by simp, by simp, by simp, rfl, rfl, rfl, rfl, rfl⟩

/-- Retiring with a result writes it to D, and the other registers stand. -/
theorem retireWith_next (s : State) (d : Reg) (v : Word) :
    ∃ t, retireWith s d v = .next t ∧ (∀ j, t.me.reg j = if j = d ∧ d ≠ 0 then v else s.me.reg j) ∧ t.mem = s.mem := by
  refine ⟨_, rfl, fun j => ?_, rfl⟩
  simp only [State.me_modMe]
  rw [← Ctx.reg_setReg]
  simp [State.setReg, Ctx.reg]

/-- A context with no latched selection loses nothing by a discard of it. -/
theorem discardStaged_none {s : State} {k n : Nat} (h : (s.ctx k n).latch = none) : discardStaged s k n = s := by simp [discardStaged, h]

/-- Taking a trap with TIN clear and no selection latched changes the context as R29 says, and nothing else. -/
theorem enterTrap_clear {s : State} {k n : Nat} (t : TrapArg) (h : (s.ctx k n).latch = none) (g : (s.ctx k n).tin = false) :
    enterTrap s k n t = s.modCtx k n fun c => c.trapped t := by simp [enterTrap, g, discardStaged_none h]

/-- Taking a trap with TIN set stops the context. -/
theorem enterTrap_tin {s : State} {k n : Nat} (t : TrapArg) (g : (s.ctx k n).tin = true) :
    enterTrap s k n t = doubleTrap (stopContext (discardStaged s k n) k n) k n t := by simp [enterTrap, g]

/-- A trap keeps every register of the context. -/
@[simp] theorem Ctx.trapped_x (c : Ctx) (t : TrapArg) : (c.trapped t).x = c.x := rfl
/-- A trap keeps every predicate of the context. -/
@[simp] theorem Ctx.trapped_p (c : Ctx) (t : TrapArg) : (c.trapped t).p = c.p := rfl
/-- A trap keeps the dictionary of the context. -/
@[simp] theorem Ctx.trapped_dict (c : Ctx) (t : TrapArg) : (c.trapped t).dict = c.dict := rfl

@[simp] theorem Memory.setL2_bytes (m : Memory) (d l : Nat) (v : L2Line) : (m.setL2 d l v).bytes = m.bytes := rfl
@[simp] theorem Memory.setSnoop_bytes (m : Memory) (l : Nat) (v : Snoop) : (m.setSnoop l v).bytes = m.bytes := rfl

/-- Downgrading the other dies at a line writes no byte. -/
@[simp] theorem Memory.others_bytes (m : Memory) (d line : Nat) (inv : Bool) : (m.others d line inv).bytes = m.bytes := by
  unfold Memory.others
  refine foldl_keeps (p := fun x : Memory => x.bytes = m.bytes) _ (fun b a h => ?_) m rfl
  dsimp only
  repeat' split
  all_goals simp [h]

/-- A line that leaves an L2 takes no byte with it. -/
@[simp] theorem Memory.evict_bytes (m : Memory) (d line : Nat) : (m.evict d line).bytes = m.bytes := by unfold Memory.evict; split <;> rfl

/-- Making room in an L2 writes no byte. -/
@[simp] theorem makeRoom_bytes (s : State) (d line : Nat) : (makeRoom s d line).mem.bytes = s.mem.bytes := by
  unfold makeRoom
  dsimp only
  repeat' split
  all_goals simp

/-- A read by an agent of a die writes no byte. -/
@[simp] theorem touchLine_bytes (s : State) (d line : Nat) : (touchLine s d line).mem.bytes = s.mem.bytes := by
  unfold touchLine
  dsimp only
  repeat' split
  all_goals simp

/-- A read by an agent of a die writes no byte. -/
@[simp] theorem touchRead_bytes (s : State) (d pa : Nat) : (touchRead s d pa).mem.bytes = s.mem.bytes := touchLine_bytes s d _

/-- Counting a page's version writes no byte. -/
@[simp] theorem bumpVersion_mem (s : State) (pa : Nat) : (bumpVersion s pa).mem = s.mem := by unfold bumpVersion; split <;> rfl

/-- Taking a line in M writes no byte. -/
@[simp] theorem ownLine_bytes (s : State) (d part line : Nat) : (ownLine s d part line).mem.bytes = s.mem.bytes := by
  unfold ownLine
  dsimp only
  repeat' split
  all_goals simp

/-- Taking a line in M writes no byte. -/
@[simp] theorem touchWrite_bytes (s : State) (d part pa : Nat) : (touchWrite s d part pa).mem.bytes = s.mem.bytes := ownLine_bytes s d part _

/-- A tile's reads write no byte. -/
@[simp] theorem Memory.tileRead_bytes (m : Memory) (ls : List Nat) : (m.tileRead ls).bytes = m.bytes := by
  unfold Memory.tileRead
  refine foldl_keeps (p := fun x : Memory => x.bytes = m.bytes) _ (fun b a h => ?_) m rfl
  rw [Memory.others_bytes]
  split <;> simp [h]

/-- Reaching a line of a compressed page writes no byte. -/
@[simp] theorem touchCmp_bytes (s : State) (d part desc off : Nat) (w : Bool) : (touchCmp s d part desc off w).mem.bytes = s.mem.bytes := by
  unfold touchCmp
  dsimp only
  repeat' split
  all_goals simp

/-- A coherent read answers the bytes of memory and writes none. -/
theorem physRead_reads (s : State) (d pa n : Nat) : (physRead s d pa n).2.mem.bytes = s.mem.bytes := by
  unfold physRead
  exact foldl_keeps (p := fun t : State => t.mem.bytes = s.mem.bytes) _ (fun b a h => by simp [h]) _ (by split <;> rfl)

/-- A coherent write stores its bytes at its address, and no other byte, unless an address of it is reserved. -/
theorem physWrite_bytes {s : State} {d part pa : Nat} {bs : List Byte} (h : rangeReserved pa bs.length = false) (a : Nat) :
    (physWrite s d part pa bs).mem.byte a = if g : pa ≤ a ∧ a < pa + bs.length then bs[a - pa]'(by omega) else s.mem.byte a := by
  have e : ((linesOf pa bs.length).foldl (fun s a => touchWrite s d part a) s).mem.bytes = s.mem.bytes :=
    foldl_keeps (p := fun t : State => t.mem.bytes = s.mem.bytes) _ (fun b a h => by simp [h]) _ rfl
  unfold physWrite
  rw [if_neg (by simp [h])]
  by_cases g : pa ≤ a ∧ a < pa + bs.length
  · rw [dif_pos g]
    have := Memory.byte_set_at bs ((linesOf pa bs.length).foldl (fun s a => touchWrite s d part a) s).mem pa (a - pa) (by omega)
    rw [show pa + (a - pa) = a by omega] at this
    exact this
  · rw [dif_neg g]
    refine (Memory.byte_set_other bs _ pa a (by omega)).trans ?_
    simp [Memory.byte, e]

/-- Memory's canonical form speaks of its bytes alone. -/
theorem Memory.wf_of_bytes {m n : Memory} (h : n.bytes = m.bytes) (w : m.wf = true) : n.wf = true := by simpa [Memory.wf, h] using w

/-- A coherent write keeps memory's canonical form. -/
theorem physWrite_wf {s : State} (d part pa : Nat) (bs : List Byte) (h : s.mem.wf = true) : (physWrite s d part pa bs).mem.wf = true := by
  unfold physWrite
  split
  · exact h
  · refine Memory.wf_set bs pa (Memory.wf_of_bytes ?_ h)
    exact foldl_keeps (p := fun t : State => t.mem.bytes = s.mem.bytes) _ (fun b a h => by simp [h]) _ rfl

/-- A write that no L2 keeps preserves memory's canonical form. -/
theorem iodPut_wf {s : State} (pa : Nat) (bs : List Byte) (h : s.mem.wf = true) : (iodPut s pa bs).mem.wf = true := by
  unfold iodPut
  split
  · exact h
  · refine Memory.wf_set bs pa (Memory.wf_of_bytes ?_ h)
    refine foldl_keeps (p := fun t : State => t.mem.bytes = s.mem.bytes) _ (fun t a g => ?_) _ rfl
    rw [bumpVersion_mem]
    simp only [State.modMem, Memory.others_bytes]
    split <;> simpa using g

/-- A write by the I/O die keeps memory's canonical form: it is made, waits, or is lost. -/
theorem iodWrite_wf {s : State} (pa : Nat) (bs : List Byte) (h : s.mem.wf = true) : (iodWrite s pa bs).mem.wf = true := by
  unfold iodWrite
  split
  · exact iodPut_wf pa bs h
  · exact h
  · exact h

/-- A read by the I/O die keeps memory's canonical form. -/
theorem iodRead_wf {s : State} (pa n : Nat) (h : s.mem.wf = true) : (iodRead s pa n).2.mem.wf = true := by
  unfold iodRead
  split
  · exact h
  · refine Memory.wf_of_bytes ?_ h
    refine foldl_keeps (p := fun m : Memory => m.bytes = s.mem.bytes) _ (fun b a h => ?_) _ rfl
    rw [Memory.others_bytes]
    split <;> simp [h]

/-- A coherent read keeps memory's canonical form. -/
theorem physRead_wf {s : State} (d pa n : Nat) (h : s.mem.wf = true) : (physRead s d pa n).2.mem.wf = true :=
  Memory.wf_of_bytes (physRead_reads s d pa n) h

/-- A tile's write keeps memory's canonical form. -/
theorem tileSet_wf {m : Memory} (pa : Nat) (bs : List Byte) (h : m.wf = true) : (m.tileSet pa bs).wf = true := by
  refine Memory.wf_set bs pa (Memory.wf_of_bytes ?_ h)
  refine foldl_keeps (p := fun x : Memory => x.bytes = m.bytes) _ (fun b a g => ?_) _ rfl
  rw [Memory.others_bytes]
  simp [g]

/-- A write to a compressed page keeps memory's canonical form. -/
theorem cmpSet_wf {m : Memory} (d part desc off : Nat) (bs : List Byte) (h : m.wf = true) : (cmpSet m d part desc off bs).wf = true := h

/-- Setting the state of a page's descriptor keeps memory's canonical form. -/
theorem setCmpState_wf {m : Memory} (desc : Nat) (lock broken : Bool) (h : m.wf = true) : (setCmpState m desc lock broken).wf = true := tileSet_wf _ _ h

/-- Writing sectors keeps memory's canonical form. -/
theorem putSectors_wf (desc : Nat) (n : Nat) : ∀ {m : Memory} (x : Nat) (bs : List Byte), m.wf = true → (putSectors m desc x bs n).wf = true := by
  induction n with
  | zero => intro _ _ _ h; exact h
  | succ n ih => intro _ _ _ h; exact ih _ _ (tileSet_wf _ _ h)

/-- Writing a slot word keeps memory's canonical form. -/
theorem putSlot_wf {m : Memory} (desc b size first : Nat) (h : m.wf = true) : (putSlot m desc b size first).wf = true := tileSet_wf _ _ h

/-- Dropping a dirty line keeps memory's canonical form. -/
theorem dropLine_wf {m : Memory} (l : CmpLine) (h : m.wf = true) : (dropLine m l).wf = true := h

/-- The write-back of a block keeps memory's canonical form. -/
theorem storeBlock_wf {m : Memory} (l : CmpLine) (h : m.wf = true) : (storeBlock m l).wf = true :=
  dropLine_wf _ (putSlot_wf _ _ _ _ (putSectors_wf _ _ _ _ h))

/-- A new layout of a page keeps memory's canonical form. -/
theorem writeLayout_wf {m : Memory} (desc : Nat) (chunks : List Nat) (blocks : List (Nat × List Byte)) (firsts : List Nat) (h : m.wf = true) :
    (writeLayout m desc chunks blocks firsts).wf = true := by
  unfold writeLayout
  refine foldl_keeps (p := fun m : Memory => m.wf = true) _ (fun b a g => ?_) _ (foldl_keeps (p := fun m : Memory => m.wf = true) _ (fun b a g => tileSet_wf _ _ g) _ h)
  exact putSlot_wf _ _ _ _ (putSectors_wf _ _ _ _ g)

end Sys2Proof.Machine
end

