-- ==== Sys2Proof/Machine/HostRead.lean ====
section
/-! DEFINITION. What the host reads at an aligned doubleword of BAR0: the registers of every block, the ingress ports, the descriptors and the dictionary windows (03 R66; 05 R129; 09 R212, R214; 11 R255, R264, R265; 18 R345; 19 R352, R358; 21 R375; 23 R408 to R413; 24 R416 to R420, R429, R430). -/
namespace Sys2Proof.Machine

/-- The doubleword at offset o of some bytes, 0 beyond them. -/
def dwordAt (bs : List Byte) (o : Nat) : Word := w64 (fld bs o 8)

/-- The records of n bytes of a ring whose write waits for its way (23 R405; 24 R431). -/
def Ring.behind (s : State) (r : Ring) (n : Nat) : Nat :=
  (s.iod.waits.filter fun x => decide (x.2.length = n) && decide (r.base ≤ x.1) && decide (x.1 < r.base + n * r.size)).length

/-- The pointer register of a ring with records of n bytes: HEAD, which advances as a record is written, TAIL and LOST (21 R374, R375). -/
def Ring.ptrWord (s : State) (n : Nat) (r : Ring) : Word := w64 ((r.head + 65536 - r.behind s n) % 65536 * 2 ^ 48 + r.tail % 65536 * 2 ^ 16 + r.lost % 65536)

/-- The descriptor of a queue as its die holds it, with STATE and AGE (09 R212). -/
def queueDesc (x : Queue) : List Byte :=
  bytesLE x.ctl 4 ++ bytesLE x.cap 4 ++ bytesLE x.image.toNat 8 ++ bytesLE x.rcbt.toNat 8 ++ bytesLE x.deadline.toNat 8 ++ bytesLE x.budget 8 ++
  bytesLE x.oslot 2 ++ bytesLE x.stealmin 2 ++ bytesLE (x.toks.length % 2 ^ 17 + b2n x.blocked * 2 ^ 17) 4 ++ bytesLE x.age 4 ++ List.replicate 12 0

/-- The descriptor of a stage, with CUR (05 R129). -/
def stageDesc (x : Stage) : List Byte :=
  bytesLE x.image.toNat 8 ++ bytesLE x.rcbt.toNat 8 ++ bytesLE x.queue 2 ++ bytesLE x.minc 2 ++ bytesLE x.maxc 2 ++ bytesLE x.hyst 2 ++ bytesLE x.grow 4 ++
  bytesLE x.shrink 4 ++ bytesLE x.period 4 ++ bytesLE x.cores.length 4 ++ List.replicate 24 0

/-- A field of an ingress port as a read answers it: fields to be written read as 0, and so does the reserved one (09 R214). -/
def portRead (x : Queue) (o : Nat) : Word :=
  match o with
  | 0x18 => w64 x.credit
  | 0x20 => x.dlnext
  | 0x28 => w64 x.drops
  | _ => 0

/-- STATE of a context as CTXST shows it (24 R420). -/
def RunState.code : RunState → Nat
  | .off => 0
  | .run => 1
  | .wait => 2

/-- CTXST of a core, and DSST of the display sequencer (24 R420). -/
def ctxStatus (s : State) (k : Nat) : Word :=
  w64 ((s.core k).regs.ign % 65536 * 2 ^ 16 + ((List.range 4).map fun n => (s.ctx k n).run.code * 4 ^ n).sum)

/-- The dictionary window of context c: its banks, DICTSTAT and DICTID (03 R66). `o` counts from 0x1_0000 of the block. -/
def dictRead (s : State) (k o : Nat) : Word :=
  if o < 0x8000 then
    let d := (s.ctx k (o / 0x2000)).dict
    dwordAt (bankBytes (if o % 0x2000 < 0x1000 then d.active else d.staged)) (o % 0x1000)
  else if o < 0x8020 then dictStat (s.ctx k ((o - 0x8000) / 8)).dict
  else if o < 0x8040 then dictIds (s.ctx k ((o - 0x8020) / 8)).dict
  else 0

/-- A read of a core's block (03 R66; 21 R398; 23 R410; 24 R419, R420). -/
def readCore (s : State) (k o : Nat) : Word :=
  let r := (s.core k).regs
  match o with
  | 0x08 => ctxStatus s k
  | 0x10 => w64 r.dbgstop
  | 0x18 => w64 r.servers
  | 0x20 => w64 (s.core k).port.tokdrop
  | 0x28 => w64 (edgeCur s k % 65536 * 2 ^ 24 + r.edgeRate)
  | 0x30 => r.cswaddr
  | 0x40 => r.cswst
  | _ => if 0x10000 ≤ o then dictRead s k (o - 0x10000) else 0

/-- A read of a memory-interface tile's registers (11 R264). CHUNKPOP answers the frame that its read removes, 0 where there is none. -/
def readPool (p : Pool) (o : Nat) : Word :=
  match o with
  | 0x00 => w64 (p.slack * 2 ^ 42 + p.rsvt * 2 ^ 21 + p.lowmark)
  | 0x08 => w64 (p.reserve.length % 2 ^ 21 * 2 ^ 21 + p.free.length % 2 ^ 21)
  | 0x18 => w64 (p.free.headD 0)
  | _ => 0

/-- A read of a die's block (05 R129; 09 R212, R214; 11 R264, R265; 18 R345; 24 R419, R420). -/
def readDie (s : State) (d o : Nat) : Word :=
  let x := s.die d
  if o < 0x40000 then dwordAt (queueDesc (s.queue (d * 4096 + o / 64))) (o % 64)
  else if o < 0x80000 then portRead (s.queue (d * 4096 + (o - 0x40000) / 64)) (o % 64)
  else if o < 0x84000 then dwordAt (stageDesc (Tab.look {} x.stages ((o - 0x80000) / 64))) (o % 64)
  else if o < 0x84040 then dwordAt (getBytes x.regs.regbuf 0 64) (o - 0x84000)
  else if o = 0x84048 then w64 x.regs.regst
  else if 0x90000 ≤ o ∧ o < 0x90200 then w64 (Tab.look 0 x.regs.owners ((o - 0x90000) / 8))
  else if o = 0x90208 then w64 (b2n (!x.regs.clears.isEmpty))
  else if 0xA0000 ≤ o ∧ o < 0xA8000 then w64 (Tab.look 0 x.regs.occs ((o - 0xA0000) / 8))
  else if o = 0xB0008 then w64 x.regs.migdst
  else if o = 0xB0010 then w64 x.regs.migst
  else if 0xC0000 ≤ o ∧ o < 0xD0000 then readPool (s.pool d ((o - 0xC0000) / 0x1000)) (o % 0x1000)
  else if 0x400000 ≤ o ∧ o < 0x400000 + 80 * 0x20000 then readCore s (d * 128 + (o - 0x400000) / 0x20000) ((o - 0x400000) % 0x20000)
  else 0

/-- A read of a partition's block (00 R7; 09 R227; 10 R243; 11 R252, R255; 21 R375, R394; 24 R419, R420). -/
def readPart (s : State) (x : Part) (o : Nat) : Word :=
  match o with
  | 0x00 => x.dutyctl
  | 0x08 => x.schedctl
  | 0x10 => polstat x
  | 0x18 => x.troot
  | 0x28 => w64 (b2n (!x.tinvs.isEmpty))
  | 0x30 => x.fltring.ring
  | 0x38 => x.fltring.ptrWord s 64
  | 0x48 => x.savepool
  | 0x50 => x.dutydata
  | 0x60 => x.collbase
  | 0x68 => x.partclu
  | o =>
    let m := (o - 0x100) / 16
    if o < 0x100 ∨ 10 ≤ m then 0
    else if o % 16 = 0 then (Tab.look {} x.rings m).ring
    else (Tab.look {} x.rings m).ptrWord s (if m = 0 then 128 else 16)

/-- A read of a head's registers (19 R352, R358). -/
def readHead (x : Head) (o : Nat) : Word :=
  match o with
  | 0x00 => x.hctl
  | 0x08 => x.htim
  | 0x10 => x.hpclk
  | _ => if 0x1000 ≤ o then Tab.look 0 x.bstat ((o - 0x1000) / 8) else 0

/-- A read of the IOD's block (03 R66; 19 R352, R358; 23 R408, R411, R413; 24 R419, R420, R429, R430). -/
def readIod (s : State) (o : Nat) : Word :=
  let i := s.iod
  if o = 0 then devId
  else if o = 0x08 then w64 i.sec.bootstat
  else if o = 0x108 then ctxStatus s dsCore
  else if o = 0x110 then i.dspart
  else if 0x10000 ≤ o ∧ o < 0x20000 then (if o % 0x8000 < 0x2000 then dictRead s dsCore (o - 0x10000) else 0)
  else if 0x20000 ≤ o ∧ o < 0x28000 then readHead (i.head ((o - 0x20000) / 0x2000)) ((o - 0x20000) % 0x2000)
  else if 0x30000 ≤ o ∧ o < 0x300A0 then
    let p := s.plain ((o - 0x30000) / 40) ((o - 0x30000) / 8 % 5)
    w64 (p.point * 256 + p.min)
  else if o = 0x30100 then i.power.pwrcfg
  else if o = 0x30108 then w64 (powerBudget i.power % 65536 * 2 ^ 48 + i.power.meas % 65536 * 2 ^ 32 + i.power.lent % 65536 * 2 ^ 16 + i.power.borr % 65536)
  else if o = 0x30110 then w64 (i.power.count * 16 + ((List.range 4).map fun d => b2n (s.die d).degrade * 2 ^ d).sum)
  else if o = 0x40000 then w64 i.pkgid
  else if 0x40008 ≤ o ∧ o < 0x48008 then w64 (Tab.look 0 i.peerrt ((o - 0x40008) / 8))
  else if o = 0x50000 then i.hostRing.ring
  else if o = 0x50008 then i.hostRing.ptrWord s 16
  else if 0x60000 ≤ o ∧ o < 0x60020 then Tab.look 0 i.sec.nonce ((o - 0x60000) / 8)
  else if o = 0x60028 then w64 i.sec.attst
  else if o = 0x60038 then w64 i.sec.fwsvn
  else 0

/-- What a read of n bytes at a BAR0 offset answers (24 R416 to R419): all ones unless it is an aligned doubleword, and before the boot is over for every register but DEVID and BOOTSTAT; none where the host link has failed, and the read waits (24 R431). A reserved offset reads as 0. -/
def hostRead (s : State) (off n : Nat) : Option Word :=
  if s.iod.linkDown then none
  else if n ≠ 8 ∨ off % 8 ≠ 0 ∨ (s.iod.sec.bootstat ≠ 1 ∧ off ≠ 0 ∧ off ≠ 8) then some (~~~(0 : Word))
  else some (
    if off < 0x1000000 then readIod s off
    else if off < 0x5000000 then readDie s (off / 0x1000000 - 1) (off % 0x1000000)
    else if 0x5001000 ≤ off ∧ off < 0x6000000 then readPart s (s.part ((off - 0x5000000) / 0x1000)) (off % 0x1000)
    else 0)

end Sys2Proof.Machine
end

