-- ==== Sys2Proof/Safety.lean ====
section
/-! DEFINITION. What a safe run is: it never stops. The part has one stop, an access that a register of the host places at a reserved address. -/
namespace Sys2Proof.Machine

/-- A step that goes on. -/
def Outcome.goesOn {σ φ ρ : Type} : Host.Outcome σ φ ρ → Bool
  | .next _ => true
  | _ => false

/-- A state from which n steps go on. -/
def safeFor : Nat → State → Prop
  | 0, _ => True
  | n + 1, s => ∃ t, step s = .next t ∧ safeFor n t

end Sys2Proof.Machine
end

