-- ==== Sys2Proof/Tests/Slice0.lean ====
section
/-! SUPPORT. Tests: words written out from the spec's encodings, an ill-formed term for each check, one step for the instructions whose rule prints an example, and a state that meets the hypotheses of each statement. -/
namespace Sys2Proof.Tests
open Sys2Proof Sys2Proof.Machine Sys2Proof.Claims

set_option Elab.async false

/-- Each word decodes, unguarded, to the instruction beside it. -/
noncomputable def reads (ex : Executor) (l : List (Code × Instr)) : Bool := l.all fun x => decide (decode ex x.1 = .ok none x.2)

/-- Each halfword decodes to the instruction beside it. -/
def readsPolicy (l : List (BitVec 16 × Instr)) : Bool := l.all fun x => decide (decodePolicy x.1 = some x.2)

/-- The words of the arithmetic family, from the field layouts of 02 R36 to R46 and each instruction's own table. -/
theorem test_decode_arithmetic : reads .core [
  (0x80400110C0000000, .add 1 2 3),
  (0x80440110C0000000, .sub 1 2 3),
  (0x80480110C0000000, .mul 1 2 3),
  (0x804C0110C0000000, .mulh 1 2 3),
  (0x80500110C0000000, .mulhu 1 2 3),
  (0x80540110C0000000, .div 1 2 3),
  (0x80580110C0000000, .divu 1 2 3),
  (0x805C0110C0000000, .rem 1 2 3),
  (0x80600110C0000000, .remu 1 2 3)] = true := by decide +kernel

/-- The words of the logic family, from the field layouts of 02 R36 to R46 and each instruction's own table. -/
theorem test_decode_logic : reads .core [
  (0x80801F1400000000, .and 31 2 16),
  (0x80841F1400000000, .or 31 2 16),
  (0x80881F1400000000, .xor 31 2 16),
  (0x808C1F1400000000, .andn 31 2 16),
  (0x80901F1400000000, .orn 31 2 16),
  (0x80941F1400000000, .shl 31 2 16),
  (0x80981F1400000000, .shr 31 2 16),
  (0x809C1F1400000000, .sra 31 2 16),
  (0x80A01F1400000000, .rol 31 2 16),
  (0x80A41F1400000000, .ror 31 2 16),
  (0x80C01F1400000000, .min 31 2 16),
  (0x80C41F1400000000, .max 31 2 16),
  (0x80C81F1400000000, .minu 31 2 16),
  (0x80CC1F1400000000, .maxu 31 2 16),
  (0x80D0011000000000, .clz 1 2),
  (0x80D4011000000000, .ctz 1 2),
  (0x80D8011000000000, .popc 1 2),
  (0x80DC011000000000, .brev 1 2),
  (0x80E00110CE000000, .sel 1 7 2 3)] = true := by decide +kernel

/-- The words of the immediates family, from the field layouts of 02 R36 to R46 and each instruction's own table. -/
theorem test_decode_immediates : reads .core [
  (0x8100011000003907, .bfx 1 2 57 7),
  (0x8104011000003907, .bfxu 1 2 57 7),
  (0x8108011000003907, .bfi 1 2 57 7),
  (0x82000718FFFFFFFE, .addi 7 3 .s 0xFFFFFFFE),
  (0x8204011100000005, .andi 1 2 .z 5),
  (0x8208011200000005, .ori 1 2 .w2 5),
  (0x820C01130000FFFF, .xori 1 2 .h4 0xFFFF),
  (0x821001110000003F, .shli 1 2 63),
  (0x8214011100000001, .shri 1 2 1),
  (0x8218011100000020, .srai 1 2 32),
  (0x821C0104000000FF, .movi 1 .b8 0xFF),
  (0x8220010180000000, .movhi 1 0x80000000)] = true := by decide +kernel

/-- The words of the compares family, from the field layouts of 02 R36 to R46 and each instruction's own table. -/
theorem test_decode_compares : reads .core [
  (0x84000510CC000000, .cmpEq 5 2 3 6),
  (0x8440051000000009, .cmpiEq 5 2 .s 9),
  (0x84040510CC000000, .cmpNe 5 2 3 6),
  (0x8444051100000009, .cmpiNe 5 2 .z 9),
  (0x84080510CC000000, .cmpLt 5 2 3 6),
  (0x8448051000000009, .cmpiLt 5 2 .s 9),
  (0x840C0510CC000000, .cmpGe 5 2 3 6),
  (0x844C051100000009, .cmpiGe 5 2 .z 9),
  (0x84100510CC000000, .cmpLtu 5 2 3 6),
  (0x8450051000000009, .cmpiLtu 5 2 .s 9),
  (0x84140510CC000000, .cmpGeu 5 2 3 6),
  (0x8454051100000009, .cmpiGeu 5 2 .z 9),
  (0x8480051000000000, .pset 5 2),
  (0x84840531C0000000, .pand 5 6 7),
  (0x84880531C0000000, .por 5 6 7),
  (0x848C0531C0000000, .pxor 5 6 7),
  (0x8490053000000000, .pnot 5 6)] = true := by decide +kernel

/-- The words of the control flow family, from the field layouts of 02 R36 to R46 and each instruction's own table. -/
theorem test_decode_control_flow : reads .core [
  (0x8600021800000010, .br .eq 2 3 0x10),
  (0x8600021900000011, .br .ne 2 3 0x11),
  (0x8600021A00000012, .br .lt 2 3 0x12),
  (0x8600021B00000013, .br .ge 2 3 0x13),
  (0x8600021C00000014, .br .ltu 2 3 0x14),
  (0x8600021D00000015, .br .geu 2 3 0x15),
  (0x86400000FFFFFFFF, .jmp 0xFFFFFFFF),
  (0x8644010000000008, .jal 1 8),
  (0x8680011000000008, .jalr 1 2 8),
  (0x86C0040000000008, .loop 4 8)] = true := by decide +kernel

/-- The words of the memory family, from the field layouts of 02 R36 to R46 and each instruction's own table. -/
theorem test_decode_memory : reads .core [
  (0x88000531D4400008, .ld 5 6 7 .w .di .acq 8),
  (0x8804053028000002, .ldLoc 5 6 0 .hu 2),
  (0x884005301EBFFFF8, .st 5 6 0 .d .sy .rel 0x3FFFF8),
  (0x8844053000000001, .stLoc 5 6 0 .b 1),
  (0x88800531DCC00008, .amoAdd 5 6 7 .d .di .ar 8),
  (0x88C00531D0000008, .amoLocAdd 5 6 7 .w 8),
  (0x88840531DCC00008, .amoAnd 5 6 7 .d .di .ar 8),
  (0x88C40531D0000008, .amoLocAnd 5 6 7 .w 8),
  (0x88880531DCC00008, .amoOr 5 6 7 .d .di .ar 8),
  (0x88C80531D0000008, .amoLocOr 5 6 7 .w 8),
  (0x888C0531DCC00008, .amoXor 5 6 7 .d .di .ar 8),
  (0x88CC0531D0000008, .amoLocXor 5 6 7 .w 8),
  (0x88900531DCC00008, .amoMin 5 6 7 .d .di .ar 8),
  (0x88D00531D0000008, .amoLocMin 5 6 7 .w 8),
  (0x88940531DCC00008, .amoMax 5 6 7 .d .di .ar 8),
  (0x88D40531D0000008, .amoLocMax 5 6 7 .w 8),
  (0x88980531DCC00008, .amoMinu 5 6 7 .d .di .ar 8),
  (0x88D80531D0000008, .amoLocMinu 5 6 7 .w 8),
  (0x889C0531DCC00008, .amoMaxu 5 6 7 .d .di .ar 8),
  (0x88DC0531D0000008, .amoLocMaxu 5 6 7 .w 8),
  (0x88A00531DCC00008, .amoSwap 5 6 7 .d .di .ar 8),
  (0x88E00531D0000008, .amoLocSwap 5 6 7 .w 8),
  (0x89000531D5400008, .cas 5 6 7 .w .pk .acq 8),
  (0x89040531D8000008, .casLoc 5 6 7 .d 8),
  (0x89400037DD800100, .spill 0 31 6 .pk .rel 0x100),
  (0x89440837DD400100, .fill 8 31 6 .pk .acq 0x100),
  (0x8980000004C00000, .fence .di .ar),
  (0x8984000000000000, .fenceF)] = true := by decide +kernel

/-- The words of the system family, from the field layouts of 02 R36 to R46 and each instruction's own table. -/
theorem test_decode_system : reads .core [
  (0x9400000000000000, .nop),
  (0x9404000000000000, .yield),
  (0x9408000000000000, .halt),
  (0x940C00000000FFFF, .brk 0xFFFF),
  (0x9440000100000007, .trap 7),
  (0x9444000000000000, .eret),
  (0x9480010100000016, .crr 1 0x016),
  (0x9484001100000008, .crw 0x008 2),
  (0x94C0011000000000, .evpop 1 2),
  (0x94C4011000000000, .evwait 1 2),
  (0x9500010000000000, .cyc 1)] = true := by decide +kernel

/-- The words of the dictionary family, from the field layouts of 02 R36 to R46 and each instruction's own table. -/
theorem test_decode_dictionary : reads .core [
  (0x9000045000000200, .dictLd 4 10 0x200),
  (0x9004000000000000, .dictCommit),
  (0x9008053000000003, .dictRd 5 6 true true),
  (0x9008053000000002, .dictRd 5 6 true false),
  (0x900C010000000000, .dictGen 1),
  (0x900C010000000001, .dictGenId 1)] = true := by decide +kernel

/-- The words of the fabric control family, from the field layouts of 02 R36 to R46 and each instruction's own table. -/
theorem test_decode_fabric_control : reads .core [
  (0x9040053000000004, .cfgLd 5 6 true 0),
  (0x9040053000000003, .cfgLd 5 6 false 3),
  (0x9044000000000002, .cfgCommit 2),
  (0x9048000000000001, .cfgDrop 1),
  (0x9048003000000004, .cfgDropImg 6),
  (0x904C010000000000, .cfgQPly 1),
  (0x904C011000000001, .cfgQImg 1 2),
  (0x904C010000000002, .cfgQRsv 1),
  (0x9080001000000000, .rgnOpen 2),
  (0x9084010000000000, .rgnWait 1),
  (0x9088000000000000, .rgnClose),
  (0x9088000000000001, .rgnCloseAbort),
  (0x90C00010C0000000, .portBindHnd 2 3),
  (0x90C00010C0000005, .portBindFar 2 3 2),
  (0x90C40000C0000000, .portUnbindHnd 3),
  (0x90C40000C0000007, .portUnbindFar 3 3),
  (0x910000100000000F, .permitK 2 15),
  (0x9140034800000004, .qrsv 3 9 4),
  (0x91440010C8000000, .qpush 2 3 4)] = true := by decide +kernel

/-- The words of the policies and streams family, from the field layouts of 02 R36 to R46 and each instruction's own table. -/
theorem test_decode_policies_and_streams : reads .core [
  (0x9180001000000000, .policyLd 2),
  (0x9184010000000000, .policySwap 1),
  (0x9200002000000003, .strAff 4 3),
  (0x9204002000000003, .strInd 4 3),
  (0x9208002800000003, .strGo 5 3),
  (0x920C000000000103, .strBar 0x103),
  (0x9210070000000003, .strWait 7 3),
  (0x9240064240000023, .winSet 6 8 9 2 3),
  (0x9244000000000023, .winClr false 2 3),
  (0x9244000000000043, .winClr true 0 3)] = true := by decide +kernel

/-- The words of the matrix family, from the field layouts of 02 R36 to R46 and each instruction's own table. -/
theorem test_decode_matrix : reads .core [
  (0xA800001000000102, .mxLdb 2 1 .e4m3),
  (0xA804001000000002, .mxScale 2 0 true false),
  (0xA808001000000000, .mxThr 2),
  (0xA80C0010C0000000, .mxSamp 2 3),
  (0xA8400010C0000A15, .mm 2 3 { apx := true, pres := false, gang := true, s := 0, bank := 1, at_ := .i8 }),
  (0xA8440010C0000A15, .mmz 2 3 { apx := true, pres := false, gang := true, s := 0, bank := 1, at_ := .i8 }),
  (0xA8480010C0001A15, .mmr 2 3 true { apx := true, pres := false, gang := true, s := 0, bank := 1, at_ := .i8 }),
  (0xA8800010C00C0813, .mxDrain 2 3 .rup false true 1 .e5m2),
  (0xA8800010C0001007, .mxDrain 2 3 .rne true false 0 .raw),
  (0xA884000000000010, .mxWait 16),
  (0xA888001000000000, .mxGang 2),
  (0xA888000000000001, .mxGangLeave),
  (0xA8C00010C0224483, .mxEdge 2 3 0x11 0x22 1 3)] = true := by decide +kernel

/-- The words of the display family, from the field layouts of 02 R36 to R46 and each instruction's own table. -/
theorem test_decode_display : reads .display [
  (0xB400011000000003, .dsBand 1 2 3),
  (0xB404053000000009, .dsFall 5 6 2 1),
  (0xB408010000000002, .dsLine 1 2),
  (0xB408011000000004, .dsLineWait 1 2 0),
  (0xB4400010C0000001, .dsMe 2 3 1),
  (0xB4440010C0000005, .dsWarp 2 3 true 1),
  (0xB4800010C0000002, .dsNet 2 3 2),
  (0xB484053000000000, .dsEmit 5 6 0)] = true := by decide +kernel

/-- The words of the integer lanes family, from the field layouts of 02 R36 to R46 and each instruction's own table. -/
theorem test_decode_integer_lanes : reads .element [
  (0x98000150C0000000, .vadd (.d 1) (.i 2) (.d 3) .i8),
  (0x98040150C0200000, .vsub (.d 1) (.i 2) (.d 3) .u8),
  (0x98080150C0400000, .vadds (.d 1) (.i 2) (.d 3) .i16),
  (0x980C0150C0600000, .vsubs (.d 1) (.i 2) (.d 3) .u16),
  (0x98100150C0800000, .vmul (.d 1) (.i 2) (.d 3) .i32),
  (0x98140150C0A00000, .vmulh (.d 1) (.i 2) (.d 3) .u32),
  (0x98400150C0C00000, .vmin (.d 1) (.i 2) (.d 3) .i64),
  (0x98440150C0E00000, .vmax (.d 1) (.i 2) (.d 3) .u64),
  (0x985C0150C0000000, .vshl (.d 1) (.i 2) (.d 3) .i8),
  (0x98600150C0600000, .vshr (.d 1) (.i 2) (.d 3) .u16),
  (0x98640150C0800000, .vsra (.d 1) (.i 2) (.d 3) .i32),
  (0x98C80150C0400000, .vpack (.d 1) (.i 2) (.d 3) .i16),
  (0x98180150E2600000, .vmad (.d 1) (.i 2) (.d 3) .coord .u16),
  (0x981C1F9800000000, .vabs .null .tag0 .i8),
  (0x98201F9800C00000, .vneg .null .tag0 .i64),
  (0x98681F9800A00000, .vpopc .null .tag0 .u32),
  (0x986C1F9800200000, .vclz .null .tag0 .u8),
  (0x98CC1F9800A00000, .vunpk .null .tag0 .u32),
  (0x98480150C0000000, .vand (.d 1) (.i 2) (.d 3)),
  (0x984C0150C0000000, .vor (.d 1) (.i 2) (.d 3)),
  (0x98500150C0000000, .vxor (.d 1) (.i 2) (.d 3)),
  (0x98540150C0000000, .vandn (.d 1) (.i 2) (.d 3)),
  (0x9858019000000000, .vnot (.d 1) .plyn),
  (0x98C00150E0000000, .vsel (.d 1) (.i 2) (.d 3) .zero),
  (0x98C40150E0000000, .vperm (.d 1) (.i 2) (.d 3) .zero),
  (0x98800150CA400000, .vcmpEq (.d 1) (.i 2) (.d 3) .i16 5),
  (0x98840150CA400000, .vcmpNe (.d 1) (.i 2) (.d 3) .i16 5),
  (0x98880150CA400000, .vcmpLt (.d 1) (.i 2) (.d 3) .i16 5),
  (0x988C0150CA400000, .vcmpLe (.d 1) (.i 2) (.d 3) .i16 5),
  (0x98900150CA400000, .vcmpGt (.d 1) (.i 2) (.d 3) .i16 5),
  (0x98940150CA400000, .vcmpGe (.d 1) (.i 2) (.d 3) .i16 5)] = true := by decide +kernel

/-- The words of the float lanes family, from the field layouts of 02 R36 to R46 and each instruction's own table. -/
theorem test_decode_float_lanes : reads .element [
  (0x9A000150C1000000, .fadd (.d 1) (.i 2) (.d 3) .f16 .rne),
  (0x9A040150C1240000, .fsub (.d 1) (.i 2) (.d 3) .bf16 .rtz),
  (0x9A080150C1480000, .fmul (.d 1) (.i 2) (.d 3) .f32 .rdn),
  (0x9A840150C16C0000, .fdiv (.d 1) (.i 2) (.d 3) .f64 .rup),
  (0x9A0C0150E3580000, .ffma (.d 1) (.i 2) (.d 3) .coord .f32 .dyn),
  (0x9A100150C1600000, .fmin (.d 1) (.i 2) (.d 3) .f64),
  (0x9A140150C1600000, .fmax (.d 1) (.i 2) (.d 3) .f64),
  (0x9A18015001200000, .fabs (.d 1) (.i 2) .bf16),
  (0x9A1C015001200000, .fneg (.d 1) (.i 2) .bf16),
  (0x9A80015001200000, .fclass (.d 1) (.i 2) .bf16),
  (0x9A88015001080000, .fsqrt (.d 1) (.i 2) .f16 .rdn),
  (0x9A8C0150010C0000, .frcp (.d 1) (.i 2) .f16 .rup),
  (0x9A90015001100000, .frsq (.d 1) (.i 2) .f16 .rna),
  (0x9A94015001140000, .fexp2 (.d 1) (.i 2) .f16 .sr),
  (0x9A98015001180000, .flog2 (.d 1) (.i 2) .f16 .dyn),
  (0x9A400150CB400000, .fcmpEq (.d 1) (.i 2) (.d 3) .f32 5),
  (0x9A440150CB400000, .fcmpNe (.d 1) (.i 2) (.d 3) .f32 5),
  (0x9A480150CB400000, .fcmpLt (.d 1) (.i 2) (.d 3) .f32 5),
  (0x9A4C0150CB400000, .fcmpLe (.d 1) (.i 2) (.d 3) .f32 5),
  (0x9A500150CB400000, .fcmpGt (.d 1) (.i 2) (.d 3) .f32 5),
  (0x9A540150CB400000, .fcmpGe (.d 1) (.i 2) (.d 3) .f32 5),
  (0x9A580150CB400000, .fcmpUn (.d 1) (.i 2) (.d 3) .f32 5),
  (0x9AC0015309000000, .cvt (.d 1) (.i 2) .f16 .e4m3 4 .rne),
  (0x9B00030043400000, .crsub (.d 3) (.d 0) (.d 1) true .rne),
  (0x9B400150E3A40000, .dot (.d 1) (.i 2) (.d 3) .coord .e5m2 .rtz)] = true := by decide +kernel

/-- The words of the dataflow family, from the field layouts of 02 R36 to R46 and each instruction's own table. -/
theorem test_decode_dataflow : reads .element [
  (0xA000015000000000, .mov (.d 1) (.i 2)),
  (0xA040010200000007, .const (.d 1) .w2 7),
  (0xA04401510000001B, .tagi (.d 1) (.i 2) true 11),
  (0xA080015000004312, .steer (.d 1) (.i 2) { sel := .pred 3, dmask := 4, tmask := 1, fmask := 2 }),
  (0xA080015240004812, .steer (.d 1) (.i 2) { sel := .reg (.i 1), dmask := 4, tmask := 1, fmask := 2 }),
  (0xA084010000000201, .merge (.d 1) 2 0 1),
  (0xA088010000053001, .mergeu (.d 1) 5 3 0 1),
  (0xA08C015000000002, .gate (.d 1) (.i 2) 2),
  (0xA090010000000100, .permit (.d 1) 1 0),
  (0xA0C0015000000001, .eos (.d 1) (.i 2) true),
  (0xA0C40150000001FF, .sink (.d 1) (.i 2) true 0xFF),
  (0xA0C81F5000000000, .mark (.i 2)),
  (0xA1001F0026E00000, .redMin (.d 0) .u64 2 3),
  (0xA1041F003F600000, .redMax (.d 0) .f64 3 7),
  (0xA1081F0000000000, .redSum (.d 0) .i8 0 0),
  (0xA1401F50C0000000, .send (.i 2) (.d 3)),
  (0xA144015000000010, .rsv (.d 1) (.i 2) 16),
  (0xA1480150C0000000, .enq (.d 1) (.i 2) (.d 3)),
  (0xA14C015000000100, .amplify (.d 1) (.i 2) 256)] = true := by decide +kernel

/-- The words of the requests and tiles family, from the field layouts of 02 R36 to R46 and each instruction's own table. -/
theorem test_decode_requests_and_tiles : reads .element [
  (0xAC0002405C400010, .ldq (.d 2) (.i 0) (.d 1) .d .di .acq 0x10),
  (0xAC04030413800000, .stq (.d 3) (.d 0) .zero .w .cl .rel 0),
  (0xACC004315CC00008, .amoqAdd (.d 4) (.d 6) (.d 5) .d .di .ar 8),
  (0xACC404315CC00008, .amoqAnd (.d 4) (.d 6) (.d 5) .d .di .ar 8),
  (0xACC804315CC00008, .amoqOr (.d 4) (.d 6) (.d 5) .d .di .ar 8),
  (0xACCC04315CC00008, .amoqXor (.d 4) (.d 6) (.d 5) .d .di .ar 8),
  (0xACD004315CC00008, .amoqMin (.d 4) (.d 6) (.d 5) .d .di .ar 8),
  (0xACD404315CC00008, .amoqMax (.d 4) (.d 6) (.d 5) .d .di .ar 8),
  (0xACD804315CC00008, .amoqMinu (.d 4) (.d 6) (.d 5) .d .di .ar 8),
  (0xACDC04315CC00008, .amoqMaxu (.d 4) (.d 6) (.d 5) .d .di .ar 8),
  (0xACE004315CC00008, .amoqSwap (.d 4) (.d 6) (.d 5) .d .di .ar 8),
  (0xAC40014080000001, .xlate (.d 1) (.i 0) (.d 2) true),
  (0xAC841F0240000000, .occl .null (.d 0) (.i 1)),
  (0xAC80034240000000, .vbmin (.d 3) (.i 0) (.i 1)),
  (0xAD00002800000100, .tsLd (.d 0) (.d 5) 0x100),
  (0xAD041F2A00000008, .tsSt (.d 5) (.i 0) 8),
  (0xAD081F4240000001, .tsBlend (.i 0) (.i 1) .srcOver),
  (0xAD0C1F4080000000, .tsDone (.i 0) (.d 2))] = true := by decide +kernel

/-- The words of the engine commands family, from the field layouts of 02 R36 to R46 and each instruction's own table. -/
theorem test_decode_engine_commands : reads .element [
  (0xB0001F08875C0005, .cpy (.d 1) (.d 2) (.d 3) { ord := .rel, sc := .pk, sh := true, ev := true, ct := false, cf := 0, tag := 5 }),
  (0xB0041F088643BFFF, .gath (.d 1) (.d 2) (.d 3) { ord := .rlx, sc := .di, sh := false, ev := false, ct := true, cf := 6, tag := 16383 }),
  (0xB0081F088610C001, .scat (.d 1) (.d 2) (.d 3) { ord := .rlx, sc := .co, sh := false, ev := false, ct := false, cf := 3, tag := 1 }),
  (0xB00C1F0886100002, .fillb (.d 1) (.d 2) (.d 3) { ord := .rlx, sc := .co, sh := false, ev := false, ct := false, cf := 0, tag := 2 }),
  (0xB0401F0887D08003, .coll (.d 1) (.d 2) (.d 3) { ord := .ar, sc := .pk, sh := false, ev := false, ct := false, cf := 2, tag := 3 }),
  (0xB0C01F0886918004, .xfm (.d 1) (.d 2) (.d 3) { ord := .acq, sc := .co, sh := false, ev := false, ct := false, cf := 6, tag := 4 }),
  (0xB0801F0001460009, .pub { w := 2, sc := .di, ev := true, ct := true, tag := 9 }),
  (0xB0801F0887908000, .pubDef (.d 1) (.d 2) (.d 3) { w := 3, sc := .co, ev := false, ct := false, tag := 0 }),
  (0xB0801F0000910000, .pubDrop { w := 1, sc := .co, ev := false, ct := false, tag := 0 })] = true := by decide +kernel

/-- The halfwords of the policy bytecode (10 R234, R236). -/
theorem test_decode_policies : readsPolicy [
  (0x0980, .imm 1 0x80),
  (0x1107, .kld 1 7),
  (0x190D, .env 1 13),
  (0x214F, .cand 1 2 15),
  (0x2904, .subj 1 4),
  (0x3140, .copy 1 2),
  (0x3905, .addiv 1 5),
  (0x4140, .addv 1 2),
  (0x4141, .subv 1 2),
  (0x4142, .andv 1 2),
  (0x4143, .orv 1 2),
  (0x4144, .minv 1 2),
  (0x4145, .maxv 1 2),
  (0x4146, .shlv 1 2),
  (0x4147, .shrv 1 2),
  (0x4800, .mall),
  (0x5046, .mkeepEq 2 6),
  (0x5246, .mkeepNe 2 6),
  (0x5446, .mkeepLt 2 6),
  (0x5646, .mkeepGe 2 6),
  (0x5B00, .mcnt 3),
  (0x6309, .scanMin 3 9),
  (0x6329, .scanMax 3 9),
  (0x815F, .jeq 1 2 31),
  (0x895F, .jne 1 2 31),
  (0x915F, .jlt 1 2 31),
  (0x995F, .jge 1 2 31),
  (0xA0FE, .jfw 0xFE),
  (0xC0A0, .pick 5),
  (0xC100, .idle),
  (0xC2A0, .preempt 5),
  (0xC300, .keep),
  (0xC400, .restart),
  (0xC500, .kill),
  (0xC600, .host),
  (0xC7A0, .migrate 5)] = true := by decide +kernel
/-- An ill-formed term for each check of WellFormed, which the check refuses; the lists follow the checks' order. -/
theorem test_ill_formed_sequencer : ([
  .bfx 1 2 0 0, .bfxu 1 2 0 65, .bfi 1 2 60 5, .addi 1 2 .w2 0, .cmpiEq 1 2 .h4 0, .cmpiNe 1 2 .b8 0, .cmpiLt 1 2 .w2 0, .cmpiGe 1 2 .w2 0, .cmpiLtu 1 2 .w2 0, .cmpiGeu 1 2 .w2 0,
  .andi 1 2 .h4 0x10000, .ori 1 2 .b8 0x100, .xori 1 2 .b8 0xFFFF, .movi 1 .h4 0x80000000, .loop 0 4,
  .ld 1 2 3 .d .co .rel 0, .st 1 2 3 .d .co .acq 0, .st 1 2 3 .bu .co .rlx 0, .stLoc 1 2 3 .hu 0,
  .amoAdd 1 2 3 .b .co .rlx 0, .amoAnd 1 2 3 .h .co .rlx 0, .amoOr 1 2 3 .wu .co .rlx 0, .amoXor 1 2 3 .b .co .rlx 0, .amoMin 1 2 3 .b .co .rlx 0, .amoMax 1 2 3 .b .co .rlx 0,
  .amoMinu 1 2 3 .b .co .rlx 0, .amoMaxu 1 2 3 .b .co .rlx 0, .amoSwap 1 2 3 .b .co .rlx 0,
  .amoLocAdd 1 2 3 .b 0, .amoLocAnd 1 2 3 .b 0, .amoLocOr 1 2 3 .b 0, .amoLocXor 1 2 3 .b 0, .amoLocMin 1 2 3 .b 0, .amoLocMax 1 2 3 .b 0, .amoLocMinu 1 2 3 .b 0, .amoLocMaxu 1 2 3 .b 0,
  .amoLocSwap 1 2 3 .b 0, .cas 1 2 3 .h .co .rlx 0, .casLoc 1 2 3 .bu 0,
  .spill 5 4 1 .co .rlx 0, .fill 5 4 1 .co .rlx 0, .fill 4 8 5 .co .rlx 0, .fence .di .rlx, .crr 1 0x006, .crw 0x100 1, .evpop 3 3, .evwait 3 3,
  .permitK 1 0, .qrsv 1 2 0, .qrsv 1 2 17, .mxWait 17, .mxDrain 1 2 .rtz false false 0 .i8, .mxDrain 1 2 .sr false false 0 .raw, .mxEdge 1 2 0 0 1 0] : List Instr).all (fun i => !(instrWf i)) = true := by decide +kernel

/-- The same for the checks of element actions, engine commands and policies. -/
theorem test_ill_formed_elements : ([
  .vadd .null .zero .zero .f16, .vsub .null .zero .zero .e2m1, .vadds .null .zero .zero .f32, .vsubs .null .zero .zero .f64, .vmul .null .zero .zero .bf16, .vmulh .null .zero .zero .f16,
  .vmad .null .zero .zero .zero .f16, .vmin .null .zero .zero .f16, .vmax .null .zero .zero .f16, .vshl .null .zero .zero .f16, .vshr .null .zero .zero .f16, .vsra .null .zero .zero .f16,
  .vpopc .null .zero .f16, .vclz .null .zero .f16, .vabs .null .zero .u8, .vneg .null .zero .u64,
  .vcmpEq .null .zero .zero .f16 0, .vcmpNe .null .zero .zero .f16 0, .vcmpLt .null .zero .zero .f16 0, .vcmpLe .null .zero .zero .f16 0, .vcmpGt .null .zero .zero .f16 0, .vcmpGe .null .zero .zero .f16 0,
  .vpack .null .zero .zero .i8, .vunpk .null .zero .i64,
  .fadd .null .zero .zero .i8 .rne, .fsub .null .zero .zero .e4m3 .rne, .fmul .null .zero .zero .u64 .rne, .ffma .null .zero .zero .zero .e5m2 .rne, .fmin .null .zero .zero .i8, .fmax .null .zero .zero .i8,
  .fabs .null .zero .i8, .fneg .null .zero .i8, .fclass .null .zero .e2m1, .fdiv .null .zero .zero .i8 .rne, .fsqrt .null .zero .i8 .rne, .frcp .null .zero .i8 .rne,
  .frsq .null .zero .f64 .rne, .fexp2 .null .zero .f64 .rne, .flog2 .null .zero .f64 .rne,
  .fcmpEq .null .zero .zero .i8 0, .fcmpNe .null .zero .zero .i8 0, .fcmpLt .null .zero .zero .i8 0, .fcmpLe .null .zero .zero .i8 0, .fcmpGt .null .zero .zero .i8 0, .fcmpGe .null .zero .zero .i8 0,
  .fcmpUn .null .zero .zero .i8 0, .cvt .null .zero .f16 .e4m3 5 .rne, .cvt .null .zero .e4m3 .f16 5 .rne, .dot .null .zero .zero .zero .f32 .rne, .dot .null .zero .zero .zero .i8 .rtz,
  .const .null .b8 0x100, .redMin .zero .e4m3 0 0, .redMax .zero .e5m2 0 0, .redSum .zero .e2m1 0 0, .rsv .null .zero 0, .rsv .null .zero 17, .amplify .null .zero 0, .amplify .null .zero 257,
  .ldq .null .zero .zero .d .co .rel 0, .stq .zero .zero .zero .d .co .acq 0, .stq .zero .zero .zero .bu .co .rlx 0,
  .amoqAdd .null .zero .zero .b .co .rlx 0, .amoqAnd .null .zero .zero .b .co .rlx 0, .amoqOr .null .zero .zero .b .co .rlx 0, .amoqXor .null .zero .zero .b .co .rlx 0, .amoqMin .null .zero .zero .b .co .rlx 0,
  .amoqMax .null .zero .zero .b .co .rlx 0, .amoqMinu .null .zero .zero .b .co .rlx 0, .amoqMaxu .null .zero .zero .b .co .rlx 0, .amoqSwap .null .zero .zero .b .co .rlx 0,
  .cpy .zero .zero .zero { ord := .rlx, sc := .co, sh := false, ev := false, ct := false, cf := 1, tag := 0 }, .fillb .zero .zero .zero { ord := .rlx, sc := .co, sh := false, ev := false, ct := false, cf := 4, tag := 0 },
  .coll .zero .zero .zero { ord := .rlx, sc := .co, sh := false, ev := false, ct := false, cf := 5, tag := 0 }, .xfm .zero .zero .zero { ord := .rlx, sc := .co, sh := false, ev := false, ct := false, cf := 5, tag := 0 },
  .xfm .zero .zero .zero { ord := .rlx, sc := .co, sh := false, ev := false, ct := false, cf := 7, tag := 0 }, .pubDef .zero .zero .zero { w := 0, sc := .co, ev := false, ct := true, tag := 0 }, .pubDrop { w := 0, sc := .co, ev := false, ct := true, tag := 0 },
  .env 0 14, .cand 0 0 16, .subj 0 16, .mkeepEq 0 16, .mkeepNe 0 16, .mkeepLt 0 16, .mkeepGe 0 16, .scanMin 0 16, .scanMax 0 16] : List Instr).all (fun i => !(instrWf i)) = true := by decide +kernel

/-- Reserved encodings are refused by their cause (02 R34 to R49): an unused OP, an element action on a sequencer, a reserved bit, SZ = 7, CC = 6, and a guard on an element action. -/
theorem test_refused_words : ([
  (.core, 0x8000000000000000, .illegalOpcode), (.core, 0x9800000000000000, .wrongExecutor), (.element, 0x8040000000000000, .wrongExecutor), (.core, 0x8040000000000001, .reservedField),
  (.core, 0x8800000038000000, .reservedField), (.core, 0x8600000600000000, .reservedField), (.element, 0x9802000000000000, .reservedField), (.core, 0xB400000000000000, .wrongExecutor),
  (.display, 0x9040000000000000, .wrongExecutor), (.core, 0x9480000100000006, .reservedField)] : List (Executor × Code × Cause)).all (fun x => decide (decode x.1 x.2.1 = .bad x.2.2)) = true := by decide +kernel


/-- The state of a next outcome has a property. -/
def after (o : Out) (p : State → Bool) : Bool :=
  match o with
  | .next t => p t
  | _ => false

/-- An instruction answers the next state given. -/
def gives (o : Out) (t : State) : Bool := after o fun u => decide (u = t)

/-- A search finds an instruction to issue. -/
def finds (r : Option (Nat × Peeked)) (n : Nat) (g : Guard) (i : Instr) (psz : Fin 4) (v : Word) : Bool :=
  match r with
  | some (m, .run h j p u) => decide (m = n ∧ h = g ∧ j = i ∧ p = psz ∧ u = v)
  | _ => false

/-- A search that finds an instruction answers it. -/
theorem found {r : Option (Nat × Peeked)} {n : Nat} {g : Guard} {i : Instr} {psz : Fin 4} {v : Word} (h : finds r n g i psz v = true) :
    r = some (n, .run g i psz v) := by
  unfold finds at h
  split at h
  · simp only [decide_eq_true_eq] at h; obtain ⟨rfl, rfl, rfl, rfl, rfl⟩ := h; rfl
  · cases h

/-- An access answers a value. -/
def okWith {α : Type} [DecidableEq α] (r : Mr α) (v : α) : Bool :=
  match r with
  | .ok x _ => decide (x = v)
  | _ => false

/-- The state an access ends in. -/
def endOf {α : Type} (r : Mr α) : State :=
  match r with
  | .ok _ s | .fault _ _ s | .wait s => s

/-- An access that answers v is that answer with the state it ends in. -/
theorem ok_of {α : Type} [DecidableEq α] {r : Mr α} {v : α} (h : okWith r v = true) : r = .ok v (endOf r) := by
  unfold okWith at h
  cases r <;> simp_all [endOf]

/-- An access succeeds. -/
def isOk {α : Type} : Mr α → Bool
  | .ok _ _ => true
  | _ => false

/-- An access that succeeds answers a value with the state it ends in. -/
theorem of_isOk {α : Type} {r : Mr α} (h : isOk r = true) : ∃ v u, r = .ok v u := by
  cases r <;> first | exact ⟨_, _, rfl⟩ | cases h

/-- Context 0 of core 0 runs a parcel at 0x1000; page 0 is mapped for every access, by users too, to physical page 0; predicate 5 is 1. -/
def seqState : State :=
  let s := State.reset.modCore 0 fun c => { c with xlats := [{ vpn := 0, pages := 1, leaf := placeLeaf }], part := 1, local_ := [(0, 0x11), (1, 0x82), (7, 0x7F)] }
  let s := s.modCtx 0 0 fun c => { c with
    run := .run, pc := 0x1000, p := 0x21
    x := [(1, 8), (2, 0xFFFFFFFFFFFFFFF9), (3, 2), (4, 1), (6, 0x8000000000000000), (7, 0xFFFFFFFFFFFFFFFF), (8, 0x40), (9, 0x3FF8), (10, 0x4000), (11, 0x80000000000000), (12, 0x123456789ABCDEF0)] }
  { s with mem := s.mem.set 0x40 [0xF0, 0xDE, 0xBC, 0x9A, 0x78, 0x56, 0x34, 0x92], actor := { core := 0, ctx := 0, pc := 0x1000, psz := 2 } }

/-- Reset with one word placed: core 0 issues, and its step divides (04 R70). -/
noncomputable def placed (w : Nat) : State := State.reset.withFetchWord 64 w

theorem witness_StepRunsDecodedInstruction :
    ∃ t, (placed 0x8054032140000000).agenda = .issue 0 :: [] ∧ (placed 0x8054032140000000).iod.thermal = false ∧
      firstIssue 0 (searchOrder ((placed 0x8054032140000000).core 0).last)
        ((List.range 4).foldl (fun s n => settle s 0 n) { placed 0x8054032140000000 with agenda := [] }) = (some (0, .run none (.div 3 4 5) 2 0x8054032140000000), t) :=
  ⟨(firstIssue 0 (searchOrder ((placed 0x8054032140000000).core 0).last) ((List.range 4).foldl (fun s n => settle s 0 n) { placed 0x8054032140000000 with agenda := [] })).2,
    by decide +kernel, by decide +kernel, Prod.ext (found (by decide +kernel)) rfl⟩

/-- A guard that does not hold: (!p0) ADD (02 R35). -/
theorem witness_StepRunsDecodedInstruction_guarded :
    ∃ t, (placed 0x8043010840000000).agenda = .issue 0 :: [] ∧
      firstIssue 0 (searchOrder ((placed 0x8043010840000000).core 0).last)
        ((List.range 4).foldl (fun s n => settle s 0 n) { placed 0x8043010840000000 with agenda := [] }) = (some (0, .run (some (true, 0)) (.add 1 1 1) 2 0x8043010840000000), t) ∧
      guardHolds (t.ctx 0 0) (some (true, 0)) = false :=
  ⟨(firstIssue 0 (searchOrder ((placed 0x8043010840000000).core 0).last) ((List.range 4).foldl (fun s n => settle s 0 n) { placed 0x8043010840000000 with agenda := [] })).2,
    by decide +kernel, Prod.ext (found (by decide +kernel)) rfl, by decide +kernel⟩

theorem witness_StepRunsDecodedInstruction_retires : ¬ Claims.refusedByMode true (.add 1 1 1) := by simp [Claims.refusedByMode]

/-- The same guard on ERET in user mode, which its mode refuses (01 R28). -/
theorem witness_StepRunsDecodedInstruction_refused :
    let s := (placed 0x9447000000000000).modCtx 0 0 fun c => { c with priv := false }
    Claims.refusedByMode false .eret ∧ after (step s) (fun t => decide ((t.ctx 0 0).tr.cause = 0x22 ∧ (t.ctx 0 0).tr.tval = 0x9447000000000000)) = true :=
  ⟨by simp [Claims.refusedByMode], by decide +kernel⟩

/-- The four halfwords of the word in memory are fetched (01 R13; 02 R32). -/
theorem witness_FetchDecodesCanonicalWord :
    let s := placed 0x8054032140000000
    let c := s.ctx 0 0
    let s1 := endOf (fetchHalf s 0 c c.pc)
    let s2 := endOf (fetchHalf s1 0 c (pcOf (c.pc + 2)))
    let s3 := endOf (fetchHalf s2 0 c (pcOf (pcOf (c.pc + 2) + 2)))
    0x8054 / 2 ^ 14 = 2 ∧ fetchHalf s 0 c c.pc = .ok 0x8054 s1 ∧ fetchHalf s1 0 c (pcOf (c.pc + 2)) = .ok 0x0321 s2 ∧
      fetchHalf s2 0 c (pcOf (pcOf (c.pc + 2) + 2)) = .ok 0x4000 s3 ∧
      ∃ s4, fetchHalf s3 0 c (pcOf (pcOf (pcOf (c.pc + 2) + 2) + 2)) = .ok 0 s4 :=
  ⟨by decide, ok_of (by decide +kernel), ok_of (by decide +kernel), ok_of (by decide +kernel), _, ok_of (by decide +kernel)⟩

theorem witness_StepRunsRulesPoliciesAndEvents :
    (let s := State.reset.withFetchWord 64 0xA000002000000000
     s.agenda = .fire 0 0 :: [] ∧ s.iod.thermal = false ∧ selectFiring { s with agenda := [] } 0 0 = some (0, 0)) ∧
    (let s := State.reset.withFetchWord 16 0x0980
     s.agenda = .policy 0 0 0 :: [] ∧ (s.decision 0 0 0).isSome = true ∧
       (s.decision 0 0 0).all (fun x => x.running && (x.prog.elim false fun p => decide (p.code[x.ix]? = some 0x0980))) = true ∧ decodePolicy 0x0980 = some (.imm 1 0x80)) ∧
    isEvent .boot = true := by decide +kernel

theorem witness_WordRoundTrip :
    instrWf (.fill 8 31 6 .pk .acq 0x100) = true ∧ encode (some (true, 3)) (.fill 8 31 6 .pk .acq 0x100) = some 0x89476837DD400100 ∧
      runs .display ((0x89476837DD400100 : Code).extractLsb' 54 8).toNat = true ∧ guardOf .display 0x89476837DD400100 = some (some (true, 3)) ∧
      instrWf (.cvt .null .tag0 .f16 .e4m3 4 .dyn) = true ∧ encode none (.cvt .null .tag0 .f16 .e4m3 4 .dyn) = some 0x9AC01F9B09180000 ∧
      runs .element ((0x9AC01F9B09180000 : Code).extractLsb' 54 8).toNat = true ∧ guardOf .element 0x9AC01F9B09180000 = some none := by decide +kernel

theorem witness_PolicyRoundTrip : instrWf (.scanMax 3 15) = true ∧ encodePolicy (.scanMax 3 15) = some 0x632F := by decide +kernel

/-- A step from a state in canonical form that lists a byte, and one that takes it away. -/
theorem witness_MemoryCanonicalKept : (placed 0x8054032140000000).mem.wf = true ∧ after (step (placed 0x8054032140000000)) (fun t => t.mem.wf) = true := by decide +kernel

/-- ADD wraps; the example of R70 (-7 and 2); BFI at the top of the register. -/
theorem witness_IntegerResults :
    instrWf (.add 5 2 1) = true ∧ integerResult seqState (.add 5 2 1) = some (5, 1) ∧ gives (exec (.add 5 2 1) seqState) (wrote seqState 5 1) = true ∧
    instrWf (.bfi 12 7 56 8) = true ∧ integerResult seqState (.bfi 12 7 56 8) = some (12, 0xFF3456789ABCDEF0) ∧ gives (exec (.bfi 12 7 56 8) seqState) (wrote seqState 12 0xFF3456789ABCDEF0) = true ∧
    integerResult seqState (.sra 5 6 7) = some (5, 0xFFFFFFFFFFFFFFFF) ∧ gives (exec (.sra 5 6 7) seqState) (wrote seqState 5 0xFFFFFFFFFFFFFFFF) = true ∧
    gives (exec (.add 0 2 1) seqState) (retired seqState) = true := by decide +kernel

theorem witness_DivisionResults :
    divisionResult seqState (.div 5 2 3) = some (5, 0xFFFFFFFFFFFFFFFD) ∧ gives (exec (.div 5 2 3) seqState) (wrote seqState 5 0xFFFFFFFFFFFFFFFD) = true ∧
    divisionResult seqState (.rem 5 2 3) = some (5, 0xFFFFFFFFFFFFFFFF) ∧ divisionResult seqState (.div 5 2 0) = some (5, 0xFFFFFFFFFFFFFFFF) ∧
    gives (exec (.div 5 2 0) seqState) (wrote seqState 5 0xFFFFFFFFFFFFFFFF) = true ∧ divisionResult seqState (.div 5 6 7) = some (5, 0x8000000000000000) ∧
    gives (exec (.div 5 6 7) seqState) (wrote seqState 5 0x8000000000000000) = true ∧ gives (exec (.rem 5 6 7) seqState) (wrote seqState 5 0) = true ∧
    gives (exec (.remu 5 2 3) seqState) (wrote seqState 5 1) = true ∧ gives (exec (.divu 5 2 3) seqState) (wrote seqState 5 0x7FFFFFFFFFFFFFFC) = true := by decide +kernel

theorem test_bit_counts :
    after (exec (.clz 5 0) seqState) (fun t => decide (t.reg 5 = 64)) = true ∧ after (exec (.ctz 5 6) seqState) (fun t => decide (t.reg 5 = 63)) = true ∧
    after (exec (.popc 5 2) seqState) (fun t => decide (t.reg 5 = 62)) = true ∧ after (exec (.brev 5 4) seqState) (fun t => decide (t.reg 5 = 0x8000000000000000)) = true := by decide +kernel

theorem witness_CompareAndPredicateResults :
    compareOf seqState (.cmpLt 2 2 1 2) = some (.lt, 0xFFFFFFFFFFFFFFF9, 8, 2, some 2) ∧ after (exec (.cmpLt 2 2 1 2) seqState) (fun t => !(t.pred 2)) = true ∧
    compareOf seqState (.cmpiGeu 3 2 .s 0xFFFFFFF9) = some (.geu, 0xFFFFFFFFFFFFFFF9, 0xFFFFFFFFFFFFFFF9, 3, none) ∧ after (exec (.cmpiGeu 3 2 .s 0xFFFFFFF9) seqState) (fun t => t.pred 3) = true ∧
    predicateResult seqState (.pxor 5 5 5) = some (5, false) ∧ gives (exec (.pxor 5 5 5) seqState) (retired (seqState.setPred 5 false)) = true :=
  ⟨by rfl, by decide +kernel, by rfl, by decide +kernel, by decide +kernel, by decide +kernel⟩

theorem witness_ControlFlow :
    Claims.cond .ltu (seqState.reg 1) (seqState.reg 2) ∧ ¬ Claims.cond .lt (seqState.reg 1) (seqState.reg 2) ∧ seqState.reg 1 ≠ 1 ∧ seqState.reg 4 = 1 ∧
    gives (exec (.br .ltu 1 2 0xFFFFFFFE) seqState) (moved seqState 0xFFC) = true ∧ gives (exec (.br .lt 1 2 8) seqState) (moved seqState 0x1008) = true ∧
    gives (exec (.jal 2 0xFFFFFFFC) seqState) (moved (seqState.setReg 2 0x1008) 0xFF8) = true ∧ gives (exec (.jalr 1 1 1) seqState) (moved (seqState.setReg 1 0x1008) 8) = true ∧
    gives (exec (.loop 4 8) seqState) (moved (seqState.setReg 4 0) 0x1008) = true ∧ gives (exec (.loop 1 8) seqState) (moved (seqState.setReg 1 7) 0x1010) = true := by
  unfold Claims.cond
  decide +kernel

theorem witness_RegisterFormFrame :
    registerForm seqState (.ldLoc 5 0 0 .d 0) = some (some 5, []) ∧ (eaIndexed (seqState.reg 0) (seqState.reg 0) 0).toNat = 0 ∧ (seqState.core 0).bad = [] ∧
    after (exec (.ldLoc 5 0 0 .d 0) seqState) (fun t => decide (t.reg 5 = 0x7F00000000008211)) = true ∧ registerForm seqState (.cmpEq 2 1 1 3) = some (none, [2, 3]) ∧
    after (exec (.cmpEq 2 1 1 3) seqState) (fun _ => true) = true := by decide +kernel

/-- The last doubleword of local memory is served, and the one after it is not (01 R14). -/
theorem witness_LocalAccesses :
    (indexed seqState 9 0 0).toNat % 8 = 0 ∧ (indexed seqState 9 0 0).toNat < 0x4000 ∧ (seqState.core 0).bad = [] ∧
    gives (exec (.ldLoc 5 0 0 .h 0) seqState) (wrote seqState 5 0xFFFFFFFFFFFF8211) = true ∧
    after (exec (.stLoc 12 9 0 .d 0) seqState) (fun t => decide (localByte t 0 0x3FF8 = 0xF0) && decide (localByte t 0 0x3FFF = 0x12) && decide (localByte t 0 0 = 0x11)) = true ∧
    amoLocFields (.amoLocAdd 5 0 7 .w 0) = some (5, 0, 7, .w, 0) ∧ atomicResult (.amoLocAdd 5 0 7 .w 0) 4 0x8211 0xFFFFFFFF = some 0x8210 ∧
    gives (exec (.amoLocAdd 5 0 7 .w 0) seqState) (wrote (localStored seqState 0 4 0x8210) 5 0x8211) = true ∧
    gives (exec (.casLoc 0 0 7 .w 4) seqState) (wrote seqState 0 0x7F000000) = true ∧
    gives (exec (.casLoc 0 8 7 .d 0) seqState) (wrote (localStored seqState 0x40 8 0xFFFFFFFFFFFFFFFF) 0 0) = true := by decide +kernel

/-- Page 0 of the cache maps address 0x40 to itself; 0xFFF8 is its last doubleword. -/
theorem mapped_low (a : Acc) (va : Nat) (h : va = 0x40 ∨ va = 0xFFF8) : mappedAt seqState 0 va 8 a true va := by
  unfold mappedAt
  rcases h with rfl | rfl <;> cases a <;>
    exact ⟨by decide, ⟨{ vpn := 0, pages := 1, leaf := placeLeaf }, by decide +kernel, by decide +kernel, by decide +kernel⟩, by decide +kernel, by decide +kernel⟩

theorem witness_UnifiedLoadAndStore :
    (indexed seqState 8 0 0).toNat = 0x40 ∧ rangeReserved 0x40 8 = false ∧ mappedAt seqState 0 0x40 8 .read true 0x40 ∧ mappedAt seqState 0 0x40 8 .write true 0x40 ∧
    mappedAt seqState 0 0xFFF8 8 .write true 0xFFF8 ∧
    after (exec (.ld 5 8 0 .w .di .acq 4) seqState) (fun t => decide (t.reg 5 = 0xFFFFFFFF92345678)) = true ∧
    after (exec (.st 12 8 0 .h .di .rel 0) seqState) (fun t => decide (t.mem.val 0x40 4 = 0x9ABCDEF0)) = true := by
  refine ⟨by decide +kernel, by decide +kernel, mapped_low _ _ (.inl rfl), mapped_low _ _ (.inl rfl), mapped_low _ _ (.inr rfl), by decide +kernel, by decide +kernel⟩

/-- The state with a cached leaf that permits nothing, and with an uncorrectable byte at 3 of local memory. -/
def brokenState : State := seqState.modCore 0 fun c => { c with xlats := [{ vpn := 0, pages := 1, leaf := 0x303 }], bad := [(3, true)] }

theorem witness_AccessTraps :
    (indexed seqState 4 0 0).toNat % 2 ≠ 0 ∧ gives (exec (.ldLoc 5 4 0 .h 0) seqState) (trapped seqState 0x24 1) = true ∧
    (indexed seqState 10 0 0).toNat = 0x4000 ∧ gives (exec (.stLoc 5 10 0 .d 0) seqState) (trapped seqState 0x23 0x4000) = true ∧
    Tab.look false (brokenState.core 0).bad 3 = true ∧ gives (exec (.ldLoc 5 0 0 .w 0) brokenState) (trapped brokenState 0x2F 0) = true ∧
    gives (exec (.ld 5 4 0 .d .co .rlx 0) seqState) (trapped seqState 0x24 1) = true ∧ (indexed seqState 11 0 0).toNat = 2 ^ 55 ∧
    gives (exec (.ld 5 11 0 .d .co .rlx 0) seqState) (trapped seqState 0x20 0x80000000000000) = true ∧ gives (exec (.amoAdd 5 11 0 .d .co .rlx 0) seqState) (trapped seqState 0x21 0x80000000000000) = true ∧
    (xlatHit (brokenState.core 0) 0x40 .write).all (fun y => !(permits y.leaf.toNat .write brokenState.user)) = true ∧ (xlatHit (brokenState.core 0) 0x40 .write).isSome = true ∧
    gives (exec (.st 5 8 0 .d .co .rlx 0) brokenState) (trapped brokenState 0x22 0x40) = true ∧
    amoLocFields (.amoLocAdd 5 0 7 .w 0) = some (5, 0, 7, .w, 0) ∧ gives (exec (.amoLocAdd 5 0 7 .w 0) brokenState) (trapped brokenState 0x2F 0) = true ∧
    gives (exec (.stLoc 5 0 0 .w 0) brokenState) (trapped brokenState 0x2F 0) = true ∧
    gives (exec (.casLoc 5 10 7 .d 0) seqState) (trapped seqState 0x23 0x4000) = true ∧ gives (exec (.casLoc 5 4 7 .d 0) seqState) (trapped seqState 0x24 1) = true ∧
    (let s := { seqState with mem := { seqState.mem with bad := [(0x41, true)] } }
     (xlatHit (s.core 0) 0x40 .read).any (fun y => permits y.leaf.toNat .read s.user && decide (leafLoc y.leaf.toNat y.vpn 0x40 = .plain 0x40)) = true ∧
     reaching s (accessDie 0) 0x40 = .clear ∧ physBad s 0x40 8 = true ∧ after (exec (.ld 5 8 0 .d .co .rlx 0) s) (fun t => decide (t.me.tr.cause = 0x2F ∧ t.me.tr.tval = 0x40)) = true) ∧
    (let s := seqState.modCore 0 fun c => { c with xlats := [] }
     xlatHit (s.core 0) 0x40 .write = none ∧ (s.part 1).duties = [] ∧ (s.part 1).dutyctl.getLsbD 0 = false ∧ (s.die (walkDie 0)).walkq = [] ∧ (s.die (walkDie 0)).walks = [] ∧
     (s.die (walkDie 0)).wcache = [] ∧ (walksOf s (walkDie 0)).length < walkCap ∧ pageWalked s (walkDie 0) 1 0x40 = false ∧ (s.part 1).troot.getLsbD 0 = false ∧
     after (exec (.st 5 8 0 .d .co .rlx 0) s) (fun t => decide (t.me.tr.cause = 0x21 ∧ t.me.tr.tval = 0x40)) = true) := by decide +kernel

theorem witness_UnifiedAtomics :
    mappedAt seqState 0 0x40 8 .amo true 0x40 ∧ (direct seqState 8 0).toNat = 0x40 ∧
    amoFields (.amoMin 5 8 1 .d .di .ar 0) = some (5, 8, 1, .d, 0) ∧ atomicResult (.amoMin 5 8 1 .d .di .ar 0) 8 0x923456789ABCDEF0 8 = some 0x923456789ABCDEF0 ∧
    after (exec (.amoMin 5 8 1 .d .di .ar 0) seqState) (fun t => decide (t.reg 5 = 0x923456789ABCDEF0) && decide (t.mem.val 0x40 8 = 0x923456789ABCDEF0)) = true ∧
    after (exec (.amoMaxu 5 8 7 .w .di .ar 0) seqState) (fun t => decide (t.reg 5 = 0xFFFFFFFF9ABCDEF0) && decide (t.mem.val 0x40 8 = 0x92345678FFFFFFFF)) = true ∧
    after (exec (.cas 5 8 7 .d .di .ar 8) seqState) (fun t => decide (t.reg 5 = 0) && decide (t.mem.val 0x48 8 = 0xFFFFFFFFFFFFFFFF)) = true :=
  ⟨mapped_low _ _ (.inl rfl), by decide +kernel, by decide +kernel, by decide +kernel, by decide +kernel, by decide +kernel, by decide +kernel⟩


/-- An access faults with a cause and a TVAL. -/
def faultWith {α : Type} (r : Mr α) (c v : Nat) : Bool :=
  match r with
  | .fault x y _ => decide (x = c ∧ y = v)
  | _ => false

/-- An access that faults is that answer with the state it ends in. -/
theorem fault_of {α : Type} {r : Mr α} {c v : Nat} (h : faultWith r c v = true) : r = .fault c v (endOf r) := by
  unfold faultWith at h
  cases r <;> simp_all [endOf]

/-- An option that holds something holds it. -/
theorem some_of {α : Type} {o : Option α} (h : o.isSome = true) : ∃ x, o = some x := Option.isSome_iff_exists.1 h

/-- SPILL of x1 and x2 whose second slot lies in a page that is not mapped, and one within page 0; a misaligned one. -/
theorem witness_SpillAndFill :
    let s := seqState.setReg 13 0xFFF8
    (direct s 13 0).toNat = 0xFFF8 ∧ s.me.resume = none ∧ slotValue s 0 = 0x21 ∧ slotValue s 1 = 8 ∧ rangeReserved 0x40 8 = false ∧ mappedAt seqState 0 0x40 8 .write true 0x40 ∧ mappedAt seqState 0 0x40 8 .read true 0x40 ∧
    (∃ t, unitsServed 0xFFF8 1 spillUnit 1 0 s = some t) ∧
    (∃ t t', unitsServed 0xFFF8 1 spillUnit (1 - 0) 0 s = some t ∧ spillUnit t 2 0x10000 = .fault 0x21 0x10000 t') ∧
    after (exec (.spill 1 2 13 .co .rlx 0) s) (fun t => decide (t.me.tr.cause = 0x21) && decide (t.me.tr.tstat = 0xC901) && decide (t.mem.val 0xFFF8 8 = 8)) = true ∧
    (∃ t, unitsServed 0x40 0 fillUnit 2 0 s = some t) ∧
    after (exec (.fill 0 1 8 .co .rlx 0) s) (fun t => decide (t.me.p = 0xF1) && decide (t.reg 1 = 0)) = true ∧ (direct s 13 1).toNat % 8 ≠ 0 ∧
    after (exec (.fill 0 1 13 .co .rlx 1) s) (fun t => decide (t.me.tr.cause = 0x24) && decide (t.me.tr.tstat = 0x4901)) = true := by
  refine ⟨by decide +kernel, by decide +kernel, by decide +kernel, by decide +kernel, by decide +kernel, mapped_low _ _ (.inl rfl), mapped_low _ _ (.inl rfl), some_of (by decide +kernel), ?_, by decide +kernel, some_of (by decide +kernel), by decide +kernel, by decide +kernel, by decide +kernel⟩
  exact ⟨(unitsServed 0xFFF8 1 spillUnit (1 - 0) 0 (seqState.setReg 13 0xFFF8)).get (by decide +kernel), _, (Option.some_get _).symm, fault_of (by decide +kernel)⟩

/-- The context with a trap taken already: EPC 0x2003, PPRIV 0, RST 1 with 5 units. -/
def trapState : State := seqState.modCtx 0 0 fun c => { c with tr := { c.tr with epc := 0x2003, tstat := 0x2C801, tvec := 0x4000 } }
/-- The same context in user mode, without a trap. -/
def userState : State := seqState.modCtx 0 0 fun c => { c with priv := false }

theorem witness_TrapEntryAndReturn :
    (seqState.ctx 0 0).latch = none ∧ bit (seqState.ctx 0 0).tr.tstat 0 = false ∧ bit (trapState.ctx 0 0).tr.tstat 0 = true ∧ (trapState.ctx 0 0).latch = none ∧
    trapState.me.priv = true ∧ trapState.me.ext = none ∧ decide ((enterTrap seqState 0 0 { code := 2, val := 7, at_ := 0x1000, psz := 2 }).ctx 0 0 = afterTrap (seqState.ctx 0 0) 2 7 0x1000 2 false none) = true ∧
    decide (((enterTrap trapState 0 0 { code := 2 }).ctx 0 0).run = .off) = true ∧
    after (exec .eret trapState) (fun t => decide (t.me.pc = 0x2002) && !t.me.priv && decide (t.me.resume = some 5) && decide (t.me.tr.tstat = 0x28800)) = true ∧
    (let s := trapState.modPart 1 fun p => { p with fltring := { ring := 0x20014, head := 3 } }
     (s.part (s.partOf 0)).fltring.room = true ∧ reaching s 4 0x200C0 = .clear ∧ rangeReserved 0x200C0 64 = false ∧
     (let t := enterTrap s 0 0 { code := 2, val := 7, at_ := 0x1000 }
      t.mem.val 0x200C0 8 = 3 * 2 ^ 48 + 2 ^ 36 + 6 * 2 ^ 10 + 0x70 ∧ t.mem.val 0x200C8 8 = 7 ∧ t.mem.val 0x200E0 8 = 0x1000 ∧ t.mem.val 0x200F8 8 = 2)) := by decide +kernel

theorem witness_SystemTraps :
    gives (exec (.trap 7) seqState) (trapped seqState 0x02 7) = true ∧ (seqState.core 0).regs.dbgstop.testBit 0 = false ∧ gives (exec (.brk 0xFFFF) seqState) (trapped seqState 0x01 0xFFFF) = true ∧
    (let s := seqState.modCore 0 fun c => { c with regs := { c.regs with dbgstop := 1 } }
     (s.core s.actor.core).regs.dbgstop.testBit s.actor.ctx = true ∧ after (exec (.brk 1) s) (fun t => decide (t.me.run = .off ∧ t.me.pc = 0x1000)) = true) ∧
    userState.me.priv = false ∧ gives (exec .eret userState) (trapped userState 0x22 0) = true := by decide +kernel

theorem witness_ControlRegisterReads :
    named 0x016 ∧ ¬ supervisorOnly 0x016 ∧ supervisorOnly 0x005 ∧ supervisorOnly 0x001 ∧ userState.me.priv = false ∧ ¬ named 0x006 ∧ ¬ named 0x021 ∧
    gives (exec (.crr 5 0x000) seqState) (wrote seqState 5 1) = true ∧ gives (exec (.crr 5 0x011) seqState) (wrote seqState 5 0) = true ∧
    gives (exec (.crr 5 0x020) seqState) (wrote seqState 5 (controlValue seqState 0x20)) = true ∧
    gives (exec (.crr 5 0x005) userState) (trapped userState 0x22 0) = true ∧ gives (exec (.crr 5 0x006) userState) (trapped userState 0x05 0) = true :=
  ⟨by simp [named], by simp [supervisorOnly], by simp [supervisorOnly], by simp [supervisorOnly], by decide +kernel, by simp [named, readOnly, supervisorOnly],
    by simp [named, readOnly, supervisorOnly], by decide +kernel, by decide +kernel, by decide +kernel, by decide +kernel, by decide +kernel⟩

theorem witness_ControlRegisterWrites :
    seqState.me.ext = none ∧ seqState.me.priv = true ∧ (seqState.reg 3).toNat % 8 ≤ 5 ∧ 5 < (seqState.reg 7).toNat % 8 ∧ readOnly 0x000 ∧ readOnly 0x020 ∧ supervisorOnly 0x004 ∧ userState.me.priv = false ∧
    after (exec (.crw 0x004 7) seqState) (fun t => decide (t.me.tr.tstat = 0xFFFFFFFF00FFED01)) = true ∧ after (exec (.crw 0x009 0) seqState) (fun t => decide ((t.core 0).seed = 0x2545F4914F6CDD1D)) = true ∧
    gives (exec (.crw 0x008 7) seqState) (trapped seqState 0x05 0) = true ∧ gives (exec (.crw 0x020 7) seqState) (trapped seqState 0x22 0) = true ∧
    gives (exec (.crw 0x001 7) userState) (trapped userState 0x22 0) = true ∧ ¬ named 0x006 ∧ gives (exec (.crw 0x006 7) seqState) (trapped seqState 0x05 0) = true ∧
    after (exec (.crw 0x016 7) (seqState.modMe fun c => { c with pfloor := 0x100 })) (fun t => decide (t.me.pfloor = 1)) = true := by
  unfold named supervisorOnly readOnly
  decide +kernel

/-- The state with one event record waiting. -/
def eventState : State := seqState.modCore 0 fun c => { c with evq := [0x00000000000000050000000000000007#128] }

theorem witness_HaltAndEvents :
    pendingFault seqState = none ∧ after (exec .halt seqState) (fun t => decide (t.me.run = .off)) = true ∧ (eventState.core 0).evq = [0x00000000000000050000000000000007#128] ∧
    after (exec (.evpop 5 13) eventState) (fun t => decide (t.reg 5 = 7 ∧ t.reg 13 = 5)) = true ∧ after (exec (.evwait 0 0) eventState) (fun t => decide ((t.core 0).evq = [] ∧ t.me.pc = 0x1008)) = true ∧
    (seqState.core 0).evq = [] ∧ after (exec (.evwait 5 13) seqState) (fun t => decide (t.me.run = .wait)) = true := by decide +kernel

/-- Words of CYC from 04 R93, with and without another field set. -/
theorem test_cyc_words :
    [(1#5, 0#40), (31#5, 0#40)].all (fun p => decide (decode .core (0x9500#16 ++ 0#3 ++ p.1 ++ p.2) = .ok none (.cyc p.1.toFin) ∧ decode .display (0x9500#16 ++ 0#3 ++ p.1 ++ p.2) = .ok none (.cyc p.1.toFin))) = true ∧
    [(1#5, 1#40), (31#5, 0x1000000#40), (0#5, 0x2000000#40), (0#5, 0x8000000000#40)].all (fun p => decide (decode .core (0x9500#16 ++ 0#3 ++ p.1 ++ p.2) = .bad .reservedField ∧ decode .display (0x9500#16 ++ 0#3 ++ p.1 ++ p.2) = .bad .reservedField)) = true := by decide +kernel

/-- The context with a complete staged image, and with a marked commit of it; page 1 holds an image whose every entry has no valid bit. -/
def dictState : State :=
  seqState.modCtx 0 0 fun c => { c with dict := { c.dict with complete := true, gen := 0xFFFFFFFF, stagedId := 3, staged := [(200, { template := 0x8200000000000000, desc := 0x80C8D685 })] } }

theorem witness_DictionaryInstructions :
    dictState.me.dict.complete = true ∧ seqState.me.dict.complete = false ∧ gives (exec .dictCommit seqState) (trapped seqState 0x0B 0) = true ∧
    (let s := dictState.modMe fun c => { c with dict := { c.dict with pend := true } }
     s.me.dict.pend = true ∧ loadingFor s = false ∧ after (exec .fenceF s) (fun t => decide (t.me.dict.gen = 0 ∧ t.me.dict.activeId = 3) && !t.me.dict.pend) = true) ∧
    dictState.me.dict.pend = false ∧ after (exec (.dictRd 5 13 true true) (dictState.setReg 13 0x1C8)) (fun t => decide (t.reg 5 = 0x80C8D685)) = true ∧
    (direct seqState 4 0).toNat % 16 ≠ 0 ∧ (direct seqState 8 0).toNat % 16 = 0 ∧ seqState.me.resume = none := by decide +kernel

/-- DICT.LD of an image in page 0 whose 256 entries have no valid bit. -/
theorem witness_DictionaryLoad :
    let s := seqState.setReg 13 0x1000
    ∃ u, unitsServed 0 0 (fun s k _ => (vread s s.actor.core ((direct (seqState.setReg 13 0x1000) 13 0).toNat + 16 * k) 16 .read s.user).andThen fun bs s =>
          let s := passStores s s.actor.core
          if (entryOf bs).valid && !((entryOf bs).wellFormed (ofBytesLE (bs.drop 12))) then .fault 0x0B ((direct (seqState.setReg 13 0x1000) 13 0).toNat + 16 * k) s
          else .ok () (s.modMe fun c => { c with dict := { c.dict with staged := Tab.put {} c.dict.staged k (entryOf bs) } })) 256 0
        (s.modMe fun c => { c with dict := { c.dict with staged := [], pend := false, complete := false, stagedId := (s.reg 12).setWidth 32 } }) = some u := some_of (by decide +kernel)

/-- The example of 03 R57: entry 200 is reached by an S32 parcel; an entry for S32 alone; one with no holes. -/
theorem witness_ShortParcelExpansion :
    let bank : Tab DictEntry := [(3, { template := 0x8200000000000000, desc := 0x80000000 }), (4, { template := 0x8200000000000000, desc := 0xC0000000 }), (200, { template := 0x8200000000000000, desc := 0x80C8D685 })]
    (bank.find? (fun x => decide (x.1 = 3))).isSome = true ∧ 0x720E3064 < 2 ^ 32 ∧ 0x720E3064 / 2 ^ 22 % 256 = 200 ∧
    (match expandS32 bank 0x720E3064 with | .word v => decide (v = 0x8200071800000064) | .bad _ => false) = true ∧
    (List.range 64).all (fun i => (0x8200071800000064#64).getLsbD i == filledBit { template := 0x8200000000000000, desc := 0x80C8D685 } (0x720E3064 % 2 ^ 22) i) = true ∧
    (match expandS16 bank 0x0300 with | .word v => decide (v = 0x8200000000000000) | .bad _ => false) = true ∧
    (match expandS16 bank 0x0400 with | .word _ => false | .bad c => decide (c = 7)) = true ∧
    (match expandS16 bank 0x3F00 with | .word _ => false | .bad c => decide (c = 6)) = true := by decide +kernel


/-- Physical page 0 holds an image of one element without rules at 0x8000 and an RCB of it at 0x9000. -/
def imageState : State :=
  let m := seqState.mem.set 0x8000 ([0x46, 0x43, 0x4E, 0x4F, 1, 0, 1] ++ List.replicate 9 0 ++ [0x50] ++ List.replicate 7 0 ++ [0xFF, 0xFF])
  { seqState.setReg 13 0x8000 with mem := m.set 0x9009 [0x80] }

/-- Context 0 with ply 1 staged and ply 0 bound; ply 0 has a far output and a stream port. -/
def plyState : State :=
  let s := imageState.modCtx 0 0 fun c => { c with bound := some 0 }
  let s := s.modPly 0 0 fun p => { p with st := .active, ctx := 0, image := 0x8000, sports := 3, routes := [{ src := .stream 0, back := false, dests := [.stream 1] }], fars := [(1, { out := true }), (2, { out := false, ep := .chan 9 2 })] }
  s.modPly 0 1 fun p => { p with st := .staged, ctx := 0 }

theorem witness_ConfigurationInstructions :
    (∃ q p u, plyToLoad imageState 0 0 true 3 = some q ∧ loadImage imageState 0 0 (imageState.reg 13) imageState.user = .ok p u) ∧
    plyUnderLoad imageState 0 0 = none ∧ plyUnderLoad plyState 0 0 = none ∧ (plyState.ply 0 1).st ≠ .free ∧ gives (exec (.cfgLd 5 13 false 1) plyState) (trapped plyState 0x31 0) = true ∧
    plyState.me.region = none ∧ (plyState.ply 0 1).st = .staged ∧ (plyState.ply 0 1).ctx = 0 ∧ (plyState.ply 0 2).st ≠ .staged ∧ plyState.me.latch = none ∧
    after (exec (.cfgCommit 1) plyState) (fun t => decide (t.me.latch = some { ply := 1, commit := some 0x1008 }) && t.me.hold) = true ∧
    gives (exec (.cfgCommit 2) plyState) (trapped plyState 0x31 0) = true ∧ after (exec (.cfgDrop 1) plyState) (fun t => decide ((t.ply 0 1).st = .free)) = true ∧
    gives (exec (.cfgQPly 5) plyState) (wrote plyState 5 0x40067) = true ∧ gives (exec (.cfgQRsv 5) plyState) (wrote plyState 5 0) = true := by
  obtain ⟨p, u, h⟩ := of_isOk (r := loadImage imageState 0 0 (imageState.reg 13) imageState.user) (by decide +kernel)
  exact ⟨⟨0, p, u, by decide +kernel, h⟩, by decide +kernel⟩

/-- A state whose context 0 has a region that is open, and one whose region has failed with cause 0x25. -/
def regionState (g : RgnState) : State := plyState.modCtx 0 0 fun c => { c with region := some { rcb := 0x9000, image := 0x8000, state := g, cause := 0x25 } }

theorem witness_RegionInstructions :
    (∃ u, openRegion (plyState.setReg 13 0x9000) 0 0 0x9000 false = .ok () u) ∧ after (exec (.rgnOpen 13) (plyState.setReg 13 0x9000)) (fun t => t.me.region.isSome && decide (t.mem.val 0x9048 4 = 0)) = true ∧
    plyState.me.region = none ∧ gives (exec .rgnClose plyState) (trapped plyState 0x32 0) = true ∧ homeQueues (regionState .opened) 0 0 = [] ∧
    after (exec (.rgnWait 5) (regionState .opened)) (fun t => decide (t.me.run = .wait)) = true ∧ gives (exec (.rgnWait 5) (regionState .faulted)) (wrote (regionState .faulted) 5 0x125) = true ∧
    gives (exec (.rgnWait 5) (regionState .done)) (wrote (regionState .done) 5 0) = true ∧ (∃ u, storeState (regionState .opened) 0 0x9000 3 (regionState .opened).user = .ok () u) ∧
    after (exec .rgnCloseAbort (regionState .opened)) (fun t => decide (t.me.region = none)) = true ∧ after (exec .rgnClose (regionState .done)) (fun t => decide (t.me.region = none)) = true :=
  ⟨⟨_, ok_of (by decide +kernel)⟩, by decide +kernel, by decide +kernel, by decide +kernel, by decide +kernel, by decide +kernel, by decide +kernel, by decide +kernel,
    ⟨_, ok_of (by decide +kernel)⟩, by decide +kernel, by decide +kernel⟩

/-- Queue 5 belongs to partition 1 and has room for two tokens; x13 names it and x14 far index 1. -/
def queueState : State :=
  let s := (plyState.modPart 0 id).modQueue 5 fun x => { x with ctl := 0x10001, cap := 2 }
  (s.setReg 13 5).setReg 14 1

theorem witness_PortAndQueueInstructions :
    let s := queueState
    let far := s.setReg 13 0x04A5
    let push := s.modMe fun c => { c with rsv := { queue := 5, count := 2 } }
    after (exec (.portBindHnd 13 14) (s.setReg 13 0x2001)) (fun t => decide (Tab.find (t.core 0).port.handlers 1 = some 0x2001)) = true ∧
    farOutgoing s 0 1 = true ∧ farOutgoing s 0 2 = false ∧ (remoteOf 0 (far.reg 13)) = { core := 1, elem := 10, ch := 1, ply := 1 } ∧ coreIn 1 < 80 ∧
    s.me.bound = some 0 ∧ s.me.rsv.count = 0 ∧ (s.queue 5).partid = s.partOf 0 ∧ s.partOf 0 ≠ 0 ∧ queueWay s 0 5 = .clear ∧ queueWay push 0 5 = .clear ∧
    after (exec (.qrsv 5 13 2) s) (fun t => decide (t.reg 5 = 2 ∧ (t.queue 5).reserved = 2 ∧ t.me.rsv.count = 2)) = true ∧ gives (exec (.qrsv 5 13 3) s) (wrote s 5 0) = true ∧
    push.me.rsv.queue = 5 ∧ 0 < push.me.rsv.count ∧ after (exec (.qpush 13 1 2) push) (fun t => decide ((t.queue 5).toks.length = 1 ∧ t.me.rsv.count = 1)) = true ∧
    gives (exec (.qpush 13 1 2) s) (trapped s 0x33 0) = true := by decide +kernel

/-- PORT.BIND.far: core 1 of the same partition declares the input of element 10, channel 1, in its ply 1. -/
theorem witness_PortBindFar :
    let s := ((queueState.modCore 1 fun c => { c with part := 1 }).modPly 1 1 fun p => { p with st := .active, fars := [(0, { out := false, ep := .chan 10 1 })] }).setReg 13 0x04A5
    let r := remoteOf 0 (s.reg 13)
    farOutgoing s 0 1 = true ∧ coreIn r.core < 80 ∧ s.partOf r.core = s.partOf 0 ∧ declaredIncoming s r = true ∧
    after (exec (.portBindFar 13 14 0) s) (fun t => decide ((Tab.look {} (t.ply 0 0).fars 1).bind = some r)) = true := by decide +kernel

/-- Page 0 holds a policy of one instruction, PICK v1, at 0x8000. -/
def policyState : State :=
  let m := seqState.mem.set 0x8000 [0x4C, 0x50, 0x4E, 0x4F, 1, 0, 1, 16]
  { seqState.setReg 13 0x8000 with mem := m.set 0x8060 [0x20, 0xC0] }

theorem witness_PolicyLoadAndSwap :
    userState.me.priv = false ∧ gives (exec (.policySwap 5) userState) (trapped userState 0x22 userState.actor.bits) = true ∧ policyState.me.priv = true ∧ (policyState.part 1).policy.swp = false ∧
    (policyState.part 1).policy.staged = .empty ∧ gives (exec (.policySwap 5) policyState) (trapped policyState 0x42 0) = true ∧
    after (exec (.policyLd 0) policyState) (fun t => decide ((t.part 1).policy.staged = .builtin) && after (exec (.policySwap 5) t) fun u => (u.part 1).policy.swp && decide (u.reg 5 = 1)) = true := by decide +kernel

/-- A policy image that loads. -/
theorem witness_PolicyLoad : ∃ g u, readPolicy policyState 0 0x8000 policyState.user = .ok g u :=
  of_isOk (by decide +kernel)

/-- Port 1 of the bound ply, with a descriptor of 4 bytes to write at 0x1000 of local memory at 0x40 and armed already. -/
def streamState : State :=
  let s := plyState.modCore 0 fun c => { c with local_ := [(0x41, 0x10), (0x48, 4), (0x4C, 1), (0x50, 1), (0x71, 1)] }
  (s.modStream 0 1 fun p => { p with armed := some ({ base := 0x1000, n0 := 4, write := true }, 0), err := true }).setReg 14 0

theorem witness_StreamInstructions :
    let s := streamState
    let bs := localBytes (s.core 0) 0x40 64
    gives (exec (.strAff 4 1) s) (trapped s 0x24 1) = true ∧ gives (exec (.strAff 8 7) s) (trapped s 0x37 7) = true ∧
    (s.reg 8).toNat % 2 ^ 14 = 0x40 ∧ portPly s 0 0 1 = some 0 ∧ (s.core 0).bad = [] ∧ fld bs 0x31 1 = 1 ∧ ((s.ply 0 0).feeder (.stream 1)).isSome = true ∧
    descOk false bs = true ∧ baseOk (descOf false bs) = true ∧ after (exec (.strAff 8 1) s) (fun t => decide (((t.core 0).stream 1).armed = some (descOf false bs, 0))) = true ∧
    goFault s 0 0 1 (s.reg 14) = none ∧ ((s.core 0).stream 1).armed = some ({ base := 0x1000, n0 := 4, write := true }, 0) ∧
    after (exec (.strGo 14 1) s) (fun t => decide (((t.core 0).stream 1).queue.length = 1) && !(streamIdle t 0 1)) = true ∧
    streamIdle s 0 1 = true ∧ after (exec (.strWait 5 2) s) (fun t => decide (t.reg 5 = 2) && !((t.core 0).stream 1).err) = true ∧
    after (exec (.strGo 14 1) s) (fun t => after (exec (.strWait 5 2) t) fun u => decide (u.me.run = .wait)) = true ∧
    s.reg 14 = 0 ∧ gives (exec (.winSet 5 1 14 0 1) s) (wrote s 5 0) = true ∧ portPly s 0 0 7 = none ∧ gives (exec (.winClr true 0 7) s) (trapped s 0x37 7) = true := by decide +kernel

/-- STR.BAR of ports 1 and 2 while port 1 has command 3 queued, and a command of port 2 that waits for it. -/
theorem witness_StreamBarrier :
    let x : SDesc := { base := 0x1000, n0 := 4, write := true }
    let s := (streamState.modStream 0 1 fun p => { p with queue := [{ desc := x, ply := 0, id := 3, after := [] }] }).modStream 0 2 fun p => { p with queue := [{ desc := x, ply := 0, id := 4, after := [3] }] }
    3 ∈ ((s.core 0).stream 1).ids ∧ after (exec (.strBar 6) s) (fun t => decide (3 ∈ ((t.core 0).stream 2).bar ∧ 4 ∈ ((t.core 0).stream 1).bar ∧ ((t.core 0).stream 3).bar = [])) = true ∧
    ((s.core 0).stream 2).run = none ∧ gives (exec (.streamElement 0 2) s) s = true ∧ gives (exec (.streamElement 0 1) s) s = false := by decide +kernel

/-- A walk that ends with a window. -/
def isWindow {α β : Type} : Mr (Option α × β) → Bool
  | .ok (some _, _) _ => true
  | _ => false

/-- A walk that ends with a window is that answer. -/
theorem window_of {α β : Type} {r : Mr (Option α × β)} (h : isWindow r = true) : ∃ x l u, r = .ok (some x, l) u := by
  unfold isWindow at h
  split at h
  · exact ⟨_, _, _, rfl⟩
  · exact absurd h (by simp)

/-- WIN.SET: partition 1's root table at 0x200000 leads to a leaf for page 0. -/
theorem witness_WinSet :
    let s := { streamState.modPart 1 fun p => { p with troot := 0x200001 } with mem := ((streamState.mem.set 0x200000 [0x01, 0x00, 0x21]).set 0x210000 [0x01, 0x00, 0x22]).set 0x220000 [0x7B, 0x03] }
    portPly s 0 0 1 = some 0 ∧ s.reg 1 ≠ 0 ∧ (s.reg 4).toNat < 2 ^ 55 ∧ (∃ x l u, windowWalk s 0 1 1 (s.reg 4).toNat (winPages (s.reg 4) (s.reg 1)) .read (fun e => e.testBit 6) = .ok (some x, l) u) ∧
    after (exec (.winSet 5 4 1 2 1) s) (fun t => decide (t.reg 5 = 1) && (Tab.find ((t.core 0).stream 1).wins 2).isSome) = true :=
  ⟨by decide +kernel, by decide +kernel, by decide +kernel, window_of (by decide +kernel), by decide +kernel⟩

theorem witness_MatrixInstructionsEnterTheQueue :
    let s := seqState.setReg 13 0x80000000
    let bad := seqState.modMe fun c => { c with mx := { c.mx with fault := some (.streamFormat, 9) } }
    matrixOperands s (.mxThr 13) = some (0x80000000, 0) ∧ s.me.mx.fault = none ∧ (s.core 0).mx.queue.length < 16 ∧
    after (exec (.mxThr 13) s) (fun t => decide (t.me.mx.thr = 0 ∧ (t.core 0).mx.queue.length = 1 ∧ t.me.mx.outstanding = 1 ∧ t.me.pc = 0x1008)) = true ∧
    after (exec (.mxWait 0) s) (fun t => decide (t.me.pc = 0x1008)) = true ∧ bad.me.mx.fault.isSome = true ∧
    after (exec (.mxThr 13) s) (fun t => after (exec (.mxWait 0) t) fun u => decide (u.me.run = .wait)) = true ∧
    gives (exec (.mxThr 7) s) (trapped s 0x51 0xFFFFFFFFFFFFFFFF) = true := by decide +kernel

/-- -0 is not below 0, and a NaN is refused. -/
theorem witness_MatrixRefuses : (∀ v, ¬ matrixRefuses (seqState.setReg 13 0x80000000) (.mxThr 13) v) ∧ matrixRefuses seqState (.mxThr 7) 0xFFFFFFFFFFFFFFFF := by
  unfold matrixRefuses negativeOrNan
  refine ⟨fun v h => ?_, by decide +kernel⟩
  exact absurd h.2 (by decide +kernel)

/-- Element 9 of ply 0 with one rule, which pops inputs 0 and 1 and emits on output 0, or another trigger word; both inputs hold a data token, or an end token. -/
def elemState (i : Instr) (t : BitVec 32 := 0x31000031) (e : Bool := false) : State :=
  let s := seqState.modPly 0 0 fun p => { p with
    st := .active, rules := [(9, [(0, { trig := t, act := i })])], routes := [{ src := .chan 9 0, back := false, dests := [.chan 10 1] }]
    elems := [(9, { d := [(0, 0x3FC00000C0000000), (1, 0x7F80000180000000), (2, 0x8000000000000000), (3, 0xFFFFFFFFFFFFFFFF), (4, 0x40), (5, 0x3FFF8)], p := 3 })] }
  let s := s.modFab 0 fun f => { f with chans := [(36, { toks := [{ data := 0x7FFFFFFF00000005, tag := 6, e := e, x := e }] }), (37, { toks := [{ data := 0x00000001FFFFFFFE, e := e }] })] }
  { s with actor := { elem := 9 } }

/-- VADDS saturates at both ends of a lane; VSHR by a lane's width; an end firing. -/
theorem witness_LaneResults :
    let i := Instr.vadds (.d 6) (.i 0) (.i 1) .i32
    let s := elemState i
    instrWf i = true ∧ (laneResult s i).isSome = true ∧ s.endFiring = false ∧ s.tg = 6 ∧
    after (exec i s) (fun t => decide (Tab.look 0 t.eply.d 6 = 0x7FFFFFFF00000003) && decide ((t.core 0).fab.flights.length = 1)) = true ∧
    (∃ t, Claims.placed s (withD s (.d 6) [.i 0, .i 1] 0x7FFFFFFF00000003) (trigEmit s.trig) (dataToken s [.i 0, .i 1] 0x7FFFFFFF00000003 s.tg) = some t) ∧
    (let s := elemState i 0x31000031 true
     s.endFiring = true ∧ (∃ t, Claims.placed s s (trigEmit s.trig) (endToken s) = some t) ∧ (endToken s).x = true) ∧
    after (exec (.vshr (.d 6) (.i 0) (.i 1) .i32) s) (fun t => decide (Tab.look 0 t.eply.d 6 = 0x3FFFFFFF00000000)) = true ∧
    after (exec (.vperm (.d 6) (.i 0) (.i 1) (.d 5)) s) (fun t => decide (Tab.look 0 t.eply.d 6 = 0x0505050505000000)) = true :=
  ⟨by decide +kernel, by decide +kernel, by decide +kernel, by decide +kernel, by decide +kernel, some_of (by decide +kernel),
    ⟨by decide +kernel, some_of (by decide +kernel), by decide +kernel⟩, by decide +kernel, by decide +kernel⟩

/-- A signed and an unsigned compare; a NaN operand; -0 and +0. -/
theorem witness_LaneCompares :
    let i := Instr.vcmpLt (.d 6) (.i 0) (.i 1) .i32 2
    let j := Instr.fcmpNe (.d 6) (.d 1) (.d 1) .f32 2
    (laneCompare i).isSome = true ∧ (floatCompare j).isSome = true ∧ instrWf i = true ∧ instrWf j = true ∧ (elemState i).num .f32 (.d 1) 1 = .nan ∧
    after (exec i (elemState i)) (fun t => decide (Tab.look 0 t.eply.d 6 = 0) && !(t.eply.pred 2)) = true ∧
    after (exec j (elemState j)) (fun t => decide (Tab.look 0 t.eply.d 6 = 0xFFFFFFFF00000000) && !(t.eply.pred 2)) = true ∧
    after (exec (.fcmpEq (.d 6) (.d 2) .zero .f64 2) (elemState j)) (fun t => decide (Tab.look 0 t.eply.d 6 = 0xFFFFFFFFFFFFFFFF) && t.eply.pred 2) = true := by decide +kernel

/-- 1.5 + 1.5 and -2 + -2; a half rounded up by RUP; DOT of FP32 lanes. -/
theorem witness_FloatResults :
    let i := Instr.fadd (.d 6) (.d 0) (.d 0) .f32 .dyn
    let s := elemState i
    instrWf i = true ∧ s.mode .dyn = .rne ∧ (exactResult s .rne i).isSome = true ∧ s.endFiring = false ∧ after (exec i s) (fun t => decide (Tab.look 0 t.eply.d 6 = 0x40400000C0800000)) = true ∧
    (∃ u, Claims.placed s (withD s (.d 6) [.d 0] 0x40400000C0800000) (trigEmit s.trig) (dataToken s [.d 0] 0x40400000C0800000 s.tg) = some u) ∧
    (plainFloat s (.fneg (.d 6) (.d 0) .f32)).isSome = true ∧ after (exec (.fneg (.d 6) (.d 0) .f32) s) (fun t => decide (Tab.look 0 t.eply.d 6 = 0xBFC0000040000000)) = true ∧
    s.mode .rup = .rup ∧ instrWf (.cvt (.d 6) (.d 0) .f32 .i8 4 .rup) = true ∧
    after (exec (.cvt (.d 6) (.d 0) .f32 .i8 4 .rup) s) (fun t => decide (Tab.look 0 t.eply.d 6 = 0x02FE00000000)) = true ∧
    after (exec (.dot (.d 6) (.d 0) (.d 0) (.d 0) .f32 .rne) s) (fun t => decide (Tab.look 0 t.eply.d 6 = 0x3FC0000040880000)) = true :=
  ⟨by decide +kernel, by decide +kernel, by decide +kernel, by decide +kernel, by decide +kernel, some_of (by decide +kernel), by decide +kernel, by decide +kernel, by decide +kernel,
    by decide +kernel, by decide +kernel, by decide +kernel⟩

/-- The largest finite E4M3 and its NaN. -/
theorem witness_RoundingKeepsRepresentable :
    e4m3 ∈ [fp64, fp32, fp16, bf16, e5m2, e4m3, e2m1] ∧ 0x7E < 2 ^ e4m3.bits ∧ decodeFp e4m3 0x7E ≠ .nan ∧ roundFp e4m3 .rtz 0 (decodeFp e4m3 0x7E) = 0x7E ∧ decodeFp e4m3 0xFF = .nan := by
  refine ⟨by simp, ?_⟩
  decide +kernel

theorem witness_ElementFiringFrame :
    let i := Instr.tsLd (.d 6) (.d 4) 8
    computes (elemState i) i = some (.d 6) ∧ tsAddr ((elemState i).src (.d 4)) 8 % 8 = 0 ∧ tsAddr ((elemState i).src (.d 4)) 8 < 0x40000 ∧ (mapBuf ((elemState i).core 0) 4 (tsAddr ((elemState i).src (.d 4)) 8)).isSome = true ∧
    after (exec i (elemState i)) (fun t => decide (Tab.look 0 t.eply.d 0 = 0x3FC00000C0000000)) = true := by decide +kernel

theorem witness_DataflowActions :
    (let s := elemState (.tagi (.d 6) (.i 0) true 15)
     s.endFiring = false ∧ (∃ t, Claims.placed s (withD s (.d 6) [.i 0] (s.src (.i 0))) (trigEmit s.trig) (dataToken s [.i 0] (s.src (.i 0)) ((s.tg + 15) % 16)) = some t)) ∧
    (let o : SteerOpts := { sel := .pred 1, dmask := 0, tmask := 1, fmask := 0 }
     let s := elemState (.steer .null (.i 0) o)
     steerCond s o = true ∧ (∃ t, placedAll s (withD s .null [.i 0] (s.src (.i 0))) (trigPop s.trig) [(1, dataTok s (s.src (.i 0)) s.tg false), (0, dataTok s 1 s.tg false)] = some t)) ∧
    (let s := elemState (.gate .null (.i 0) 0)
     ∃ t, placedAll s (withD s .null [.i 0] (s.src (.i 0))) (trigPop s.trig) [(trigEmit s.trig &&& 15, dataTok s (s.src (.i 0)) s.tg false), (0, dataTok s 0 s.tg false)] = some t) ∧
    (let s := elemState (.merge (.d 6) 0 1 2)
     (s.head 0).any (fun h => !h.e && h.data.getLsbD 0) = true ∧ (s.head 1).any (fun k => !k.e) = true ∧ after (exec (.merge (.d 6) 0 1 2) s) (fun t => decide (Tab.look 0 t.eply.d 6 = 0x1FFFFFFFE)) = true) ∧
    (let s := elemState (.mergeu (.d 6) 4 3 0 1)
     mergeuArm (Tab.look {} s.eply.mergeu s.actor.rule) (s.head 0) (s.head 1) = some false ∧ after (exec (.mergeu (.d 6) 4 3 0 1) s) (fun t => decide (Tab.look 0 t.eply.d 6 = 0x7FFFFFFF00000005)) = true) ∧
    (let s := elemState (.permit (.d 6) 2 0)
     s.head 2 = none ∧ (s.head 0).any (fun h => !h.e) = true ∧ s.eply.inFlight < s.eply.k ∧ after (exec (.permit (.d 6) 2 0) s) (fun t => decide (t.eply.infl = 1 ∧ t.eply.nt = 1)) = true) ∧
    (let s := elemState (.sink .null (.i 0) false 2) 0x10000010 true
     (s.heads.headD {}).e = true ∧ (Tab.look {} s.eply.sinks s.actor.rule).count < 2 ∧ after (exec (.sink .null (.i 0) false 2) s) (fun t => decide (Tab.look {} t.eply.sinks 0 = { count := 1, err := true })) = true) ∧
    (let s := (elemState (.permit (.d 6) 0 1)).modEply fun y => { y with infl := 0xC0 }
     (s.head 0).any (fun h => !h.e && decide (h.tag = 6)) = true ∧ after (exec (.permit (.d 6) 0 1) s) (fun t => decide (t.eply.infl = 0x80 ∧ ((t.core 0).fab.chan 36).toks = [])) = true) ∧
    (let s := elemState (.sink (.d 6) (.i 0) true 2) 0x10000010
     (s.heads.head?).any (fun h => !h.e) = true ∧ after (exec (.sink (.d 6) (.i 0) true 2) s) (fun t => decide (Tab.look 0 t.eply.d 6 = 0x7FFFFFFF00000005 ∧ ((t.core 0).fab.chan 36).toks = [] ∧ t.eply.sinks = [])) = true) ∧
    (let s := elemState (.eos (.d 6) (.i 0) false)
     (∃ t, Claims.placed s (withD s (.d 6) [.i 0] (s.src (.i 0))) (trigEmit s.trig) (Claims.endTok s (s.src (.i 0)) s.tg (false || s.headsX) (s.descends [.i 0])) = some t)) ∧
    (let s := (elemState (.mark (.d 4))).modPly 0 0 fun p => { p with routes := p.routes ++ [{ src := .chan 8 0, back := false, dests := [.chan 9 0] }] }
     markInputs (s.ply 0 0) 9 ≠ [] ∧ (∃ t, Claims.placed s s (trigEmit s.trig) { dataTok s (w ((s.src (.d 4)).toNat % 2 ^ 16)) 0 false with mark := .snap } = some t)) :=
  ⟨⟨by decide +kernel, some_of (by decide +kernel)⟩, ⟨by decide +kernel, some_of (by decide +kernel)⟩, some_of (by decide +kernel), by decide +kernel, by decide +kernel, by decide +kernel, by decide +kernel, by decide +kernel, by decide +kernel, some_of (by decide +kernel),
    ⟨by decide +kernel, some_of (by decide +kernel)⟩⟩

/-- A reduction of one participant and one of two; a queue of the partition with room for two tokens. -/
theorem witness_ReductionAndQueueActions :
    (let i := Instr.redSum (.i 0) .i32 2 3
     let s := elemState i
     reductionOf i = some (.i 0, 2, 3, redSumLanes .i32) ∧ s.endFiring = false ∧ redMembers (s.ply 0 0) 3 = [(9, 2)] ∧ after (exec i s) (fun t => decide ((t.core 0).fab.flights.length = 1)) = true ∧
     (let s := s.modPly 0 0 fun p => { p with rules := p.rules ++ [(10, [(0, { act := i })])] }
      redMembers (s.ply 0 0) 3 = [(9, 2), (10, 2)] ∧ after (exec i s) (fun t => decide ((Tab.look [] (t.ply 0 0).reds 3).length = 1)) = true)) ∧
    (let s := elemState (.send (.i 0) (.i 1))
     ∃ t, emitMask (popMask s 0 0 9 (trigPop s.trig)) 0 0 9 (trigEmit s.trig) (dataTok s (s.src (.i 0)) 0 false) (some { a := s.src (.i 0), b := s.src (.i 1), core := 0, ply := 0, elem := 9, rule := 0 }) = some t) ∧
    (let s := (elemState (.rsv (.d 6) (.i 0) 2)).modQueue 5 fun x => { x with ctl := 0x10001, cap := 2 }
     (s.src (.i 0)).toNat % 2 ^ 14 = 5 ∧ s.eply.rv.count = 0 ∧ (s.queue 5).partid = s.partOf 0 ∧ s.partOf 0 ≠ 0 ∧ (s.queue 5).room = 2 ∧ queueWay s 0 5 = .clear ∧ (s.core 0).fab.pushes = [] ∧ (s.core 0).fab.reqsIn 0 9 = [] ∧
     after (exec (.rsv (.d 6) (.i 0) 2) s) (fun t => decide (t.eply.rv.count = 2) && after (exec (.enq (.d 6) (.i 0) (.i 1)) t) fun u => decide (u.eply.rv.count = 1)) = true ∧
     after (exec (.rsv (.d 6) (.i 0) 3) s) (fun t => decide (t.eply.rv.count = 0)) = true ∧ s.queueWaits = false ∧
     (let s := s.modFab 0 fun f => { f with pushes := [{ elem := 9, before := 1, queue := 5 }] }
      s.queueWaits = true ∧ after (exec (.rsv (.d 6) (.i 0) 2) s) (fun t => decide ((t.core 0).fab.pushes.length = 2 ∧ t.eply.rv.count = 0)) = true) ∧ after (exec (.amplify (.d 6) (.i 0) 2) s) (fun t => t.eply.rv.amp) = true) :=
  ⟨⟨by rfl, by decide +kernel, by decide +kernel, by decide +kernel, by decide +kernel, by decide +kernel⟩, some_of (by decide +kernel), by decide +kernel⟩

/-- LDQ and an engine command, which leaves by a route to port 0. -/
theorem witness_ElementRequests :
    (let i := Instr.ldq (.d 6) (.d 3) (.i 1) .w .co .rlx 0x3FFFFF
     let s := elemState i
     (requestOf s i).isSome = true ∧ s.endFiring = false ∧ after (exec i s) (fun t => ((t.core 0).fab.reqsOf 9).map (·.ea) = [0x1FFFFFFFC]) = true) ∧
    (let i := Instr.gath (.d 4) (.d 4) .zero { ord := .rlx, sc := .co, sh := false, ev := false, ct := false, cf := 0, tag := 0 }
     let s := (elemState i).modPly 0 0 fun p => { p with routes := [{ src := .chan 9 0, back := false, dests := [.engine 0] }] }
     (engineOf s i).isSome = true ∧ s.heads.all (fun h => !h.e) = true ∧ after (exec i s) (fun t => decide ((t.core 0).fab.flights.length = 1)) = true) := by decide +kernel

/-- The last word of the tile store, the address after it and a misaligned one; a key below a word that is all ones. -/
theorem witness_TileActions :
    let s := elemState .nop
    s.endFiring = false ∧ ((s.src (.d 5)).toNat % 2 ^ 18 + 0) % 8 = 0 ∧ ((s.src (.d 5)).toNat % 2 ^ 18 + 0) < 0x40000 ∧ (mapBuf (s.core 0) 4 0x3FFF8).isSome = true ∧
    (∃ t, Claims.placed s (withD s (.d 6) [.d 5] 0) (trigEmit s.trig) (dataToken s [.d 5] 0 s.tg) = some t) ∧
    ((s.src (.d 5)).toNat % 2 ^ 18 + 8) = 0x40000 ∧ ((s.src (.d 5)).toNat % 2 ^ 18 + 1) % 8 ≠ 0 ∧ (s.src (.d 4)).toNat / 2 ^ 8 % 2 ^ 6 ≤ 55 ∧
    after (exec (.tsSt (.d 5) (.d 3) 0) s) (fun t => after (exec (.tsLd (.d 6) (.d 5) 0) t) fun u => decide (Tab.look 0 u.eply.d 6 = 0xFFFFFFFFFFFFFFFF)) = true ∧
    after (exec (.vbmin (.d 6) (.i 0) (.d 5)) s) (fun t => decide (Tab.look 0 t.eply.d 6 = 0)) = true :=
  ⟨by decide +kernel, by decide +kernel, by decide +kernel, by decide +kernel, some_of (by decide +kernel), by decide +kernel, by decide +kernel, by decide +kernel, by decide +kernel, by decide +kernel⟩

/-- A decision of die 0, cluster 0 whose program runs, at instruction 1 after 3 ac, with two candidates; v1 = 3, v2 = -1. -/
def decisionState (budget : Nat := 16) : State :=
  let x : Decision := { prog := some { budget := budget, consts := [7] }, time := 3, ix := 1, v := [(1, 3), (2, 0xFFFFFFFFFFFFFFFF)], m := 3, cands := [[5, 9], [4, 9]] }
  { State.reset with dies := [(0, { disps := [(0, { decs := [x] })] })], actor := {} }

/-- The decision after an instruction. -/
def decidedBy (i : Instr) (p : Decision → Bool) (budget : Nat := 16) : Bool := after (exec i (decisionState budget)) fun t => (acting t).any p

theorem witness_PolicyArithmetic :
    (acting decisionState).any (·.running) = true ∧ decidedBy (.addv 2 1) (fun x => decide (x.reg 2 = 2 ∧ x.ix = 2 ∧ x.time = 4)) = true ∧
    decidedBy (.minv 1 2) (fun x => decide (x.reg 1 = 0xFFFFFFFFFFFFFFFF)) = true ∧ decidedBy (.shlv 1 2) (fun x => decide (x.reg 1 = 0x8000000000000000)) = true ∧
    decidedBy (.scanMin 1 0) (fun x => decide (x.reg 1 = 1 ∧ x.time = 7)) = true ∧ decidedBy (.scanMin 1 1) (fun x => decide (x.reg 1 = 0)) = true ∧
    decidedBy (.mkeepGe 1 0) (fun x => decide (x.m = 3)) = true ∧ decidedBy (.mkeepLt 2 0) (fun x => decide (x.m = 0)) = true ∧
    decidedBy (.scanMin 1 0) (fun x => decide (x.ix = 1 ∧ x.reg 1 = 3 ∧ x.time = 7)) 6 = true := by decide +kernel

theorem witness_PolicyLoadsJumpsAndVerdicts :
    (acting decisionState).any (·.running) = true ∧ decidedBy (.imm 1 0x80) (fun x => decide (x.reg 1 = 0xFFFFFFFFFFFFFF80)) = true ∧ decidedBy (.kld 1 0) (fun x => decide (x.reg 1 = 7)) = true ∧
    decidedBy (.jlt 2 1 5) (fun x => decide (x.ix = 7)) = true ∧ decidedBy (.jge 2 1 5) (fun x => decide (x.ix = 2)) = true ∧ decidedBy .mall (fun x => decide (x.m = 3)) = true ∧
    decidedBy (.migrate 2) (fun x => decide (x.verdict = some (7, 3) ∧ x.ix = 1)) = true ∧ (acting (decisionState 3)).any (fun x => !x.running) = true := by decide +kernel

/-- A device that has booted. -/
def bootedState : State := seqState.modIod fun i => { i with sec := { i.sec with bootstat := 1 } }

theorem witness_ContextCommands :
    (let s := bootedState
     (s.iod.sec.bootstat = 1 ∧ s.iod.linkDown = false) ∧ (0 / 128 < 4 ∧ 0 % 128 < 80) ∧ (s.ctx 0 1).run = .off ∧ (s.ctx 0 0).run = .run ∧ (s.ctx 0 0).hold = false ∧ (s.ctx 0 0).going = none ∧
     (s.ctx 0 0).tr.tstat.getLsbD 0 = false ∧ ((0x5800000000001003 : Word).toNat / 2 ^ 62 = 1 ∧ (0x5800000000001003 : Word).toNat / 2 ^ 60 % 4 = 1) ∧
     after (exec (.ctxStart 0 0x5800000000001003) s) (fun t => decide ((t.ctx 0 1).run = .run ∧ (t.ctx 0 1).pc = 0x1002)) = true ∧
     after (exec (.ctxStop 0 0x8000000000000000) s) (fun t => decide ((t.ctx 0 0).run = .off)) = true ∧
     after (exec (.ctxTrap 0 0xC000000000000123) s) (fun t => decide ((t.ctx 0 0).tr.cause = 0x83 ∧ (t.ctx 0 0).tr.tval = 0x123)) = true ∧
     after (exec (.ctxStart 0 0x4000000000000000) s) (fun t => decide ((t.core 0).regs.ign = 1 ∧ (t.ctx 0 0).pc = 0x1000)) = true) ∧
    (let s := (bootedState.modIod fun i => { i with dspart := 0x1001 }).modPart 1 fun p => { p with partclu := 0x8000000000000001 }
     s.iod.dspart.getLsbD 12 = true ∧ (s.part (s.iod.dspart.toNat % 2 ^ 12)).partclu.getLsbD 63 = true ∧ (s.ctx dsCore 0).run = .off ∧
     after (exec (.dsCtxStart 0x4000000000001000) s) (fun t => decide ((t.ctx dsCore 0).run = .run)) = true) ∧ State.reset.iod.sec.bootstat = 0 ∧ (exec .boot State.reset matches .next _) = true := by decide +kernel

/-- A core that is saving with nothing left to wait for; a load of the loader for a strand region. -/
theorem witness_CoreResetSaveAndRestore :
    (let s := bootedState
     (s.core 0).regs.csw = none ∧ (0x11 : Word).toNat % 4 = 1 ∧ after (exec (.coreSave 0 1) s) (fun t => decide ((t.core 0).regs.csw = some 1)) = true) ∧
    (let s := bootedState.modCore 0 fun c => { c with regs := { c.regs with csw := some 1, cswaddr := 0x100000 } }
     (s.core 0).regs.csw = some 1 ∧ (∀ m < 4, switchReady s 0 m = true ∧ (s.ctx 0 m).switch = none) ∧ cswWay s 0 0 = .clear ∧ saveBad (s.core 0) 0 = false) ∧
    (let s := (imageState.modCtx 0 0 fun c => { c with region := some { strand := true } }).modPly 0 2 fun p => { p with st := .loading, ctx := 0, loader := some 3, image := 0x8000 }
     (s.core 0).regs.csw = none ∧ (s.ply 0 2).st = .loading ∧ (s.ply 0 2).byInstr = false ∧ (s.ply 0 2).ctx = 0 ∧ (s.ply 0 2).loader = some 3 ∧ (s.ctx 0 0).region = some { strand := true } ∧
     (∃ g u, loadImage s 0 0 (s.ply 0 2).image false = .ok g u) ∧ after (exec (.endOfALoad 0 2) s) (fun t => decide ((t.ctx 0 0).latch = some { ply := 2, commit := none })) = true) :=
  ⟨by decide +kernel, ⟨by decide +kernel, by decide +kernel, by decide +kernel, by decide +kernel⟩,
    by decide +kernel, by decide +kernel, by decide +kernel, by decide +kernel, by decide +kernel, by decide +kernel,
    of_isOk (by decide +kernel), by decide +kernel⟩

/-- Reading depends on the bytes of memory alone. -/
theorem get_congr {m m' : Memory} (h : m'.bytes = m.bytes) : ∀ n pa, m'.get pa n = m.get pa n
  | 0, _ => rfl
  | n + 1, pa => by simp only [Memory.get, Memory.byte, h, get_congr h n]

/-- A read by a die answers the bytes. -/
theorem physRead_value (s : State) (d pa n : Nat) : (physRead s d pa n).1 = s.mem.get pa n := by
  unfold physRead
  split
  · exact get_congr (m := s.mem) (m' := (s.modMem fun m => { m with reserved := true }).mem) rfl n pa
  · rfl

/-- A read by a die of one line changes no core. -/
theorem touchLine_cores (s : State) (d line : Nat) : (touchLine s d line).cores = s.cores := by
  simp only [touchLine, makeRoom]
  repeat' split
  all_goals rfl

/-- A read by a die changes no core. -/
theorem physRead_cores (s : State) (d pa n : Nat) : (physRead s d pa n).2.cores = s.cores := by
  unfold physRead
  exact foldl_keeps (p := fun t : State => t.cores = s.cores) _ (fun b a h => (touchLine_cores _ _ _).trans h) _ (by split <;> rfl)

/-- A context image that has neither a ply nor a region nor parked requests. -/
def plainImage (s : State) (k n : Nat) (b : List Byte) : Bool :=
  decide (fld b 0x20 2 = 0) && imageOk s k (b ++ []) && decide (fld b 8 4 = (ctxId k n).toNat) && decide (fld (b ++ []) 8 4 = (ctxId k n).toNat) && !(imagePly (b ++ [])) && !(imageRgn (b ++ []))

/-- Plain context images load. -/
theorem loadAll_plain {s0 : State} {k base : Nat} (hk : k ≠ dsCore) : ∀ (m n : Nat) (s : State), s.mem.bytes = s0.mem.bytes → s.cores = s0.cores →
    (∀ i < n + m, n ≤ i → plainImage s0 k i (s0.mem.get (base + 0x10000 * i) 0x6E00) = true) → ∃ l u, loadAll k base m n s = .ok l u := by
  intro m
  induction m with
  | zero => intro n s _ _ _; exact ⟨_, _, rfl⟩
  | succ m ih =>
    intro n s hm hc h
    have g := h n (by omega) (by omega)
    have e : imageBytes s k (base + 0x10000 * n) = (s0.mem.get (base + 0x10000 * n) 0x6E00 ++ [], (physRead s (dieOf k) (base + 0x10000 * n) 0x6E00).2) := by
      have e1 : (physRead s (dieOf k) (base + 0x10000 * n) 0x6E00).1 = s0.mem.get (base + 0x10000 * n) 0x6E00 := by
        rw [← get_congr hm, physRead_value]
      simp only [plainImage, Bool.and_eq_true, decide_eq_true_eq] at g
      simp only [imageBytes, agentRead, if_neg hk, e1, g.1.1.1.1.1, ↓reduceIte]
    have hm' := (physRead_reads s (dieOf k) (base + 0x10000 * n) 0x6E00).trans hm
    have hc' := (physRead_cores s (dieOf k) (base + 0x10000 * n) 0x6E00).trans hc
    generalize (physRead s (dieOf k) (base + 0x10000 * n) 0x6E00).2 = t at *
    obtain ⟨l, u, hl⟩ := ih (n + 1) t hm' hc' (fun i hi hn => h i (by omega) (by omega))
    have hi : imageOk t k (s0.mem.get (base + 0x10000 * n) 0x6E00 ++ []) = imageOk s0 k (s0.mem.get (base + 0x10000 * n) 0x6E00 ++ []) := by
      simp only [imageOk, headOk, State.partOf, if_neg hk, State.core, hc']
    simp only [plainImage, Bool.and_eq_true, decide_eq_true_eq, Bool.not_eq_true'] at g
    simp [loadAll, e, hi, g, loadFor, regionFor, Mr.andThen, hl, -List.append_nil]

/-- Four context images and a core section of a core without a partition, each zero but for its head. -/
def restoreState : State :=
  let s := State.reset.modIod fun i => { i with sec := { i.sec with bootstat := 1 } }
  let m := (List.range 4).foldl (fun m n => (m.set (0x100000 + 0x10000 * n) [0x56, 0x53, 0x4E, 0x4F, 1]).set (0x100008 + 0x10000 * n) [BitVec.ofNat 8 n]) s.mem
  { s.modCore 0 fun c => { c with regs := { c.regs with cswaddr := 0x100000 } } with mem := m.set 0x140000 [0x43, 0x53, 0x4E, 0x4F, 1] }

/-- The state in which its RESTORE has begun. -/
def restoring : State := beginCsw restoreState 0 2

/-- Where nothing is listed, memory reads as zeros. -/
theorem get_zeros (m : Memory) (n : Nat) : ∀ pa, (∀ x ∈ m.bytes, x.1 < pa ∨ pa + n ≤ x.1) → m.get pa n = List.replicate n 0 := by
  induction n with
  | zero => intro _ _; rfl
  | succ n ih =>
    intro pa h
    have z : ∀ t : Tab Byte, (∀ x ∈ t, x.1 ≠ pa) → Tab.find t pa = none := by
      intro t g
      induction t with
      | nil => rfl
      | cons x t it =>
        obtain ⟨j, v⟩ := x
        have n : ¬ pa = j := fun e => g (j, v) (by simp) e.symm
        rw [Tab.find, if_neg n]
        exact it fun y hy => g y (by simp [hy])
    have e : m.byte pa = 0 := by
      simp only [Memory.byte, Tab.look, z _ fun x hx e => by have := h x hx; omega]; rfl
    simp only [Memory.get, e, List.replicate_succ, List.cons.injEq, true_and]
    exact ih _ fun x hx => by have := h x hx; omega

/-- A run of bytes in two parts. -/
theorem get_add (m : Memory) (a b : Nat) : ∀ pa, m.get pa (a + b) = m.get pa a ++ m.get (pa + a) b := by
  induction a with
  | zero => intro pa; simp [Memory.get]
  | succ a ih => intro pa; rw [show a + 1 + b = a + b + 1 by omega]; simp only [Memory.get, ih, List.cons_append]; rw [show pa + 1 + a = pa + (a + 1) by omega]

/-- How many bytes are read. -/
theorem get_length (m : Memory) (n : Nat) : ∀ pa, (m.get pa n).length = n := by
  induction n with
  | zero => intro _; rfl
  | succ n ih => intro pa; simp [Memory.get, ih]

/-- A field behind the head of an image that is zero there is zero. -/
theorem cut_zeros (h : List Byte) (N o n : Nat) (g : h.length ≤ o) (l : o + n ≤ h.length + N) : cut (h ++ List.replicate N 0) o n = List.replicate n 0 := by
  simp only [cut, List.drop_append, List.drop_eq_nil_of_le g, List.nil_append, List.drop_replicate, List.take_replicate]
  congr 1; omega

/-- Zero bytes are the number 0. -/
theorem ofBytes_zeros : ∀ n, ofBytesLE (List.replicate n 0) = 0
  | 0 => rfl
  | n + 1 => by
    show (0 : Byte).toNat + 256 * ofBytesLE (List.replicate n 0) = 0
    rw [ofBytes_zeros n]; rfl

/-- Zero bytes are all zero. -/
theorem allZero_zeros (n : Nat) : allZero (List.replicate n 0) = true := by simp [allZero]

/-- A number behind the head of an image that is zero there is 0. -/
theorem fld_zeros (h : List Byte) (N o n : Nat) (g : h.length ≤ o) (l : o + n ≤ h.length + N) : fld (h ++ List.replicate N 0) o n = 0 := by
  rw [fld, cut_zeros h N o n g l, ofBytes_zeros]

/-- An image that is zero behind its head has the zeros that it must have. -/
theorem fieldsZero_zeros (h : List Byte) (g : h.length = 64) : fieldsZero (h ++ List.replicate 28096 0) = true := by
  have z (o n : Nat) (a : 64 ≤ o) (b : o + n ≤ 28160) : allZero (cut (h ++ List.replicate 28096 0) o n) = true := by
    rw [cut_zeros _ _ _ _ (by omega) (by omega), allZero_zeros]
  have f (o n : Nat) (a : 64 ≤ o) (b : o + n ≤ 28160) : fld (h ++ List.replicate 28096 0) o n = 0 := fld_zeros _ _ _ _ (by omega) (by omega)
  generalize h ++ List.replicate 28096 0 = b at z f
  simp only [fieldsZero, Bool.and_eq_true, decide_eq_true_eq, List.all_eq_true, List.mem_range]
  refine ⟨⟨⟨⟨⟨⟨⟨⟨⟨⟨?_, ?_⟩, ?_⟩, ?_⟩, ?_⟩, ?_⟩, ?_⟩, ?_⟩, ?_⟩, ?_⟩, ?_⟩
  all_goals first
    | exact z _ _ (by decide) (by decide)
    | exact fun i hi => z _ _ (by omega) (by omega)
    | (rw [f _ _ (by decide) (by decide)]; decide)
    | (intro i hi; rw [f _ _ (by omega) (by omega)]; decide)

/-- An image that is zero behind its head, and holds no tokens, has records with the zeros that they must have. -/
theorem recordsZero_zeros (h : List Byte) (g : h.length = 64) (t : fld (h ++ List.replicate 28096 0) 0x20 2 = 0) : recordsZero (h ++ List.replicate 28096 0) = true := by
  have z (o n : Nat) (a : 64 ≤ o) (b : o + n ≤ 28160) : cut (h ++ List.replicate 28096 0) o n = List.replicate n 0 := cut_zeros _ _ _ _ (by omega) (by omega)
  have f (o n : Nat) (a : 64 ≤ o) (b : o + n ≤ 28160) : fld (h ++ List.replicate 28096 0) o n = 0 := fld_zeros _ _ _ _ (by omega) (by omega)
  generalize h ++ List.replicate 28096 0 = b at z f t
  simp only [recordsZero, Bool.and_eq_true, decide_eq_true_eq, List.all_eq_true, List.mem_range]
  refine ⟨⟨⟨⟨?_, ?_⟩, ?_⟩, ?_⟩, ?_⟩
  · intro i hi; rw [z _ _ (by omega) (by omega)]; decide +kernel
  · intro i hi; rw [z _ _ (by omega) (by omega)]; decide +kernel
  · intro i hi; rw [f _ _ (by omega) (by omega), z _ _ (by omega) (by omega)]; exact ⟨by decide, allZero_zeros _⟩
  · intro i hi; rw [f _ _ (by omega) (by omega), z _ _ (by omega) (by omega)]; exact ⟨by decide, allZero_zeros _⟩
  · intro i hi; rw [t] at hi; omega

/-- A core section that is zero behind its head has the zeros that it must have. -/
theorem sectionOk_zeros (s : State) (k : Nat) (h : List Byte) (g : h.length = 32)
    (d : (let b := h ++ List.replicate 86368 0
      decide (fld b 0 4 = 0x4F4E5343) && decide (fld b 4 2 = 1) && decide (fld b 6 1 < 32) && allZero (cut b 7 1) && decide (fld b 8 4 = (ctxId k 0).toNat) &&
      decide (fld b 0x0C 2 = s.partOf k) && allZero (cut b 0x0F 1) && decide (fld b 0x10 2 ≤ 256) && decide (fld b 0x12 2 = 0) && allZero (cut b 0x14 4)) = true) :
    sectionOk s k (h ++ List.replicate 86368 0) = true := by
  have z (o n : Nat) (a : 32 ≤ o) (b : o + n ≤ 86400) : allZero (cut (h ++ List.replicate 86368 0) o n) = true := by
    rw [cut_zeros _ _ _ _ (by omega) (by omega), allZero_zeros]
  have f (o n : Nat) (a : 32 ≤ o) (b : o + n ≤ 86400) : fld (h ++ List.replicate 86368 0) o n = 0 := fld_zeros _ _ _ _ (by omega) (by omega)
  have c (o n p m : Nat) (a : 32 ≤ o) (b : o + n ≤ 86400) (i : p + m ≤ n) : cut (cut (h ++ List.replicate 86368 0) o n) p m = List.replicate m 0 := by
    rw [cut_zeros _ _ _ _ (by omega) (by omega)]
    simp only [cut, List.drop_replicate, List.take_replicate]
    congr 1; omega
  generalize h ++ List.replicate 86368 0 = b at d z f c
  simp only [Bool.and_eq_true, decide_eq_true_eq] at d
  obtain ⟨⟨⟨⟨⟨⟨⟨⟨⟨d1, d2⟩, d3⟩, d4⟩, d5⟩, d6⟩, d7⟩, d8⟩, d9⟩, d10⟩ := d
  simp only [sectionOk, Bool.and_eq_true, decide_eq_true_eq, List.all_eq_true, List.mem_range, Bool.or_eq_true]
  refine ⟨⟨⟨⟨⟨⟨⟨⟨⟨⟨⟨⟨⟨⟨⟨⟨⟨⟨⟨d1, d2⟩, d3⟩, d4⟩, d5⟩, d6⟩, d7⟩, d8⟩, ?_⟩, d10⟩, ?_⟩, ?_⟩, ?_⟩, ?_⟩, ?_⟩, ?_⟩, ?_⟩, ?_⟩, ?_⟩, ?_⟩
  all_goals first
    | exact z _ _ (by decide) (by decide)
    | (rw [f _ _ (by decide) (by decide)]; done)
    | (rw [f _ _ (by decide) (by decide)]; decide)
    | (rw [d9]; decide)
    | (intro i hi; rw [f _ _ (by omega) (by omega)]; decide)
    | (intro i hi; rw [d9] at hi; omega)
    | (intro i hi; rw [fld, c _ _ _ _ (by omega) (by omega) (by omega), c _ _ _ _ (by omega) (by omega) (by omega), ofBytes_zeros]; exact ⟨by decide, allZero_zeros _⟩)

/-- The heads of the four images. -/
theorem restoring_heads : ∀ i < 4,
    (let b := restoring.mem.get (0x100000 + 0x10000 * i) 64 ++ List.replicate 28096 0
     decide (fld b 0x20 2 = 0) && headOk restoring 0 b && decide (fld b 8 4 = (ctxId 0 i).toNat) && !(imagePly b) && !(imageRgn b)) = true ∧
    ∀ x ∈ restoring.mem.bytes, x.1 < 0x100000 + 0x10000 * i + 64 ∨ 0x100000 + 0x10000 * i + 64 + 28096 ≤ x.1 := by decide +kernel

theorem restoring_images : ∀ i < 0 + 4, 0 ≤ i → plainImage restoring 0 i (restoring.mem.get (0x100000 + 0x10000 * i) 0x6E00) = true := by
  intro i hi _
  obtain ⟨h, z⟩ := restoring_heads i hi
  have e : restoring.mem.get (0x100000 + 0x10000 * i) 0x6E00 = restoring.mem.get (0x100000 + 0x10000 * i) 64 ++ List.replicate 28096 0 := by
    rw [show 0x6E00 = 64 + 28096 from rfl, get_add, get_zeros _ _ _ z]
  have f := fieldsZero_zeros _ (get_length restoring.mem 64 (0x100000 + 0x10000 * i))
  have r := recordsZero_zeros _ (get_length restoring.mem 64 (0x100000 + 0x10000 * i))
  rw [e]
  generalize restoring.mem.get (0x100000 + 0x10000 * i) 64 ++ List.replicate 28096 0 = b at h f r
  simp only [Bool.and_eq_true, decide_eq_true_eq, Bool.not_eq_true'] at h
  simp only [plainImage, imageOk, List.append_nil, h.1.1.1.1, h.1.1.1.2, h.1.1.2, h.1.2, h.2, f, r h.1.1.1.1, decide_true, Bool.not_false, Bool.and_self]

/-- The bytes of the core section. -/
theorem section_bytes : (physRead restoring 0 0x140000 coreSize).1 = restoring.mem.get 0x140000 32 ++ List.replicate 86368 0 := by
  rw [physRead_value, show coreSize = 32 + 86368 from rfl, get_add, get_zeros restoring.mem 86368 (0x140000 + 32) (by decide +kernel)]

/-- They pass the checks in a state with the cores of the core under restore. -/
theorem section_ok (t : State) (c : t.cores = restoring.cores) : sectionOk t 0 (restoring.mem.get 0x140000 32 ++ List.replicate 86368 0) = true := by
  refine sectionOk_zeros t 0 _ (get_length _ _ _) ?_
  have p : t.partOf 0 = restoring.partOf 0 := by simp [State.partOf, State.core, c, dsCore]
  rw [p]
  decide +kernel

theorem witness_Restore :
    (restoreState.iod.sec.bootstat = 1 ∧ restoreState.iod.linkDown = false) ∧ (2 : Word).toNat % 4 = 2 ∧ (restoreState.core 0).regs.csw = none ∧ cswBase restoring 0 = 0x100000 ∧
    cswWay restoring 0 0 = .clear ∧ coreClear restoring 0 = true ∧ cswWay restoring 0 (fld (agentRead restoring 0 0x140000 coreSize).1 6 1) = .clear ∧ sectionOk (agentRead restoring 0 0x140000 coreSize).2 0 (agentRead restoring 0 0x140000 coreSize).1 = true ∧
    ∃ l u, loadAll 0 0x100000 4 0 (agentRead restoring 0 0x140000 coreSize).2 = .ok l u := by
  refine ⟨by decide +kernel, by decide +kernel, by decide +kernel, by decide +kernel, by decide +kernel, by decide +kernel, ?_⟩
  have e : agentRead restoring 0 0x140000 coreSize = physRead restoring 0 0x140000 coreSize := if_neg (by decide)
  rw [e, section_bytes]
  refine ⟨?_, section_ok _ (physRead_cores _ _ _ _), ?_⟩
  · decide +kernel
  exact loadAll_plain (by decide) 4 0 _ (physRead_reads _ _ _ _) (physRead_cores _ _ _ _) restoring_images

/-- Queue 5 of die 0 with EN and ING, one credit and two slots; REGBUF holds a queue descriptor of capacity 16 for partition 1, and on die 1 a stage descriptor. -/
def ingressState : State :=
  let s := bootedState.modQueue 5 fun x => { x with ctl := 0x00010009, cap := 2, credit := 1, reserved := 1, drops := 4 }
  let s := s.modRegs 0 fun r => { r with regbuf := [(2, 1), (4, 16)] }
  s.modRegs 1 fun r => { r with regbuf := [(0x12, 1), (0x14, 80), (0x16, 1), (0x18, 1), (0x21, 1)] }

theorem witness_IngressAndRegistration :
    let s := ingressState
    (s.iod.sec.bootstat = 1 ∧ s.iod.linkDown = false) ∧ portOpen (s.queue 5) = true ∧ portOpen (s.queue 6) = false ∧ 0 < (s.queue 5).credit ∧
    after (exec (.ingressToken 0 5 0x77 true) s) (fun t => decide ((t.queue 5).toks.length = 1 ∧ (t.queue 5).credit = 0) &&
      after (exec (.ingressToken 0 5 0x78 true) t) fun u => decide ((u.queue 5).drops = 5 ∧ (u.queue 5).toks.length = 1)) = true ∧
    (1 : Word).toNat + (s.queue 5).toks.length + (s.queue 5).reserved ≤ (s.queue 5).cap ∧ (s.queue 5).cap < (2 : Word).toNat + (s.queue 5).toks.length + (s.queue 5).reserved ∧
    after (exec (.creditRelease 0 5 9) s) (fun t => decide ((t.queue 5).credit = 0 ∧ (t.queue 5).reserved = 0)) = true ∧
    queueDescOk (regBytes (s.die 0).regs) = true ∧ queueDescOk (regBytes (s.die 1).regs) = false ∧ stageDescOk (regBytes (s.die 1).regs) = true ∧ stageDescOk (regBytes (s.die 0).regs) = false ∧
    after (exec (.regcmdQueue 0 5) s) (fun t => decide ((t.queue 5).cap = 16 ∧ (t.die 0).regs.regst = 1)) = true := by decide +kernel

theorem witness_HostRegisterWrites :
    let s := (bootedState.modPart 1 fun p => { p with partclu := 0x8000000000000001 }).modHead 0 fun x => { x with htim := 0x1000140000640040, hpclk := 1000, line := 9 }
    (s.iod.sec.bootstat = 1 ∧ s.iod.linkDown = false) ∧ (s.part 1).partclu.getLsbD 63 = true ∧ (s.part 2).ending = none ∧ (∀ x ∈ s.parts, x.1 ≠ 2 → Part.holds x.2 &&& (0x8000000000000002 : Word).toNat % 2 ^ 20 = 0) ∧ (∃ x ∈ s.parts, x.1 ≠ 2 ∧ Part.holds x.2 &&& (0x8000000000000003 : Word).toNat % 2 ^ 20 ≠ 0) ∧
    after (exec (.partitionSetup 2 0x8000000000000002) s) (fun t => decide ((t.part 2).partclu = 0x8000000000000002)) = true ∧
    gives (exec (.partitionSetup 2 0x8000000000000003) s) s = true ∧ (∀ x ∈ endingCtxs s 1 1, (s.ctx x.1 x.2).hold = false ∧ (s.ctx x.1 x.2).going = none) ∧ 0 ∈ maskCores 1 ∧ s.partOf 0 = 1 ∧
    after (exec (.partitionEnd 1) s) (fun t => decide ((t.part 1).partclu = 0 ∧ (t.part 1).ending = none ∧ t.partOf 0 = 0)) = true ∧
    (let s := s.modCtx 0 0 fun c => { c with going := some {} }
     (∃ x ∈ endingCtxs s 1 1, (s.ctx x.1 x.2).run = .run ∧ (s.ctx x.1 x.2).going ≠ none) ∧ after (exec (.partitionEnd 1) s) (fun t => decide ((t.part 1).ending = some 1 ∧ t.partOf 0 = 1)) = true) ∧
    (s.ctx dsCore 0).run = .off ∧ leadsOk 0x0008040201000001 = true ∧ leadsOk 1 = false ∧ (s.iod.head 0).hctl.getLsbD 0 = false ∧ s.iod.sec.attst.testBit 0 = false ∧ s.iod.sec.index < 2 ^ 20 ∧
    timingOk (s.iod.head 1) = false ∧ after (exec (.attcmd 0x5000) s) (fun t => decide (t.iod.sec.attst = 1)) = true ∧
    (let s := s.modSec fun y => { y with attst := 1, report := 0x5000 }
     reaching s 4 s.iod.sec.report = .clear ∧ rangeReserved s.iod.sec.report 4096 = false) ∧
    after (exec (.svncommit 1) (s.modSec fun y => { y with svn := 3 })) (fun t => decide (t.iod.sec.fwsvn = 3)) = true ∧
    after (exec (.registerWrite 0x1400000 0x4000000000001003) (s.modCtx 0 0 fun c => { c with run := .off })) (fun t => decide ((t.ctx 0 0).run = .run ∧ (t.ctx 0 0).pc = 0x1002)) = true ∧
    after (exec (.registerWrite 0x1400010 0xF3) s) (fun t => decide ((t.core 0).regs.dbgstop = 3)) = true ∧
    after (exec (.registerWrite 0x5001038 0x70000) s) (fun t => decide ((t.part 1).fltring.tail = 7)) = true ∧
    gives (exec (.registerWrite 0x40001 5) s) s = true := by decide +kernel

/-- Partition 1 with its root table at 0x200000, which leads to a leaf for page 0 at 0x220000; context 0 of core 0 fetches there, a walk request of core 0 has been due for long, and an invalidation is under way. -/
def walkState : State :=
  let s := bootedState.modPart 1 fun p => { p with
    troot := 0x200001, duties := [{ func := 1, tag := 3, wait := 5, at_ := 0 }, { func := 0, tag := 4, what := 0x70000 }], tinvs := [(0x10000, [])] }
  let s := (s.modCore 0 fun c => { c with xlats := [] }).modDie 0 fun d => { d with dlc := 5, regs := { d.regs with migdst := 0x40000 } }
  { s with mem := ((((s.mem.set 0x200000 [0x01, 0x00, 0x21]).set 0x210000 [0x01, 0x00, 0x22]).set 0x220000 [0x7B, 0x03]).set 0x5000 [7]).setL2 0 (2 ^ 51 / 128) { st := .e } }

theorem witness_MemoryEvents :
    let s := walkState
    (∃ r u, walkDue s 0 0x1000 .fetch false = true ∧ hostWalk s 0 0x1000 .fetch (fun e => permits e .fetch false) = .ok r u) ∧
    after (exec (.pageWalk 0 0x1000 .fetch false) s) (fun t => decide ((t.core 0).xlats.length = 1)) = true ∧
    (dutyOf s 1 3).any (fun x => dutyDue s x) = true ∧ after (exec (.dutyWaitExpiry 1 3) s) (fun t => decide (dutyOf t 1 3 = none)) = true ∧
    (dutyOf s 1 4).any (fun x => x.reply.isNone && !x.expired && !x.stale && !(dutyDue s x) && decide (x.func = 0 ∧ (s.die x.die).walkq = [])) = true ∧
    after (exec (.dutyReply 1 0x0004000000000201) s) (fun t => (dutyOf t 1 4).any fun y => decide (y.reply = some (1, 2, 0))) = true ∧
    (s.part 2).tinvs = [] ∧ (s.part 1).tinvs ≠ [] ∧ accessesOver s 1 (tinvRange 0x10000) = true ∧ walkBehind s 1 = false ∧ (s.part 1).duties.all (fun x => !x.inFlight || !([] : List Nat).contains x.tag) = true ∧ after (exec (.tinvComplete 1) s) (fun t => decide ((t.part 1).tinvs = [])) = true ∧
    (s.mem.l2At 0 (2 ^ 51 / 128)).st = .e ∧ after (exec (.snpdata 0 (2 ^ 51)) s) (fun t => decide ((t.mem.l2At 0 (2 ^ 51 / 128)).st = .s)) = true ∧
    after (exec (.snpcur 0 (2 ^ 51)) s) (fun t => decide ((t.mem.l2At 0 (2 ^ 51 / 128)).st = .e)) = true ∧
    after (exec (.hostWriteDeviceMemory 0x5000 9) s) (fun t => decide (t.mem.val 0x5000 8 = 9)) = true ∧
    (s.die 0).regs.migst ≠ 1 ∧ (s.iod.sec.bootstat = 1 ∧ s.iod.linkDown = false) ∧ (match (findLeaf s 0 1 0 .read).1 with | .found e lv _ => decide (lv = 2 ∧ e.testBit 7 = false ∧ entryAddr e = 0 ∧ homeDie 0 = 0) | _ => false) = true ∧ crossing s 0 (homeDie (s.die 0).regs.migdst) = .clear ∧
    (let s := s.modDie 0 fun d => { d with mig := some { part := 1, va := 0, src := 0, dst := 0x40000, entry := 0x220000, leaf := 0x37B, version := 0, stage := .copied } }
     (s.die 0).mig.any (fun g => accessesOver s g.part (g.va / 65536, 1)) = true ∧ reaching s 0 0x220000 = .clear ∧ rangeReserved 0x220000 8 = false ∧
     Tab.look 0 (s.die 0).versions 0 = 0 ∧ leafCore (s.mem.val 0x220000 8) = leafCore 0x37B ∧ leafCore (s.mem.val 0x220000 8) ≠ leafCore 0x1037B ∧
     after (exec (.migrationCommit 0) s) (fun u => decide ((u.die 0).regs.migst = 2 ∧ u.mem.val 0x220000 8 = 0x4037B)) = true) := by
  refine ⟨?_, by decide +kernel⟩
  obtain ⟨r, u, h⟩ := of_isOk (r := hostWalk walkState 0 0x1000 .fetch (fun e => permits e .fetch false)) (by decide +kernel)
  exact ⟨r, u, by decide +kernel, h⟩

/-- Two dirty lines of the page of a descriptor of zeros, which has no chunks: one of zeros, which fits, and one that does not; element 9 asks for an addition at a slot of partition 1. -/
def compressedState : State :=
  let s := bootedState.modFab 0 fun f => { f with reqs := [(9, [{ kind := .occl, ea := 0x41, opnd := 0xFFFFFFFF }])] }
  let s := s.modRegs 0 fun r => { r with owners := [(1, 0x1001)], occs := [(0x41, 5)], clears := [(0x40, 0x80)] }
  { (s.setPool 0 0 { free := [0x3000], rsvt := 1 }) with
    mem := { s.mem with cmp := [{ desc := 0x80000, line := 0, bytes := List.replicate 128 0, part := 1, die := 0 }, { desc := 0x80000, line := 3, bytes := List.replicate 128 1, part := 1, die := 0 }] } }

/-- The second of its lines has outgrown its slot and its page is locked; the pool has no chunk, or one, and slack s. -/
def outgrownState (free : List Nat) (slack : Nat) : State :=
  let s := compressedState.setPool 0 0 { free := free, slack := slack }
  { s with mem := { s.mem.set 0x80240 [1] with cmp := s.mem.cmp.map fun l => if l.line = 3 then { l with outgrown := true } else l } }

/-- What the statement asks of the line and its page. -/
def relaid (s : State) (enough : Bool) : Bool :=
  let l : CmpLine := { desc := 0x80000, line := 3, bytes := List.replicate 128 1, part := 1, die := 0, outgrown := true }
  let q := s.pool 0 0
  let size (b : Nat) : Nat := if b = 1 then (cmpPack (mergedBlock s.mem l)).1 else cmpSize s.mem 0x80000 b
  let need := (((List.range 256).map fun b => min 8 (size b + min 2 q.slack)).sum + 127) / 128
  decide (s.mem.cmp[1]? = some l) && cmpLock s.mem 0x80000 && cmpOk s.mem 0x80000 && !(s.part 1).fltring.en && !s.iod.hostRing.en &&
  (cmpChunks s.mem 0x80000 ++ q.free ++ q.reserve).all (fun c => decide (c % 4096 = 0 ∧ 0 < c ∧ c < 2 ^ 38 ∧ (c + 4096 ≤ 0x80000 ∨ 0x80000 + 1024 ≤ c))) &&
  decide (enough = decide (need ≤ q.free.length + q.reserve.length + (cmpChunks s.mem 0x80000).length))

theorem witness_PageRelayout :
    relaid (outgrownState [0x3000] 0) true = true ∧ relaid (outgrownState [] 0) false = true := by decide +kernel

theorem witness_CompressionAndOcclusionEvents :
    let s := compressedState
    s.mem.cmp.all (fun l => cmpOk s.mem l.desc && !(cmpLock s.mem l.desc) && !(cmpBroken s.mem l.desc)) = true ∧ s.mem.cmp.map (lineFits s.mem) = [true, false] ∧ s.mem.cmp.map (writebackWaits s.mem) = [false, false] ∧ s.mem.cmp.map (writebackWay s) = [.clear, .clear] ∧ (((s.core 0).fab.reqsOf 9)[0]?).any (reqMay s 0) = true ∧ (s.part 1).dutyctl.getLsbD 2 = false ∧
    after (exec (.compressedWriteback 1) s) (fun t => decide (t.mem.val 0x80240 8 = 1) && (t.mem.cmp[1]?).any (fun l => l.outgrown && l.duty.isNone) && cmpLock t.mem 0x80000 &&
      after (exec (.pageRelayout 1) t) fun u => decide (u.mem.cmp.length = 1)) = true ∧
    ((s.die 0).ownsOcc (s.partOf 0) 0x41 = true) ∧ after (exec (.occlSlotAdd 0 9 0) s) (fun t => decide (Tab.look 0 (t.die 0).regs.occs 0x41 = 0xFFFFFFFE)) = true ∧
    (0x3000 < 2 ^ 38 ∧ tileOf 0 = 0) ∧ after (exec (.chunkpush 0 0 0x100000) s) (fun t => decide ((t.pool 0 0).reserve = [0x100000])) = true ∧
    after (exec (.chunkpop 0 0) s) (fun t => decide ((t.pool 0 0).free = [])) = true ∧ after (exec (.occclrStep 0) s) (fun t => decide (Tab.look 0 (t.die 0).regs.occs 0x41 = 0 ∧ (t.die 0).regs.clears = [(0x80, 0x80)])) = true ∧
    (let l : CmpLine := { desc := 0x80000, line := 0, bytes := List.replicate 128 0, part := 1, die := 0 }
     let m := s.mem.set 0x80240 [2]
     cmpOk m l.desc = true ∧ cmpLock m l.desc = false ∧ cmpBroken m l.desc = true) := by decide +kernel

/-- Core 0 with element 9 of ply 0: a token on its way, a slot grant, a far route with two passes, messages, a selection token, a drain marker at its input and a snapshot marker. -/
def fabricState (m : Mark := .drain) : State :=
  let s := (elemState .nop).modPly 0 0 fun p => { p with
    fars := [(1, { out := true, passes := [[{ data := 5 }], []] })], routes := p.routes ++ [{ src := .chan 8 0, back := false, dests := [.chan 9 0] }]
    draining := decide (m = .drain), rules := [], entry := some (.chan 9 2) }
  let s := s.modFab 0 fun f => { f with
    flights := [{ dst := .chan 9 2, tok := { data := 9 }, prod := 0 }], chans := [(36, { toks := [{ data := 7, mark := m }] }), (38, { toks := if m = .drain then [{ mark := .drain }] else [], grants := [{ prod := 0, seen := true }] })]
    selq := [({ data := 1, ply := 0 }, 0)] }
  let s := s.modCtx 0 0 fun c => { c with region := some { strand := true, blocks := [{ image := 0, queue := 1, thresh := 1 }, { image := 0x8000, queue := 2, thresh := 1 }] } }
  let s := s.modPort 0 fun p => { p with handlers := [(1, 0x1091)], inbox := [{ msg := 0x00010000000000330000000000000044#128, entry := some 0x1091 }] }
  { s with net := [{ src := 0, msg := 0x00010000000000000000000000000077#128, part := 1 }] }

theorem witness_TokenAndMessageEvents :
    (let s := fabricState .snap
     ((s.core 0).fab.flights[0]?).any (fun f => decide (f.dst = .chan 9 2 ∧ f.tok.mark = .none ∧ f.tok.e = false)) = true ∧
     after (exec (.tokenArrival 0 0) s) (fun t => decide (((t.core 0).fab.chan 38).toks.length = 1 ∧ (t.core 0).fab.flights = [])) = true ∧ ((s.core 0).fab.chan 38).grants[0]? = some { prod := 0, seen := true } ∧
     (Tab.find (s.ply 0 0).fars 1).any (fun x => decide (x.pass 0 = [{ data := 5 }] ∧ 0 + 1 < x.passes.length ∧ (x.pass 1).length < 8)) = true ∧
     (s.net[0]?).any (fun x => decide (msgTo x.msg = .core 0 ∧ x.rest = [] ∧ msgKind x.msg = 0 ∧ Tab.find (s.core 0).port.handlers (msgIndex x.msg) = some 0x1091)) = true ∧
     crossing s (accessDie 0) (dieOf 0) = .clear ∧ entryOpen s 0 0x1091 = true ∧ (s.core 0).port.second = none ∧ handlerTarget 0x1091 = (0, 9, 1) ∧ ((s.ply 0 0).elem 9).stopped = false ∧
     after (exec (.handlerDelivery 0) s) (fun t => decide (((t.core 0).fab.chan 37).toks.length = 1) && (t.core 0).port.second.any (fun y => decide (y.2.data = 0x33))) = true ∧
     (s.ctx 0 0).latch = none ∧ (strandOf s 0 0).isSome = true ∧ after (exec (.selectionPortToken 0) s) (fun t => (t.ctx 0 0).region.any fun g => decide (g.override = some 1)) = true ∧
     (s.core 0).fab.firingsAt 0 9 = [] ∧ ((s.ply 0 0).elem 9).markDue = 0 ∧ (s.ply 0 0).st = .active ∧ (s.ply 0 0).frozen = false ∧
     (emitMask ((saveCut s 0 0 9 7).modChan 0 36 fun h => { h with toks := h.toks.eraseP fun x => decide (x.ply = 0) }) 0 0 9 15 { data := w64 7, ply := 0, mark := .snap } none).isSome = true ∧
     markInputs (s.ply 0 0) 9 = [0] ∧ cutAtHead (s.core 0).fab 0 9 0 = some 7 ∧ after (exec (.snapshotSave 0 0 9) s) (fun t => decide (((t.core 0).fab.chan 36).toks = []) && (Tab.look [] (t.ply 0 0).snaps 9).any fun x => decide (x.cut = 7)) = true) ∧
    (let s := fabricState
     (s.ply 0 0).draining = true ∧ 9 ∈ drainNodes (s.ply 0 0) ∧ 9 ∉ (s.ply 0 0).forwarded ∧ (∃ u, forwardElem s 0 0 9 = some u) ∧ after (exec (.drainMarkerForward 0 0 9) s) (fun t => decide (9 ∈ (t.ply 0 0).forwarded)) = true) :=
  ⟨by decide +kernel, by decide +kernel, by decide +kernel, by decide +kernel, some_of (by decide +kernel), by decide +kernel⟩

/-- An engine command in a message: a record of CPY at 0x40 of page 0. -/
theorem witness_RemoteEngineCommand :
    let m := 0x20000000000000400000000000000000#128
    let s0 := seqState.modPort 0 fun p => { p with remote := [{ msg := m }] }
    let s := { s0 with mem := s0.mem.set 0x40 (bytesOfWord 0xB00C1F0886100002) }
    let bs := bytesOfWord 0xB00C1F0886100002 ++ List.replicate 24 0
    (s.core 0).port.remote = [{ msg := m }] ∧ nbits (msgIndex m) 0 2 = 0 ∧ ((s.core 0).engine 0).queue.length + (s.core 0).fab.coming (.engine 0) < 8 ∧ (∃ u, vreadMany 0 .read true 1 32 (msgCont m) s = .ok bs u) ∧
    (∃ c, remoteCmd 0 0 bs = some c) ∧ after (exec (.remoteEngineCommand 0) s) (fun t => decide (((t.core 0).engine 0).queue.length = 1)) = true :=
  ⟨by decide +kernel, by decide +kernel, by decide +kernel, ⟨_, ok_of (by decide +kernel)⟩, some_of (by decide +kernel), by decide +kernel⟩

/-- A strand region of context 0 whose block 1 runs on ply 0, with a strand in its queue; the same with none running; and a region that has reported. -/
def strandState (run : Option Nat) : State :=
  let s := plyState.modPly 0 0 fun p => { p with entry := some (.chan 9 0) }
  let s := s.modCtx 0 0 fun c => { c with region := some { rcb := 0x9000, strand := true, running := run, blocks := [{ image := 0x8000, queue := 1, thresh := 9 }, { image := 0x8040, queue := 2, thresh := 9 }] } }
  s.modQueue 2 fun x => { x with toks := [{ tok := 0x55, dl := {} }] }

theorem witness_CommitAndRegionEvents :
    (let s := plyState.modCtx 0 0 fun c => { c with latch := some { ply := 1, commit := some 0x1010 }, hold := true, bound := none }
     (s.ctx 0 0).latch = some { ply := 1, commit := some 0x1010 } ∧ stagedFor s 0 0 1 = true ∧ (s.ctx 0 0).bound = none ∧
     after (exec (.plyCommit 0 0) s) (fun t => decide ((t.ctx 0 0).bound = some 1 ∧ (t.ctx 0 0).pc = 0x1010)) = true) ∧
    (let s := plyState.modCtx 0 0 fun c => { c with region := some { rcb := 0x9000, mark := some (0, [], 0) } }
     accessesDone s 0 0 (0, [], 0) = true ∧ (s.ctx 0 0).region.any (fun g => !g.served) = true ∧ (sliceOn s 0 0).isNone = true ∧ (∃ u, storeState s 0 0x9000 2 true = .ok () u) ∧ after (exec (.regionComplete 0 0) s) (fun t => (t.ctx 0 0).region.any fun r => decide (r.state = .done)) = true) ∧
    (let s := plyState.modCtx 0 0 fun c => { c with latch := some { ply := 1, commit := some 0x1010 }, hold := true }
     let s := s.modPly 0 0 fun p => { p with draining := true, forwarded := drainNodes p }
     (s.ctx 0 0).bound = some 0 ∧ plyQuiet s 0 0 = true ∧ stagedFor s 0 0 1 = true ∧ after (exec (.plyCommit 0 0) s) (fun t => decide ((t.ctx 0 0).bound = some 1 ∧ (t.ply 0 0).st = .free)) = true) ∧
    (let s := plyState.modCtx 0 0 fun c => { c with region := some { rcb := 0x9000, doneva := 0x9100, doneval := 7, mark := some (0, [], 0) } }
     ∃ v u, vwrite s 0 0x9100 (bytesLE 7 8) true = .ok () v ∧ storeState v 0 0x9000 2 true = .ok () u ∧ sliceOn u 0 0 = none) ∧
    (let s := (strandState none).modCtx 0 0 fun c => { c with region := c.region.map fun g => { g with choice := some 0 } }
     (s.ctx 0 0).region.any (fun g => decide (chooseBlock s 0 g = some 1)) = true ∧ after (exec (.blockChoice 0 0) s) (fun t => decide ((t.ply 0 2).image = 0x8000 ∧ (t.ply 0 2).loader = some 0)) = true) ∧
    (let s := strandState none
     (s.ctx 0 0).latch = none ∧ (s.ctx 0 0).region.any (fun g => decide (chooseBlock s 0 g = some 1) && g.block.isNone) = true ∧ (∀ p < 4, (s.ply 0 p).st ≠ .loading) ∧ plyToLoad s 0 0 true 0 = some 2 ∧
     after (exec (.blockChoice 0 0) s) (fun t => decide ((t.ply 0 2).st = .loading ∧ (t.ply 0 2).loader = some 1)) = true) ∧
    (let s := strandState (some 1)
     (s.queue (localQueue 0 2)).toks = [{ tok := 0x55, dl := {} }] ∧ (s.ply 0 0).st = .active ∧ msgKind 0x55 = 0 ∧
     (∃ u, portPut (s.modQueue (localQueue 0 2) fun y => { y with toks := [] }) 0 9 0 { data := w64 (msgOperand 0x55), ply := 0, port := true } = some u) ∧
     after (exec (.strandDelivery 0 0) s) (fun t => decide (((t.core 0).fab.chan 36).toks.length = 1)) = true) :=
  ⟨by decide +kernel, ⟨by decide +kernel, by decide +kernel, by decide +kernel, ⟨_, ok_of (by decide +kernel)⟩, by decide +kernel⟩, by decide +kernel,
    ⟨_, _, ok_of (by decide +kernel), ok_of (by decide +kernel), by decide +kernel⟩, by decide +kernel, by decide +kernel,
    by decide +kernel, by decide +kernel, by decide +kernel, some_of (by decide +kernel), by decide +kernel⟩

/-- Partition 1 owns cluster 0 of die 0, whose context 0 of core 0 runs; queue 5 is its home queue with a token. -/
def schedState : State :=
  let s := (seqState.modPart 1 fun p => { p with partclu := 0x8000000000000001 }).modCore 0 fun c => { c with regs := { c.regs with servers := 6 } }
  s.modQueue 5 fun x => { x with ctl := 0x00010001, cap := 4, toks := [{ tok := 0x55, dl := {} }] }

/-- The same with a decision of context 0's partition. -/
def decidingState (x : Decision) : State := schedState.modDie 0 fun d => { d with disps := [(0, { decs := [x] })] }

/-- The same with a slice of queue 5 on context 0 of core 0. -/
def slicedState (x : Slice) : State := schedState.modDie 0 fun d => { d with slices := [(7, x)] }

theorem witness_SchedulerEvents :
    (let s := schedState
     clusterPart s 0 0 = 1 ∧ eligibleQueues s 0 0 (stealDie (s.part 1)) (stealPkg (s.part 1)) = [5] ∧ isOk (queueBudgets 0 0 (candidateQueues s [5]) s) = true ∧ (s.disp 0 0).decs.length < 4 ∧ dispatchesIn s 0 0 < idleServers s 0 0 ∧ (s.part 1).dutyctl.getLsbD 1 = false ∧
     after (exec (.dispatchDecisionStart 0 0) s) (fun t => ((t.disp 0 0).decs[0]?).any fun x => decide (x.ids = [5] ∧ x.kind = .dispatch)) = true) ∧
    (let s := decidingState { kind := .dispatch, part := 1, prog := some { budget := 20 }, time := 20, builtin := (0, 0), ids := [5], eligible := [5] }
     (s.decision 0 0 0).any (fun x => x.verdict.isNone && x.host.isNone && x.prog.any fun p => decide (p.budget ≤ x.time)) = true ∧
     after (exec (.policyBudgetExpiry 0 0 0) s) (fun t => decide ((t.part 1).policy.ovr = 1) && (t.decision 0 0 0).any fun x => decide (x.verdict = some (0, 0))) = true) ∧
    (let s := decidingState { kind := .dispatch, part := 1, verdict := some (1, 0) }
     (s.decision 0 0 0).any (fun x => decide (x.kind = .dispatch ∧ x.verdict = some (1, 0))) = true ∧ after (exec (.decisionCommit 0 0 0) s) (fun t => decide ((t.disp 0 0).decs = [])) = true) ∧
    (let s := schedState.modQueue 5 fun x => { x with toks := [{ tok := 0x50010000000000000000000000008040, dl := {} }] }
     isLaunch 0x50010000000000000000000000008040 = true ∧ (s.queue 5).en = true ∧ msgOperand 0x50010000000000000000000000008040 % 64 = 0 ∧
     after (exec (.launchToken 0 5) s) (fun t => decide ((t.queue 5).image = 0x8040 ∧ (t.queue 5).toks = [])) = true) ∧
    (let x : Slice := { queue := 5, messages := true }
     let s := slicedState x
     Tab.find (s.die 0).slices 7 = some x ∧ x.spent s = false ∧ isLaunch 0x55 = false ∧ (∃ u, sliceToken (s.modQueue 5 fun q => { q with toks := [] }) 7 x 0x55 = some u) ∧
     after (exec (.sliceTokenDelivery 0 7) s) (fun t => decide ((t.queue 5).toks = [])) = true) ∧
    (let s := slicedState { queue := 5, messages := true, closed := true }
     (Tab.find (s.die 0).slices 7).any (fun x => sliceDry s x && !x.loading && !x.exhausted) = true ∧ (s.core 0).port.holds 7 = false ∧ after (exec (.sliceEnd 0 7) s) (fun t => decide ((t.die 0).slices = [])) = true) ∧
    (let s := (slicedState { queue := 5, ply := some 0, budget := some 1, used := 1 }).modCtx 0 0 fun c => { c with bound := some 0, region := some {} }
     (sliceOn s 0 0).any (fun x => !x.2.loading && !x.2.exhausted && x.2.ply.isSome && x.2.budget.any fun b => decide (b ≤ x.2.count s)) = true ∧
     after (exec (.budgetExhaustion 0 0) s) (fun t => (Tab.find (t.die 0).slices 7).any (·.exhausted)) = true) ∧
    (let s := schedState.modDie 0 fun d => { d with stages := [(3, { queue := 5, maxc := 0, minc := 1, period := 256, next := 0, grow := 0, shrink := 9 })] }
     (Tab.find (s.die 0).stages 3).any (fun x => decide (0 < x.period ∧ x.next ≤ (s.plain 0 0).ac ∧ x.maxc ≤ x.cores.length ∧ x.cores = [])) = true ∧
     after (exec (.placementSample 0 3) s) (fun t => (Tab.find (t.die 0).stages 3).any fun y => decide (y.above = 1 ∧ y.below = 1 ∧ y.next = 256)) = true) ∧
    (let s := schedState.modCore 16 fun c => { c with part := 1 }
     let x : Stage := { queue := 5, image := 0x8000, maxc := 1, minc := 1, period := 256, next := 0, grow := 0, shrink := 0, hyst := 1 }
     let s := s.modDie 0 fun d => { d with stages := [(3, x)] }
     x.hyst ≤ x.above + 1 ∧ x.grow < (s.queue 5).toks.length ∧ (s.queue 5).partid = 1 ∧ stageGrows s 0 3 = false ∧ stageCore s 0 1 x = some 16 ∧
     after (exec (.placementSample 0 3) s) (fun t => decide ((t.ply 16 0).st = .loading ∧ (t.ply 16 0).image = 0x8000)) = true) ∧
    (let s := (slicedState { queue := 5, ply := some 0, closed := true }).modCtx 0 0 fun c => { c with bound := some 0, region := some { slice := some (0, 7) } }
     (Tab.find (s.die 0).slices 7).any (fun x => sliceDry s x && !x.loading && !x.exhausted && x.stage.isNone) = true ∧ plyIdle s 0 0 = true ∧ faultOpen s 0 0 = false ∧ (s.ctx 0 0).switch.isNone = true ∧
     after (exec (.sliceEnd 0 7) s) (fun t => (t.ctx 0 0).region.any fun g => g.slice.isNone) = true) ∧
    (let s := schedState.modPart 1 fun p => { p with policy := { p.policy with swp := true, staged := .builtin, gen := 255 } }
     0 ∈ partDies s 1 ∧ after (exec (.swapTokenArrival 1 0) s) (fun t => decide ((t.part 1).policy.switched = [0]) &&
       after (exec (.swapDieAck 1 0) t) fun u => decide ((u.part 1).policy.acked = [0]) && after (exec (.swapComplete 1) u) fun v => decide ((v.part 1).policy.gen = 0 ∧ (v.part 1).policy.active = .builtin)) = true) := by
  refine ⟨by decide +kernel, by decide +kernel, by decide +kernel, by decide +kernel, ⟨by decide +kernel, by decide +kernel, by decide +kernel, some_of (by decide +kernel), by decide +kernel⟩, ?_⟩
  decide +kernel

/-- A PICK of queue 5, whose IMAGE is given. -/
def pickState (image : Word) : State :=
  (decidingState { kind := .dispatch, part := 1, verdict := some (0, 0), ids := [5], eligible := [5], cands := [[]] }).modQueue 5 fun x => { x with image := image }

/-- Context 1 of core 0 is a WARM server that holds 0x8040 on ply 2. -/
def warmUp (s : State) : State :=
  (s.modCtx 0 1 fun c => { c with bound := some 2, region := some {} }).modPly 0 2 fun p => { p with st := .active, ctx := 1, image := 0x8040 }

theorem witness_Picks :
    (let s := pickState 0
     (s.decision 0 0 0).any (fun x => decide (x.kind = .dispatch ∧ x.verdict = some (0, 0) ∧ x.ids[0]? = some 5 ∧ 0 < x.cands.length) && (eligibleQueues s 0 0 x.stealDi x.stealPk).contains 5) = true ∧ suspendedOf s 5 = none ∧
     (serversOf s 0 0 .free).head? = some (0, 1) ∧ after (exec (.decisionCommit 0 0 0) s) (fun t => t.dies.any fun d => d.2.slices.any fun y => decide (y.2.queue = 5 ∧ y.2.ctx = 1) && y.2.messages) = true) ∧
    (let s := warmUp (pickState 0x8040)
     (eligibleQueues s 0 0 false false).contains 5 = true ∧ suspendedOf s 5 = none ∧ warmHolds s 0 0 0x8040 = some (0, 1) ∧ (s.ctx 0 1).bound = some 2 ∧ (s.ctx 0 1).region.isSome = true ∧
     after (exec (.decisionCommit 0 0 0) s) (fun t => t.dies.any fun d => d.2.slices.any fun y => decide (y.2.queue = 5 ∧ y.2.ply = some 2) && !y.2.loading) = true) ∧
    (let s := pickState 0x8040
     (eligibleQueues s 0 0 false false).contains 5 = true ∧ suspendedOf s 5 = none ∧ warmHolds s 0 0 0x8040 = none ∧ freeServerWithPly s 0 0 = some (0, 1, 0) ∧
     after (exec (.decisionCommit 0 0 0) s) (fun t => decide ((t.ply 0 0).st = .loading ∧ (t.ply 0 0).ctx = 1 ∧ (t.ply 0 0).image = 0x8040)) = true) := by decide +kernel

/-- A pre-emption of slice 7 on ply 0 of context 0 of core 0 for queue 5, whose image is 0x8040; a save slot is free. -/
def victimState (v : Nat × Nat) : State :=
  let s := decidingState { kind := .preempt, part := 1, verdict := some v, ids := [7], cands := [[]], subjQ := 5 }
  let s := (s.modDie 0 fun d => { d with slices := [(7, { queue := 6, ply := some 0 })] }).modPart 1 fun p => { p with savepool := 0x100004 }
  let s := (s.modCore 0 fun c => { c with regs := { c.regs with servers := 3 } }).modQueue 5 fun x => { x with image := 0x8040 }
  (s.modCtx 0 0 fun c => { c with bound := some 0, region := some {}, run := .off }).modPly 0 0 fun p => { p with st := .active }

theorem witness_Preempts :
    (let s := warmUp (victimState (2, 0))
     let u := s.modDisp 0 0 fun p => { p with decs := p.decs.drop 1 }
     (s.decision 0 0 0).any (fun x => decide (x.kind = .preempt ∧ x.verdict = some (2, 0) ∧ x.ids[0]? = some 7 ∧ x.server = none ∧ 0 < x.cands.length)) = true ∧ (homeQueues u 0 0).contains 5 = true ∧
     (Tab.find (u.die 0).slices 7).any (fun y => decide (y.core = 0 ∧ y.ply = some 0) && !y.messages && !y.loading) = true ∧ (u.ctx 0 0).switch = none ∧ plyServer u 0 5 = some (1, true) ∧ (u.ctx 0 1).bound.isSome = true ∧
     (u.ctx 0 1).region.isSome = true ∧ after (exec (.decisionCommit 0 0 0) s) (fun t => (t.die 0).slices.any fun z => decide (z.2.queue = 5 ∧ z.2.ctx = 1)) = true) ∧
    (let s := (victimState (2, 0)).modFab 0 fun f => { f with plies := (List.range 4).map fun p => (p, ({ f.ply p with st := .active } : Ply)) }
     let u := s.modDisp 0 0 fun p => { p with decs := p.decs.drop 1 }
     (homeQueues u 0 0).contains 5 = true ∧ (u.ctx 0 0).switch = none ∧ plyServer u 0 5 = none ∧ freeSlot u (u.partOf 0) = some 0 ∧ farBound u 0 0 = false ∧
     after (exec (.decisionCommit 0 0 0) s) (fun t => (t.ctx 0 0).switch.any (fun r => decide (r.slot = 0 ∧ r.queue = 5)) && decide (0 ∈ (t.part 1).slots)) = true) ∧
    (let s := victimState (3, 0)
     after (exec (.decisionCommit 0 0 0) s) (fun t => decide ((t.disp 0 0).decs = [] ∧ (t.die 0).slices = (s.die 0).slices)) = true) := by decide +kernel

/-- Every server of the cluster is busy and serves a slice that is no better than the queue waiting. -/
theorem witness_Preemption :
    let s := schedState.modDie 0 fun d => { d with slices := [], disps := [(0, { newly := [5] })] }
    let busy := { s with cores := (List.range 16).map fun k => (k, { s.core k with part := 1, ctxs := (List.range 4).map fun n => (n, { s.ctx k n with run := .run }) }) }
    idleServers busy 0 0 = 0 ∧ 5 ∈ homeQueues busy 0 0 ∧ 5 ∈ (busy.disp 0 0).newly ∧ isOk (queueBudgets 0 0 [5] busy) = true ∧ openYields busy 0 0 = [] ∧ mayPreempt busy 0 0 = true ∧ (busy.part 1).dutyctl.getLsbD 1 = false ∧
    after (exec (.preemptionDecisionStart 0 0 5) busy) (fun t => ((t.disp 0 0).decs[0]?).any fun x => decide (x.kind = .preempt ∧ x.subjQ = 5)) = true := by decide +kernel

/-- A slice on ply 0 of core 0 with a fault of element 9 that awaits a decision, or one that has a verdict. -/
def faultState (f : FaultRef) : State :=
  let s := (elemState .nop).modPart 1 fun p => { p with partclu := 0x8000000000000003, savepool := 0x100004, faults := [f] }
  let s := s.modPly 0 0 fun p => { p with routes := [{ src := .chan 9 0, back := false, dests := [.chan 10 1] }], rules := [(8, [(0, { trig := 0x10000010 })]), (9, []), (10, [])] }
  let s := (s.modCtx 0 0 fun c => { c with bound := some 0, region := some {} }).modPly 0 0 fun p => { p with snaps := [(9, [{ cut := 5, st := {} }]), (10, [{ cut := 5, st := {} }])] }
  s.modDie 0 fun d => { d with slices := [(7, { queue := 5, ply := some 0 })] }

/-- A fault decision of a fault of element 9 that ends with a verdict; HOST is usable where the ring takes records. -/
def verdictState (v : Nat × Nat) : State × FaultRef :=
  let f : FaultRef := { seq := 3, part := 1, elem := 9, cls := 2, started := true, written := true }
  let s := faultState f
  let s := s.modCore 16 fun c => { c with part := 1, regs := { c.regs with servers := 15 } }
  ((s.modPart 1 fun p => { p with fltring := { p.fltring with ring := 0x100011 } }).modDisp 0 0 fun p => { p with decs := [{ kind := .fault, part := 1, verdict := some v, fault := some f }] }, f)

theorem witness_FaultVerdicts : ∀ v ∈ [(5, 0), (6, 0)],
    let s := (verdictState v).1
    let f := (verdictState v).2
    (s.decision 0 0 0).any (fun x => decide (x.kind = .fault ∧ x.fault = some f ∧ x.verdict = some v)) = true ∧ f ∈ (s.part f.part).faults ∧
    faultUsable (s.modDisp 0 0 fun p => { p with decs := p.decs.drop 1 }) f v.1 v.2 = true ∧ loadFault s f = false := by decide +kernel

/-- A misaligned TS.LD of a ply of a context without a slice; the FAULT ring of its partition has two records at 0x10000. -/
theorem witness_FaultRecord :
    let s := (elemState (.tsLd (.d 6) (.d 5) 1)).modPart 1 fun p => { p with fltring := { ring := 0x10011 } }
    let b := s.actor
    let at_ := (s.src (.d 5)).toNat % 2 ^ 18 + (1 : BitVec 18).toNat
    let m := (s.ply b.core b.ply).ctx
    let r := (s.part 1).fltring
    at_ % 8 ≠ 0 ∧ s.endFiring = false ∧ (s.ctx b.core m).latch = none ∧ sliceOn s b.core m = none ∧ (s.ply b.core b.ply).snaps = [] ∧ s.partOf b.core = 1 ∧ r.room = true ∧ reaching s 4 (r.base + 64 * (r.head % r.size)) = .clear ∧
    rangeReserved (r.base + 64 * (r.head % r.size)) 64 = false ∧ (s.core b.core).evq.length < 256 ∧ (s.core b.core).lost = false ∧
    after (exec (.tsLd (.d 6) (.d 5) 1) s) (fun t => decide ((t.part 1).fltring.head = 1 ∧ t.mem.val 0x10000 1 = 0x24 ∧ (t.core 0).evq.length = 1)) = true := by decide +kernel

theorem witness_FaultEvents :
    (let f : FaultRef := { seq := 3, part := 1, elem := 9, cls := 2 }
     let s := (faultState f).modElem 0 0 9 fun y => { y with heldB := true }
     (faultsOf s 0 0).find? (fun f => !f.started) = some f ∧ stillHeld s f = true ∧ (faultSlice s f).isSome = true ∧ (faultsOf s 0 0).any FaultRef.pending = false ∧ (s.disp (dieOf 0) (clusterOf 0)).decs.length < 4 ∧
     (s.part 1).dutyctl.getLsbD 3 = false ∧ after (exec (.faultDecisionStart 0 0) s) (fun t => ((t.disp 0 0).decs[0]?).any fun x => decide (x.kind = .fault)) = true) ∧
    (let f : FaultRef := { seq := 3, part := 1, elem := 9, cls := 2, started := true, awaiting := true }
     let s := (faultState f).modIod fun i => { i with sec := { i.sec with bootstat := 1 } }
     s.iod.linkDown = false ∧ (s.part 1).faults.find? (fun f => f.awaiting && decide (f.seq = (0x0003000000000005 : Word).toNat / 2 ^ 48)) = some f ∧ f.saved = false ∧
     gives (exec (.fltreply 1 0x0003000000000005) s) (actFault s f 5 0) = true) ∧
    (let f : FaultRef := { seq := 3, part := 1, elem := 9, cls := 2, started := true, verdict := 5 }
     let s := faultState f
     (faultsOf s 0 0).find? (fun f => decide (f.verdict = 5) && groupQuiet s 0 f.ply (killGroup s f)) = some f ∧ allContained ((containGroup s 0 0 (killGroup s f)).ply 0 0) = false ∧
     after (exec (.containment 0 0) s) (fun t => ((t.ply 0 0).elem 9).stopped && ((t.ply 0 0).elem 10).stopped) = true) ∧
    (let f : FaultRef := { seq := 3, part := 1, elem := 9, cls := 2, started := true, verdict := 4 }
     let s := faultState f
     (faultsOf s 0 0).find? (fun f => decide (f.verdict = 4) && groupQuiet s 0 f.ply (groupOf (s.ply 0 f.ply) f.elem)) = some f ∧ usableCut s 0 0 (groupOf (s.ply 0 0) 9) = some 5) ∧
    (let f : FaultRef := { seq := 3, part := 1, elem := 9, cls := 2, started := true, verdict := 7, target := 0 }
     let s := { faultState f with cores := (faultState f).cores ++ [(16, { part := 1, regs := { servers := 15 } })] }
     (faultsOf s 0 0).find? (fun f => decide (f.verdict = 7)) = some f ∧ (movedSlice s 0 0).isSome = true ∧ (s.ctx 0 0).region.isSome = true ∧ freeSlot s 1 = some 0 ∧ reaching s (accessDie 0) (slotAddr s 1 0) = .clear ∧ (moveTarget s 1 0).isSome = true ∧
     groupQuiet s 0 0 (nodesOf (s.ply 0 0)) = true ∧ switchReady s 0 0 = true) := by decide +kernel

/-- A request that is performed. -/
def isDone : Perf → Bool
  | .done _ _ => true
  | _ => false

/-- Head 0 is on, with bands of one pixel a line; frame 1 follows frame 0, which was taken over; the display sequencer belongs to partition 1 and reaches page 0. -/
def displayState (o : List DsOp := []) : State :=
  let s := bootedState.modHead 0 fun x => { x with
    hctl := 0x0008040201000001, htim := 0x0040001000100001, hpclk := 1000, line := 60
    frames := [{ f := 1, out := 0x4000, src := 0x1000, mv := 0x2000, sw := 8, sh := 8, rows := [0, 1] }, { f := 0, out := 0x3000, src := 0x1800, mv := 0x2100, sw := 8, sh := 8, taken := true }]
    bands := [{ f := 1, b := 0, running := some 1 }] }
  let s := s.modCore dsCore fun c => { c with xlats := [{ vpn := 0, pages := 1, leaf := placeLeaf }], part := 1 }
  (s.modCtx dsCore 0 fun c => { c with run := .run, pc := 0x100 }).modIod fun i => { i with dspart := 0x1001, dsq := o, emit := some { pc := 0x100, head := 0, f := 1, b := 1 } }

/-- What a display operation's step answers. -/
def runsTo (i : Instr) (s : State) (p : State → Bool) : Bool := after (exec i s) p

theorem witness_DisplayInstructions :
    let s := displayState.modIod fun i => i
    let s := { s with actor := { core := 127 } }
    let y := s.iod.head 0
    s.iod.dsFault = none ∧ bit y.hctl 0 = true ∧ runsTo (.dsLine 5 0) s (fun t => decide (t.reg 5 = 60)) = true ∧
    (s.setReg 1 60).reg 1 = 60 ∧ runsTo (.dsLineWait 5 1 0) (s.setReg 1 61) (fun t => decide (t.me.run = .wait)) = true ∧
    bandNamed s 0 0x10000 ∧ (y.holds 1).isSome = true ∧ y.committed 1 0 = false ∧ s.iod.dsq.length < 8 ∧
    runsTo (.dsNet 1 0 0) (s.setReg 1 0x10000) (fun t => decide (t.iod.dsq.length = 1)) = true ∧ bit (s.iod.head 1).hctl 0 = false ∧
    gives (exec (.dsLine 5 1) s) (trapped s 0x64 1) = true ∧ gives (exec (.dsWarp 1 2 true 1) s) (trapped s 0x64 1) = true ∧
    (let s := { s with iod := { s.iod with emit := none } }
     gives (exec (.dsEmit 5 1 1) s) (trapped s 0x64 1) = true) ∧
    runsTo (.dsFall 5 1 2 0) ((s.modHead 0 fun x => { x with bands := [] }).setReg 1 0x10000) (fun t => ((t.iod.head 0).band 1 0).isSome) = true ∧
    (let s := (s.modHead 0 fun x => { x with bands := [{ f := 1, b := 0, level := 1, flags := 2 }], bstat := [(0, 0x100000201)] }).setReg 1 0x10000
     (s.iod.head 0).committed 1 0 = true ∧ runsTo (.dsEmit 5 1 0) s (fun t => decide (t.reg 5 = 0x100000201)) = true) := by
  unfold bandNamed
  decide +kernel

theorem witness_DisplayEvents :
    (let s := displayState
     (s.iod.head 0).hctl.getLsbD 0 = true ∧ runsTo (.lineStart 0) s (fun t => decide ((t.iod.head 0).line = 61)) = true ∧
     ((s.iod.head 0).bands.find? fun x => decide (x.b = 0) && x.running.any fun l => decide (l = 1 ∨ l = 2)) = some { f := 1, b := 0, running := some 1 } ∧
     (match (s.iod.head 0).frame 1 with | some x => isOk (writeLevel { soft := true } (s.iod.head 0) x 1 0 (bandAt (s.iod.head 0) x 0) s) | none => false) = true ∧
     runsTo (.fallbackLevelFinish 0 0) s (fun t => (t.iod.head 0).committed 1 0) = true ∧
     s.iod.emit = some { pc := 0x100, head := 0, f := 1, b := 1 } ∧ (s.ctx dsCore 0).run = .run ∧ (s.ctx dsCore 0).pc = 0x100 ∧ (s.iod.head 0).band 1 1 = none ∧
     runsTo .emitCommit s (fun t => (t.iod.head 0).committed 1 1) = true) ∧
    (let o : DsOp := { act := .dsMe 1 2 0, a := 0x10000, b := 1 }
     let s := displayState [o]
     ((s.iod.head 0).frame 1).any (fun x => decide (o.a.toNat % 2 ^ 16 + o.done < x.sh / 8 ∧ x.blocks = 1) && (srcBefore (s.iod.head 0) x.f).isNone) = true ∧ o.done < o.b.toNat ∧
     runsTo .dsMeRun s (fun t => decide (t.iod.dsq = [] ∨ t.iod.dsq = [{ o with done := 1 }])) = true) ∧
    (let s := displayState [{ act := .dsWarp 1 2 false 0, a := 0x10001, b := 0x8000 }]
     (s.iod.head 0).committed 1 1 = false ∧ ((s.iod.head 0).frame 1).any (fun x => haveVec (s.iod.head 0) x 0 && isOk (writeLevel {} (s.iod.head 0) x 1 1 0x8000 s)) = true) ∧
    (let s := displayState [{ act := .dsWarp 1 2 true 0, a := 0x10001, b := 0x8001 }]
     ((s.iod.head 0).frame 1).isSome = true ∧ gives (exec .dsWarpRun s) (dsFail s .displayFormat 0x8001) = true) ∧
    (let s := displayState [{ act := .dsNet 1 2 0, a := 0x10001, b := 0x8020 }]
     gives (exec .dsNetRun s) (dsFail s .displayFormat 0x8020) = true) := by decide +kernel

/-- A network of one layer of 8 inputs whose record has a nonzero byte at 29, and one that is well formed. -/
theorem witness_NetworkLayer :
    let s := displayState [{ act := .dsNet 1 2 0, a := 0x10001, b := 0x8000 }]
    let m := ((s.mem.set 0x8000 [1]).set 0x8010 [0, 0x10]).set 0x8028 [8, 4, 0, 1]
    let good := { s with mem := m }
    let l := (List.range 32).map fun i => m.byte (0x8010 + i)
    isOk (dsBytes {} 0x8000 16 good) = true ∧ isOk (dsBytes {} 0x8010 32 good) = true ∧ badField l true = none ∧ badField (l.set 29 1) true = some 29 ∧ (layerOf l).last = true ∧
    isOk (runLayer {} (layerOf l) 0x4080 (16 * (layerOf l).n) 0 good) = true ∧ runsTo .dsNetRun good (fun t => decide (t.iod.dsq = [] ∧ t.iod.dsFault = none)) = true := by decide +kernel

/-- Core 0 with ply 0 active and a route from stream port 0 to element 9; port 0 as given. -/
def portState (p : SPort) : State :=
  let s := plyState.modPly 0 0 fun q => { q with routes := [{ src := .stream 0, back := false, dests := [.chan 9 0] }, { src := .chan 9 0, back := false, dests := [.stream 0] }] }
  s.modStream 0 0 fun _ => p

theorem witness_StreamAndRequestEvents :
    (let c : SCmd := { desc := { base := 0x4000000000000008, n0 := 2, esz := 8 }, ply := 0, id := 0, after := [] }
     let s := portState { queue := [c] }
     (s.ply 0 0).st = .active ∧ (s.ply 0 0).frozen = false ∧ (s.ply 0 0).draining = false ∧ runsTo (.streamElement 0 0) s (fun t => decide (((t.core 0).stream 0).run = some { cmd := c })) = true ∧
     (let s := portState { run := some { cmd := c, e := 1 } }
      meterBehind s 0 0 = false ∧ 0 ≤ c.desc.elem 1 ∧ c.desc.elem 1 < 2 ^ 60 ∧ bufSpan (s.core 0) (streamSpaces false) (tagged c.desc.space (truncI (c.desc.elem 1) 60)) c.desc.esz = (0, 4, 8) ∧ bufBad s 0 4 8 8 = false ∧
      (∃ u, streamSend s 0 0 0 { data := streamData c.desc (bufRead s 0 4 8 8), ply := 0 } = some u) ∧
      runsTo (.streamElement 0 0) s (fun t => decide ((t.core 0).fab.flights.length = 1) && ((t.core 0).stream 0).run.any (·.last)) = true) ∧
     (let s := portState { run := some { cmd := { c with desc := { c.desc with base := 0x2000000000000008, write := true } }, e := 1 }, toks := [{ data := 0x77 }] }
      bufSpan (s.core 0) (streamSpaces true) (tagged 2 8) 8 = (0, 2, 8) ∧ ((s.core 0).stream 0).given 0 = [{ data := 0x77 }] ∧ runsTo (.streamElement 0 0) s (fun t => decide (((t.core 0).buf 2) = [(8, 0x77)])) = true) ∧
     (let s := portState { run := some { cmd := { c with desc := { c.desc with write := true } }, e := 2, last := true } }
      runsTo (.streamCommandComplete 0 0) s (fun t => decide (((t.core 0).stream 0).run = none)) = true)) ∧
    (let c : SCmd := { desc := { base := 0x40, n0 := 2, esz := 8, st0 := 8 }, ply := 0, id := 0, after := [] }
     let s := portState { run := some { cmd := c }, wins := [(0, { vbase := 0, pbase := 0, npg := 1, rd := true, w := true, cmp := false })] }
     isOk (streamReach s 0 0 (vaOf (c.desc.elem 0)) (vaOf c.desc.span.2) false) = true ∧
     runsTo (.windowFill 0 0) s (fun t => (((t.core 0).stream 0).lines.map fun l => Tab.look 0 l.bytes 0x40) = [0xF0]) = true ∧
     (let s := portState { run := some { cmd := { c with desc := { c.desc with write := true } } }, lines := [{ va := 0, at_ := 0, bytes := [(3, 9)] }] }
      isOk (writeRuns 0 0 (.plain 0) [(3, [9])] s) = true ∧ runsTo (.streamLineWriteback 0 0) s (fun t => decide (t.mem.byte 3 = 9)) = true)) ∧
    (let y : Req := { kind := .load .h, dst := .d 2, ea := 0x40, st := .waiting }
     let s := (plyState.modFab 0 fun f => { f with reqs := [(9, [y])] })
     (s.core 0).fab.park = [] ∧ reqMay s 0 y = true ∧ isDone (performReq s 0 y) = true ∧ runsTo (.requestResponse 0 9) s (fun t => decide ((t.core 0).fab.reqsOf 9 = [])) = true) :=
  ⟨⟨by decide +kernel, by decide +kernel, by decide +kernel, by decide +kernel, ⟨by decide +kernel, by decide +kernel, by decide +kernel, by decide +kernel, by decide +kernel, some_of (by decide +kernel), by decide +kernel⟩, by decide +kernel, by decide +kernel⟩,
    by decide +kernel, by decide +kernel⟩

/-- Options of an engine command without release, event or completion token. -/
def plainOpts : EngOpts := { ord := .rlx, sc := .co, sh := false, ev := false, ct := false, cf := 0, tag := 0 }

/-- The result of an engine command. -/
def engDone : EngRes → Bool
  | .done _ _ => true
  | _ => false

theorem witness_EngineEvents :
    (let c : EngCmd := { kind := .fillb plainOpts, a := 0x40, b := 0x77, c := 8 }
     let s := (plyState.modFab 0 fun f => { f with flights := [{ dst := .engine 0, tok := {}, prod := 0, cmd := some c }] })
     (s.ply 0 0).frozen = false ∧ runsTo (.engineCommandAccept 0 0) s (fun t => decide (((t.core 0).engine 0).queue.length = 1)) = true ∧
     (let s := plyState.modEngine 0 0 fun e => { e with queue := [c] }
      nextCmd ((s.core 0).engine 0) = some (0, c) ∧ releaseMet (s.core 0) c = true ∧ shadowWaits (s.core 0) c = false ∧ beginCheck (s.core 0) c = none ∧
      runsTo (.engineCommandBegin 0 0) s (fun t => decide (((t.core 0).engine 0).cur = some c)) = true) ∧
     (let s := plyState.modEngine 0 0 fun e => { e with cur := some c }
      engDone (engRun 0 0 c s) = true ∧ runsTo (.engineCommandComplete 0 0) s (fun t => decide (t.mem.val 0x40 8 = 0x77) && ((t.core 0).engine 0).cur.isNone) = true)) ∧
    (let o : PubOpts := { w := 2, sc := .co, ev := false, ct := false, tag := 0 }
     let s := (plyState.modEngine 0 0 fun e => { e with cur := some { kind := .pub o } }).modCore 0 fun c => { c with shadows := [(2, { valid := true, space := 4, base := 0, alt := 256, len := 256 })] }
     runsTo (.pubFlip 0 0) s (fun t => (Tab.look {} (t.core 0).shadows 2).flip) = true) := by decide +kernel

/-- A broadcast of 8 bytes by the one member of group 0 of partition 1. -/
theorem witness_Collective :
    let c : EngCmd := { kind := .coll plainOpts, a := 0x80, b := 0x40, c := 8 }
    let s := (plyState.modPart 1 fun p => { p with collbase := 0x6000 }).modEngine 0 1 fun e => { e with queue := [c] }
    let s := { s with mem := s.mem.set 0x6000 [1] }
    let r := groupEntry s 1 0
    r.1 = [0] ∧ (r.1.filterMap memberCore).filterMap (collReady r.2 0) = [(0, c)] ∧ r.2.partOf 0 = 1 ∧ collCheck (r.2.core 0) c 1 = none ∧
    (match collRead 8 (collMembers r.1 [(0, c)]) r.2 with | .inl (src, _) => decide (collResult c src = src.flatten) | .inr _ => false) = true ∧
    after (exec (.collectiveBegin 1 0) s) (fun t => ((t.core 0).engine 1).cur.any (fun x => decide (x.peers = [0])) &&
      after (exec (.engineCommandComplete 0 1) t) fun v => decide (v.mem.val 0x80 8 = v.mem.val 0x40 8 ∧ ((v.core 0).engine 1).cur = none)) = true ∧
    (let r := groupEntry { s with mem := s.mem.set 0x6000 ([2] ++ List.replicate 22 0 ++ [0x80]) } 1 0
     r.1 = [0, 2 ^ 31] ∧ (r.1.filterMap memberCore).filterMap (collReady r.2 0) = [(0, c)] ∧ r.2.partOf 0 = 1 ∧ peerWay r.2 (2 ^ 31) = .down ∧
     (let u := r.2.modIod fun i => { i with peerrt := [(0, 0x10)] }
      peerWay u (2 ^ 31) = .clear ∧ peerWay (u.modIod fun i => { i with links := [(8, { retraining := true })] }) (2 ^ 31) = .held)) ∧
    (let r := groupEntry { s with mem := s.mem.set 0x6000 ([2] ++ List.replicate 20 0 ++ [1]) } 1 0
     let own := (r.1.filterMap memberCore).filter fun x => decide (r.2.partOf x = 1)
     own = [0] ∧ own.filterMap (collReady r.2 0) = [(0, c)] ∧ (r.1.filterMap memberCore).length = 2) := by decide +kernel

/-- Core 0 with one operation of the matrix queue. -/
def matrixState (x : MxOp) : State := (seqState.modMx 0 fun m => { m with queue := [x] }).modCtx 0 0 fun c => { c with mx := { c.mx with outstanding := 1 } }

/-- An access of the array succeeds. -/
def readsOk {α : Type} : Except Cause α → Bool
  | .ok _ => true
  | .error _ => false

theorem witness_MatrixEvents :
    (let x : MxOp := { act := .mxLdb 1 0 .bf16, a := 0x40 }
     let s := matrixState x
     x.row < 128 * (4 * MTy.p .bf16) ∧ readsOk (mxRead (setSlice s 0 0 fun y => { y with valid := false, aen := false, ben := false }) 0 2 0x40 1) = true ∧ unitValues 16 0 [] = some (List.replicate 32 0) ∧
     after (exec (.mxLdbExecute 0) s) (fun t => ((t.core 0).mx.queue.map (·.row)) = [1]) = true ∧
     (let s := s.modCore 0 fun c => { c with wb := [(0x40, 1), (0x40 + 128 * MTy.p .bf16, 0x80), (0x41 + 128 * MTy.p .bf16, 0x3F)] }
      readsOk (mxRead (setSlice s 0 0 fun y => { y with valid := false, aen := false, ben := false }) 0 2 0x40 1) = true ∧ (unitValues 16 1 ([0x80, 0x3F] ++ List.replicate 62 0)).isSome = true ∧
      after (exec (.mxLdbExecute 0) s) (fun t => decide (Tab.look 0 ((t.core 0).mx.slice 0).vals 0 = 0x3F80)) = true)) ∧
    (let s := (matrixState { act := .mxScale 1 1 true false }).modMx 0 fun m => { m with slices := [(1, { valid := true, bt := .e4m3 })] }
     MTy.scaled ((s.core 0).mx.slice 1).bt = true ∧ after (exec (.mxScaleExecute 0) s) (fun t => ((t.core 0).mx.slice 1).aen) = true) ∧
    (let o : MmOpts := { apx := false, pres := false, gang := false, s := 0, bank := 0, at_ := .bf16 }
     let x : MxOp := { act := .mm 1 2 o, a := 0, b := 0x7F00, begun := true, row := 127 }
     let s := matrixState x
     x.row < cRows x.b ∧ mxStopped s 0 x = false ∧ readsOk (readRow s 0 x o 127) = true ∧ after (exec (.mmRowFire 0) s) (fun t => ((t.core 0).mx.queue.map (·.fired.length)) = [1]) = true ∧
     (let x : MxOp := { x with row := 1, fired := [{ bytes := List.replicate 256 0 }] }
      rowBad ((matrixState x).core 0) 0 (cRow0 x.b + x.written) = false)) ∧
    (let x : MxOp := { act := .mxDrain 1 2 .rne false false 0 .e4m3, a := 0, b := 0 }
     let s := matrixState x
     x.written < cRows x.b ∧ drainFits .e4m3 ((s.core 0).mx.floatBank 0) = true ∧ x.rm ≠ .sr ∧ bufShut (s.core 0) 1 0 (drainRow .e4m3) = false ∧ rowBad (s.core 0) 0 0 = false ∧ after (exec (.mxDrainExecute 0) s) (fun t => ((t.core 0).mx.queue.map (·.written)) = [1]) = true) ∧
    (let x : MxOp := { act := .mxEdge 1 2 0 0 3 7, a := 0, b := 0x1000 }
     let s := matrixState x
     x.row < (7 : BitVec 7).toNat + 1 ∧ readsOk (mxRead s 0 1 0 16) = true ∧ after (exec (.mxEdgeExecute 0) s) (fun t => ((t.core 0).mx.queue.map (·.row)) = [1]) = true ∧ bufShut (s.core 0) 1 0x1000 32 = false ∧
     after (exec (.mxEdgeExecute 0) (matrixState { x with row := 8, masks := [5] })) (fun t => ((t.core 0).mx.queue.map (·.written)) = [1]) = true ∧
     after (exec (.matrixOpComplete 0) (matrixState { x with row := 8, written := 1 })) (fun t => decide (t.me.mx.outstanding = 0)) = true) ∧
    (let s := matrixState { act := .mxThr 13, a := 0x80000000 }
     mxStopped s 0 { act := .mxThr 13, a := 0x80000000 } = false ∧ after (exec (.matrixOpComplete 0) s) (fun t => decide (t.me.mx.outstanding = 0 ∧ t.me.mx.thr = 0 ∧ (t.core 0).mx.queue = [])) = true) ∧
    (let s := matrixState { act := .mxSamp 13 14, a := 0x00010001, b := 0x3F800000 }
     mxStopped s 0 { act := .mxSamp 13 14, a := 0x00010001, b := 0x3F800000 } = false ∧ after (exec (.matrixOpComplete 0) s) (fun t => decide (t.me.mx.outstanding = 0 ∧ (t.core 0).mx.queue = [])) = true) ∧
    (let s := matrixState { act := .mxGang 1, a := 0x50, joined := true, written := 1 }
     after (exec (.matrixOpComplete 0) s) (fun t => decide (t.me.mx.outstanding = 0)) = true) ∧
    (let s := matrixState { act := .mxGang 1, a := 0x50 }
     readsOk (gangJoin s 0 0x50) = true ∧ after (exec (.gangFormed 0) s) (fun t => (t.core 0).mx.gang.isSome) = true) ∧
    (let s := (matrixState {}).modMx 0 fun m => { m with coming := [{ bytes := [1] }], gang := some { gid := 0, row := 0, col := 1 } }
     after (exec (.gangRowArrival 0) s) (fun t => decide ((t.core 0).mx.rowq.length = 1)) = true) := by
  refine ⟨⟨by decide, by decide +kernel, by decide +kernel, by decide +kernel, by decide +kernel⟩, ?_⟩
  decide +kernel

theorem witness_PowerAndLinkEvents :
    let s := seqState
    let b := powerBudget s.iod.power
    (let t := s.modCore 0 fun c => { c with regs := { c.regs with edgeWin := 5, edgeRate := 3 } }
     t.cyc 0 / 256 ≠ (t.core 0).regs.edgeWin ∧ t.iod.power.limit = 0 ∧ after (exec (.edgeMeterWindow 0) t) (fun u => decide ((u.core 0).regs.edgeLimit = 3)) = true) ∧
    (b < 65536 ∧ 9 * b < 10 * b) ∧ after (exec (.powerSample b) s) (fun t => decide (t.iod.power.meas = b ∧ t.iod.power.under = 0)) = true ∧
    (b + 1 < 65536 ∧ s.iod.power.above < 2 ∧ 10 * (b + 1) > 9 * b) ∧ after (exec (.powerSample (b + 1)) s) (fun t => decide (t.iod.power.above = 1)) = true ∧
    (let t := s.modPower fun p => { p with above := 2 }
     after (exec (.powerSample (b + 1)) t) (fun u => decide (u.iod.power.limit = 64)) = true) ∧
    s.iod.thermal = false ∧ s.iod.linkDown = false ∧ (Tab.look {} s.iod.links 3).down = false ∧ (Tab.look {} s.iod.links 3).retraining = false ∧
    (let t := s.modIod fun i => { i with links := [(3, { replays := 8 })] }
     after (exec (.flitCrcFail 3) t) (fun u => (Tab.look {} u.iod.links 3).retraining && after (exec (.linkDown 3) u) fun v => (Tab.look {} v.iod.links 3).down) = true) ∧
    (let t := s.modPower fun p => { p with pwrcfg := p.pwrcfg ||| 1, borrows := [(7, 0)], borr := 7, lends := [(9, 0)], lent := 9 }
     let m : BitVec 128 := 0x60000000000000000000000100050009
     t.iod.power.pwrcfg.getLsbD 0 = true ∧ t.iod.power.borrows[0]? = some (7, 0) ∧ t.iod.power.lends[0]? = some (9, 0) ∧ msgKind m = 6 ∧ msgIndex m = 0 ∧ powerLease m ≠ 0 ∧
     after (exec (.lendLeaseEnd 0) t) (fun u => decide (u.iod.power.borr = 0)) = true ∧ t.iod.power.lent + 1 + t.iod.power.meas ≤ powerG t.iod.power) := by decide +kernel

/-- A descriptor of the open frame at local address 0x40. -/
theorem witness_BandDescriptor :
    let s0 := displayState.modHead 0 fun h => { h with line := 0 }
    let s1 := s0.modCore dsCore fun c => { c with local_ := [(0x40, 1), (0x60, 1), (0x62, 16), (0x64, 1)] }
    let s := ({ s1 with actor := { core := 127 } }).setReg 1 0x40
    (s.reg 1).toNat % 64 = 0 ∧ (s.core 127).bad = [] ∧ ((s.iod.head 0).hact = 1 ∧ (s.iod.head 0).vact = 16) ∧
    (frameOf (s.iod.head 0) (localBytes (s.core 127) 0x40 64)).any (fun x => decide (x.f = (s.iod.head 0).openFrame)) = true ∧
    runsTo (.dsBand 5 1 0) s (fun t => decide (((t.iod.head 0).frames.map (·.scale)) = [1, 1])) = true := by decide +kernel

/-- 24 R418, R420, R429: DEVID reads as its table gives it, before the boot too, and every other register then as all ones; a part of a doubleword reads as all ones. -/
theorem test_hostRead :
    hostRead State.reset 0 8 = some 0x0320015A ∧ hostRead State.reset 0x5001018 8 = some (~~~0) ∧ hostRead State.reset 0 4 = some (~~~0) := by decide +kernel

end Sys2Proof.Tests
end

section
/-! SUPPORT. What the shared operations of memory, duties and invalidation leave alone, and the settling of the statement on the events of memory. -/
namespace Sys2Proof.Machine

/-! Bits, bytes and fields. -/

theorem State.modPart_core (s : State) (p : Nat) (f : Part → Part) (j : Nat) : (s.modPart p f).core j = s.core j := rfl
theorem State.modMem_mem (s : State) (f : Memory → Memory) : (s.modMem f).mem = f s.mem := rfl

/-- A field of a word, as arithmetic. -/
theorem bits_eq_div {k : Nat} (x : BitVec k) (lo n : Nat) : bits x lo n = x.toNat / 2 ^ lo % 2 ^ n := by
  rw [bits, Nat.shiftRight_eq_div_pow]

/-- A field of a natural, as arithmetic. -/
theorem nbits_eq_div (x lo n : Nat) : nbits x lo n = x / 2 ^ lo % 2 ^ n := by
  rw [nbits, Nat.shiftRight_eq_div_pow]

@[simp] theorem bytesLE_length (v n : Nat) : (bytesLE v n).length = n := by simp [bytesLE]

/-- The lowest byte stands first. -/
theorem bytesLE_succ (v n : Nat) : bytesLE v (n + 1) = BitVec.ofNat 8 v :: bytesLE (v / 256) n := by
  simp only [bytesLE, List.range_succ_eq_map, List.map_cons, List.map_map, List.cons.injEq]
  refine ⟨by simp [byteOf], List.map_congr_left fun i _ => ?_⟩
  simp [byteOf, Nat.mul_succ, Nat.add_comm _ 8, Nat.shiftRight_eq_div_pow, Nat.pow_add, Nat.div_div_eq_div_mul]

/-- Bytes laid out and read back give the value as far as they hold it. -/
theorem ofBytesLE_bytesLE (n : Nat) : ∀ v, ofBytesLE (bytesLE v n) = v % 256 ^ n := by
  induction n with
  | zero => intro v; simp [bytesLE, ofBytesLE, Nat.mod_one]
  | succ n ih =>
    intro v
    rw [bytesLE_succ, ofBytesLE, ih, Nat.pow_succ', Nat.mod_mul]
    simp

/-- The bytes of a run of memory, each by its address. -/
theorem Memory.get_eq_map (m : Memory) (n : Nat) : ∀ pa, m.get pa n = (List.range n).map fun i => m.byte (pa + i) := by
  induction n with
  | zero => intro pa; rfl
  | succ n ih =>
    intro pa
    simp [Memory.get, ih, List.range_succ_eq_map, Nat.add_assoc, Nat.add_comm 1]

/-- A byte is read from the bytes of memory alone. -/
theorem Memory.byte_congr {m n : Memory} (h : n.bytes = m.bytes) (a : Nat) : n.byte a = m.byte a := by rw [Memory.byte, h, Memory.byte]

/-- Bytes written are read back. -/
theorem Memory.get_set (m : Memory) (pa : Nat) (bs : List Byte) : (m.set pa bs).get pa bs.length = bs := by
  refine List.ext_getElem (by simp [Memory.get_eq_map]) fun i _ h => ?_
  simpa [Memory.get_eq_map] using Memory.byte_set_at bs m pa i h

/-- A doubleword written is read back. -/
theorem Memory.val_set_dword (m : Memory) (pa v : Nat) : (m.set pa (bytesLE v 8)).val pa 8 = v % 2 ^ 64 := by
  have h := Memory.get_set m pa (bytesLE v 8)
  rw [bytesLE_length] at h
  rw [Memory.val, h, ofBytesLE_bytesLE, show (256 ^ 8 : Nat) = 2 ^ 64 from rfl]

/-! Writes and reads by the I/O die, and records. -/

@[simp] theorem bumpVersion_parts (s : State) (pa : Nat) : (bumpVersion s pa).parts = s.parts := by unfold bumpVersion; split <;> rfl
@[simp] theorem bumpVersion_cores (s : State) (pa : Nat) : (bumpVersion s pa).cores = s.cores := by unfold bumpVersion; split <;> rfl
@[simp] theorem bumpVersion_iod (s : State) (pa : Nat) : (bumpVersion s pa).iod = s.iod := by unfold bumpVersion; split <;> rfl

/-- s once the I/O die has taken the lines at some addresses for a write: nobody holds them, and their pages' versions rise. -/
def iodTake (s : State) (as : List Nat) : State :=
  as.foldl (fun s a => bumpVersion (s.modMem fun m => (if a < 2 ^ 38 then m.setSnoop (a / 128) .none else m).others 4 (a / 128) true) a) s

/-- A write by the I/O die outside the reserved addresses. -/
theorem iodPut_open {s : State} {pa : Nat} {bs : List Byte} (h : rangeReserved pa bs.length = false) :
    iodPut s pa bs = (iodTake s (linesOf pa bs.length)).modMem fun m => m.set pa bs := by simp [iodPut, iodTake, h]

/-- Taking lines for a write changes no byte, core, partition or register of the I/O die. -/
theorem iodTake_frame (s : State) (as : List Nat) :
    (iodTake s as).mem.bytes = s.mem.bytes ∧ (iodTake s as).cores = s.cores ∧ (iodTake s as).parts = s.parts ∧ (iodTake s as).iod = s.iod := by
  refine foldl_keeps (p := fun t : State => t.mem.bytes = s.mem.bytes ∧ t.cores = s.cores ∧ t.parts = s.parts ∧ t.iod = s.iod) as (fun t a h => ?_) s
    ⟨rfl, rfl, rfl, rfl⟩
  obtain ⟨hb, hc, hp, hi⟩ := h
  refine ⟨?_, by simpa using hc, by simpa using hp, by simpa using hi⟩
  rw [bumpVersion_mem]
  simp only [State.modMem, Memory.others_bytes]
  split <;> simpa using hb

/-- A write by the I/O die, wherever it goes, changes memory and versions only. -/
theorem iodPut_frame (s : State) (pa : Nat) (bs : List Byte) : (iodPut s pa bs).cores = s.cores ∧ (iodPut s pa bs).parts = s.parts ∧ (iodPut s pa bs).iod = s.iod := by
  cases h : rangeReserved pa bs.length with
  | true => simp [iodPut, h]
  | false => rw [iodPut_open h]; exact (iodTake_frame s _).2

/-- A doubleword that the I/O die writes reads as written. -/
theorem iodPut_val {s : State} {pa v : Nat} (h : rangeReserved pa 8 = false) : (iodPut s pa (bytesLE v 8)).mem.val pa 8 = v % 2 ^ 64 := by
  rw [iodPut_open (by simpa using h)]
  exact Memory.val_set_dword _ _ _

/-- A write by the I/O die leaves every byte outside its range. -/
theorem iodPut_byte_other {s : State} {pa : Nat} {bs : List Byte} (h : rangeReserved pa bs.length = false) {a : Nat} (o : a < pa ∨ pa + bs.length ≤ a) :
    (iodPut s pa bs).mem.byte a = s.mem.byte a := by
  rw [iodPut_open h]
  exact (Memory.byte_set_other bs _ pa a o).trans (Memory.byte_congr (iodTake_frame s _).1 a)

/-- A byte that the I/O die writes reads as written. -/
theorem iodPut_byte_at {s : State} {pa : Nat} {bs : List Byte} (h : rangeReserved pa bs.length = false) {i : Nat} (o : i < bs.length) :
    (iodPut s pa bs).mem.byte (pa + i) = bs[i] := by
  rw [iodPut_open h]
  exact Memory.byte_set_at bs _ pa i o

/-- A read by the I/O die answers the bytes of memory. -/
theorem iodRead_value {s : State} {pa n : Nat} (h : rangeReserved pa n = false) : (iodRead s pa n).1 = s.mem.get pa n := by simp [iodRead, h]

/-- A read by the I/O die writes no byte. -/
theorem iodRead_bytes (s : State) (pa n : Nat) : (iodRead s pa n).2.mem.bytes = s.mem.bytes := by
  unfold iodRead
  split
  · rfl
  · refine foldl_keeps (p := fun m : Memory => m.bytes = s.mem.bytes) _ (fun m a h => ?_) _ rfl
    rw [Memory.others_bytes]
    split <;> simp [h]

/-- A write by the I/O die, made, held or lost, changes no partition. -/
theorem iodWrite_parts (s : State) (pa : Nat) (bs : List Byte) : (iodWrite s pa bs).parts = s.parts := by
  unfold iodWrite
  split
  · exact (iodPut_frame s pa bs).2.1
  · rfl
  · rfl

/-- Offering a record to a ring changes no partition. -/
theorem ringPut_parts (s : State) (r : Ring) (bs : List Byte) : (ringPut s r bs).1.parts = s.parts := by
  unfold ringPut
  split
  · exact iodWrite_parts _ _ _
  · rfl

/-! Duty requests. -/

/-- A record for a ring of a partition settles no duty request. -/
theorem partRing_duties (s : State) (p m : Nat) (bs : List Byte) (q : Nat) : ((partRing s p m bs).1.part q).duties = (s.part q).duties := by
  have h : ∀ i, (ringPut s ((s.part p).ring m) bs).1.part i = s.part i := fun i => by rw [State.part, ringPut_parts, State.part]
  simp only [partRing, State.part_modPart]
  split
  · next e => rw [e, h]
  · rw [h]

/-- A partition event settles no duty request. -/
theorem partEvent_duties (s : State) (p lo hi q : Nat) : ((partEvent s p lo hi).part q).duties = (s.part q).duties := by
  unfold partEvent
  split
  · split
    · rfl
    · exact partRing_duties _ _ _ _ _
  · exact partRing_duties _ _ _ _ _

/-- HOST_DUTY_TIMEOUT settles no duty request. -/
theorem dutyTimeout_duties (s : State) (p : Nat) (d : Duty) (q : Nat) : ((dutyTimeout s p d).part q).duties = (s.part q).duties := partEvent_duties _ _ _ _ _

/-- A request that goes to the host leaves those that wait. -/
theorem mem_duties_sendDuty {s : State} {q : Nat} {y : Duty} (h : y ∈ (s.part q).duties) (p : Nat) (d : Duty) (w1 w2 : Nat) (tail : List Byte) :
    y ∈ ((sendDuty s p d w1 w2 tail).1.part q).duties := by
  have keep (u : State) (x : Duty) (n : Nat) (g : y ∈ (u.part q).duties) : y ∈ ((u.modPart p fun z => { z with nextTag := n, duties := z.duties ++ [x] }).part q).duties := by
    rw [State.part_modPart]
    split
    · next e => subst e; simp [g]
    · exact g
  simp only [sendDuty]
  split
  · exact keep _ _ _ (by rwa [partRing_duties])
  · rw [dutyTimeout_duties]; exact keep _ _ _ (by rwa [partRing_duties])

/-- A walk that begins leaves the requests that wait. -/
theorem mem_duties_startWalk {s : State} {q : Nat} {y : Duty} (h : y ∈ (s.part q).duties) (d p : Nat) (x : Duty) : y ∈ ((startWalk s d p x).part q).duties := by
  unfold startWalk
  split
  · exact h
  · split
    · exact mem_duties_sendDuty h _ _ _ _ _
    · exact h

/-- Walks that begin as room allows leave the requests that wait. -/
theorem mem_duties_promoteWalks {q : Nat} {y : Duty} (d n : Nat) : ∀ {s : State}, y ∈ (s.part q).duties → y ∈ ((promoteWalks d n s).part q).duties := by
  induction n with
  | zero => intro s h; exact h
  | succ n ih =>
    intro s h
    unfold promoteWalks
    split
    · exact h
    · split
      · exact h
      · exact ih (mem_duties_startWalk (by exact h) _ _ _)

/-- Where no walk waits, none begins. -/
theorem promoteWalks_none {s : State} {d : Nat} (h : (s.die d).walkq = []) : promoteWalks d (s.die d).walkq.length s = s := by rw [h]; rfl

/-- A request that is settled is with the host no longer. -/
theorem dutyOf_dropDuty (s : State) (p tag : Nat) : dutyOf (dropDuty s p tag) p tag = none := by
  simp [dutyOf, dropDuty]

/-- The request found under a tag has it, and is one of its partition's. -/
theorem mem_of_dutyOf {s : State} {p tag : Nat} {x : Duty} (h : dutyOf s p tag = some x) : x ∈ (s.part p).duties ∧ x.tag = tag :=
  ⟨List.mem_of_find?_eq_some h, by simpa using List.find?_some h⟩

/-- s once the host has answered the request of a partition under a tag. -/
def answerDuty (s : State) (p tag : Nat) (r : Nat × Nat × Word) : State :=
  s.modPart p fun z => { z with duties := z.duties.map fun y => if y.tag = tag then { y with reply := some r } else y }

/-- A request that the host has answered holds the answer. -/
theorem dutyOf_answerDuty {s : State} {p tag : Nat} {x : Duty} (h : dutyOf s p tag = some x) (r : Nat × Nat × Word) :
    dutyOf (answerDuty s p tag r) p tag = some { x with reply := some r } := by
  have hit (y : Duty) : (if y.tag = tag then { y with reply := some r } else y).tag = y.tag := by split <;> rfl
  have same : ((fun d : Duty => decide (d.tag = tag)) ∘ fun y => if y.tag = tag then { y with reply := some r } else y) = fun d => decide (d.tag = tag) := by
    funext y
    simp only [Function.comp_apply, hit]
  have t := (mem_of_dutyOf h).2
  unfold dutyOf at h
  unfold dutyOf answerDuty
  rw [State.part_modPart, if_pos rfl]
  simp only [List.find?_map, same, h, Option.map_some, if_pos t]

/-- The WAIT of a request that is due expires (00 R8, R9). -/
theorem dutyWaitExpiry_due {s : State} {p tag : Nat} {x : Duty} (h : dutyOf s p tag = some x) (due : dutyDue s x = true) :
    execDutyWaitExpiry p tag s = .next (expireDuty s p x) := by simp [execDutyWaitExpiry, h, due]

/-- A request whose WAIT has expired is given up: a walk is marked, for its access to take up, and any other request is settled (00 R8, R9). -/
theorem expireDuty_gives_up {s : State} {p tag : Nat} {x : Duty} (h : dutyOf s p tag = some x) :
    (x.func = 0 ∧ ∃ y ∈ ((expireDuty s p x).part p).duties, y.tag = tag ∧ y.expired = true) ∨ (x.func ≠ 0 ∧ dutyOf (expireDuty s p x) p tag = none) := by
  obtain ⟨hx, ht⟩ := mem_of_dutyOf h
  unfold expireDuty
  split
  · next f =>
    refine .inl ⟨f, { x with expired := true }, mem_duties_promoteWalks _ _ ?_, ht, rfl⟩
    rw [State.part_modPart, if_pos rfl, dutyTimeout_duties]
    exact List.mem_map.2 ⟨x, hx, by simp⟩
  all_goals rw [← ht]
  · next f => exact .inr ⟨by omega, dutyOf_dropDuty _ _ _⟩
  · next f => exact .inr ⟨by omega, dutyOf_dropDuty _ _ _⟩
  · next f _ _ => exact .inr ⟨f, dutyOf_dropDuty _ _ _⟩

/-! Invalidation. -/

/-- The owner of a core is read from the cores and the I/O die. -/
theorem partOf_congr {s t : State} (hc : t.cores = s.cores) (hi : t.iod = s.iod) (k : Nat) : t.partOf k = s.partOf k := by
  unfold State.partOf dsPart State.core
  rw [hc, hi]

/-- Which cores a partition has is read from the cores and the I/O die. -/
theorem coresOf_congr {s t : State} (hc : t.cores = s.cores) (hi : t.iod = s.iod) (p : Nat) : coresOf t p = coresOf s p := by
  unfold coresOf
  rw [hc]
  exact List.filter_congr fun k _ => by rw [partOf_congr hc hi]

/-- A change of each die leaves the cores, memory, partitions and the I/O die. -/
theorem foldl_modDie_frame (l : List Nat) (f : Die → Die) (s : State) :
    (l.foldl (fun s d => s.modDie d f) s).cores = s.cores ∧ (l.foldl (fun s d => s.modDie d f) s).mem = s.mem ∧
    (l.foldl (fun s d => s.modDie d f) s).parts = s.parts ∧ (l.foldl (fun s d => s.modDie d f) s).iod = s.iod :=
  foldl_keeps (f := fun s d => s.modDie d f) (p := fun t => t.cores = s.cores ∧ t.mem = s.mem ∧ t.parts = s.parts ∧ t.iod = s.iod) l (fun _ _ h => h) s ⟨rfl, rfl, rfl, rfl⟩

/-- A change of some cores leaves memory, partitions, dies and the I/O die. -/
theorem foldl_modCore_frame (l : List Nat) (f : CoreSt → CoreSt) (s : State) :
    (l.foldl (fun s k => s.modCore k f) s).mem = s.mem ∧ (l.foldl (fun s k => s.modCore k f) s).parts = s.parts ∧
    (l.foldl (fun s k => s.modCore k f) s).iod = s.iod :=
  foldl_keeps (f := fun s k => s.modCore k f) (p := fun t => t.mem = s.mem ∧ t.parts = s.parts ∧ t.iod = s.iod) l (fun _ _ h => h) s ⟨rfl, rfl, rfl⟩

/-- An invalidation changes no byte, partition or register of the I/O die. -/
theorem invalidate_frame (s : State) (p : Nat) (r : Nat × Nat) :
    (invalidate s p r).mem = s.mem ∧ (invalidate s p r).parts = s.parts ∧ (invalidate s p r).iod = s.iod := by
  obtain ⟨_, dm, dp, di⟩ := foldl_modDie_frame (List.range 4) (fun y => dropWalks y p r) ((coresOf s p).foldl (fun s k => s.modCore k fun c => dropXlats c r) s)
  obtain ⟨cm, cp, ci⟩ := foldl_modCore_frame (coresOf s p) (fun c => dropXlats c r) s
  exact ⟨dm.trans cm, dp.trans cp, di.trans ci⟩

/-- The translations of a core once those of some cores that overlap a range are dropped. -/
theorem xlats_foldl_dropXlats (r : Nat × Nat) (j : Nat) (ks : List Nat) : ∀ s : State,
    ((ks.foldl (fun s k => s.modCore k fun c => dropXlats c r) s).core j).xlats =
      if j ∈ ks then (s.core j).xlats.filter fun x => !(rangeHits r x.vpn x.pages) else (s.core j).xlats := by
  induction ks with
  | nil => intro s; rfl
  | cons k ks ih =>
    intro s
    rw [List.foldl_cons, ih, State.core_modCore]
    by_cases e : j = k
    · subst e
      simp [dropXlats, List.filter_filter]
    · simp [e]

/-- The translations of a core after an invalidation. -/
theorem xlats_invalidate (s : State) (p : Nat) (r : Nat × Nat) (j : Nat) :
    ((invalidate s p r).core j).xlats = if j ∈ coresOf s p then (s.core j).xlats.filter fun x => !(rangeHits r x.vpn x.pages) else (s.core j).xlats := by
  rw [← xlats_foldl_dropXlats, State.core, invalidate, (foldl_modDie_frame _ _ _).1, State.core]

/-- An invalidation leaves no translation of its range with the cores of its partition (11 R255). -/
theorem invalidate_drops {s : State} {p j : Nat} (hj : j ∈ coresOf s p) (r : Nat × Nat) {x : Xlat} (hx : x ∈ ((invalidate s p r).core j).xlats) :
    rangeHits r x.vpn x.pages = false := by
  rw [xlats_invalidate, if_pos hj] at hx
  simpa using (List.mem_filter.1 hx).2

/-- An invalidation brings no translation. -/
theorem mem_xlats_of_invalidate {s : State} {p j : Nat} {r : Nat × Nat} {x : Xlat} (hx : x ∈ ((invalidate s p r).core j).xlats) : x ∈ (s.core j).xlats := by
  rw [xlats_invalidate] at hx
  split at hx
  · exact (List.mem_filter.1 hx).1
  · exact hx

/-! Stores that become performed, and what the host does with lines. -/

/-- Stores that are performed change the list of those that are not, and nothing else. -/
theorem performStores_eq (s : State) (f : Late → Bool) : ∃ l, performStores s f = s.modMem fun m => { m with late := l } := by
  unfold performStores
  split
  · exact ⟨s.mem.late, rfl⟩
  · exact ⟨_, rfl⟩

/-- What the host sees of a line changes no byte, no L2 and no core. -/
theorem hostSees_frame (s : State) (pa : Nat) :
    (hostSees s pa).mem.bytes = s.mem.bytes ∧ (hostSees s pa).mem.l2 = s.mem.l2 ∧ (hostSees s pa).cores = s.cores := by
  obtain ⟨l, h⟩ := performStores_eq s fun x => x.meets (pa / 128 * 128) 128
  rw [hostSees, h]
  exact ⟨rfl, rfl, rfl⟩

@[simp] theorem Memory.l2At_setL2 (m : Memory) (d line : Nat) (x : L2Line) : (m.setL2 d line x).l2At d line = x := by simp [Memory.l2At, Memory.setL2]
@[simp] theorem Memory.l2At_setSnoop (m : Memory) (line : Nat) (v : Snoop) (d l : Nat) : (m.setSnoop line v).l2At d l = m.l2At d l := rfl
@[simp] theorem Memory.snoopAt_setSnoop (m : Memory) (line : Nat) (v : Snoop) : (m.setSnoop line v).snoopAt line = v := by simp [Memory.snoopAt, Memory.setSnoop]

/-- m with a line taken from die k where that holds it. -/
def Memory.takeLine (line : Nat) (m : Memory) (k : Nat) : Memory := if (m.l2At k line).st = .i then m else m.setL2 k line {}

/-- Invalidating the other dies takes the line from each of them. -/
theorem Memory.others_inv (m : Memory) (d line : Nat) : m.others d line true = ([0, 1, 2, 3, 4].filter (· ≠ d)).foldl (Memory.takeLine line) m := by
  unfold Memory.others Memory.takeLine
  simp only [if_true]

/-- Taking a line from one die leaves it with no die that did not hold it. -/
theorem Memory.takeLine_keeps {m : Memory} {line j : Nat} (h : (m.l2At j line).st = .i) (k : Nat) : ((m.takeLine line k).l2At j line).st = .i := by
  unfold Memory.takeLine
  split
  · exact h
  · simp only [Memory.l2At, Memory.setL2, Tab.look_put]
    split
    · rfl
    · exact h

/-- A die whose line is taken does not hold it. -/
theorem Memory.takeLine_takes (m : Memory) (line k : Nat) : ((m.takeLine line k).l2At k line).st = .i := by
  unfold Memory.takeLine
  split
  · assumption
  · simp

/-- Lines taken from some dies are held by none of them. -/
theorem Memory.foldl_takeLine {line j : Nat} (ks : List Nat) : ∀ m : Memory, j ∈ ks → ((ks.foldl (Memory.takeLine line) m).l2At j line).st = .i := by
  induction ks with
  | nil => intro m h; cases h
  | cons k ks ih =>
    intro m h
    rcases List.mem_cons.1 h with rfl | h
    · exact foldl_keeps (p := fun m : Memory => (m.l2At j line).st = .i) ks (fun _ k h => Memory.takeLine_keeps h k) _ (Memory.takeLine_takes m line j)
    · exact ih _ h

/-- A line that the I/O die or the host takes for itself is in no compute die's L2 (13 R306). -/
theorem Memory.others_inv_i (m : Memory) (line : Nat) {j : Nat} (hj : j < 4) : ((m.others 4 line true).l2At j line).st = .i := by
  rw [Memory.others_inv]
  exact Memory.foldl_takeLine _ m (List.mem_filter.2 ⟨by simp only [List.mem_cons, List.not_mem_nil]; omega, decide_eq_true (by omega)⟩)

/-- Memory once the host has taken a line. -/
theorem hostTakes_mem (s : State) (pa : Nat) (own : Bool) :
    (hostTakes s pa own).mem = ((hostSees s pa).mem.others 4 (pa / 128) own).setSnoop (pa / 128) (if own then .excl else .shared) := by
  unfold hostTakes
  dsimp only [State.modMem]
  split
  · rw [bumpVersion_mem]
  · rfl

/-- A line that the host takes keeps its bytes. -/
theorem hostTakes_bytes (s : State) (pa : Nat) (own : Bool) : (hostTakes s pa own).mem.bytes = s.mem.bytes := by
  rw [hostTakes_mem]
  simp [(hostSees_frame s pa).1]

/-! Walks and migration. -/

/-- Nothing below the end of device memory is reserved (11 R248). -/
theorem rangeReserved_device {pa n : Nat} (hn : 0 < n) (h : pa + n ≤ 2 ^ 38) : rangeReserved pa n = false := by
  simp only [rangeReserved, paReserved, Bool.or_eq_false_iff, decide_eq_false_iff_not]
  omega

@[simp] theorem makeRoom_iod (s : State) (d line : Nat) : (makeRoom s d line).iod = s.iod := by
  unfold makeRoom
  dsimp only
  repeat' split
  all_goals rfl

/-- A coherent read changes no register of the I/O die. -/
theorem physRead_iod (s : State) (d pa n : Nat) : (physRead s d pa n).2.iod = s.iod := by
  unfold physRead
  exact foldl_keeps (p := fun t : State => t.iod = s.iod) _ (fun t a h => by simpa [touchRead, touchLine] using h) _ (by split <;> rfl)

/-- What a walk can do: it writes no byte and no register of the I/O die, and a leaf that it finds has passed the checks of R253. -/
theorem walkFrom_spec (d part va : Nat) (acc : Acc) (n : Nat) : ∀ (t : Nat) (s : State),
    (walkFrom d part va acc n t s).2.mem.bytes = s.mem.bytes ∧ (walkFrom d part va acc n t s).2.iod = s.iod ∧
    ∀ e lv a, (walkFrom d part va acc n t s).1 = .found e lv a → leafOk e lv = true := by
  induction n with
  | zero => exact fun t s => ⟨rfl, rfl, fun e lv a h => nomatch h⟩
  | succ n ih =>
    intro t s
    have read (a : Nat) := And.intro (physRead_reads s d a 8) (physRead_iod s d a 8)
    simp only [walkFrom]
    split
    · exact ih _ _                                           -- the walker keeps the entry
    split
    · exact ⟨rfl, rfl, fun e lv a h => nomatch h⟩            -- no way leads to the table
    · exact ⟨rfl, rfl, fun e lv a h => nomatch h⟩            -- flits are held on the way
    split
    · exact ⟨rfl, rfl, fun e lv a h => nomatch h⟩            -- the L2 has no room
    split
    · exact ⟨(read _).1, (read _).2, fun e lv a h => nomatch h⟩   -- an entry that is not valid
    split
    · exact ⟨(read _).1, (read _).2, fun e lv a h => nomatch h⟩   -- a malformed entry
    split
    · refine ⟨(read _).1, (read _).2, fun e lv a h => ?_⟩         -- a leaf
      dsimp only at h
      split at h
      · next ok =>
        obtain ⟨rfl, rfl, -⟩ := Leaf.found.inj h
        exact ok
      · nomatch h
    split
    · exact ⟨(read _).1, (read _).2, fun e lv a h => nomatch h⟩   -- a malformed table address
    · exact ⟨(ih _ _).1.trans (read _).1, (ih _ _).2.1.trans (read _).2, (ih _ _).2.2⟩

/-- What looking for a leaf from the root can do. -/
theorem findLeaf_spec (s : State) (d p va : Nat) (acc : Acc) :
    (findLeaf s d p va acc).2.mem.bytes = s.mem.bytes ∧ (findLeaf s d p va acc).2.iod = s.iod ∧
    ∀ e lv a, (findLeaf s d p va acc).1 = .found e lv a → leafOk e lv = true := by
  unfold findLeaf
  dsimp only
  split
  · exact walkFrom_spec _ _ _ _ _ _ _
  · exact ⟨rfl, rfl, fun e lv a h => nomatch h⟩

/-- A plain leaf of level 2 maps a frame of 64 KiB. -/
theorem frame_of_leafOk {e : Nat} (h : leafOk e 2 = true) (c : e.testBit 7 = false) : entryAddr e % 65536 = 0 := by
  have := (Bool.and_eq_true_iff.1 (by simpa only [leafOk, c, Bool.false_eq_true, if_false] using h)).1
  simpa [pageSize] using this

/-- What a path between two dies does is read from the I/O die. -/
theorem crossing_congr {s t : State} (h : t.iod = s.iod) (a b : Nat) : crossing t a b = crossing s a b := by
  have up : linkUp t = linkUp s := by funext n; simp [linkUp, h]
  have flows : linkFlows t = linkFlows s := by funext n; simp [linkFlows, h]
  unfold crossing pathTaken
  rw [up, flows]

/-- One line of a frame copied with coherent reads (11 R265). -/
def copyFrameLine (src dst : Nat) (s : State) (i : Nat) : State := iodPut (iodRead s (src + 128 * i) 128).2 (dst + 128 * i) (iodRead s (src + 128 * i) 128).1

/-- A frame is copied line by line. -/
theorem copyFrame_eq (s : State) (src dst : Nat) : copyFrame s src dst = (List.range 512).foldl (copyFrameLine src dst) s := rfl

/-- A line that is copied reads at its new place as it did at its old one, and every byte outside stands. -/
theorem copyFrameLine_byte {s : State} {src dst i : Nat} (hs : src + 128 * i + 128 ≤ 2 ^ 38) (hd : dst + 128 * i + 128 ≤ 2 ^ 38) :
    (∀ j < 128, (copyFrameLine src dst s i).mem.byte (dst + 128 * i + j) = s.mem.byte (src + 128 * i + j)) ∧
    ∀ x, (x < dst + 128 * i ∨ dst + 128 * i + 128 ≤ x) → (copyFrameLine src dst s i).mem.byte x = s.mem.byte x := by
  have v := iodRead_value (s := s) (rangeReserved_device (by decide) hs)
  have len : (iodRead s (src + 128 * i) 128).1.length = 128 := by simp [v, Memory.get_eq_map]
  have out : rangeReserved (dst + 128 * i) (iodRead s (src + 128 * i) 128).1.length = false := by rw [len]; exact rangeReserved_device (by decide) hd
  refine ⟨fun j hj => ?_, fun x hx => ?_⟩
  · rw [copyFrameLine, iodPut_byte_at out (by omega)]
    simp [v, Memory.get_eq_map]
  · rw [copyFrameLine, iodPut_byte_other out (by omega)]
    exact Memory.byte_congr (iodRead_bytes _ _ _) x

/-- The first n lines of a frame copied to a frame that is the same or lies apart. -/
theorem foldl_copyFrameLine_byte {s : State} {src dst : Nat} (hs : src + 65536 ≤ 2 ^ 38) (hd : dst + 65536 ≤ 2 ^ 38)
    (apart : src = dst ∨ src + 65536 ≤ dst ∨ dst + 65536 ≤ src) (n : Nat) : n ≤ 512 →
    (∀ i < 128 * n, ((List.range n).foldl (copyFrameLine src dst) s).mem.byte (dst + i) = s.mem.byte (src + i)) ∧
    ∀ x, (x < dst ∨ dst + 128 * n ≤ x) → ((List.range n).foldl (copyFrameLine src dst) s).mem.byte x = s.mem.byte x := by
  induction n with
  | zero => exact fun _ => ⟨fun i h => absurd h (by omega), fun x _ => rfl⟩
  | succ n ih =>
    intro hn
    obtain ⟨done, rest⟩ := ih (by omega)
    obtain ⟨new, old⟩ := copyFrameLine_byte (s := (List.range n).foldl (copyFrameLine src dst) s) (i := n) (src := src) (dst := dst) (by omega) (by omega)
    rw [List.range_succ, List.foldl_append, List.foldl_cons, List.foldl_nil]
    refine ⟨fun i hi => ?_, fun x hx => ?_⟩
    · by_cases g : i < 128 * n
      · rw [old _ (by omega), done i g]
      · have := new (i - 128 * n) (by omega)
        rw [show dst + 128 * n + (i - 128 * n) = dst + i by omega, show src + 128 * n + (i - 128 * n) = src + i by omega] at this
        rw [this, rest _ (by omega)]
    · rw [old x (by omega), rest x (by omega)]

/-- A frame of device memory is copied to another, and no other byte changes (11 R265). -/
theorem copyFrame_byte {s : State} {src dst : Nat} (hs : src < 2 ^ 38) (as : src % 65536 = 0) (hd : dst < 2 ^ 38) (ad : dst % 65536 = 0) :
    (∀ i < 65536, (copyFrame s src dst).mem.byte (dst + i) = s.mem.byte (src + i)) ∧
    ∀ x, (x < dst ∨ dst + 65536 ≤ x) → (copyFrame s src dst).mem.byte x = s.mem.byte x := by
  rw [copyFrame_eq]
  exact foldl_copyFrameLine_byte (by omega) (by omega) (by omega) 512 (by decide)

/-! The events. -/

/-- A walk that is due and succeeds puts its leaf into the core's cache, and writes no more than the walk does. -/
theorem pageWalk_installs {s u : State} {k : Nat} {va : Word} {acc : Acc} {user : Bool} {r : Nat × Nat × Nat} (due : walkDue s k va.toNat acc user = true)
    (h : hostWalk s k va.toNat acc (fun e => permits e acc user) = .ok r u) :
    ∃ t, execPageWalk k va acc user s = .next t ∧ (∃ x ∈ (t.core k).xlats, x.vpn = r.2.1 ∧ x.pages = r.2.2 ∧ x.leaf = w64 r.1) ∧ t.mem = u.mem := by
  refine ⟨u.modCore k fun c => addXlat c { vpn := r.2.1, pages := r.2.2, leaf := w64 r.1 }, ?_, ⟨{ vpn := r.2.1, pages := r.2.2, leaf := w64 r.1 }, ?_, rfl, rfl, rfl⟩, rfl⟩
  · simp only [execPageWalk, due, if_true, walk, h, Mr.andThen]
  · simp [addXlat]

/-- A walk that the host answers keeps the answer for its access (24 R426). -/
theorem dutyReply_walk {s : State} {p : Nat} {v : Word} {x : Duty} (hr : hostReady s = true) (h : dutyOf s p (bits v 48 16) = some x) (nr : x.reply = none)
    (ne : x.expired = false) (ns : x.stale = false) (nq : (s.die x.die).walkq = []) (nd : dutyDue s x = false) (f : x.func = 0) (c : bits v 0 3 ≤ 1) :
    ∃ t y, execDutyReply p v s = .next t ∧ dutyOf t p x.tag = some y ∧ y.reply = some (bits v 0 3, bits v 8 7, (s.part p).dutydata) ∧ t.mem = s.mem := by
  have t := (mem_of_dutyOf h).2
  rw [← t] at h
  refine ⟨answerDuty s p x.tag (bits v 0 3, bits v 8 7, (s.part p).dutydata), _, ?_, dutyOf_answerDuty h _, rfl, rfl⟩
  rw [t] at h
  simp only [execDutyReply, hr, h, nr, ne, ns, nd, f, Nat.not_lt.2 c, Bool.not_true, Bool.false_eq_true, if_false, Option.isSome_none, or_self]
  exact congrArg _ (promoteWalks_none nq)

/-- A decision that the host answers is settled, and memory stands (24 R426). -/
theorem dutyReply_decision {s : State} {p : Nat} {v : Word} {x : Duty} (hr : hostReady s = true) (h : dutyOf s p (bits v 48 16) = some x) (nr : x.reply = none)
    (ne : x.expired = false) (nd : dutyDue s x = false) (f0 : x.func ≠ 0) (f2 : x.func ≠ 2) :
    ∃ t, execDutyReply p v s = .next t ∧ dutyOf t p x.tag = none ∧ t.mem = s.mem := by
  simp only [execDutyReply, hr, h, nr, ne, nd, Bool.not_true, Bool.false_eq_true, if_false, Option.isSome_none, or_self]
  exact ⟨_, rfl, dutyOf_dropDuty _ _ _, rfl⟩

/-- A page that the host has laid out again is released, and its request settled (24 R426). -/
theorem dutyReply_layout {s : State} {p : Nat} {v : Word} {x : Duty} (hr : hostReady s = true) (h : dutyOf s p (bits v 48 16) = some x) (nr : x.reply = none)
    (ne : x.expired = false) (nd : dutyDue s x = false) (f : x.func = 2) (c : bits v 0 3 = 0) :
    ∃ t, execDutyReply p v s = .next t ∧ dutyOf t p x.tag = none :=
  ⟨dropDuty (releasePage s p x.tag) p x.tag, by simp [execDutyReply, hr, h, nr, ne, nd, f, c], dutyOf_dropDuty _ _ _⟩

/-- Noting the walks begun changes the dies alone. -/
theorem noteWalks_frame (s : State) (p : Nat) :
    (noteWalks s p).cores = s.cores ∧ (noteWalks s p).mem = s.mem ∧ (noteWalks s p).parts = s.parts ∧ (noteWalks s p).iod = s.iod := foldl_modDie_frame _ _ s

/-- A TINV with none under way takes effect at once (11 R255). -/
theorem tinv_first {s : State} {p : Nat} {v : Word} (hr : hostReady s = true) (h : (s.part p).tinvs = []) :
    ∃ t, execTinv p v s = .next t ∧ (∃ l, (t.part p).tinvs = [(v, l)]) ∧
      (∀ j ∈ coresOf s p, ∀ x ∈ (t.core j).xlats, rangeHits (tinvRange v) x.vpn x.pages = false) ∧ t.mem = s.mem := by
  obtain ⟨nc, nm, np, ni⟩ := noteWalks_frame s p
  have part : (noteWalks s p).part p = s.part p := by rw [State.part, np, State.part]
  simp only [execTinv, hr, h, List.isEmpty_nil, if_true, Bool.not_true, Bool.false_eq_true, if_false]
  generalize noteWalks s p = u at nc nm np ni part ⊢
  refine ⟨_, rfl, ⟨((s.part p).duties.filter fun d => decide (d.func = 0)).map (·.tag), ?_⟩, fun j hj x hx => ?_, ?_⟩
  · rw [State.part, (invalidate_frame _ _ _).2.1]
    show ((State.modPart _ _ _).part p).tinvs = _
    simp [part, h]
  · refine invalidate_drops ?_ _ hx
    rw [coresOf_congr (t := State.modPart _ _ _) (s := s) nc ni]
    exact hj
  · rw [(invalidate_frame _ _ _).1]
    exact nm

/-- A TINV behind another waits (11 R255). -/
theorem tinv_behind {s : State} {p : Nat} {v : Word} (hr : hostReady s = true) (h : (s.part p).tinvs ≠ []) :
    ∃ t l, execTinv p v s = .next t ∧ (t.part p).tinvs = (s.part p).tinvs ++ [(v, l)] ∧ t.cores = s.cores := by
  obtain ⟨nc, nm, np, ni⟩ := noteWalks_frame s p
  have part : (noteWalks s p).part p = s.part p := by rw [State.part, np, State.part]
  have e : (s.part p).tinvs.isEmpty = false := by simpa using h
  simp only [execTinv, hr, e, Bool.not_true, Bool.false_eq_true, if_false]
  refine ⟨_, ((s.part p).duties.filter fun d => decide (d.func = 0)).map (·.tag), rfl, ?_, nc⟩
  simp only [State.part_modPart, if_true, part]

/-- s once the invalidation of a range under way has ended, before the next one of rest starts (11 R255). -/
def endTinv (s : State) (p : Nat) (r : Nat × Nat) (walks : List Nat) (rest : List (Word × List Nat)) : State :=
  (invalidate (performStores ((List.range 4).foldl (fun s d => s.modDie d fun y => endWalks y p r) s) fun _ => true) p r).modPart p fun x =>
    { dropAnswers x walks r with tinvs := rest }

/-- The end of an invalidation leaves those behind it, changes no byte, and leaves no translation of its range. -/
theorem endTinv_drops (s : State) (p : Nat) (r : Nat × Nat) (walks : List Nat) (rest : List (Word × List Nat)) :
    ((endTinv s p r walks rest).part p).tinvs = rest ∧ (endTinv s p r walks rest).mem.bytes = s.mem.bytes ∧
    ∀ j ∈ coresOf s p, ∀ y ∈ ((endTinv s p r walks rest).core j).xlats, rangeHits r y.vpn y.pages = false := by
  obtain ⟨cores, mem, -, iod⟩ := foldl_modDie_frame (List.range 4) (fun y => endWalks y p r) s
  unfold endTinv
  generalize (List.range 4).foldl (fun s d => s.modDie d fun y => endWalks y p r) s = u at cores mem iod ⊢
  obtain ⟨late, hp⟩ := performStores_eq u fun _ => true
  rw [hp]
  refine ⟨by simp, ?_, fun j hj y hy => ?_⟩
  · rw [State.modPart_mem, (invalidate_frame _ _ _).1, ← mem]
    rfl
  · rw [State.modPart_core] at hy
    exact invalidate_drops ((coresOf_congr (t := u.modMem _) cores iod p).symm ▸ hj) r hy

/-- A TINV whose walks and accesses are over completes, and the next one starts (11 R255). -/
theorem tinvComplete_ends {s : State} {p : Nat} {v : Word} {l : List Nat} {rest : List (Word × List Nat)} (h : (s.part p).tinvs = (v, l) :: rest)
    (ha : accessesOver s p (tinvRange v) = true) (hb : walkBehind s p = false) (hd : ∀ x ∈ (s.part p).duties, x.inFlight = true → x.tag ∉ l) :
    ∃ t, execTinvComplete p s = .next t ∧ (t.part p).tinvs = rest ∧ t.mem.bytes = s.mem.bytes ∧
      (∀ j ∈ coresOf s p, ∀ y ∈ (t.core j).xlats, rangeHits (tinvRange v) y.vpn y.pages = false) := by
  have ended : (s.part p).duties.any (fun d => d.inFlight && l.contains d.tag) = false := by
    simp only [List.any_eq_false, Bool.and_eq_true, List.contains_iff_mem, not_and]
    exact hd
  obtain ⟨tinvs, bytes, clear⟩ := endTinv_drops s p (tinvRange v) l rest
  cases rest with
  | nil => exact ⟨endTinv s p (tinvRange v) l [], by simp only [execTinvComplete, h, ha, ended, hb, Bool.not_true, Bool.false_eq_true, or_self, if_false]; rfl, tinvs, bytes, clear⟩
  | cons n rest =>
    refine ⟨invalidate (endTinv s p (tinvRange v) l (n :: rest)) p (tinvRange n.1), by simp only [execTinvComplete, h, ha, ended, hb, Bool.not_true, Bool.false_eq_true, or_self, if_false]; rfl, ?_, ?_,
      fun j hj y hy => clear j hj y (mem_xlats_of_invalidate hy)⟩
    · rw [State.part, (invalidate_frame _ _ _).2.1]
      exact tinvs
    · rw [(invalidate_frame _ _ _).1]
      exact bytes

/-- SnpData leaves a line that the L2 owned shared (13 R305). -/
theorem snpdata_shares {s : State} {d pa : Nat} (hr : hostReady s = true) (hd : d < 5) (hm : hostMemory pa = true)
    (h : (s.mem.l2At d (pa / 128)).st = .m ∨ (s.mem.l2At d (pa / 128)).st = .e) :
    ∃ t, execSnpdata d pa s = .next t ∧ (t.mem.l2At d (pa / 128)).st = .s ∧ t.mem.bytes = s.mem.bytes :=
  ⟨_, if_pos ⟨hr, hd, hm, h⟩, by simp [State.modMem], (hostSees_frame s pa).1⟩

/-- SnpInv takes a line from the L2 (13 R305). -/
theorem snpinv_takes {s : State} {d pa : Nat} (hr : hostReady s = true) (hd : d < 5) (hm : hostMemory pa = true) :
    ∃ t, execSnpinv d pa s = .next t ∧ (t.mem.l2At d (pa / 128)).st = .i ∧ t.mem.bytes = s.mem.bytes :=
  ⟨_, if_pos ⟨hr, hd, hm⟩, by simp [State.modMem], (hostSees_frame s pa).1⟩

/-- SnpCur changes no cache and no byte (13 R305). -/
theorem snpcur_frame (s : State) (d pa : Nat) : ∃ t, execSnpcur d pa s = .next t ∧ t.mem.bytes = s.mem.bytes ∧ t.mem.l2 = s.mem.l2 ∧ t.cores = s.cores := by
  unfold execSnpcur
  split
  · exact ⟨_, rfl, hostSees_frame s pa⟩
  · exact ⟨s, rfl, rfl, rfl, rfl⟩

/-- The host reads a line of device memory, and has it to itself where it asks for ownership (13 R306). -/
theorem hostReadDeviceMemory_takes {s : State} {pa : Nat} (own : Bool) (hr : hostReady s = true) (hp : pa < 2 ^ 38) :
    ∃ t, execHostReadDeviceMemory pa own s = .next t ∧ t.mem.snoopAt (pa / 128) = (if own then .excl else .shared) ∧ t.mem.bytes = s.mem.bytes ∧
      (own = true → ∀ j < 4, (t.mem.l2At j (pa / 128)).st = .i) := by
  refine ⟨_, if_pos ⟨hr, hp⟩, by simp [hostTakes_mem], hostTakes_bytes s pa own, fun o j hj => ?_⟩
  rw [hostTakes_mem, o, Memory.l2At_setSnoop]
  exact Memory.others_inv_i _ _ hj

/-- Writing bytes leaves the L2s as they are. -/
theorem Memory.l2At_set (bs : List Byte) (d line : Nat) : ∀ (m : Memory) (pa : Nat), (m.set pa bs).l2At d line = m.l2At d line := by
  induction bs with
  | nil => intro m pa; rfl
  | cons b bs ih => intro m pa; exact ih _ _

/-- The host writes a doubleword of device memory, and no L2 of the device holds its line after it (13 R306). -/
theorem hostWriteDeviceMemory_writes {s : State} {pa : Nat} (v : Word) (hr : hostReady s = true) (hp : pa < 2 ^ 38) (ha : pa % 8 = 0) :
    ∃ t, execHostWriteDeviceMemory pa v s = .next t ∧ t.mem.val pa 8 = v.toNat ∧ (∀ a, a < pa ∨ pa + 8 ≤ a → t.mem.byte a = s.mem.byte a) ∧
      (∀ j < 4, (t.mem.l2At j (pa / 128)).st = .i) := by
  refine ⟨(hostTakes s pa true).modMem fun m => m.set pa (bytesLE v.toNat 8), if_pos ⟨hr, hp, ha⟩, ?_, fun a h => ?_, fun j hj => ?_⟩
  · rw [State.modMem_mem, Memory.val_set_dword, Nat.mod_eq_of_lt v.isLt]
  · rw [State.modMem_mem, Memory.byte_set_other _ _ _ _ (by simpa using h), Memory.byte_congr (hostTakes_bytes s pa true)]
  · rw [State.modMem_mem, Memory.l2At_set, hostTakes_mem, Memory.l2At_setSnoop]
    exact Memory.others_inv_i _ _ hj

theorem migOn_mem (s : State) (d : Nat) (g : Migration) : (migOn s d g).mem = s.mem := rfl
theorem migOn_mig (s : State) (d : Nat) (g : Migration) : ((migOn s d g).die d).mig = some g := by simp [migOn, setMigst]
theorem migOn_migst (s : State) (d : Nat) (g : Migration) : ((migOn s d g).die d).regs.migst = 1 := by simp [migOn, setMigst]
theorem migOver_mig (s : State) (d n : Nat) : ((migOver s d n).die d).mig = none := by simp [migOver, setMigst]
theorem migOver_migst (s : State) (d n : Nat) : ((migOver s d n).die d).regs.migst = n := by simp [migOver, setMigst]
theorem migOver_mem (s : State) (d n : Nat) : (migOver s d n).mem = s.mem := rfl
theorem migOver_core (s : State) (d n j : Nat) : (migOver s d n).core j = s.core j := rfl

/-- g once its page is translated, to the frame of a leaf entry e at address a. -/
def Migration.translated (g : Migration) (e a : Nat) : Migration := { g with src := entryAddr e, entry := a, leaf := w64 e, stage := .found }

/-- A page that is translated to a plain frame of the die is copied next (11 R265). -/
theorem migTranslate_found {s u : State} {d : Nat} {g : Migration} {e a : Nat} (h : findLeaf s d g.part g.va .read = (.found e 2 a, u)) (plain : e.testBit 7 = false)
    (hs : entryAddr e < 2 ^ 38) (home : homeDie (entryAddr e) = d) (hd : g.dst < 2 ^ 38) (ad : g.dst % 65536 = 0) :
    migTranslate s d g = migCopy u d (g.translated e a) := by
  have ok : ¬(2 ≠ 2 ∨ e.testBit 7 = true ∨ 2 ^ 38 ≤ entryAddr e ∨ homeDie (entryAddr e) ≠ d ∨ 2 ^ 38 ≤ g.dst ∨ g.dst % 65536 ≠ 0) := by
    rintro (f | f | f | f | f | f)
    · exact f rfl
    · exact Bool.false_ne_true (plain.symm.trans f)
    · exact Nat.not_le.2 hs f
    · exact f home
    · exact Nat.not_le.2 hd f
    · exact f ad
  simp only [migTranslate, h]
  exact if_neg ok

/-- A page is copied as soon as a way leads to its new frame (11 R265; 23 R406). -/
theorem migCopy_clear {s : State} {d : Nat} {g : Migration} (way : crossing s d (homeDie g.dst) = .clear) :
    migCopy s d g = migOn (copyFrame s g.src g.dst) d { g with version := Tab.look 0 (s.die d).versions (g.src / 65536), stage := .copied } := by
  simp only [migCopy, way]

/-- A page that is copied stands in its new frame, and the migration awaits its commit (11 R265). -/
theorem migCopy_copies {s : State} {d : Nat} {g : Migration} (way : crossing s d (homeDie g.dst) = .clear) (hs : g.src < 2 ^ 38) (as : g.src % 65536 = 0)
    (hd : g.dst < 2 ^ 38) (ad : g.dst % 65536 = 0) :
    (∃ x : Migration, ((migCopy s d g).die d).mig = some x ∧ x.src = g.src ∧ x.dst = g.dst ∧ x.entry = g.entry ∧ x.stage = .copied) ∧
      ((migCopy s d g).die d).regs.migst = 1 ∧ (∀ i < 65536, (migCopy s d g).mem.byte (g.dst + i) = s.mem.byte (g.src + i)) ∧
      ∀ y, (y < g.dst ∨ g.dst + 65536 ≤ y) → (migCopy s d g).mem.byte y = s.mem.byte y := by
  obtain ⟨copied, rest⟩ := copyFrame_byte (s := s) hs as hd ad
  rw [migCopy_clear way]
  rw [migOn_mem]
  exact ⟨⟨_, migOn_mig _ _ _, rfl, rfl, rfl, rfl⟩, migOn_migst _ _ _, copied, rest⟩

/-- A migration whose page is a plain frame of the die copies it to its new frame, once a way leads there (11 R265). -/
theorem migTranslate_copies {s : State} {d : Nat} {g : Migration} {e a : Nat} (h : (findLeaf s d g.part g.va .read).1 = .found e 2 a) (plain : e.testBit 7 = false)
    (hs : entryAddr e < 2 ^ 38) (home : homeDie (entryAddr e) = d) (hd : g.dst < 2 ^ 38) (ad : g.dst % 65536 = 0) (way : crossing s d (homeDie g.dst) = .clear) :
    (∃ x : Migration, ((migTranslate s d g).die d).mig = some x ∧ x.src = entryAddr e ∧ x.dst = g.dst ∧ x.entry = a ∧ x.stage = .copied) ∧
      ((migTranslate s d g).die d).regs.migst = 1 ∧ (∀ i < 65536, (migTranslate s d g).mem.byte (g.dst + i) = s.mem.byte (entryAddr e + i)) ∧
      ∀ y, (y < g.dst ∨ g.dst + 65536 ≤ y) → (migTranslate s d g).mem.byte y = s.mem.byte y := by
  obtain ⟨bytes, iod, ok⟩ := findLeaf_spec s d g.part g.va .read
  have aligned := frame_of_leafOk (ok e 2 a h) plain
  generalize hf : findLeaf s d g.part g.va .read = f at h bytes iod
  obtain ⟨leaf, u⟩ := f
  subst h
  have clear : crossing u d (homeDie (g.translated e a).dst) = .clear := (crossing_congr iod _ _).trans way
  obtain ⟨mig, st, copied, rest⟩ := migCopy_copies clear hs aligned hd ad
  rw [migTranslate_found hf plain hs home hd ad]
  exact ⟨mig, st, fun i hi => (copied i hi).trans (Memory.byte_congr bytes _), fun y hy => (rest y hy).trans (Memory.byte_congr bytes _)⟩

/-- The migration that a write to MIGCMD asks for (24 R420). -/
def migAsked (s : State) (d : Nat) (v : Word) : Migration := { part := bits v 0 12, va := bits v 16 39 * 65536, dst := (s.die d).regs.migdst }

/-- MIGCMD on a die with no migration under way translates the page (11 R265). -/
theorem migcmd_begins {s : State} {d : Nat} (v : Word) (hr : hostReady s = true) (hd : d < 4) (idle : (s.die d).regs.migst ≠ 1) :
    execMigcmd d v s = .next (migTranslate s d (migAsked s d v)) := by simp [execMigcmd, hr, Nat.not_le.2 hd, idle, migAsked]

/-- A migration whose page is copied goes on with its commit (11 R265). -/
theorem migrationCommit_commits {s : State} {d : Nat} {g : Migration} (h : (s.die d).mig = some g) (st : g.stage = .copied) :
    execMigrationCommit d s = .next (migCommit s d g) := by simp [execMigrationCommit, h, st]

/-- A migration whose page has not been written since: its leaf takes the new frame, no other byte changes, and no core of the partition keeps the page's translation (11 R265). -/
theorem migCommit_moves {s : State} {d : Nat} {g : Migration} (ha : accessesOver s g.part (g.va / 65536, 1) = true) (way : reaching s d g.entry = .clear)
    (open_ : rangeReserved g.entry 8 = false) (ver : Tab.look 0 (s.die d).versions (g.src / 65536) = g.version)
    (leaf : leafCore (s.mem.val g.entry 8) = leafCore g.leaf.toNat) :
    ((migCommit s d g).die d).mig = none ∧ ((migCommit s d g).die d).regs.migst = 2 ∧
      (migCommit s d g).mem.val g.entry 8 = (s.mem.val g.entry 8 - nbits (s.mem.val g.entry 8) 10 42 * 1024 + g.dst) % 2 ^ 64 ∧
      (∀ x, x < g.entry ∨ g.entry + 8 ≤ x → (migCommit s d g).mem.byte x = s.mem.byte x) ∧
      ∀ j ∈ coresOf s g.part, ∀ y ∈ ((migCommit s d g).core j).xlats, rangeHits (g.va / 65536, 1) y.vpn y.pages = false := by
  obtain ⟨late, hp⟩ := performStores_eq s fun _ => true
  generalize he : s.mem.val g.entry 8 - nbits (s.mem.val g.entry 8) 10 42 * 1024 + g.dst = e
  have run : migCommit s d g = migOver ((invalidate (iodPut (performStores s fun _ => true) g.entry (bytesLE e 8)) g.part (g.va / 65536, 1)).modPart g.part
      fun x => staleWalks x (g.va / 65536)) d 2 := by
    simp [migCommit, ha, way, ver, leaf, ← he]
  obtain ⟨cores, -, iod⟩ := iodPut_frame (performStores s fun _ => true) g.entry (bytesLE e 8)
  have val := iodPut_val (s := performStores s fun _ => true) (v := e) open_
  have other (x : Nat) := iodPut_byte_other (s := performStores s fun _ => true) (bs := bytesLE e 8) (a := x) (by simpa using open_)
  rw [run]
  generalize iodPut (performStores s fun _ => true) g.entry (bytesLE e 8) = u at cores iod val other ⊢
  rw [hp] at cores iod other
  rw [migOver_mem, State.modPart_mem, (invalidate_frame _ _ _).1]
  refine ⟨migOver_mig _ _ _, migOver_migst _ _ _, val, fun x hx => other x (by simpa using hx), fun j hj y hy => ?_⟩
  rw [migOver_core, State.modPart_core] at hy
  exact invalidate_drops (coresOf_congr cores iod _ ▸ hj) _ hy

/-- A migration whose page or leaf has changed since is abandoned, and nothing moves (11 R265). -/
theorem migCommit_abandons {s : State} {d : Nat} {g : Migration} (ha : accessesOver s g.part (g.va / 65536, 1) = true) (way : reaching s d g.entry = .clear)
    (h : ¬(Tab.look 0 (s.die d).versions (g.src / 65536) = g.version ∧ leafCore (s.mem.val g.entry 8) = leafCore g.leaf.toNat)) :
    migCommit s d g = migOver s d 4 := by simp [migCommit, ha, way, h]

end Sys2Proof.Machine

namespace Sys2Proof.Claims
open Sys2Proof Sys2Proof.Machine

/-- The host reaches the part: it has booted and its link is up. -/
theorem hostReady_of_reaches {s : State} (h : hostReaches s) : hostReady s = true := by simp [hostReady, h.1, h.2]

/-- An exact natural cut to a word. -/
theorem w_natCast (n : Nat) : w (n : Int) = w64 n := BitVec.ofInt_natCast 64 n

/-- Settles O50: it holds, each clause by the rule of its event above. -/
theorem memoryEvents : Obligations.MemoryEvents := by
  unfold Obligations.MemoryEvents
  intro s k p d pa v va acc user own
  have code : bits v 0 3 = v.toNat % 8 := by simp [bits_eq_div]
  have tag : bits v 48 16 = v.toNat / 2 ^ 48 := by rw [bits_eq_div]; omega
  have cause : bits v 8 7 = v.toNat / 2 ^ 8 % 2 ^ 7 := bits_eq_div _ _ _
  have asks : (migAsked s d v).part = v.toNat % 2 ^ 12 ∧ (migAsked s d v).va = v.toNat / 2 ^ 16 % 2 ^ 39 * 65536 := by simp [migAsked, bits_eq_div]
  refine ⟨fun r u due h => ?walk, fun x tg h due => ⟨_, dutyWaitExpiry_due h due, expireDuty_gives_up h⟩, fun x reach h nr ne ns nq nd => ?reply, fun reach => ?tinv,
    fun l rest h ha hb hd => tinvComplete_ends h ha hb hd, fun reach hd lo hi => ?snoop, snpcur_frame s d pa, fun reach hp => ?host,
    fun e lv a reach hd idle h hl plain hs home hdst ad way => ?migcmd, fun g h st ha way open_ => ?commit⟩
  case walk =>
    rw [w_natCast]
    exact pageWalk_installs due h
  case reply =>
    have hr := hostReady_of_reaches reach
    rw [← tag] at h
    rw [← code, ← cause]
    exact ⟨dutyReply_walk hr h nr ne ns nq nd, dutyReply_decision hr h nr ne nd, dutyReply_layout hr h nr ne nd⟩
  case tinv =>
    have hr := hostReady_of_reaches reach
    exact ⟨tinv_first hr, tinv_behind hr⟩
  case snoop =>
    have hr := hostReady_of_reaches reach
    have hm : hostMemory pa = true := by simp only [hostMemory, Bool.and_eq_true, decide_eq_true_eq]; exact ⟨lo, hi⟩
    exact ⟨snpdata_shares hr hd hm, snpinv_takes hr hd hm⟩
  case host =>
    have hr := hostReady_of_reaches reach
    exact ⟨hostReadDeviceMemory_takes own hr hp, hostWriteDeviceMemory_writes v hr hp⟩
  case migcmd =>
    subst hl
    rw [← asks.1, ← asks.2] at h
    obtain ⟨⟨x, mig, src, dst, entry, stage⟩, st, copies⟩ := migTranslate_copies h plain hs home hdst ad way
    refine ⟨_, x, migcmd_begins v (hostReady_of_reaches reach) hd idle, mig, src, dst, entry, stage, st, ?_⟩
    rw [src, dst]
    exact copies
  case commit =>
    by_cases same : Tab.look 0 (s.die d).versions (g.src / 65536) = g.version ∧ leafCore (s.mem.val g.entry 8) = leafCore g.leaf.toNat
    · obtain ⟨done, moved⟩ := migCommit_moves ha way open_ same.1 same.2
      rw [nbits_eq_div] at moved
      exact ⟨_, migrationCommit_commits h st, done, fun _ => moved, fun n => absurd same n⟩
    · refine ⟨migOver s d 4, ?_, migOver_mig _ _ _, fun y => absurd y same, fun _ => ⟨migOver_migst _ _ _, rfl, rfl⟩⟩
      rw [← migCommit_abandons ha way same]
      exact migrationCommit_commits h st

end Sys2Proof.Claims
end

section
/-! SUPPORT. The word of an instruction read back by the opcode map: what a field of each format reads, what the code of each operand decodes to, and the settling of the statements on words. -/
namespace Sys2Proof
open Sys2Proof.Machine

/-! Slices and bits of what is put together from fields. `no_index` lets simp meet an append at the width a field list comes to, whatever its summands. -/

/-- A slice within the low part. -/
@[simp] theorem slice_append_low {p q lo n : Nat} (x : BitVec p) (y : BitVec q) (h : lo + n ≤ q) :
    BitVec.extractLsb' lo n (no_index (x ++ y)) = y.extractLsb' lo n := BitVec.extractLsb'_append_eq_of_add_le h

/-- A slice within the high part. -/
@[simp] theorem slice_append_high {p q lo n : Nat} (x : BitVec p) (y : BitVec q) (h : q ≤ lo) :
    BitVec.extractLsb' lo n (no_index (x ++ y)) = x.extractLsb' (lo - q) n := BitVec.extractLsb'_append_eq_of_le h

/-- A slice across the border of two parts is zero where both its parts are. -/
@[simp] theorem slice_append_eq_zero {p q lo n : Nat} (x : BitVec p) (y : BitVec q) (h : lo < q) (h' : q < lo + n) :
    BitVec.extractLsb' lo n (no_index (x ++ y)) = 0#n ↔ x.extractLsb' 0 (lo + n - q) = 0#_ ∧ y.extractLsb' lo (q - lo) = 0#_ := by
  simp only [BitVec.eq_of_getLsbD_eq_iff, BitVec.getLsbD_extractLsb', BitVec.getLsbD_append, BitVec.getLsbD_zero]
  constructor
  · intro z
    refine ⟨fun i hi => ?_, fun i hi => ?_⟩
    · have := z (i + (q - lo)) (by omega)
      simpa [show ¬lo + (i + (q - lo)) < q by omega, show lo + (i + (q - lo)) - q = i by omega, hi, show i + (q - lo) < n by omega] using this
    · simpa [show lo + i < q by omega, hi, show i < n by omega] using z i (by omega)
  · rintro ⟨zx, zy⟩ i hi
    by_cases low : lo + i < q
    · simpa [low, hi, show i < q - lo by omega] using zy i (by omega)
    · simpa [low, hi, show lo + i - q < lo + n - q by omega] using zx (lo + i - q) (by omega)

@[simp] theorem bit_append_low {p q i : Nat} (x : BitVec p) (y : BitVec q) (h : i < q) : bit (no_index (x ++ y)) i = bit y i := by
  simp [bit, BitVec.getLsbD_append, h]
@[simp] theorem bit_append_high {p q i : Nat} (x : BitVec p) (y : BitVec q) (h : q ≤ i) : bit (no_index (x ++ y)) i = bit x (i - q) := by
  simp [bit, BitVec.getLsbD_append, Nat.not_lt.mpr h]
@[simp] theorem bit_ofNat (n x i : Nat) : bit (BitVec.ofNat n x) i = (decide (i < n) && decide (x / 2 ^ i % 2 = 1)) := by
  rw [bit, BitVec.getLsbD_ofNat, Nat.testBit_eq_decide_div_mod_eq]
@[simp] theorem bb_false : bb false = 0#1 := rfl
@[simp] theorem bit_bb (b : Bool) : bit (bb b) 0 = b := by cases b <;> rfl

/-! Operands: what decodes a field gives back the operand whose code it holds (02 R38 to R46). -/

@[simp] theorem rg_r (x : Reg) : rg (r x) = x := rfl
@[simp] theorem toFin_n1 (x : Fin 2) : (n1 x).toFin = x := rfl
@[simp] theorem toFin_n2 (x : Fin 4) : (n2 x).toFin = x := rfl
@[simp] theorem toFin_n3 (x : Fin 8) : (n3 x).toFin = x := rfl
@[simp] theorem toFin_n4 (x : Fin 16) : (n4 x).toFin = x := rfl
@[simp] theorem prOf_pr (p : Pred) : prOf (pr p) = some p := by revert p; decide
@[simp] theorem esOf_es (a : ESrc) : esOf (es a) = some a := by
  cases a with
  | d n => revert n; decide
  | i n => revert n; decide
  | _ => rfl
@[simp] theorem edOf_ed (d : EDst) : edOf (ed d) = some d := by
  cases d with
  | d n => revert n; decide
  | null => rfl
@[simp] theorem tiOf_tiCode (x : Ti) : tiOf (tiCode x) = some x := by cases x <;> rfl
@[simp] theorem condOf_condCode (x : Cond) : condOf (condCode x) = some x := by cases x <;> rfl
@[simp] theorem szOf_szCode (x : Sz) : szOf (szCode x) = some x := by cases x <;> rfl
@[simp] theorem scOf_scCode (x : Scope) : scOf (scCode x) = some x := by cases x <;> rfl
@[simp] theorem ordOf_ordCode (x : Ord) : ordOf (ordCode x) = some x := by cases x <;> rfl
@[simp] theorem tyOf_tyCode (x : Ty) : tyOf (tyCode x) = some x := by cases x <;> rfl
@[simp] theorem rmOf_rmCode (x : Rm) : rmOf (rmCode x) = some x := by cases x <;> rfl
@[simp] theorem mtyOf_mtyCode (x : MTy) : mtyOf (mtyCode x) = some x := by cases x <;> rfl
@[simp] theorem drainOf_drainCode (x : DrainTy) : drainOf (drainCode x) = some x := by cases x <;> rfl
@[simp] theorem blendOf_blendCode (x : BlendMode) : blendOf (blendCode x) = some x := by cases x <;> rfl

/-! Fields of a word by its format (02 R36). -/

/-- A word of its bits [63:45], which are the same in every format, and its bits [44:0]. -/
def assemble (head : BitVec 19) (body : BitVec 45) : Code := head ++ body

section
variable (head : BitVec 19) (d a b c : BitVec 5) (w : Code) (lo : Nat)

@[simp] theorem f2_eq : f2 w lo = (w.extractLsb' lo 1).toFin := rfl
@[simp] theorem f4_eq : f4 w lo = (w.extractLsb' lo 2).toFin := rfl
@[simp] theorem f8_eq : f8 w lo = (w.extractLsb' lo 3).toFin := rfl
@[simp] theorem f16_eq : f16 w lo = (w.extractLsb' lo 4).toFin := rfl
@[simp] theorem nbitsZ_eq (n : Nat) : nbitsZ w lo n = decide (w.extractLsb' lo n = 0#n) := rfl

section RRR
variable (t : BitVec 4) (rm : BitVec 3)
@[simp] theorem fD_rrr : fD (assemble head (rrr d a b c t rm)) = d := by simp [fD, assemble, rrr]
@[simp] theorem fA_rrr : fA (assemble head (rrr d a b c t rm)) = a := by simp [fA, assemble, rrr]
@[simp] theorem fB_rrr : fB (assemble head (rrr d a b c t rm)) = b := by simp [fB, assemble, rrr]
@[simp] theorem fC_rrr : fC (assemble head (rrr d a b c t rm)) = c := by simp [fC, assemble, rrr]
@[simp] theorem fT_rrr : fT (assemble head (rrr d a b c t rm)) = t := by simp [fT, assemble, rrr]
@[simp] theorem fRm_rrr : fRm (assemble head (rrr d a b c t rm)) = rm := by simp [fRm, assemble, rrr]
@[simp] theorem low18Z_rrr : low18Z (assemble head (rrr d a b c t rm)) = true := by simp [low18Z, assemble, rrr]
@[simp] theorem low25Z_rrr : low25Z (assemble head (rrr d a b c 0#4 0#3)) = true := by simp [low25Z, assemble, rrr]
@[simp] theorem slice_rrr (n : Nat) (h : lo + n ≤ 45) :
    (assemble head (rrr d a b c t rm)).extractLsb' lo n = (d ++ a ++ b ++ c ++ t ++ rm ++ 0#18 : BitVec 45).extractLsb' lo n := slice_append_low _ _ h
@[simp] theorem bit_rrr (h : lo < 45) : bit (assemble head (rrr d a b c t rm)) lo = bit (d ++ a ++ b ++ c ++ t ++ rm ++ 0#18 : BitVec 45) lo := bit_append_low _ _ h
end RRR

section RRI
variable (ti : BitVec 3) (imm : BitVec 32)
@[simp] theorem fD_rri : fD (assemble head (rri d a ti imm)) = d := by simp [fD, assemble, rri]
@[simp] theorem fA_rri : fA (assemble head (rri d a ti imm)) = a := by simp [fA, assemble, rri]
@[simp] theorem fTi_rri : fTi (assemble head (rri d a ti imm)) = ti := by simp [fTi, assemble, rri]
@[simp] theorem fImm_rri : fImm (assemble head (rri d a ti imm)) = imm := by simp [fImm, assemble, rri]
@[simp] theorem slice_rri (n : Nat) (h : lo + n ≤ 32) : (assemble head (rri d a ti imm)).extractLsb' lo n = imm.extractLsb' lo n := by
  simp [assemble, rri, h, show lo + n ≤ 45 by omega]
@[simp] theorem bit_rri (h : lo < 32) : bit (assemble head (rri d a ti imm)) lo = bit imm lo := by
  simp [assemble, rri, h, show lo < 45 by omega]
end RRI

section MEM
variable (sz sc : BitVec 3) (od : BitVec 2) (off : BitVec 22)
@[simp] theorem fD_memf : fD (assemble head (memf d a b sz sc od off)) = d := by simp [fD, assemble, memf]
@[simp] theorem fA_memf : fA (assemble head (memf d a b sz sc od off)) = a := by simp [fA, assemble, memf]
@[simp] theorem fB_memf : fB (assemble head (memf d a b sz sc od off)) = b := by simp [fB, assemble, memf]
@[simp] theorem fSz_memf : fSz (assemble head (memf d a b sz sc od off)) = sz := by simp [fSz, assemble, memf]
@[simp] theorem fSc_memf : fSc (assemble head (memf d a b sz sc od off)) = sc := by simp [fSc, assemble, memf]
@[simp] theorem fOrd_memf : fOrd (assemble head (memf d a b sz sc od off)) = od := by simp [fOrd, assemble, memf]
@[simp] theorem fOff_memf : fOff (assemble head (memf d a b sz sc od off)) = off := by simp [fOff, assemble, memf]
end MEM

section CMD
variable (low : BitVec 25)
@[simp] theorem fD_cmd : fD (assemble head (cmd d a b c low)) = d := by simp [fD, assemble, cmd]
@[simp] theorem fA_cmd : fA (assemble head (cmd d a b c low)) = a := by simp [fA, assemble, cmd]
@[simp] theorem fB_cmd : fB (assemble head (cmd d a b c low)) = b := by simp [fB, assemble, cmd]
@[simp] theorem fC_cmd : fC (assemble head (cmd d a b c low)) = c := by simp [fC, assemble, cmd]
@[simp] theorem fRm_cmd : fRm (assemble head (cmd d a b c low)) = low.extractLsb' 18 3 := by simp [fRm, assemble, cmd]
@[simp] theorem low25Z_cmd : low25Z (assemble head (cmd d a b c 0#25)) = true := by simp [low25Z, assemble, cmd]
@[simp] theorem slice_cmd_low (n : Nat) (h : lo + n ≤ 25) : (assemble head (cmd d a b c low)).extractLsb' lo n = low.extractLsb' lo n := by
  simp [assemble, cmd, h, show lo + n ≤ 45 by omega]
@[simp] theorem slice_cmd_eq_zero (n : Nat) (h : lo < 25) (h' : 25 < lo + n) (h'' : lo + n ≤ 45) :
    (assemble head (cmd d a b c low)).extractLsb' lo n = 0#n ↔
      (d ++ a ++ b ++ c : BitVec 20).extractLsb' 0 (lo + n - 25) = 0#_ ∧ low.extractLsb' lo (25 - lo) = 0#_ := by
  simp [assemble, cmd, h, h', h'']
@[simp] theorem bit_cmd (h : lo < 25) : bit (assemble head (cmd d a b c low)) lo = bit low lo := by
  simp [assemble, cmd, h, show lo < 45 by omega]
end CMD
end

/-- The options of an engine command are read back from its word. -/
@[simp] theorem engOf_cmd (head : BitVec 19) (d a b c : BitVec 5) (o : EngOpts) : engOf (assemble head (cmd d a b c (engLow o))) = some o := by
  simp [engOf, engLow]

/-- The condition of a STEER is read back from its word, whatever its masks. -/
@[simp] theorem steerOf_cmd (head : BitVec 19) (d a c : BitVec 5) (x : SteerSel) (dmask tmask fmask : BitVec 4) :
    steerOf (assemble head (cmd d a (steerB x) c (0#9 ++ dmask ++ steerP x ++ tmask ++ fmask))) = some x := by
  cases x with
  | pred p => simp [steerOf, steerB, steerP]
  | reg b => simp [steerOf, steerB, steerP]

/-- A form whose reserved bits are clear gives its instruction, where that is well formed. -/
@[simp] theorem fin_wf {i : Instr} (wf : instrWf i = true) : fin true i = some i := by simp [fin, wf]

/-! The forms of many rows, read back from their fields. -/

@[simp] theorem decBin_rrr (k : Reg → Reg → Reg → Instr) (head : BitVec 19) {d a b : Reg} (wf : instrWf (k d a b) = true) :
    decBin k (assemble head (rrr (r d) (r a) (r b) 0#5 0#4 0#3)) = some (k d a b) := by
  simp [decBin, wf]

@[simp] theorem decUn_rrr (k : Reg → Reg → Instr) (head : BitVec 19) {d a : Reg} (wf : instrWf (k d a) = true) :
    decUn k (assemble head (rrr (r d) (r a) 0#5 0#5 0#4 0#3)) = some (k d a) := by
  simp [decUn, wf]

@[simp] theorem decV3_rrr (k : EDst → ESrc → ESrc → Ty → Instr) (head : BitVec 19) {d : EDst} {a b : ESrc} {t : Ty} (wf : instrWf (k d a b t) = true) :
    decV3 k (assemble head (rrr (ed d) (es a) (es b) 0#5 (tyCode t) 0#3)) = some (k d a b t) := by
  simp [decV3, wf]

@[simp] theorem decPub_pub (head : BitVec 19) {o : PubOpts} (wf : instrWf (.pub o) = true) :
    decPub (assemble head (cmd 31#5 0#5 0#5 0#5 (pubLow 0#2 o))) = some (.pub o) := by
  simp [decPub, pubLow, wf]

@[simp] theorem decPub_pubDef (head : BitVec 19) {a b c : ESrc} {o : PubOpts} (wf : instrWf (.pubDef a b c o) = true) :
    decPub (assemble head (cmd 31#5 (es a) (es b) (es c) (pubLow 1#2 o))) = some (.pubDef a b c o) := by
  simp [decPub, pubLow, wf]

@[simp] theorem decPub_pubDrop (head : BitVec 19) {o : PubOpts} (wf : instrWf (.pubDrop o) = true) :
    decPub (assemble head (cmd 31#5 0#5 0#5 0#5 (pubLow 2#2 o))) = some (.pubDrop o) := by
  simp [decPub, pubLow, wf]

/-- The opcode map for the words of an OP (02 R47, R48). -/
noncomputable def mapOf (op : Nat) : Nat → Code → Option (Option Instr) := if runs .element op then decElem op else decSeq op

/-- The opcode map reads i back from its OP, FN and bits [44:0]: it uses the FN, and its row of the OP gives i, whatever the bits above; an instruction with no word has nothing to read back. -/
inductive ReadsBack (i : Instr) : Option (Nat × Nat × BitVec 45) → Prop
  | word {op fn : Nat} {body : BitVec 45} (row : Nat → Code → Option (Option Instr)) (used : (fnUsed op).testBit fn = true) (ofMap : mapOf op = row)
      (back : ∀ head, row fn (assemble head body) = some (some i)) : ReadsBack i (some (op, fn, body))
  | none : ReadsBack i none

/-- By the rows of the opcode map: the fields of each form read as they were put together. -/
theorem readsBack (i : Instr) (wf : instrWf i = true) : ReadsBack i (encBody i) := by
  cases i with
  | vadd | vsub | vadds | vsubs | vmul | vmulh | vmad | vabs | vneg => exact .word dec60 rfl rfl fun _ => by simp [dec60, wf]
  | vmin | vmax | vand | vor | vxor | vandn | vnot | vshl | vshr | vsra | vpopc | vclz => exact .word dec61 rfl rfl fun _ => by simp [dec61, wf]
  | vcmpEq | vcmpNe | vcmpLt | vcmpLe | vcmpGt | vcmpGe => exact .word dec62 rfl rfl fun _ => by simp [dec62, wf]
  | vsel | vperm | vpack | vunpk => exact .word dec63 rfl rfl fun _ => by simp [dec63, wf]
  | fadd | fsub | fmul | ffma | fmin | fmax | fabs | fneg => exact .word dec68 rfl rfl fun _ => by simp [dec68, wf]
  | fcmpEq | fcmpNe | fcmpLt | fcmpLe | fcmpGt | fcmpGe | fcmpUn => exact .word dec69 rfl rfl fun _ => by simp [dec69, wf]
  | fclass | fdiv | fsqrt | frcp | frsq | fexp2 | flog2 => exact .word dec6A rfl rfl fun _ => by simp [dec6A, wf]
  | cvt => exact .word dec6B rfl rfl fun _ => by simp [dec6B, wf]
  | crsub => exact .word dec6C rfl rfl fun _ => by simp [dec6C, wf]
  | dot => exact .word dec6D rfl rfl fun _ => by simp [dec6D, wf]
  | mov => exact .word dec80 rfl rfl fun _ => by simp [dec80, wf]
  | const | tagi => exact .word dec81 rfl rfl fun _ => by simp [dec81, wf]
  | steer | merge | mergeu | gate | permit => exact .word dec82 rfl rfl fun _ => by simp [dec82, wf]
  | eos | sink | mark => exact .word dec83 rfl rfl fun _ => by simp [dec83, wf]
  | redMin | redMax | redSum => exact .word dec84 rfl rfl fun _ => by simp [dec84, wf]
  | send | rsv | enq | amplify => exact .word dec85 rfl rfl fun _ => by simp [dec85, wf]
  | ldq | stq => exact .word decB0 rfl rfl fun _ => by simp [decB0, wf]
  | xlate => exact .word decB1 rfl rfl fun _ => by simp [decB1, wf]
  | vbmin | occl => exact .word decB2 rfl rfl fun _ => by simp [decB2, wf]
  | amoqAdd | amoqAnd | amoqOr | amoqXor | amoqMin | amoqMax | amoqMinu | amoqMaxu | amoqSwap => exact .word decB3 rfl rfl fun _ => by simp [decB3, wf]
  | tsLd | tsSt | tsBlend | tsDone => exact .word decB4 rfl rfl fun _ => by simp [decB4, wf]
  | cpy | gath | scat | fillb => exact .word decC0 rfl rfl fun _ => by simp [decC0, wf]
  | coll => exact .word decC1 rfl rfl fun _ => by simp [decC1, wf]
  | pub | pubDef | pubDrop => exact .word decC2 rfl rfl fun _ => by simp [decC2, wf]
  | xfm => exact .word decC3 rfl rfl fun _ => by simp [decC3, wf]
  | add | sub | mul | mulh | mulhu | div | divu | rem | remu => exact .word dec01 rfl rfl fun _ => by simp [dec01, wf]
  | and | or | xor | andn | orn | shl | shr | sra | rol | ror => exact .word dec02 rfl rfl fun _ => by simp [dec02, wf]
  | min | max | minu | maxu | clz | ctz | popc | brev | sel => exact .word dec03 rfl rfl fun _ => by simp [dec03, wf]
  | bfx | bfxu | bfi => exact .word dec04 rfl rfl fun _ => by simp [dec04, wf]
  | addi | andi | ori | xori | shli | shri | srai | movi | movhi => exact .word dec08 rfl rfl fun _ => by simp [dec08, wf]
  | cmpEq | cmpNe | cmpLt | cmpGe | cmpLtu | cmpGeu => exact .word dec10 rfl rfl fun _ => by simp [dec10, wf]
  | cmpiEq | cmpiNe | cmpiLt | cmpiGe | cmpiLtu | cmpiGeu => exact .word dec11 rfl rfl fun _ => by simp [dec11, wf]
  | pset | pand | por | pxor | pnot => exact .word dec12 rfl rfl fun _ => by simp [dec12, wf]
  | br => exact .word dec18 rfl rfl fun _ => by simp [dec18, wf]
  | jmp | jal => exact .word dec19 rfl rfl fun _ => by simp [dec19, wf]
  | jalr => exact .word dec1A rfl rfl fun _ => by simp [dec1A, wf]
  | loop => exact .word dec1B rfl rfl fun _ => by simp [dec1B, wf]
  | ld | ldLoc => exact .word dec20 rfl rfl fun _ => by simp [dec20, wf]
  | st | stLoc => exact .word dec21 rfl rfl fun _ => by simp [dec21, wf]
  | amoAdd | amoAnd | amoOr | amoXor | amoMin | amoMax | amoMinu | amoMaxu | amoSwap => exact .word dec22 rfl rfl fun _ => by simp [dec22, wf]
  | amoLocAdd | amoLocAnd | amoLocOr | amoLocXor | amoLocMin | amoLocMax | amoLocMinu | amoLocMaxu | amoLocSwap =>
    exact .word dec23 rfl rfl fun _ => by simp [dec23, wf]
  | cas | casLoc => exact .word dec24 rfl rfl fun _ => by simp [dec24, wf]
  | spill | fill => exact .word dec25 rfl rfl fun _ => by simp [dec25, wf]
  | fence | fenceF => exact .word dec26 rfl rfl fun _ => by simp [dec26, wf]
  | dictLd | dictCommit | dictRd | dictGen | dictGenId => exact .word dec40 rfl rfl fun _ => by simp [dec40, wf]
  | cfgLd | cfgCommit | cfgDrop | cfgDropImg | cfgQPly | cfgQImg | cfgQRsv => exact .word dec41 rfl rfl fun _ => by simp [dec41, wf]
  | rgnOpen | rgnWait | rgnClose | rgnCloseAbort => exact .word dec42 rfl rfl fun _ => by simp [dec42, wf]
  | portBindHnd | portBindFar | portUnbindHnd | portUnbindFar => exact .word dec43 rfl rfl fun _ => by simp [dec43, wf]
  | permitK => exact .word dec44 rfl rfl fun _ => by simp [dec44, wf]
  | qrsv | qpush => exact .word dec45 rfl rfl fun _ => by simp [dec45, wf]
  | policyLd | policySwap => exact .word dec46 rfl rfl fun _ => by simp [dec46, wf]
  | strAff | strInd | strGo | strBar | strWait => exact .word dec48 rfl rfl fun _ => by simp [dec48, wf]
  | winSet | winClr => exact .word dec49 rfl rfl fun _ => by simp [dec49, wf]
  | nop | yield | halt | brk => exact .word dec50 rfl rfl fun _ => by simp [dec50, wf]
  | trap | eret => exact .word dec51 rfl rfl fun _ => by simp [dec51, wf]
  | crr | crw => exact .word dec52 rfl rfl fun _ => by simp [dec52, wf]
  | evpop | evwait => exact .word dec53 rfl rfl fun _ => by simp [dec53, wf]
  | cyc => exact .word dec54 rfl rfl fun _ => by simp [dec54, wf]
  | mxLdb | mxScale | mxThr | mxSamp => exact .word decA0 rfl rfl fun _ => by simp [decA0, wf]
  | mm | mmz | mmr => exact .word decA1 rfl rfl fun _ => by simp [decA1, mmLow, mmOpts, wf]
  | mxDrain | mxWait | mxGang | mxGangLeave => exact .word decA2 rfl rfl fun _ => by simp [decA2, wf]
  | mxEdge => exact .word decA3 rfl rfl fun _ => by simp [decA3, wf]
  | dsBand | dsFall | dsLine | dsLineWait => exact .word decD0 rfl rfl fun _ => by simp [decD0, wf]
  | dsMe | dsWarp => exact .word decD1 rfl rfl fun _ => by simp [decD1, wf]
  | dsNet | dsEmit => exact .word decD2 rfl rfl fun _ => by simp [decD2, wf]
  | _ => exact .none

/-- The map uses no OP above 8 bits and no FN above 4. -/
theorem lt_of_fnUsed {op fn : Nat} (used : (fnUsed op).testBit fn = true) : op < 2 ^ 8 ∧ fn < 2 ^ 4 := by
  have small : (op < 2 ^ 8 ∧ fnUsed op < 2 ^ 2 ^ 4) ∨ fnUsed op = 0 := by
    unfold fnUsed
    split <;> simp
  rcases small with ⟨hop, hfn⟩ | zero
  · refine ⟨hop, Nat.lt_of_not_le fun le => ?_⟩
    have clear := Nat.testBit_lt_two_pow (Nat.lt_of_lt_of_le hfn (Nat.pow_le_pow_right (by decide) le))
    simp [clear] at used
  · simp [zero] at used

/-- The bits of a word above its body: its format, OP, FN and guard (02 R34). -/
def headOf (op fn : Nat) (g : Guard) : BitVec 19 := 2#2 ++ BitVec.ofNat 8 op ++ BitVec.ofNat 4 fn ++ guardCode g

theorem encode_eq_some_iff {g : Guard} {i : Instr} {v : Code} :
    encode g i = some v ↔ ∃ op fn body, encBody i = some (op, fn, body) ∧ v = assemble (headOf op fn g) body := by
  constructor
  · intro enc
    obtain ⟨⟨op, fn, body⟩, hbody, rfl⟩ := Option.map_eq_some_iff.mp enc
    exact ⟨op, fn, body, hbody, rfl⟩
  · rintro ⟨op, fn, body, hbody, rfl⟩
    exact Option.map_eq_some_iff.mpr ⟨(op, fn, body), hbody, rfl⟩

section
variable {op fn : Nat} {g : Guard} {body : BitVec 45}

theorem op_assemble (h : op < 2 ^ 8) : ((assemble (headOf op fn g) body).extractLsb' 54 8).toNat = op := by
  simpa [assemble, headOf] using h

theorem fn_assemble (h : fn < 2 ^ 4) : ((assemble (headOf op fn g) body).extractLsb' 50 4).toNat = fn := by
  simpa [assemble, headOf] using h

/-- The guard is read back by every executor that allows it (02 R35). -/
theorem guardOf_assemble {ex : Executor} (allowed : ex = .element → g = none) : guardOf ex (assemble (headOf op fn g) body) = some g := by
  cases g with
  | none => simp [guardOf, assemble, headOf, guardCode]
  | some np =>
    cases ex with
    | element => simp at allowed
    | core => simp [guardOf, assemble, headOf, guardCode]
    | display => simp [guardOf, assemble, headOf, guardCode]
end

/-- No sequencer runs an OP of the elements (02 R48). -/
theorem runs_element_of_sequencer {ex : Executor} {op : Nat} (sequencer : ex ≠ .element) (run : runs ex op = true) : runs .element op = false := by
  cases ex with
  | element => exact absurd rfl sequencer
  | core => simp [runs] at run ⊢; omega
  | display => simp [runs] at run ⊢; omega

/-- A word whose OP the executor runs, whose guard it allows and whose row gives an instruction decodes to that instruction and its guard. -/
theorem decodeBy_eq_ok {ex : Executor} {map : Nat → Nat → Code → Option (Option Instr)} {w : Code} {op fn : Nat} {g : Guard} {i : Instr}
    (hop : (w.extractLsb' 54 8).toNat = op) (hfn : (w.extractLsb' 50 4).toNat = fn) (used : (fnUsed op).testBit fn = true)
    (run : runs ex op = true) (guard : guardOf ex w = some g) (row : map op fn w = some (some i)) : decodeBy ex map w = .ok g i := by
  simp [decodeBy, hop, hfn, used, run, guard, row]

/-- The same of decode, by the one map of every OP's words. -/
theorem decode_eq_ok {ex : Executor} {w : Code} {op fn : Nat} {g : Guard} {i : Instr}
    (hop : (w.extractLsb' 54 8).toNat = op) (hfn : (w.extractLsb' 50 4).toNat = fn) (used : (fnUsed op).testBit fn = true)
    (run : runs ex op = true) (guard : guardOf ex w = some g) (row : mapOf op fn w = some (some i)) : decode ex w = .ok g i := by
  by_cases element : ex = .element
  · subst element
    rw [mapOf, if_pos run] at row
    exact decodeBy_eq_ok hop hfn used run guard row
  · rw [mapOf, runs_element_of_sequencer element run, if_neg Bool.false_ne_true] at row
    have ok := decodeBy_eq_ok hop hfn used run guard row
    cases ex with
    | element => exact absurd rfl element
    | core => exact ok
    | display => exact ok

end Sys2Proof

namespace Sys2Proof.Claims
open Sys2Proof Sys2Proof.Machine

/-- Settles O5: it holds, by evaluating the decoder on each word. -/
theorem writtenWordsDecode : Obligations.WrittenWordsDecode := by
  unfold Obligations.WrittenWordsDecode
  decide +kernel

/-- Settles O6: it holds, by the head of a word, which gives OP, FN and the guard back, and by the map's row, which reads the instruction from the rest. -/
theorem wordRoundTrip : Obligations.WordRoundTrip := by
  unfold Obligations.WordRoundTrip
  intro ex g i v wf enc run allowed
  obtain ⟨op, fn, body, hbody, rfl⟩ := encode_eq_some_iff.mp enc
  have reads := readsBack i wf
  rw [hbody] at reads
  obtain ⟨row, used, rfl, back⟩ := reads
  obtain ⟨hop, hfn⟩ := lt_of_fnUsed used
  rw [op_assemble hop] at run
  exact decode_eq_ok (op_assemble hop) (fn_assemble hfn) used run (guardOf_assemble allowed) (back _)

end Sys2Proof.Claims
end

section
/-! SUPPORT. Short parcels: what filling a template's holes leaves at each bit, each answer of expand (03 R56, R57), and the settling of the statement on them. -/
namespace Sys2Proof.Machine

/-- A placed field holds the value's low bits, and every other bit stands. -/
theorem getLsbD_place (w : Word) (s n v i : Nat) (h : i < 64) :
    (place w s n v).getLsbD i = if s ≤ i ∧ i < s + n then v.testBit (i - s) else w.getLsbD i := by
  have split : w.toNat - w.toNat / 2 ^ s % 2 ^ n * 2 ^ s + v % 2 ^ n * 2 ^ s
      = 2 ^ s * (2 ^ n * (w.toNat / 2 ^ s / 2 ^ n) + v % 2 ^ n) + w.toNat % 2 ^ s := by
    have outer := Nat.div_add_mod w.toNat (2 ^ s)
    have inner := congrArg (2 ^ s * ·) (Nat.div_add_mod (w.toNat / 2 ^ s) (2 ^ n))
    simp only [Nat.mul_add] at inner ⊢
    rw [Nat.mul_comm _ (2 ^ s), Nat.mul_comm _ (2 ^ s)]
    omega
  rw [place, w64, BitVec.getLsbD_ofNat, nbits_eq_div, split, Nat.testBit_two_pow_mul_add _ (Nat.mod_lt _ (Nat.two_pow_pos _)),
    Nat.testBit_two_pow_mul_add _ (Nat.mod_lt _ (Nat.two_pow_pos _))]
  rcases Nat.lt_or_ge i s with below | from_
  · simp [h, below, Nat.not_le.mpr below, BitVec.getLsbD]
  · rcases Nat.lt_or_ge i (s + n) with inside | above
    · simp [h, from_, inside, Nat.not_lt.mpr from_, show i - s < n by omega]
    · simp [h, Nat.not_lt.mpr from_, Nat.not_lt.mpr above, show ¬i - s < n by omega, Nat.testBit_div_two_pow, BitVec.getLsbD,
        show i - s - n + n + s = i by omega]

theorem place_zero (w : Word) (s v : Nat) : place w s 0 v = w := by
  simp [place, w64, nbits, Nat.mod_one]

theorem fillHoles_nil (fill pos : Nat) (w : Word) : fillHoles fill [] pos w = w := rfl

/-- Each hole is placed from its part of the fill; one of no width places nothing. -/
theorem fillHoles_cons (fill s n : Nat) (hs : List (Nat × Nat)) (pos : Nat) (w : Word) :
    fillHoles fill ((s, n) :: hs) pos w = fillHoles fill hs (pos + n) (place w s n (nbits fill pos n)) := by
  rw [fillHoles]
  split
  · next zero => rw [zero, place_zero, Nat.add_zero]
  · rfl

/-- A hole reads its part of the fill. -/
theorem testBit_nbits {fill pos n j : Nat} (h : j < n) : (nbits fill pos n).testBit j = fill.testBit (pos + j) := by
  simp [nbits, h]

theorem DictEntry.holes_eq (e : DictEntry) : e.holes =
    [(e.desc.toNat / 2 ^ 24 % 64, e.desc.toNat / 2 ^ 20 % 16), (e.desc.toNat / 2 ^ 14 % 64, e.desc.toNat / 2 ^ 10 % 16),
      (e.desc.toNat / 2 ^ 4 % 64, e.desc.toNat % 16)] := by
  simp [DictEntry.holes, bits_eq_div]

theorem DictEntry.width_eq (e : DictEntry) :
    e.width = e.desc.toNat / 2 ^ 20 % 16 + e.desc.toNat / 2 ^ 10 % 16 + e.desc.toNat % 16 := by
  simp [DictEntry.width, DictEntry.holes_eq, Nat.add_assoc]

open Claims in
/-- A filled template, bit by bit. -/
theorem getLsbD_fillHoles (e : DictEntry) (fill i : Nat) (h : i < 64) :
    (fillHoles fill e.holes 0 e.template).getLsbD i = filledBit e fill i := by
  have part (s n pos : Nat) (w : Word) : (place w s n (nbits fill pos n)).getLsbD i =
      if s ≤ i ∧ i < s + n then fill.testBit (pos + (i - s)) else w.getLsbD i := by
    rw [getLsbD_place _ _ _ _ _ h]
    split
    · next inside => exact testBit_nbits (by omega)
    · rfl
  simp only [DictEntry.holes_eq, fillHoles_cons, fillHoles_nil, part, filledBit, Nat.zero_add]

section
variable {bank : Tab DictEntry} {short : Bool} {entry fill : Nat}

theorem expand_undefined (undefined : (Tab.look {} bank entry).valid = false) : expand bank short entry fill = .bad 0x06 := by
  simp only [expand, undefined, Bool.not_false, if_true]

theorem expand_long (valid : (Tab.look {} bank entry).valid = true) (long : (Tab.look {} bank entry).long = true) :
    expand bank true entry fill = .bad 0x07 := by
  simp only [expand, valid, long, Bool.not_true, Bool.and_true, Bool.false_eq_true, if_false, if_true]

/-- Holes wider than the fill are refused like a LONG entry. -/
theorem expand_wide (valid : (Tab.look {} bank entry).valid = true) (wide : (if short then 8 else 22) < (Tab.look {} bank entry).width) :
    expand bank short entry fill = .bad 0x07 := by
  simp only [expand, valid, wide, Bool.not_true, Bool.false_eq_true, if_false, if_true, ite_self]

theorem expand_word (valid : (Tab.look {} bank entry).valid = true) (fits : (short && (Tab.look {} bank entry).long) = false)
    (holds : (Tab.look {} bank entry).width ≤ if short then 8 else 22) :
    expand bank short entry fill = .word (fillHoles fill (Tab.look {} bank entry).holes 0 (Tab.look {} bank entry).template) := by
  simp only [expand, valid, fits, Nat.not_lt.mpr holds, Bool.not_true, Bool.false_eq_true, if_false]
end

/-- An S16 parcel, by its entry [13:8] and its fill [7:0]. -/
theorem expandS16_eq (bank : Tab DictEntry) (p : Nat) : expandS16 bank p = expand bank true (p / 256 % 64) (p % 2 ^ 8) := by
  simp [expandS16, nbits_eq_div]

/-- An S32 parcel, by its entry [29:22] and its fill [21:0]. -/
theorem expandS32_eq (bank : Tab DictEntry) (p : Nat) : expandS32 bank p = expand bank false (p / 2 ^ 22 % 256) (p % 2 ^ 22) := by
  simp [expandS32, nbits_eq_div]

end Sys2Proof.Machine

namespace Sys2Proof.Claims
open Sys2Proof Sys2Proof.Machine

/-- Settles O27: it holds, each clause by the answer of expand for the parcel's entry. -/
theorem shortParcelExpansion : Obligations.ShortParcelExpansion := by
  unfold Obligations.ShortParcelExpansion
  intro bank p _
  simp only [expandS16_eq, expandS32_eq, ← DictEntry.width_eq]
  exact ⟨expand_undefined, expand_undefined, fun v short => short.elim (expand_long v) (expand_wide (short := true) v), expand_wide (short := false),
    fun v long holds => ⟨_, expand_word (short := true) v long holds, getLsbD_fillHoles _ _⟩,
    fun v holds => ⟨_, expand_word (short := false) v rfl holds, getLsbD_fillHoles _ _⟩⟩

end Sys2Proof.Claims
end

section
/-! SUPPORT. The dictionary instructions and the fences: one unit of DICT.LD and what a run of units comes to, which stores a release part leaves, and the settling of the statement on them (03 R58 to R64; 04 R84, R85). -/
namespace Sys2Proof.Machine
open Claims

/-! Updates of the acting context, one after another. -/

/-- Of two values set at one place the later one stands. -/
theorem Tab.set_set {α : Type} (t : Tab α) (k : Nat) (u v : α) : Tab.set (Tab.set t k u) k v = Tab.set t k v := by
  induction t with
  | nil => simp [Tab.set]
  | cons e t ih =>
    obtain ⟨j, a⟩ := e
    rcases Nat.lt_trichotomy k j with below | rfl | above
    · simp [Tab.set, below, Nat.ne_of_lt below]
    · simp [Tab.set]
    · simp [Tab.set, ih, Nat.ne_of_gt above, Nat.lt_asymm above]

theorem State.setCtx_setCtx (s : State) (k n : Nat) (x y : Ctx) : (s.setCtx k n x).setCtx k n y = s.setCtx k n y := by
  simp [State.setCtx, State.setCore, State.core, CoreSt.setCtx, Tab.set_set]

/-- Two updates of the acting context are one. -/
theorem State.modMe_modMe (s : State) (f g : Ctx → Ctx) : (s.modMe f).modMe g = s.modMe fun c => g (f c) := by
  rw [State.modMe, State.me_modMe]
  exact State.setCtx_setCtx _ _ _ _ _

/-! The ends of an instruction, in the words of the statements. -/

theorem retire_eq (s : State) : retire s = .next (retired s) := rfl
theorem retireWith_eq (s : State) (d : Reg) (v : Word) : retireWith s d v = .next (wrote s d v) := rfl
theorem trap_eq (s : State) (code : Nat) (v : Word) : trap s code v = .next (trapped s code v) := rfl

/-- The effective address is the sum of R42 on integers, cut to 64 bits. -/
theorem direct_eq_eaOf (s : State) (a : Reg) (o : BitVec 22) : direct s a o = eaOf (s.reg a) o := by
  rw [direct, eaOf, w, BitVec.ofInt_add, BitVec.signExtend, BitVec.ofInt_natCast, BitVec.ofNat_toNat, BitVec.setWidth_eq]

/-! Fences. -/

/-- A store that stays unperformed is none of those named. -/
theorem of_mem_performLate {p : Late → Bool} {x : Late} {l : List Late} (h : x ∈ performLate p l) : p x = false := by
  induction l with
  | nil => cases h
  | cons y l ih =>
    rw [performLate] at h
    split at h
    · exact ih h
    · next stays =>
      rcases List.mem_cons.1 h with rfl | h
      · exact Bool.eq_false_iff.2 fun named => stays (by simp [named])
      · exact ih h

/-- A release part leaves no store of its core unperformed. -/
theorem core_ne_of_mem_settleCore {s : State} {k : Nat} {x : Late} (h : x ∈ (settleCore s k).mem.late) : x.core ≠ k := by
  rw [settleCore, performStores] at h
  split at h
  · next none => rw [List.isEmpty_iff.1 none] at h; cases h
  · exact of_decide_eq_false (of_mem_performLate h)

/-- A release part changes no core and no byte, and acts for the same context. -/
theorem settleCore_frame (s : State) (k : Nat) :
    (settleCore s k).cores = s.cores ∧ (settleCore s k).actor = s.actor ∧ ∀ a, (settleCore s k).mem.byte a = s.mem.byte a := by
  obtain ⟨l, h⟩ := performStores_eq s fun x => decide (x.core = k)
  rw [settleCore, h]
  exact ⟨rfl, rfl, fun a => rfl⟩

theorem releases_eq_true {sc : Scope} {od : Ord} (rel : od = .rel ∨ od = .ar) (wide : sc ≠ .el) : releases sc od = true := by
  rcases rel with rfl | rfl <;> simp [releases, wide]

theorem fence_retires (s : State) (sc : Scope) (od : Ord) :
    ∃ t, execFence sc od s = .next (retired t) ∧ t.cores = s.cores ∧ t.actor = s.actor ∧ (∀ a, t.mem.byte a = s.mem.byte a) ∧
      (od = .rel ∨ od = .ar → sc ≠ .el → ∀ x ∈ t.mem.late, x.core ≠ s.actor.core) := by
  rw [execFence]
  split
  · obtain ⟨cores, actor, bytes⟩ := settleCore_frame s s.actor.core
    exact ⟨_, rfl, cores, actor, bytes, fun _ _ x => core_ne_of_mem_settleCore⟩
  · next no => exact ⟨s, rfl, rfl, rfl, fun _ => rfl, fun rel wide => absurd (releases_eq_true rel wide) no⟩

/-- FENCE.F with a commit marked promotes the staged bank. -/
theorem fenceF_promotes {s : State} (pend : s.me.dict.pend = true) (idle : loadingFor s = false) :
    execFenceF s = .next (retired (s.modMe fun c =>
      { c with dict := { c.dict with active := c.dict.staged, activeId := c.dict.stagedId, gen := c.dict.gen + 1, pend := false }, pre := [] })) := by
  simp [execFenceF, idle, Ctx.promote, State.modMe, pend, retire_eq]

/-- FENCE.F with no commit marked discards what is prefetched, and nothing else. -/
theorem fenceF_discards {s : State} (pend : s.me.dict.pend = false) : execFenceF s = .next (retired (s.modMe fun c => { c with pre := [] })) := by
  simp [execFenceF, Ctx.promote, State.modMe, pend, retire_eq]

/-! DICT.COMMIT and DICT.GEN. -/

theorem dictCommit_marks {s : State} (complete : s.me.dict.complete = true) :
    execDictCommit s = .next (retired (s.modMe fun c => { c with dict := { c.dict with pend := true } })) := by
  rw [execDictCommit, if_pos complete, retire_eq]

theorem dictCommit_traps {s : State} (incomplete : s.me.dict.complete = false) : execDictCommit s = .next (trapped s 0x0B 0) := by
  simp [execDictCommit, incomplete, trap_eq]

theorem dictStat_eq (c : Dict) : dictStat c = w ((if c.complete then 2 ^ 33 else 0) + (if c.pend then 2 ^ 32 else 0) + c.gen.toNat : Nat) := by
  rw [w_natCast, dictStat]
  cases c.complete <;> cases c.pend <;> rfl

theorem dictIds_eq (c : Dict) : dictIds c = w (c.stagedId.toNat * 2 ^ 32 + c.activeId.toNat) := by
  rw [show (c.stagedId.toNat * 2 ^ 32 + c.activeId.toNat : Int) = (c.stagedId.toNat * 2 ^ 32 + c.activeId.toNat : Nat) by norm_cast, w_natCast, dictIds, w64]
  refine BitVec.eq_of_toNat_eq ?_
  rw [BitVec.toNat_append, ← Nat.shiftLeft_add_eq_or_of_lt c.activeId.isLt, Nat.shiftLeft_eq, BitVec.toNat_ofNat]
  omega

/-! DICT.LD: units served one after another, and the first that faults. -/

/-- The unit of DICT.LD that reads entry k into the staged bank; one that is not well formed is DICT_FORMAT (03 R55, R61). -/
def dictUnit (ea : Nat) (s : State) (k : Nat) : Mr Unit :=
  (vread s s.actor.core (ea + 16 * k) 16 .read s.user).andThen fun bs s =>
    let s := passStores s s.actor.core
    if (entryOf bs).valid && !((entryOf bs).wellFormed (ofBytesLE (bs.drop 12))) then .fault 0x0B (ea + 16 * k) s
    else .ok () (s.modMe fun c => { c with dict := { c.dict with staged := Tab.put {} c.dict.staged k (entryOf bs) } })

/-- A trap of DICT.LD at entry k leaves COMPLETE at 0. -/
def dictTrap (c v k : Nat) (t : State) : State :=
  enterTrap (t.modMe fun x => { x with dict := { x.dict with complete := false }, resume := none }) t.actor.core t.actor.ctx
    { code := c, val := w64 v, at_ := t.actor.pc, psz := t.actor.psz, done := some k }

theorem trapDone_incomplete (c v k : Nat) (t : State) :
    trapDone (t.modMe fun x => { x with dict := { x.dict with complete := false } }) c (w64 v) (some k) = .next (dictTrap c v k t) := by
  rw [trapDone, State.modMe_modMe]
  rfl

section
variable {ea n k : Nat} {s t : State}

/-- A unit that is served is followed by the next. -/
theorem dictUnits_of_ok (served : dictUnit ea s k = .ok () t) : dictUnits ea (n + 1) k s = dictUnits ea n (k + 1) t := by
  rw [dictUnits]
  unfold dictUnit Mr.andThen at served
  split at served
  · next read =>
    simp only [read]
    dsimp only at served
    split at served
    · cases served
    · next well => cases served; rw [if_neg well]
  · cases served
  · cases served

/-- A unit that faults, in its read or by its entry's form, ends the load. -/
theorem dictUnits_of_fault {c v : Nat} (faults : dictUnit ea s k = .fault c v t) : dictUnits ea (n + 1) k s = .next (dictTrap c v k t) := by
  rw [dictUnits]
  unfold dictUnit Mr.andThen at faults
  split at faults
  · next read =>
    simp only [read]
    dsimp only at faults
    split at faults
    · next ill => cases faults; rw [if_pos ill, trapDone_incomplete]
    · cases faults
  · next read => cases faults; simp only [read, trapDone_incomplete]
  · cases faults

/-- A run of units is its first, served, and the rest. -/
theorem unitsServed_succ {f : Nat} {unit : State → Nat → Nat → Mr Unit} {u : State} (h : unitsServed ea f unit (n + 1) k s = some u) :
    ∃ t, unit s (f + k) (ea + 8 * k) = .ok () t ∧ unitsServed ea f unit n (k + 1) t = some u := by
  rw [unitsServed] at h
  split at h
  · next t first => exact ⟨t, first, h⟩
  · cases h
end

/-- After m units that are served, the load goes on with those that are left. -/
theorem dictUnits_served {ea n : Nat} {u : State} (m : Nat) : ∀ {k : Nat} {s : State},
    unitsServed 0 0 (fun s k _ => dictUnit ea s k) m k s = some u → dictUnits ea (m + n) k s = dictUnits ea n (k + m) u := by
  induction m with
  | zero =>
    intro k s h
    cases h
    rw [Nat.zero_add, Nat.add_zero]
  | succ m ih =>
    intro k s h
    obtain ⟨t, first, rest⟩ := unitsServed_succ h
    rw [Nat.zero_add] at first
    rw [Nat.add_right_comm, dictUnits_of_ok first, ih rest, Nat.add_assoc, Nat.add_comm 1]

/-- A load whose units are all served completes the image. -/
theorem dictUnits_completes {ea n k : Nat} {s u : State} (h : unitsServed 0 0 (fun s k _ => dictUnit ea s k) n k s = some u) :
    dictUnits ea n k s = .next (retired (u.modMe fun c => { c with dict := { c.dict with complete := true } })) := by
  rw [← Nat.add_zero n, dictUnits_served n h, dictUnits, retire_eq]

/-- A load traps at its first entry that faults, and keeps the entries before it. -/
theorem dictUnits_traps {ea c v k0 k : Nat} {s t u : State} (from_ : k0 ≤ k) (below : k < 256)
    (h : unitsServed 0 0 (fun s k _ => dictUnit ea s k) (k - k0) k0 s = some u) (faults : dictUnit ea u k = .fault c v t) :
    dictUnits ea (256 - k0) k0 s = .next (dictTrap c v k t) := by
  rw [show 256 - k0 = k - k0 + (256 - k - 1 + 1) by omega, dictUnits_served _ h, Nat.add_sub_cancel' from_, dictUnits_of_fault faults]

/-- The state in which DICT.LD takes its first unit: a fresh load empties the staged bank and takes the image's identity from D, and one that starts at unit 0 clears PEND and COMPLETE (03 R59, R61). -/
def dictBegin (s : State) (d : Reg) : State :=
  match s.me.resume with
  | none => s.modMe fun c => { c with dict := { c.dict with staged := [], pend := false, complete := false, stagedId := (s.reg d).setWidth 32 } }
  | some 0 => s.modMe fun c => { c with dict := { c.dict with pend := false, complete := false } }
  | some _ => s

section
variable {s : State} {d a : Reg} {o : BitVec 22}

theorem dictLd_misaligned (off : (eaOf (s.reg a) o).toNat % 16 ≠ 0) :
    execDictLd d a o s = trapDone s 0x24 (eaOf (s.reg a) o) (some 0) := if_pos off

/-- An aligned load takes its units from the resume count on. -/
theorem dictLd_aligned (aligned : (eaOf (s.reg a) o).toNat % 16 = 0) :
    execDictLd d a o s = dictUnits (eaOf (s.reg a) o).toNat (256 - s.me.resume.getD 0) (s.me.resume.getD 0) (dictBegin s d) := by
  rw [execDictLd, if_neg fun off => off aligned, dictBegin]
  rcases s.me.resume with _ | _ | k <;> rfl
end

end Sys2Proof.Machine

namespace Sys2Proof.Claims
open Sys2Proof Sys2Proof.Machine

/-- Settles O26: it holds, each clause by the rule of its instruction above; a DICT.LD by the run of its units from the resume count on. -/
theorem dictionaryInstructions : Obligations.DictionaryInstructions := by
  unfold Obligations.DictionaryInstructions
  intro s d a g h o sc od
  refine ⟨dictCommit_marks, dictCommit_traps, fenceF_promotes, fenceF_discards, fence_retires s sc od, rfl, ?gen, ?ids, ?misaligned, ?load⟩
  case gen => exact dictStat_eq s.me.dict ▸ rfl
  case ids => exact dictIds_eq s.me.dict ▸ rfl
  case misaligned =>
    rw [direct_eq_eaOf]
    exact dictLd_misaligned
  case load =>
    rw [direct_eq_eaOf]
    intro ea k0 s0 unit aligned
    have run := dictLd_aligned (d := d) aligned
    refine ⟨fun u served => run.trans (dictUnits_completes served), fun u k c v t from_ below served faults => ?_⟩
    rw [w_natCast]
    exact run.trans (dictUnits_traps from_ below served faults)

end Sys2Proof.Claims
end

section
/-! SUPPORT. The integer instructions on exact integers: what each operation on words comes to as an integer cut to 64 bits, what the counts of bits say of a value's bits, and the settling of the statements on results and division (04 R69 to R72). -/
namespace Sys2Proof.Machine
open Claims

/-! Words as integers cut to 64 bits. -/

theorem wI_eq_w (i : Int) : wI i = w i := by
  refine BitVec.eq_of_toNat_eq ?_
  rw [wI, w, BitVec.toNat_ofNat, BitVec.toNat_ofInt, truncI]
  omega

theorem w_toInt (x : Word) : w x.toInt = x := BitVec.ofInt_toInt
theorem w_toNat (x : Word) : w x.toNat = x := by rw [w_natCast, w64, BitVec.ofNat_toNat, BitVec.setWidth_eq]

/-- A word is the integer that a natural gives, where it is that natural cut to 64 bits. -/
theorem eq_w_of_toNat {x : Word} {n : Nat} {i : Int} (cast : i = n) (value : x.toNat = n % 2 ^ 64) : x = w i := by
  rw [cast, w_natCast]
  exact BitVec.eq_of_toNat_eq (by rw [value, w64, BitVec.toNat_ofNat])

section
variable (a b : Word) (n : Nat)

theorem add_eq_w : a + b = w (a.toNat + b.toNat) := eq_w_of_toNat (by norm_cast) (BitVec.toNat_add a b)
theorem mul_eq_w : a * b = w (a.toNat * b.toNat) := eq_w_of_toNat (by norm_cast) (BitVec.toNat_mul a b)

theorem mulhu_eq_w : w64 (a.toNat * b.toNat / 2 ^ 64) = w (a.toNat * b.toNat / 2 ^ 64) := by
  rw [← w_natCast]
  norm_cast

theorem sub_eq_w : a - b = w (a.toNat - b.toNat) := by
  refine BitVec.eq_of_toNat_eq ?_
  rw [BitVec.toNat_sub, w, BitVec.toNat_ofInt]
  omega

theorem shl_eq_w : a <<< n = w (a.toNat * 2 ^ n) :=
  eq_w_of_toNat (by norm_cast) (by rw [BitVec.toNat_shiftLeft, Nat.shiftLeft_eq])

theorem shr_eq_w : a >>> n = w (a.toNat / 2 ^ n) :=
  eq_w_of_toNat (by norm_cast) (by
    rw [BitVec.toNat_ushiftRight, Nat.shiftRight_eq_div_pow, Nat.mod_eq_of_lt (Nat.lt_of_le_of_lt (Nat.div_le_self _ _) a.isLt)])

theorem sra_eq_w : a.sshiftRight n = w (a.toInt / 2 ^ n) := by
  rw [← w_toInt (a.sshiftRight n), BitVec.toInt_sshiftRight, Int.shiftRight_eq_div_pow]
  norm_cast

/-- The halves of a rotation lie side by side. -/
theorem rotated_halves {l r : Nat} (sum : l + r = 64) :
    a.toNat * 2 ^ l % 2 ^ 64 ||| a.toNat / 2 ^ r = (a.toNat * 2 ^ l + a.toNat / 2 ^ r) % 2 ^ 64 := by
  have width : 2 ^ 64 = 2 ^ r * 2 ^ l := by rw [← Nat.pow_add, Nat.add_comm, sum]
  have low : a.toNat / 2 ^ r < 2 ^ l := Nat.div_lt_of_lt_mul (width ▸ a.isLt)
  have high : a.toNat * 2 ^ l % 2 ^ 64 = (a.toNat % 2 ^ r) * 2 ^ l := by rw [width, Nat.mul_mod_mul_right]
  have below : (a.toNat % 2 ^ r) * 2 ^ l + a.toNat / 2 ^ r < 2 ^ 64 := by
    rw [width]
    calc (a.toNat % 2 ^ r) * 2 ^ l + a.toNat / 2 ^ r
        < (a.toNat % 2 ^ r + 1) * 2 ^ l := by rw [Nat.add_one_mul]; omega
      _ ≤ 2 ^ r * 2 ^ l := Nat.mul_le_mul_right _ (Nat.mod_lt _ (Nat.two_pow_pos r))
  rw [← Nat.mod_add_mod, high, Nat.mod_eq_of_lt below, ← Nat.shiftLeft_eq, Nat.shiftLeft_add_eq_or_of_lt low]

theorem rol_eq_w (h : n < 64) : a.rotateLeft n = w (a.toNat * 2 ^ n + a.toNat / 2 ^ (64 - n)) :=
  eq_w_of_toNat (by norm_cast) (by
    rw [BitVec.toNat_rotateLeft, Nat.mod_eq_of_lt h, Nat.shiftLeft_eq, Nat.shiftRight_eq_div_pow, rotated_halves a (by omega)])

theorem ror_eq_w (h : n < 64) : a.rotateRight n = w (a.toNat / 2 ^ n + a.toNat * 2 ^ (64 - n)) :=
  eq_w_of_toNat (by norm_cast) (by
    rw [BitVec.toNat_rotateRight, Nat.mod_eq_of_lt h, Nat.shiftLeft_eq, Nat.shiftRight_eq_div_pow, Nat.or_comm, rotated_halves a (by omega), Nat.add_comm])

theorem smin_eq_w : (if b.slt a then b else a) = w (min a.toInt b.toInt) := by
  simp only [BitVec.slt, decide_eq_true_eq]
  split
  · next less => rw [Int.min_eq_right (Int.le_of_lt less), w_toInt]
  · next less => rw [Int.min_eq_left (Int.not_lt.1 less), w_toInt]

theorem smax_eq_w : (if a.slt b then b else a) = w (max a.toInt b.toInt) := by
  simp only [BitVec.slt, decide_eq_true_eq]
  split
  · next less => rw [Int.max_eq_right (Int.le_of_lt less), w_toInt]
  · next less => rw [Int.max_eq_left (Int.not_lt.1 less), w_toInt]

theorem umin_eq_w : (if b.ult a then b else a) = w (min a.toNat b.toNat) := by
  simp only [BitVec.ult, decide_eq_true_eq]
  split
  · next less => rw [Int.min_eq_right (by omega), w_toNat]
  · next less => rw [Int.min_eq_left (by omega), w_toNat]

theorem umax_eq_w : (if a.ult b then b else a) = w (max a.toNat b.toNat) := by
  simp only [BitVec.ult, decide_eq_true_eq]
  split
  · next less => rw [Int.max_eq_right (by omega), w_toNat]
  · next less => rw [Int.max_eq_left (by omega), w_toNat]
end

/-! Fields. -/

/-- Sign extension of the low bits of a natural is the signed value of a word of that width. -/
theorem sextN_eq_toInt (x n : Nat) : sextN x n = (BitVec.ofNat n x).toInt := by
  cases n with
  | zero => exact (BitVec.toInt_zero_length _).symm
  | succ n =>
    have half : 2 ^ (n + 1) = 2 * 2 ^ n := Nat.pow_succ'
    simp only [sextN, BitVec.toInt_eq_toNat_cond, BitVec.toNat_ofNat, Nat.add_one_ne_zero, if_false, Nat.add_sub_cancel]
    split <;> split <;> omega

theorem bfx_eq (a : Word) (pos : BitVec 6) (len : BitVec 7) :
    wI (sextN (fieldOf a pos len) len.toNat) = ((a >>> pos.toNat).setWidth len.toNat).signExtend 64 := by
  rw [wI_eq_w, sextN_eq_toInt]
  refine congrArg (fun x : BitVec len.toNat => x.signExtend 64) (BitVec.eq_of_toNat_eq ?_)
  simp [fieldOf, bits]

theorem bfxu_eq_w (a : Word) (pos : BitVec 6) (len : BitVec 7) : w64 (fieldOf a pos len) = w (a.toNat / 2 ^ pos.toNat % 2 ^ len.toNat) := by
  rw [fieldOf, bits_eq_div, ← w_natCast]
  norm_cast

/-- A placed field stands between the bits below it and the bits above it. -/
theorem place_eq_w (d : Word) (s n v : Nat) :
    place d s n v = w (d.toNat % 2 ^ s + v % 2 ^ n * 2 ^ s + d.toNat / 2 ^ (s + n) * 2 ^ (s + n)) := by
  have outer := Nat.div_add_mod d.toNat (2 ^ s)
  have inner := congrArg (2 ^ s * ·) (Nat.div_add_mod (d.toNat / 2 ^ s) (2 ^ n))
  have parts : d.toNat - d.toNat / 2 ^ s % 2 ^ n * 2 ^ s + v % 2 ^ n * 2 ^ s
      = d.toNat % 2 ^ s + v % 2 ^ n * 2 ^ s + d.toNat / 2 ^ (s + n) * 2 ^ (s + n) := by
    rw [Nat.pow_add, ← Nat.div_div_eq_div_mul, Nat.mul_comm _ (2 ^ s * 2 ^ n), Nat.mul_assoc, Nat.mul_comm _ (2 ^ s)]
    simp only [Nat.mul_add] at inner
    omega
  rw [place, nbits_eq_div, parts, ← w_natCast]
  norm_cast

theorem movhi_eq_w (imm : BitVec 32) (d : Word) : imm ++ d.setWidth 32 = w (imm.toNat * 2 ^ 32 + d.toNat % 2 ^ 32) :=
  eq_w_of_toNat (n := imm.toNat * 2 ^ 32 + d.toNat % 2 ^ 32) (by norm_cast) (by
    rw [BitVec.toNat_append, BitVec.toNat_setWidth, ← Nat.shiftLeft_add_eq_or_of_lt (Nat.mod_lt _ (Nat.two_pow_pos 32)), Nat.shiftLeft_eq]
    omega)

/-! Counts of bits. -/

/-- A value is below the power of two at its leading one bit, and not below that bit's. -/
theorem clz_spec (x n : Nat) (h : x < 2 ^ n) : clz x n ≤ n ∧ x < 2 ^ (n - clz x n) ∧ (clz x n < n → 2 ^ (n - 1 - clz x n) ≤ x) := by
  induction n with
  | zero => exact ⟨Nat.le_refl _, h, fun f => absurd f (Nat.lt_irrefl _)⟩
  | succ n ih =>
    rw [clz]
    split
    · next one => exact ⟨Nat.zero_le _, h, fun _ => Nat.ge_two_pow_of_testBit one⟩
    · next zero =>
      have less : x < 2 ^ n := Nat.lt_of_not_le fun le => zero (Nat.testBit_of_two_pow_le_and_two_pow_add_one_gt le h)
      obtain ⟨le, above, below⟩ := ih less
      refine ⟨by omega, by rwa [show n + 1 - (1 + clz x n) = n - clz x n by omega], fun lt => ?_⟩
      rw [show n + 1 - 1 - (1 + clz x n) = n - 1 - clz x n by omega]
      exact below (by omega)

/-- Below the count of trailing zeros every bit is 0, and the bit there is 1. -/
theorem ctz_spec (n : Nat) : ∀ x, ctz x n ≤ n ∧ (∀ j < ctz x n, x.testBit j = false) ∧ (ctz x n < n → x.testBit (ctz x n) = true) := by
  induction n with
  | zero => exact fun x => ⟨Nat.le_refl _, fun j h => absurd h (Nat.not_lt_zero j), fun f => absurd f (Nat.lt_irrefl _)⟩
  | succ n ih =>
    intro x
    rw [ctz]
    split
    · next one => exact ⟨Nat.zero_le _, fun j h => absurd h (Nat.not_lt_zero j), fun _ => one⟩
    · next zero =>
      obtain ⟨le, zeros, one⟩ := ih (x / 2)
      refine ⟨by omega, fun j hj => ?_, fun lt => ?_⟩
      · cases j with
        | zero => exact Bool.eq_false_iff.2 zero
        | succ j => rw [Nat.testBit_succ]; exact zeros j (by omega)
      · rw [Nat.add_comm, Nat.testBit_succ]
        exact one (by omega)

theorem popcount_eq (x n : Nat) : popcount x n = ((List.range n).filter x.testBit).length := by
  induction n with
  | zero => rfl
  | succ n ih =>
    rw [popcount, ih, List.range_succ, List.filter_append, List.length_append]
    cases h : x.testBit n <;> simp [h, b2n]

/-- The low n bits in reverse. -/
theorem brev_spec (n : Nat) : ∀ x, brev x n < 2 ^ n ∧ ∀ j < n, (brev x n).testBit j = x.testBit (n - 1 - j) := by
  induction n with
  | zero => exact fun x => ⟨Nat.one_pos, fun j h => absurd h (Nat.not_lt_zero j)⟩
  | succ n ih =>
    intro x
    obtain ⟨less, rev⟩ := ih (x / 2)
    have digit : b2n (x.testBit 0) ≤ 1 := by unfold b2n; split <;> omega
    refine ⟨?_, fun j hj => ?_⟩
    · have := Nat.mul_le_mul_right (2 ^ n) digit
      rw [brev, Nat.pow_succ]
      omega
    · rw [brev, Nat.mul_comm, Nat.testBit_two_pow_mul_add _ less]
      split
      · next lt => rw [rev j lt, show n + 1 - 1 - j = n - 1 - j + 1 by omega, Nat.testBit_succ]
      · next le =>
        rw [show j - n = 0 by omega, show n + 1 - 1 - j = 0 by omega]
        cases x.testBit 0 <;> rfl

/-! Division. -/

/-- A quotient that overflows leaves the dividend, the most negative word (04 R70). -/
theorem tdiv_overflow {a b : Word} (most : a.toInt = -2 ^ 63) (minus : b.toInt = -1) : w (a.toInt.tdiv b.toInt) = a := by
  rw [minus, most]
  exact (congrArg w most).symm.trans (w_toInt a)

/-- A quotient that overflows leaves no remainder (04 R70). -/
theorem rem_overflow {a b : Word} (most : a.toInt = -2 ^ 63) (minus : b.toInt = -1) : w (a.toInt - b.toInt * a.toInt.tdiv b.toInt) = 0 := by
  rw [most, minus]
  rfl

theorem udiv_eq_w (a b : Word) : a / b = w (a.toNat / b.toNat) :=
  eq_w_of_toNat (by norm_cast) (by rw [BitVec.toNat_udiv, Nat.mod_eq_of_lt (Nat.lt_of_le_of_lt (Nat.div_le_self _ _) a.isLt)])

theorem umod_eq_w (a b : Word) : a % b = w (a.toNat - b.toNat * (a.toNat / b.toNat)) := by
  have rest := Int.emod_def a.toNat b.toNat
  refine eq_w_of_toNat (n := a.toNat % b.toNat) (by rw [← rest]; norm_cast) ?_
  rw [BitVec.toNat_umod, Nat.mod_eq_of_lt (Nat.lt_of_le_of_lt (Nat.mod_le _ _) a.isLt)]

end Sys2Proof.Machine

namespace Sys2Proof.Claims
open Sys2Proof Sys2Proof.Machine

/-- Retiring with a result, where the result is the value stated. -/
theorem retireWith_of_eq {s : State} {d : Reg} {u v : Word} (h : u = v) : retireWith s d u = .next (wrote s d v) := by rw [h, retireWith_eq]

/-- Every form of R69, R71 and R72 but the counts of bits writes its exact integer, cut to 64 bits. -/
theorem exec_integer {s : State} {i : Instr} {d : Reg} {v : Word} (h : integerResult s i = some (d, v)) : exec i s = .next (wrote s d v) := by
  cases i with
  | and | or | xor | andn | orn | sel | andi | ori | xori | movi => cases h; rfl
  | add => cases h; exact retireWith_of_eq (add_eq_w _ _)
  | sub => cases h; exact retireWith_of_eq (sub_eq_w _ _)
  | mul => cases h; exact retireWith_of_eq (mul_eq_w _ _)
  | mulh => cases h; exact retireWith_of_eq (wI_eq_w _)
  | mulhu => cases h; exact retireWith_of_eq (mulhu_eq_w _ _)
  | shl => cases h; exact retireWith_of_eq (shl_eq_w _ _)
  | shr => cases h; exact retireWith_of_eq (shr_eq_w _ _)
  | sra => cases h; exact retireWith_of_eq (sra_eq_w _ _)
  | rol => cases h; exact retireWith_of_eq (rol_eq_w _ _ (Nat.mod_lt _ (by decide)))
  | ror => cases h; exact retireWith_of_eq (ror_eq_w _ _ (Nat.mod_lt _ (by decide)))
  | min => cases h; exact retireWith_of_eq (smin_eq_w _ _)
  | max => cases h; exact retireWith_of_eq (smax_eq_w _ _)
  | minu => cases h; exact retireWith_of_eq (umin_eq_w _ _)
  | maxu => cases h; exact retireWith_of_eq (umax_eq_w _ _)
  | bfx => cases h; exact retireWith_of_eq (bfx_eq _ _ _)
  | bfxu => cases h; exact retireWith_of_eq (bfxu_eq_w _ _ _)
  | bfi => cases h; exact retireWith_of_eq (place_eq_w _ _ _ _)
  | addi => cases h; exact retireWith_of_eq (add_eq_w _ _)
  | shli => cases h; exact retireWith_of_eq (shl_eq_w _ _)
  | shri => cases h; exact retireWith_of_eq (shr_eq_w _ _)
  | srai => cases h; exact retireWith_of_eq (sra_eq_w _ _)
  | movhi => cases h; exact retireWith_of_eq (movhi_eq_w _ _)
  | _ => cases h

/-- Settles O10: it holds, each form by what its operation on words comes to as an integer, and the counts of bits by induction on the bits. -/
theorem integerResults : Obligations.IntegerResults := by
  unfold Obligations.IntegerResults
  refine ⟨fun s i d v _ h => exec_integer h, fun s d a => ⟨?clz, ?ctz, ?popc, ?brev⟩⟩
  case clz => exact ⟨clz (s.reg a).toNat 64, retireWith_of_eq (w_natCast _).symm, clz_spec _ 64 (s.reg a).isLt⟩
  case ctz => exact ⟨ctz (s.reg a).toNat 64, retireWith_of_eq (w_natCast _).symm, ctz_spec 64 _⟩
  case popc => exact retireWith_of_eq (by rw [popcount_eq, ← w_natCast]; rfl)
  case brev =>
    refine ⟨_, retireWith_eq _ _ _, fun j hj => ?_⟩
    rw [w64, BitVec.getLsbD_ofNat, (brev_spec 64 _).2 j hj]
    simp [hj, BitVec.getLsbD]

/-- Settles O11: it holds, each form by its edge cases in turn; the model's quotient of the most negative word by -1 is that word once cut to 64 bits. -/
theorem divisionResults : Obligations.DivisionResults := by
  unfold Obligations.DivisionResults
  intro s i d v h
  cases i with
  | div d a b =>
    cases h
    refine retireWith_of_eq (ite_congr rfl (fun _ => rfl) fun _ => ?_)
    rw [wI_eq_w]
    split
    · next edge => exact tdiv_overflow edge.1 edge.2
    · rfl
  | rem d a b =>
    cases h
    refine retireWith_of_eq (ite_congr rfl (fun _ => rfl) fun _ => ?_)
    rw [wI_eq_w]
    split
    · next edge => exact rem_overflow edge.1 edge.2
    · rfl
  | divu d a b =>
    cases h
    exact retireWith_of_eq (ite_congr rfl (fun _ => rfl) fun _ => udiv_eq_w _ _)
  | remu d a b =>
    cases h
    exact retireWith_of_eq (ite_congr rfl (fun _ => rfl) fun _ => umod_eq_w _ _)
  | _ => cases h

end Sys2Proof.Claims
end

section
/-! SUPPORT. The word of CYC: its fields, which of its words are refused, and the settling of the statement on it (02 R36, R37; 04 R93). -/
namespace Sys2Proof
open Sys2Proof.Machine

/-- The word with top halfword 0x9500, register d in D, and r in the bits below D. -/
def cycWith (d : BitVec 5) (r : BitVec 40) : Code := 0x9500#16 ++ 0#3 ++ d ++ r

/-- It is a word of OP 0x54, FN 0 and no guard. -/
theorem cycWith_eq_assemble (d : BitVec 5) (r : BitVec 40) : cycWith d r = assemble (headOf 0x54 0 none) (d ++ r : BitVec 45) :=
  BitVec.append_assoc (x₁ := 0x9500#16 ++ 0#3)

/-- The bits below D are clear where A, B, C and [24:0] are (02 R36, R37). -/
theorem below_D_clear_iff (r : BitVec 40) :
    r = 0 ↔ r.extractLsb' 35 5 = 0 ∧ r.extractLsb' 30 5 = 0 ∧ r.extractLsb' 25 5 = 0 ∧ r.extractLsb' 0 25 = 0 := by
  have bound := r.isLt
  simp only [← BitVec.toNat_inj, BitVec.extractLsb'_toNat, Nat.shiftRight_eq_div_pow, BitVec.ofNat_eq_ofNat, BitVec.toNat_ofNat]
  omega

/-- The row of CYC gives the instruction where every field but D is zero, and nothing otherwise. -/
theorem dec54_cycWith (d : BitVec 5) (r : BitVec 40) : dec54 0 (cycWith d r) = some (fin (decide (r = 0)) (.cyc d.toFin)) := by
  have hd : fD (cycWith d r) = d := by simp [fD, cycWith]
  have ha : fA (cycWith d r) = r.extractLsb' 35 5 := by simp [fA, cycWith]
  have hb : fB (cycWith d r) = r.extractLsb' 30 5 := by simp [fB, cycWith]
  have hc : fC (cycWith d r) = r.extractLsb' 25 5 := by simp [fC, cycWith]
  have hl : low25Z (cycWith d r) = decide (r.extractLsb' 0 25 = 0) := by simp [low25Z, cycWith]
  simp only [dec54, hd, ha, hb, hc, hl, rg, below_D_clear_iff r, Bool.decide_and, Bool.and_assoc]

/-- On either sequencer a word of CYC decodes where every field but D is zero, and is refused with RESERVED_FIELD otherwise. -/
theorem decode_cycWith {ex : Executor} (sequencer : ex ≠ .element) (d : BitVec 5) (r : BitVec 40) :
    decode ex (cycWith d r) = if r = 0 then .ok none (.cyc d.toFin) else .bad .reservedField := by
  have hop : ((cycWith d r).extractLsb' 54 8).toNat = 0x54 := by rw [cycWith_eq_assemble]; exact op_assemble (by decide)
  have hfn : ((cycWith d r).extractLsb' 50 4).toNat = 0 := by rw [cycWith_eq_assemble]; exact fn_assemble (by decide)
  have guard : guardOf ex (cycWith d r) = some none := by rw [cycWith_eq_assemble]; exact guardOf_assemble fun _ => rfl
  have row : decSeq 0x54 0 (cycWith d r) = some (fin (decide (r = 0)) (.cyc d.toFin)) := dec54_cycWith d r
  have used : (fnUsed 0x54).testBit 0 = true := rfl
  have wf : instrWf (.cyc d.toFin) = true := rfl
  have answer (run : runs ex 0x54 = true) :
      decodeBy ex decSeq (cycWith d r) = if r = 0 then .ok none (.cyc d.toFin) else .bad .reservedField := by
    simp only [decodeBy, hop, hfn, run, guard, row, used, fin, wf]
    by_cases zero : r = 0#40 <;> simp [zero]
  cases ex with
  | element => exact absurd rfl sequencer
  | core => exact answer rfl
  | display => exact answer rfl

end Sys2Proof

namespace Sys2Proof.Claims
open Sys2Proof Sys2Proof.Machine

/-- Settles O25: it holds, the words by the fields of OP 0x54, and the counter by retiring with it. -/
theorem cycleCounter : Obligations.CycleCounter := by
  unfold Obligations.CycleCounter
  exact ⟨fun s d => retireWith_of_eq (w_natCast _).symm, fun d r => ⟨decode_cycWith (by decide) d r, decode_cycWith (by decide) d r⟩⟩

end Sys2Proof.Claims
end

section
/-! SUPPORT. Conditions, branches, traps of system instructions and control registers: what each tests, where each goes and what each reads or writes, and the settling of the statements on them (04 R74 to R76, R86 to R90; 01 R16). -/
namespace Sys2Proof.Machine
open Claims

/-! Conditions and targets. -/

theorem condHolds_iff (x : Cond) (u v : Word) : condHolds x u v = true ↔ cond x u v := by
  cases x with
  | eq | ne => simp [condHolds, Claims.cond]
  | lt | ge => simp [condHolds, Claims.cond, BitVec.slt]
  | ltu | geu => simp [condHolds, Claims.cond, BitVec.ult]

/-- An integer added to a word, cut to 64 bits. -/
theorem add_w (a : Word) (i : Int) : a + w i = w (a.toNat + i) := by
  rw [w, w, BitVec.ofInt_add, BitVec.ofInt_natCast, BitVec.ofNat_toNat, BitVec.setWidth_eq]

/-- A target is the parcel's address and twice the immediate. -/
theorem targetOf_eq (pc : Word) (imm : BitVec 32) : targetOf pc imm = pcOf (w (pc.toNat + 2 * imm.toInt)) := by
  have twice : imm.signExtend 64 <<< 1 = w (2 * imm.toInt) := by
    rw [BitVec.shiftLeft_eq_mul_twoPow, w, Int.mul_comm, BitVec.ofInt_mul]
    rfl
  rw [targetOf, twice, add_w]

theorem retireTo_eq (s : State) (a : Word) : retireTo s a = .next (moved s a) := rfl

/-- BR goes to its target where its condition holds. -/
theorem br_taken {s : State} {x : Cond} {a b : Reg} {imm : BitVec 32} (h : cond x (s.reg a) (s.reg b)) :
    execBr x a b imm s = .next (moved s (targetOf s.actor.pc imm)) := if_pos ((condHolds_iff _ _ _).2 h)

/-- BR goes on where its condition does not hold. -/
theorem br_not_taken {s : State} {x : Cond} {a b : Reg} {imm : BitVec 32} (h : ¬ cond x (s.reg a) (s.reg b)) :
    execBr x a b imm s = .next (retired s) := if_neg fun holds => h ((condHolds_iff _ _ _).1 holds)

/-- LOOP goes while the count that is left is not 0. -/
theorem loop_goes {s : State} {a : Reg} {imm : BitVec 32} (h : s.reg a ≠ 1) :
    execLoop a imm s = .next (moved (s.setReg a (s.reg a - 1)) (targetOf s.actor.pc imm)) := if_pos fun zero => h (by bv_omega)

/-- LOOP goes on once the count is used up. -/
theorem loop_ends {s : State} {a : Reg} {imm : BitVec 32} (h : s.reg a = 1) : execLoop a imm s = .next (retired (s.setReg a 0)) := by
  rw [execLoop, h, BitVec.sub_self]
  rfl

/-! Stopping at a BRK. -/

@[simp] theorem returnSlots_cores (s : State) (q n : Nat) : (returnSlots s q n).cores = s.cores := by unfold returnSlots; split <;> rfl
@[simp] theorem returnSlots_actor (s : State) (q n : Nat) : (returnSlots s q n).actor = s.actor := by unfold returnSlots; split <;> rfl

/-- A context is read from the cores alone. -/
theorem State.ctx_congr {s t : State} (h : t.cores = s.cores) (k n : Nat) : t.ctx k n = s.ctx k n := by rw [State.ctx, State.core, h, State.ctx, State.core]

@[simp] theorem returnSlots_ctx (s : State) (q n k m : Nat) : (returnSlots s q n).ctx k m = s.ctx k m := State.ctx_congr (returnSlots_cores s q n) k m

/-- A stop of the acting context leaves its registers, its PC and its mode. -/
theorem stopContext_me {s : State} {k n : Nat} (core : s.actor.core = k) (ctx : s.actor.ctx = n) : (stopContext s k n).me =
    { s.me with run := .off, await := none, hold := false, going := none, pre := [], stopping := false, rsv := {} } := by
  subst core ctx
  simp [stopContext, State.me, State.ctx_modCtx]

/-- BRK with its debug stop enable set stops the context at the BRK. -/
theorem brk_stops {s : State} (code : BitVec 16) (h : (s.core s.actor.core).regs.dbgstop.testBit s.actor.ctx = true) :
    ∃ t, execBrk code s = .next t ∧ t.me.run = .off ∧ t.me.pc = s.actor.pc ∧ t.me.x = s.me.x ∧ t.me.priv = s.me.priv := by
  refine ⟨_, if_pos h, ?_⟩
  rw [stopContext_me (congrArg Actor.core (State.modMe_actor s _)) (congrArg Actor.ctx (State.modMe_actor s _)), State.me_modMe]
  exact ⟨rfl, rfl, rfl, rfl⟩

/-- ERET in user mode takes PERMISSION. -/
theorem eret_user {s : State} (user : s.me.priv = false) : execEret s = .next (trapped s 0x22 s.actor.bits) := if_pos (by simp [State.user, user])

/-! Control registers. -/

theorem ctrlIndex_iff (x : BitVec 12) : ctrlIndex x = true ↔ named x.toNat := by
  simp only [ctrlIndex, ctrlIndices, List.contains_iff_mem, List.mem_cons, List.not_mem_nil, or_false, named, readOnly, supervisorOnly]
  omega

theorem ctrlSuper_iff (n : Nat) : ctrlSuper n = true ↔ supervisorOnly n := by
  simp only [ctrlSuper, decide_eq_true_eq, supervisorOnly]
  omega

theorem ctrlReadOnly_iff (n : Nat) : ctrlReadOnly n = true ↔ readOnly n := by
  simp [ctrlReadOnly, readOnly]

/-- The mode of the context refuses a register of the supervisor. -/
theorem user_super_iff (s : State) (n : Nat) : (s.user && ctrlSuper n) = true ↔ supervisorOnly n ∧ s.me.priv = false := by
  simp [State.user, ctrlSuper_iff, and_comm]

/-- The mode refuses no register to the supervisor, and to the user none but the supervisor's. -/
theorem not_user_super {s : State} {n : Nat} (mode : s.me.priv = true ∨ ¬ supervisorOnly n) : ¬ (s.user && ctrlSuper n) = true := by
  rw [user_super_iff]
  rintro ⟨super, user⟩
  exact mode.elim (fun priv => Bool.noConfusion (priv.symm.trans user)) fun other => other super

theorem w64_b2n (b : Bool) : w64 (b2n b) = if b then 1 else 0 := by cases b <;> rfl

theorem setWidth_eq_w (x : BitVec 32) : x.setWidth 64 = w x.toNat := by rw [w_natCast, w64, BitVec.ofNat_toNat]

/-- A control register reads as R16 has it. -/
theorem ctrlRead_eq (s : State) {n : Nat} (h : named n) : ctrlRead s n = controlValue s n := by
  rcases h with (rfl | rfl | rfl | rfl | rfl | rfl | rfl | rfl) | (rfl | rfl | rfl | rfl | rfl) | rfl | rfl | rfl
  · exact w64_b2n _ -- STATUS
  · exact setWidth_eq_w _ -- DICTGEN
  · exact rfl -- CTXID
  · exact (w_natCast _).symm -- PARTID
  · exact rfl -- DUTYCTL
  · exact rfl -- SCHEDCTL
  · exact rfl -- POLSTAT
  · exact (w_natCast _).symm -- CYC
  · exact rfl -- CAUSE
  · exact rfl -- EPC
  · exact rfl -- TVAL
  · exact rfl -- TSTAT
  · exact rfl -- TVEC
  · exact (w_natCast _).symm -- FRM
  · exact rfl -- SR.SEED
  · exact rfl -- PFLOOR

section
variable {s : State} {x : BitVec 12} {d a : Reg}

theorem crr_reads (h : named x.toNat) (mode : s.me.priv = true ∨ ¬ supervisorOnly x.toNat) :
    execCrr d x s = .next (wrote s d (controlValue s x.toNat)) := by
  rw [execCrr, (ctrlIndex_iff x).2 h, Bool.not_true, if_neg Bool.false_ne_true, if_neg (not_user_super mode), ctrlRead_eq s h, retireWith_eq]

theorem crr_refused (super : supervisorOnly x.toNat) (user : s.me.priv = false) : execCrr d x s = .next (trapped s 0x22 s.actor.bits) := by
  rw [execCrr, (ctrlIndex_iff x).2 (.inr (.inl super)), Bool.not_true, if_neg Bool.false_ne_true, if_pos ((user_super_iff s _).2 ⟨super, user⟩), trap_eq]

theorem crr_unnamed (h : ¬ named x.toNat) : execCrr d x s = .next (trapped s 0x05 s.actor.bits) :=
  if_pos (by simpa using fun index => h ((ctrlIndex_iff x).1 index))

theorem crw_unnamed (h : ¬ named x.toNat) : execCrw x a s = .next (trapped s 0x05 s.actor.bits) :=
  if_pos (by simpa using fun index => h ((ctrlIndex_iff x).1 index))

theorem crw_refused (h : readOnly x.toNat ∨ (supervisorOnly x.toNat ∧ s.me.priv = false)) : execCrw x a s = .next (trapped s 0x22 s.actor.bits) := by
  have index : named x.toNat := h.imp id fun super => .inl super.1
  have refused : (ctrlReadOnly x.toNat || (s.user && ctrlSuper x.toNat)) = true := by rwa [Bool.or_eq_true, ctrlReadOnly_iff, user_super_iff]
  rw [execCrw, (ctrlIndex_iff x).2 index, Bool.not_true, if_neg Bool.false_ne_true, if_pos refused, trap_eq]

/-- FRM refuses the encodings that name no rounding mode (01 R17). -/
theorem crw_frm_refused (h : 5 < (s.reg a).toNat % 8) : execCrw 0x008 a s = .next (trapped s 0x05 s.actor.bits) := by
  have allowed : ¬ (ctrlReadOnly 8 || (s.user && ctrlSuper 8)) = true := by simp [ctrlReadOnly, ctrlSuper]
  exact (if_neg (by decide)).trans ((if_neg allowed).trans (if_pos ⟨rfl, h⟩))

/-- A context without an external trap takes none. -/
theorem takePending_none {k n : Nat} (h : (s.ctx k n).ext = none) : takePending s k n = s := by simp [takePending, h]

/-- PFLOOR as a CRW leaves it: bit 0 written, bit 8 cleared where the value has it, every other bit 0 (23 R414). -/
def pfloorWritten (v old : Word) : Word := (v &&& 1) ||| (if bit v 8 then 0 else old &&& 0x100)

theorem getLsbD_pfloorWritten (v old : Word) (j : Nat) :
    (pfloorWritten v old).getLsbD j = if j = 0 then v.getLsbD 0 else if j = 8 then old.getLsbD 8 && !(v.getLsbD 8) else false := by
  have one : (1 : Word).getLsbD j = decide (j = 0) := (BitVec.getLsbD_one).trans (by simp)
  have floor : (0x100 : Word).getLsbD j = decide (j = 8) := (BitVec.getLsbD_twoPow 8 j).trans (by simp [eq_comm])
  rw [pfloorWritten, BitVec.getLsbD_or, BitVec.getLsbD_and, one, bit, apply_ite (BitVec.getLsbD · j), BitVec.getLsbD_and, floor]
  by_cases h0 : j = 0
  · simp [h0]
  · by_cases h8 : j = 8
    · cases v.getLsbD 8 <;> simp [h8]
    · simp [h0, h8]

/-! What each control register that can be written takes (01 R16 to R19; 23 R414). -/

section
variable (s : State) (v : Word)
theorem ctrlWrite_cause : ctrlWrite s 0x001 v = s.modMe fun c => { c with tr := { c.tr with cause := v &&& 0xFF } } := rfl
theorem ctrlWrite_epc : ctrlWrite s 0x002 v = s.modMe fun c => { c with tr := { c.tr with epc := v } } := rfl
theorem ctrlWrite_tval : ctrlWrite s 0x003 v = s.modMe fun c => { c with tr := { c.tr with tval := v } } := rfl
theorem ctrlWrite_tstat : ctrlWrite s 0x004 v = s.modMe fun c => { c with tr := { c.tr with tstat := v &&& 0xFFFFFFFF00FFED01 } } := rfl
theorem ctrlWrite_tvec : ctrlWrite s 0x005 v = s.modMe fun c => { c with tr := { c.tr with tvec := v &&& 0xFFFFFFFFFFFFFFFE } } := rfl
theorem ctrlWrite_frm : ctrlWrite s 0x008 v = s.modMe fun c => { c with frm := v.toNat % 8 } := rfl
theorem ctrlWrite_pfloor : ctrlWrite s 0x016 v = s.modMe fun c => { c with pfloor := pfloorWritten v c.pfloor } := rfl
end

/-- A change of a core that leaves its contexts leaves every context. -/
theorem State.ctx_modCore {s : State} {k : Nat} {f : CoreSt → CoreSt} (h : ∀ c, (f c).ctxs = c.ctxs) (j n : Nat) : (s.modCore k f).ctx j n = s.ctx j n := by
  rw [State.ctx, State.core_modCore]
  split
  · next e => rw [CoreSt.ctx, h, e, State.ctx, CoreSt.ctx]
  · rfl

@[simp] theorem setSeed_ctx (k u j n : Nat) (g : Word) : (s.setSeed k u g).ctx j n = s.ctx j n := State.ctx_modCore (by intro c; rfl) j n

/-- Writing a control register acts for the same context. -/
@[simp] theorem ctrlWrite_actor (s : State) (n : Nat) (v : Word) : (ctrlWrite s n v).actor = s.actor := by
  unfold ctrlWrite
  split <;> rfl

/-- Writing a control register leaves the external trap that is pending. -/
theorem ctrlWrite_ext (s : State) (n : Nat) (v : Word) : (ctrlWrite s n v).me.ext = s.me.ext := by
  rw [State.me, ctrlWrite_actor]
  unfold ctrlWrite
  split
  case h_7 => rw [setSeed_ctx, State.me]
  all_goals simp [State.modMe, State.setMe, State.ctx_setCtx, State.me]

/-- A CRW that the mode allows writes the register and retires, where no external trap is pending. -/
theorem crw_writes (index : named x.toNat) (writable : ¬ readOnly x.toNat) (mode : s.me.priv = true ∨ ¬ supervisorOnly x.toNat)
    (frm : x.toNat = 0x008 → (s.reg a).toNat % 8 ≤ 5) (noExt : s.me.ext = none) :
    execCrw x a s = .next ((ctrlWrite s x.toNat (s.reg a)).modMe fun c => { c with pc := s.nextPc, resume := none }) := by
  have allowed : ¬ (ctrlReadOnly x.toNat || (s.user && ctrlSuper x.toNat)) = true := by
    rw [Bool.or_eq_true, ctrlReadOnly_iff]
    exact not_or.2 ⟨writable, not_user_super mode⟩
  have rounding : ¬ (x.toNat = 0x008 ∧ 6 ≤ (s.reg a).toNat % 8) := fun ⟨isFrm, six⟩ => absurd (frm isFrm) (by omega)
  have pending : (((ctrlWrite s x.toNat (s.reg a)).modMe fun c => { c with pc := s.nextPc, resume := none }).ctx s.actor.core s.actor.ctx).ext = none := by
    rw [← ctrlWrite_actor s x.toNat (s.reg a)]
    exact (congrArg Ctx.ext (State.me_modMe _ _)).trans ((ctrlWrite_ext _ _ _).trans noExt)
  rw [execCrw, (ctrlIndex_iff x).2 index, Bool.not_true, if_neg Bool.false_ne_true, if_neg allowed, if_neg rounding, takePending_none pending]

/-- A CRW that changes the acting context alone leaves it so changed, with the PC at the next parcel. -/
theorem crw_modifies {f : Ctx → Ctx} (write : ctrlWrite s x.toNat (s.reg a) = s.modMe f) (noExt : s.me.ext = none) (index : named x.toNat)
    (writable : ¬ readOnly x.toNat) (mode : s.me.priv = true ∨ ¬ supervisorOnly x.toNat) (frm : x.toNat = 0x008 → (s.reg a).toNat % 8 ≤ 5) :
    ∃ t, execCrw x a s = .next t ∧ t.me = { f s.me with pc := s.nextPc, resume := none } := by
  refine ⟨_, crw_writes index writable mode frm noExt, ?_⟩
  rw [write, State.me_modMe, State.me_modMe]

/-- In supervisor mode a CRW of a trap register changes it. -/
theorem crw_super {f : Ctx → Ctx} (write : ctrlWrite s x.toNat (s.reg a) = s.modMe f) (noExt : s.me.ext = none) (super : supervisorOnly x.toNat)
    (priv : s.me.priv = true) : ∃ t, execCrw x a s = .next t ∧ t.me = { f s.me with pc := s.nextPc, resume := none } := by
  refine crw_modifies write noExt (.inr (.inl super)) (fun read => ?_) (.inl priv) (fun frm => ?_)
  · simp only [readOnly, supervisorOnly] at read super
    omega
  · simp only [supervisorOnly] at super
    omega

/-- A CRW of SR.SEED sets the generator of the core. -/
theorem crw_seed (noExt : s.me.ext = none) :
    ∃ t, execCrw 0x009 a s = .next t ∧ (t.core s.actor.core).seed = (if s.reg a = 0 then 0x2545F4914F6CDD1D else s.reg a) ∧ t.me.pc = s.nextPc := by
  refine ⟨_, crw_writes (by simp [named]) (by simp [readOnly]) (.inr (by simp [supervisorOnly])) (fun frm => absurd frm (by decide)) noExt, ?_, ?_⟩
  · simp [ctrlWrite, State.setSeed, State.modMe, State.setMe]
  · rw [State.me_modMe]
end

end Sys2Proof.Machine

namespace Sys2Proof.Claims
open Sys2Proof Sys2Proof.Machine

/-- Settles O12: it holds, each compare by its condition, each predicate operation as it stands. -/
theorem compareAndPredicateResults : Obligations.CompareAndPredicateResults := by
  unfold Obligations.CompareAndPredicateResults
  refine ⟨fun s i x u v d c h => ⟨condHolds x u v, condHolds_iff x u v, ?_⟩, fun s i d b h => ?_⟩
  · cases i with
    | cmpEq | cmpNe | cmpLt | cmpGe | cmpLtu | cmpGeu => cases h; rfl
    | cmpiEq | cmpiNe | cmpiLt | cmpiGe | cmpiLtu | cmpiGeu => cases h; rfl
    | _ => cases h
  · cases i with
    | pset | pand | por | pxor | pnot => cases h; rfl
    | _ => cases h

/-- Settles O13: it holds, each instruction by its branch and the target by integer arithmetic. -/
theorem controlFlow : Obligations.ControlFlow := by
  unfold Obligations.ControlFlow
  intro s x d a b imm
  rw [← targetOf_eq, ← add_w]
  exact ⟨br_taken, br_not_taken, retireTo_eq _ _, retireTo_eq _ _, retireTo_eq _ _, loop_goes, loop_ends⟩

/-- Settles O21: it holds, each clause by its instruction's trap or stop. -/
theorem systemTraps : Obligations.SystemTraps := by
  unfold Obligations.SystemTraps
  intro s imm code c f z v
  simp only [w_natCast]
  refine ⟨retire_eq s, ?trap, ?brk, brk_stops code, eret_user, rfl⟩
  case trap =>
    rw [w64, BitVec.ofNat_toNat]
    rfl
  case brk =>
    intro off
    rw [w64, BitVec.ofNat_toNat]
    exact if_neg (by simp [off])

/-- Settles O22: it holds, by the table of R16 read both ways. -/
theorem controlRegisterReads : Obligations.ControlRegisterReads := by
  unfold Obligations.ControlRegisterReads
  exact fun s d x => ⟨crr_reads, crr_refused, crr_unnamed⟩

/-- Settles O23: it holds, each write by the rule for the writes that the mode allows, and each refusal by the check that makes it. -/
theorem controlRegisterWrites : Obligations.ControlRegisterWrites := by
  unfold Obligations.ControlRegisterWrites
  intro s a x noExt
  refine ⟨fun priv => ?super, fun valid => ?frm, crw_frm_refused, crw_seed noExt, ?pfloor, crw_unnamed, crw_refused⟩
  case super =>
    obtain ⟨t1, run1, me1⟩ := crw_super (x := 0x001) (a := a) (ctrlWrite_cause s _) noExt (by simp [supervisorOnly]) priv
    obtain ⟨t2, run2, me2⟩ := crw_super (x := 0x002) (a := a) (ctrlWrite_epc s _) noExt (by simp [supervisorOnly]) priv
    obtain ⟨t3, run3, me3⟩ := crw_super (x := 0x003) (a := a) (ctrlWrite_tval s _) noExt (by simp [supervisorOnly]) priv
    obtain ⟨t4, run4, me4⟩ := crw_super (x := 0x004) (a := a) (ctrlWrite_tstat s _) noExt (by simp [supervisorOnly]) priv
    obtain ⟨t5, run5, me5⟩ := crw_super (x := 0x005) (a := a) (ctrlWrite_tvec s _) noExt (by simp [supervisorOnly]) priv
    exact ⟨t1, t2, t3, t4, t5, run1, congrArg Ctx.tr me1, run2, congrArg Ctx.tr me2, run3, congrArg Ctx.tr me3, run4, congrArg Ctx.tr me4,
      run5, congrArg Ctx.tr me5, congrArg Ctx.pc me1, congrArg Ctx.pc me5⟩
  case frm =>
    obtain ⟨t, run, me⟩ := crw_modifies (x := 0x008) (a := a) (ctrlWrite_frm s _) noExt (by simp [named]) (by simp [readOnly]) (.inr (by simp [supervisorOnly])) fun _ => valid
    exact ⟨t, run, congrArg Ctx.frm me, congrArg Ctx.pc me, (congrArg Ctx.x me :)⟩
  case pfloor =>
    obtain ⟨t, run, me⟩ := crw_modifies (x := 0x016) (a := a) (ctrlWrite_pfloor s _) noExt (by simp [named]) (by simp [readOnly]) (.inr (by simp [supervisorOnly])) fun frm =>
      absurd frm (by decide)
    have floor : t.me.pfloor = pfloorWritten (s.reg a) s.me.pfloor := congrArg Ctx.pfloor me
    have bits (j : Nat) := (congrArg (BitVec.getLsbD · j) floor).trans (getLsbD_pfloorWritten _ _ j)
    exact ⟨t, run, bits 0, bits 8, fun j _ h0 h8 => (bits j).trans ((if_neg h0).trans (if_neg h8)), (congrArg Ctx.x me :), congrArg Ctx.pc me⟩

end Sys2Proof.Claims
end

section
/-! SUPPORT. Local memory: its bytes after a write, the answers of the checks on an access, what an atomic computes, and the settling of the statement on local accesses (01 R14; 04 R78 to R82). -/
namespace Sys2Proof.Machine
open Claims

/-! Addresses and loaded values. -/

theorem indexed_eq_eaIndexed (s : State) (b x : Reg) (o : BitVec 22) : indexed s b x o = eaIndexed (s.reg b) (s.reg x) o := by
  rw [eaIndexed, show o.signExtend 64 = w o.toInt from rfl, add_w, indexed, add_eq_w]
  refine BitVec.eq_of_toNat_eq ?_
  simp only [w, BitVec.toNat_ofInt]
  omega

/-- Bytes hold a value below 256 to their number. -/
theorem ofBytesLE_lt (bs : List Byte) : ofBytesLE bs < 256 ^ bs.length := by
  induction bs with
  | nil => exact Nat.one_pos
  | cons b bs ih =>
    have := b.isLt
    rw [ofBytesLE, List.length_cons, Nat.pow_succ]
    omega

theorem pow_256 (n : Nat) : 256 ^ n = 2 ^ (8 * n) := by rw [Nat.pow_mul]

/-- A value of the bytes of its size is extended as the size asks. -/
theorem extend_eq_loaded {sz : Sz} {v : Nat} (h : v < 2 ^ (8 * szBytes sz)) : extend sz v = loaded sz v := by
  have fits := (congrArg w64 (Nat.mod_eq_of_lt h)).symm.trans (w_natCast _).symm
  cases sz with
  | b | h | w => rfl
  | bu | hu | wu => exact fits
  | d => exact (w_natCast v).symm

/-! The bytes of local memory. -/

/-- Local memory is written as memory is. -/
theorem putBytes_eq_set (bs : List Byte) : ∀ (m : Memory) (a : Nat), putBytes m.bytes a bs = (m.set a bs).bytes := by
  induction bs with
  | nil => exact fun m a => rfl
  | cons b bs ih => exact fun m a => ih (m.setByte a b) (a + 1)

theorem look_putBytes_other {t : Tab Byte} {bs : List Byte} {a j : Nat} (h : j < a ∨ a + bs.length ≤ j) : Tab.look 0 (putBytes t a bs) j = Tab.look 0 t j := by
  rw [putBytes_eq_set bs { bytes := t }]
  exact Memory.byte_set_other bs { bytes := t } a j h

theorem look_putBytes_at {t : Tab Byte} {bs : List Byte} {a i : Nat} (h : i < bs.length) : Tab.look 0 (putBytes t a bs) (a + i) = bs[i] := by
  rw [putBytes_eq_set bs { bytes := t }]
  exact Memory.byte_set_at bs { bytes := t } a i h

theorem getElem_bytesLE {v n i : Nat} (h : i < (bytesLE v n).length) : (bytesLE v n)[i] = BitVec.ofNat 8 (v / 2 ^ (8 * i)) := by
  simp [bytesLE, byteOf, Nat.shiftRight_eq_div_pow]

theorem localBytes_eq_map (c : CoreSt) (n : Nat) : ∀ a, localBytes c a n = (List.range n).map fun j => Tab.look 0 c.local_ (a + j) := by
  induction n with
  | zero => exact fun a => rfl
  | succ n ih =>
    intro a
    simp [localBytes, ih, List.range_succ_eq_map, Nat.add_assoc, Nat.add_comm 1]

theorem localVal_eq (s : State) (a n : Nat) : localVal s a n = ofBytesLE ((List.range n).map fun j => localByte s s.actor.core (a + j)) := by
  rw [localVal, localBytes_eq_map]
  rfl

theorem localVal_lt (s : State) (a n : Nat) : localVal s a n < 2 ^ (8 * n) := by
  have := ofBytesLE_lt (localBytes (s.core s.actor.core) a n)
  rwa [localBytes_eq_map, List.length_map, List.length_range, pow_256, ← localBytes_eq_map] at this

/-- The bytes stored are those of the value, the least significant first. -/
theorem localByte_setLocal_at {s : State} {a n v j : Nat} (h : j < n) : localByte (setLocal s a n v) s.actor.core (a + j) = BitVec.ofNat 8 (v / 2 ^ (8 * j)) := by
  simp only [localByte, setLocal, State.core_modCore, if_true]
  rw [look_putBytes_at (by rwa [bytesLE_length]), getElem_bytesLE]

/-- A store leaves every byte outside its range, and every other core's. -/
theorem localByte_setLocal_other {s : State} {a n v k j : Nat} (h : k ≠ s.actor.core ∨ j < a ∨ a + n ≤ j) : localByte (setLocal s a n v) k j = localByte s k j := by
  simp only [localByte, setLocal, State.core_modCore]
  split
  · next same =>
    subst same
    exact look_putBytes_other (by simpa using h)
  · rfl

theorem setLocal_me (s : State) (a n v : Nat) : (setLocal s a n v).me = s.me := State.ctx_modCore (by intro c; rfl) _ _

/-! The checks of an access. -/

section
variable {s : State} {ea : Word} {n : Nat} {f : Nat → Out}

/-- An access that local memory serves is made. -/
theorem localAt_serves (h : localServes s ea n) : localAt s ea n f = f ea.toNat := by
  obtain ⟨aligned, below, good⟩ := h
  have clean : ¬ ((List.range n).any fun i => Tab.look false (s.core s.actor.core).bad (ea.toNat + i)) = true := by
    simpa using good
  rw [localAt, if_neg (fun off => off aligned), if_neg (Nat.not_le.2 below), if_neg clean]
end

/-! What an atomic computes (04 R80). -/

section
variable (o : Word) (sz : Sz) {old : Nat}

theorem amoAdd_eq : amoAdd o sz old = some ((old + o.toNat % 2 ^ (8 * szBytes sz)) % 2 ^ (8 * szBytes sz)) := by
  rw [amoAdd, szMask, Nat.add_mod_mod]

theorem amoMin_eq : amoMin o sz old = some (if (BitVec.ofNat (8 * szBytes sz) (o.toNat % 2 ^ (8 * szBytes sz))).toInt < (BitVec.ofNat (8 * szBytes sz) old).toInt
    then o.toNat % 2 ^ (8 * szBytes sz) else old) := by simp only [amoMin, szMask, sextN_eq_toInt]

theorem amoMax_eq : amoMax o sz old = some (if (BitVec.ofNat (8 * szBytes sz) old).toInt < (BitVec.ofNat (8 * szBytes sz) (o.toNat % 2 ^ (8 * szBytes sz))).toInt
    then o.toNat % 2 ^ (8 * szBytes sz) else old) := by simp only [amoMax, szMask, sextN_eq_toInt]

theorem amoSwap_eq : amoSwap o sz old = some (o.toNat % 2 ^ (8 * szBytes sz)) := rfl

theorem amoMinu_eq : amoMinu o sz old = some (min (o.toNat % 2 ^ (8 * szBytes sz)) old) := by
  rw [amoMinu, szMask]
  split <;> congr 1 <;> omega

theorem amoMaxu_eq : amoMaxu o sz old = some (max (o.toNat % 2 ^ (8 * szBytes sz)) old) := by
  rw [amoMaxu, szMask]
  split <;> congr 1 <;> omega

variable (small : old < 2 ^ (8 * szBytes sz))
include small

theorem amoAnd_eq : amoAnd o sz old = some (old &&& o.toNat % 2 ^ (8 * szBytes sz)) := by
  rw [amoAnd, szMask, Nat.and_mod_two_pow, Nat.mod_eq_of_lt small]

theorem amoOr_eq : amoOr o sz old = some (old ||| o.toNat % 2 ^ (8 * szBytes sz)) := by
  rw [amoOr, szMask, Nat.or_mod_two_pow, Nat.mod_eq_of_lt small]

theorem amoXor_eq : amoXor o sz old = some (old ^^^ o.toNat % 2 ^ (8 * szBytes sz)) := by
  rw [amoXor, szMask, Nat.xor_mod_two_pow, Nat.mod_eq_of_lt small]
end

section
variable {s : State} {d b x : Reg} {sz : Sz} {o : BitVec 22}

/-- Each AMO.loc is an atomic of local memory whose operation computes f(old, o). -/
theorem exec_amoLoc {i : Instr} {old v : Nat} (fields : amoLocFields i = some (d, b, x, sz, o)) (small : old < 2 ^ (8 * szBytes sz))
    (result : atomicResult i (szBytes sz) old ((s.reg x).toNat % 2 ^ (8 * szBytes sz)) = some v) :
    ∃ f, exec i s = atomicLoc s (eaOf (s.reg b) o) sz d f ∧ f sz old = some v := by
  cases i with
  | amoLocAdd => cases fields; cases result; exact ⟨_, rfl, amoAdd_eq _ _⟩
  | amoLocAnd => cases fields; cases result; exact ⟨_, rfl, amoAnd_eq _ _ small⟩
  | amoLocOr => cases fields; cases result; exact ⟨_, rfl, amoOr_eq _ _ small⟩
  | amoLocXor => cases fields; cases result; exact ⟨_, rfl, amoXor_eq _ _ small⟩
  | amoLocMin => cases fields; cases result; exact ⟨_, rfl, amoMin_eq _ _⟩
  | amoLocMax => cases fields; cases result; exact ⟨_, rfl, amoMax_eq _ _⟩
  | amoLocMinu => cases fields; cases result; exact ⟨_, rfl, amoMinu_eq _ _⟩
  | amoLocMaxu => cases fields; cases result; exact ⟨_, rfl, amoMaxu_eq _ _⟩
  | amoLocSwap => cases fields; cases result; exact ⟨_, rfl, amoSwap_eq _ _⟩
  | _ => cases fields

/-- LD.loc that local memory serves writes the bytes' value, extended, to D. -/
theorem ldLoc_serves (h : localServes s (eaIndexed (s.reg b) (s.reg x) o) (szBytes sz)) :
    execLdLoc d b x sz o s = .next (wrote s d (loaded sz (localVal s (eaIndexed (s.reg b) (s.reg x) o).toNat (szBytes sz)))) := by
  rw [execLdLoc, localAt_serves h]
  exact retireWith_of_eq (extend_eq_loaded (localVal_lt _ _ _))

/-- ST.loc that local memory serves stores the low bytes of D. -/
theorem stLoc_serves (h : localServes s (eaIndexed (s.reg b) (s.reg x) o) (szBytes sz)) :
    execStLoc d b x sz o s = .next (retired (setLocal s (eaIndexed (s.reg b) (s.reg x) o).toNat (szBytes sz) (s.reg d).toNat)) := by
  rw [execStLoc, localAt_serves h, retire_eq]

section
variable {ea : Word} {f : Sz → Nat → Option Nat} (serves : localServes s ea (szBytes sz))
include serves

/-- An atomic that local memory serves answers the old value, and leaves the one that its operation gives. -/
theorem atomicLoc_writes {v : Nat} (value : f sz (localVal s ea.toNat (szBytes sz)) = some v) :
    atomicLoc s ea sz d f = .next (wrote (localStored s ea.toNat (szBytes sz) v) d (loaded sz (localVal s ea.toNat (szBytes sz)))) := by
  rw [atomicLoc, localAt_serves serves]
  dsimp only
  rw [value]
  exact retireWith_of_eq (extend_eq_loaded (localVal_lt _ _ _))

/-- One whose operation gives none leaves local memory. -/
theorem atomicLoc_keeps (leaves : f sz (localVal s ea.toNat (szBytes sz)) = none) :
    atomicLoc s ea sz d f = .next (wrote s d (loaded sz (localVal s ea.toNat (szBytes sz)))) := by
  rw [atomicLoc, localAt_serves serves]
  dsimp only
  rw [leaves]
  exact retireWith_of_eq (extend_eq_loaded (localVal_lt _ _ _))
end
end

end Sys2Proof.Machine

namespace Sys2Proof.Claims
open Sys2Proof Sys2Proof.Machine

/-- Settles O15: it holds, by the checks of R79 all passing and the bytes that a write of local memory leaves. -/
theorem localAccesses : Obligations.LocalAccesses := by
  unfold Obligations.LocalAccesses
  intro s d b x sz o
  simp only [← localVal_eq]
  refine ⟨?access, ?atomic⟩
  case access =>
    rw [indexed_eq_eaIndexed]
    intro serves
    exact ⟨ldLoc_serves serves, _, stLoc_serves serves, fun j hj => localByte_setLocal_at hj, fun k a h => localByte_setLocal_other h, rfl, setLocal_me _ _ _ _⟩
  case atomic =>
    rw [direct_eq_eaOf]
    intro _ serves
    refine ⟨fun i v fields result => ?amo, fun same => ?swapped, fun differs => ?kept⟩
    case amo =>
      obtain ⟨f, run, value⟩ := exec_amoLoc fields (localVal_lt _ _ _) result
      exact run.trans (atomicLoc_writes serves value)
    case swapped => exact atomicLoc_writes (f := casWith (s.reg d) (s.reg x)) serves (if_pos same)
    case kept => exact atomicLoc_keeps (f := casWith (s.reg d) (s.reg x)) serves (if_neg differs)

end Sys2Proof.Claims
end

section
/-! SUPPORT. Accesses that no L2 can take: where the L2 of the core's die is full of dirty lines of compressed pages, an access whose line it does not hold waits at its instruction (11 R258, R262; log 47). The statements on unified accesses ask for a way by the links (`reaching`) and not for room in the L2 (`l2Full`), and a state with such an L2 refutes them. -/
namespace Sys2Proof.Machine
open Claims

/-! The wait. -/

section
variable {s : State} {k va n : Nat} {l : Loc} {user : Bool}

/-- A full L2 holds no line that it cannot take, and the access waits. -/
theorem locWay_full (write : Bool) (core : k ≠ dsCore) (full : l2Full s (dieOf k) l.lineNo = true) : locWay s k va l write = .wait s := by
  have miss : (s.mem.l2At (dieOf k) l.lineNo).st = .i := by
    simp only [l2Full, Bool.and_eq_true, decide_eq_true_eq] at full
    exact full.1.1.2
  have notHeld : locHeld s k l write = false := by simp [locHeld, miss]
  rw [locWay, notHeld, if_neg Bool.false_ne_true, if_pos ⟨core, full⟩]

/-- An address that is mapped to plain memory translates to it. -/
theorem reach_mapped {acc : Acc} {pa : Nat} (below : va < 2 ^ 55)
    (hit : ∃ x, xlatHit (s.core k) va acc = some x ∧ permits x.leaf.toNat acc user = true ∧ leafLoc x.leaf.toNat x.vpn va = .plain pa) :
    reach s k va acc user = .ok (.plain pa) s := by
  obtain ⟨x, cached, allowed, place⟩ := hit
  rw [reach, if_neg (Nat.not_le.2 below), translate, cached]
  dsimp only
  rw [if_pos allowed, place]

/-- With no store of a core unperformed, none is performed. -/
theorem performStores_idle (idle : s.mem.late = []) (p : Late → Bool) : performStores s p = s := by rw [performStores, idle]; rfl

variable (core : k ≠ dsCore) (full : l2Full s (dieOf k) l.lineNo = true) (idle : s.mem.late = [])
include core full idle

/-- A read at a location whose line cannot enter waits. -/
theorem locRead_full : locRead s k va l n = .wait s := by
  have newest : locNewest s k va l n = .wait s := by
    cases l <;> simp only [locNewest, locWay_full false core full, Mr.andThen]
  simp only [locRead, locFetch, performStores_idle idle, newest, Mr.andThen]

/-- A load whose line cannot enter waits. -/
theorem vread_full {acc : Acc} (place : reach s k va acc user = .ok l s) : vread s k va n acc user = .wait s := by
  rw [vread, place]
  exact locRead_full core full idle

/-- An atomic whose line cannot enter waits. -/
theorem vamo_full {f : Nat → Option Nat} (place : reach s k va .amo user = .ok l s) : vamo s k va n user f = .wait s := by
  simp only [vamo, place, Mr.andThen, locRead_full core full idle]

/-- A store whose line cannot enter waits. -/
theorem vstore_full {bs : List Byte} {rel : Bool} (place : reach s k va .write user = .ok l s) : vstore s k va bs user rel = .wait s := by
  have settled : settleCore s k = s := performStores_idle idle _
  have put : locPut s k va l bs = .wait s := by
    cases l <;> simp only [locPut, locWay_full true core full, Mr.andThen]
  simp only [vstore, place, Mr.andThen, locStore, settled, ite_self, performStores_idle idle, put]
end

/-- A load whose read waits stays at its instruction. -/
theorem load_waits {s t : State} {ea : Word} {sz : Sz} {d : Reg} (aligned : ea.toNat % szBytes sz = 0)
    (waits : vread s s.actor.core ea.toNat (szBytes sz) .read s.user = .wait t) : load s ea sz d = .next t.stay := by
  rw [load, if_neg fun off => off aligned, waits, Mr.seq]

/-- An atomic whose access waits stays at its instruction. -/
theorem atomic_waits {s t : State} {ea : Word} {sz : Sz} {d : Reg} {f : Sz → Nat → Option Nat} (aligned : ea.toNat % szBytes sz = 0)
    (waits : vamo s s.actor.core ea.toNat (szBytes sz) s.user (f sz) = .wait t) : atomic s ea sz d f = .next t.stay := by
  rw [atomic, if_neg fun off => off aligned, waits, Mr.seq]

/-! An instruction that waits neither retires nor traps. -/

theorem going_stay (s : State) : s.stay.me.going = some { act := s.actor.act, psz := s.actor.psz, bits := s.actor.bits } := by
  rw [State.stay, State.me_modMe]

theorem stay_ne_retired (s t : State) : s.stay ≠ retired t := fun same => by
  have going := going_stay s
  rw [same, retired, moved, State.me_modMe] at going
  cases going

theorem stay_ne_trapped (s : State) {t : State} {c : Nat} {v : Word} (latch : t.me.latch = none) (tin : t.me.tin = false) : s.stay ≠ trapped t c v := fun same => by
  have going := going_stay s
  have me : ((t.modMe fun c => { c with resume := none }).ctx t.actor.core t.actor.ctx) = { t.me with resume := none } := State.me_modMe _ _
  rw [same, trapped, enterTrap_clear _ (by rw [me]; exact latch) (by rw [me]; exact tin), State.me, State.modCtx_actor, State.modMe_actor, State.ctx_modCtx,
    if_pos ⟨rfl, rfl⟩] at going
  cases going

/-! A state with a full L2. -/

/-- The i-th line of the compressed pages whose descriptors lie from address 0 on, dirty in the L2 of die 0. -/
def dirtyLine (i : Nat) : CmpLine := { desc := i / 512 * 1024, line := i % 512, bytes := List.replicate 128 0, part := 0, die := 0 }

/-- Memory with some bytes uncorrectable, where n dirty lines of compressed pages are in the L2 of die 0. -/
def jammedMem (n : Nat) (bad : Tab Bool) : Memory :=
  { bad := bad, l2 := (List.range n).map fun i => (cmpLineBase + i, { st := .m }), cmp := (List.range n).map dirtyLine }

/-- The part as reset leaves it, with that memory, and with page 0 mapped to physical address 0 for every access in the cache of core 0. -/
def jammed (n : Nat) (bad : Tab Bool) : State :=
  { mem := jammedMem n bad, cores := [(0, { xlats := [{ vpn := 0, pages := 1, leaf := 0x37B }] })] }

theorem cmpLineNo_dirtyLine (i : Nat) : cmpLineNo (dirtyLine i).desc (dirtyLine i).line = cmpLineBase + i := by
  simp only [cmpLineNo, dirtyLine]
  omega

/-- A table lists nothing at a number that no entry has. -/
theorem Tab.find_eq_none {α : Type} {t : Tab α} {k : Nat} (h : ∀ e ∈ t, e.1 ≠ k) : Tab.find t k = none := by
  induction t with
  | nil => rfl
  | cons e t ih => rw [Tab.find, if_neg (Ne.symm (h e List.mem_cons_self)), ih fun x m => h x (List.mem_cons_of_mem _ m)]

section
variable {n : Nat} {bad : Tab Bool}

theorem mem_l2_jammedMem {x : Nat × L2Line} : x ∈ (jammedMem n bad).l2 ↔ ∃ i < n, (cmpLineBase + i, { st := .m }) = x := by
  simp [jammedMem]

theorem dirtyLine_mem_jammedMem {i : Nat} (below : i < n) : dirtyLine i ∈ (jammedMem n bad).cmp := by
  simpa [jammedMem] using ⟨i, below, rfl⟩

variable (all : n = l2Lines)
include all

/-- No line of that L2 may leave it for want of room. -/
theorem evictable_jammedMem : evictable (jammedMem n bad) 0 = [] := by
  rw [evictable, List.filter_eq_nil_iff]
  intro line listed
  obtain ⟨x, inL2, rfl⟩ := List.mem_map.1 listed
  obtain ⟨i, below, rfl⟩ := mem_l2_jammedMem.1 (List.mem_filter.1 inL2).1
  rw [all, l2Lines] at below
  have dirty : (jammedMem n bad).cmp.any (fun l => decide (cmpLineNo l.desc l.line = (cmpLineBase + i) % 2 ^ 45) && decide (l.die = 0)) = true := by
    refine List.any_eq_true.2 ⟨dirtyLine i, dirtyLine_mem_jammedMem (all ▸ below), ?_⟩
    rw [cmpLineNo_dirtyLine, cmpLineBase, Nat.mod_eq_of_lt (by omega)]
    simp [dirtyLine]
  exact fun leaves => Bool.false_ne_true ((congrArg Bool.not dirty).symm.trans leaves)

/-- No line of plain memory can enter that L2. -/
theorem l2Full_jammed {line : Nat} (plain : line < cmpLineBase) : l2Full (jammed n bad) 0 line = true := by
  have length : (jammedMem n bad).l2.length = n := by simp [jammedMem]
  have miss : ((jammedMem n bad).l2At 0 line).st = .i := by
    rw [Memory.l2At, Tab.look, Tab.find_eq_none]
    · rfl
    · intro e listed
      obtain ⟨i, -, rfl⟩ := mem_l2_jammedMem.1 listed
      simp only [l2Key]
      omega
  have die : (jammedMem n bad).l2.filter (fun x => decide (x.1 / 2 ^ 45 = 0)) = (jammedMem n bad).l2 := by
    refine List.filter_eq_self.2 fun x listed => ?_
    obtain ⟨i, below, rfl⟩ := mem_l2_jammedMem.1 listed
    rw [all, l2Lines] at below
    exact decide_eq_true (by simp only [cmpLineBase]; omega)
  simp only [l2Full, jammed, die, length, miss, Nat.le_of_eq all.symm, decide_true, Bool.and_self, evictable_jammedMem all, List.isEmpty_nil]

theorem full_jammed : l2Full (jammed n bad) (dieOf 0) (Loc.plain 0).lineNo = true := l2Full_jammed all (by decide)
end

section
variable (n : Nat) (bad : Tab Bool)

/-- Page 0 is mapped for every access. -/
theorem mapped_jammed (acc : Acc) : ∃ x, xlatHit ((jammed n bad).core 0) 0 acc = some x ∧ permits x.leaf.toNat acc false = true ∧ leafLoc x.leaf.toNat x.vpn 0 = .plain 0 := by
  refine ⟨{ vpn := 0, pages := 1, leaf := 0x37B }, ?_, ?_, by decide⟩
  all_goals cases acc <;> rfl

theorem reach_jammed (acc : Acc) : reach (jammed n bad) 0 0 acc false = .ok (.plain 0) (jammed n bad) := reach_mapped (by decide) (mapped_jammed n bad acc)

/-- Page 0 is mapped as the statements ask, where no byte is uncorrectable. -/
theorem mappedAt_jammed (m : Nat) (acc : Acc) : mappedAt (jammed n []) 0 0 m acc false 0 := by
  refine ⟨by decide, mapped_jammed n [] acc, by rfl, ?_⟩
  simp [physBad, jammed, jammedMem, Tab.look, Tab.find]
end

section
variable {n : Nat} {bad : Tab Bool} (all : n = l2Lines)
include all

theorem ld_jammed : execLd 1 0 0 .b .co .rlx 0 (jammed n bad) = .next (jammed n bad).stay := by
  have waits := vread_full (n := 1) (by decide) (full_jammed all) rfl (reach_jammed n bad .read)
  exact load_waits (ea := 0) (sz := .b) (d := 1) rfl waits

theorem amoSwap_jammed : execAmoSwap 1 0 0 .w .co .rlx 0 (jammed n bad) = .next (jammed n bad).stay := by
  have waits := vamo_full (n := 4) (f := amoSwap 0 .w) (by decide) (full_jammed all) rfl (reach_jammed n bad .amo)
  exact atomic_waits (ea := 0) (sz := .w) (d := 1) (f := amoSwap 0) rfl waits

theorem spillUnit_jammed : spillUnit (jammed n bad) 0 0 = .wait (jammed n bad) :=
  vstore_full (by decide) (full_jammed all) rfl (reach_jammed n bad .write)
end

end Sys2Proof.Machine

namespace Sys2Proof.Claims
open Sys2Proof Sys2Proof.Machine

/-- Refutes O16: where dirty lines of compressed pages fill the L2 of the core's die, LD of an address in the translation cache waits. -/
theorem not_unifiedLoadAndStore : ¬ Obligations.UnifiedLoadAndStore := by
  unfold Obligations.UnifiedLoadAndStore
  intro h
  obtain ⟨ld, -⟩ := h (jammed l2Lines []) 1 0 0 .b .co .rlx 0 0 rfl (by decide)
  obtain ⟨t, run, -⟩ := ld (mappedAt_jammed _ _ _)
  exact stay_ne_retired _ _ (Host.Outcome.next.inj ((ld_jammed rfl).symm.trans run))

/-- Refutes O17: where dirty lines of compressed pages fill the L2 of the core's die, LD of an uncorrectable byte waits. -/
theorem not_accessTraps : ¬ Obligations.AccessTraps := by
  unfold Obligations.AccessTraps
  intro h
  obtain ⟨-, -, -, uncorrectable, -⟩ := h.2 (jammed l2Lines [(0, true)]) (.ld 1 0 0 .b .co .rlx 0) 1 0 0 .b .co .rlx 0 0 .read (.inl ⟨rfl, rfl, rfl⟩)
  obtain ⟨t, run, cores, actor, -⟩ := uncorrectable 0 rfl (by decide) (by decide) (by decide) (mapped_jammed _ _ _) (by rfl) (by rfl)
  have me : t.me = (jammed l2Lines [(0, true)]).me := by rw [State.me, actor, State.ctx_congr cores]; rfl
  exact stay_ne_trapped _ (by rw [me]; rfl) (by rw [me]; rfl) (Host.Outcome.next.inj ((ld_jammed rfl).symm.trans run))

/-- Refutes O18: where dirty lines of compressed pages fill the L2 of the core's die, AMO.swap of an address in the translation cache waits. -/
theorem not_unifiedAtomics : ¬ Obligations.UnifiedAtomics := by
  unfold Obligations.UnifiedAtomics
  intro h
  obtain ⟨t, run, -⟩ := h (jammed l2Lines []) (.amoSwap 1 0 0 .w .co .rlx 0) 1 0 0 .w .co .rlx 0 0 _ rfl rfl (by decide) (mappedAt_jammed _ _ _) (.inl ⟨rfl, rfl⟩)
  exact stay_ne_retired _ _ (Host.Outcome.next.inj ((amoSwap_jammed rfl).symm.trans run))

/-- Refutes O19: where dirty lines of compressed pages fill the L2 of the core's die, a unit of SPILL waits. -/
theorem not_spillAndFill : ¬ Obligations.SpillAndFill := by
  unfold Obligations.SpillAndFill
  intro h
  obtain ⟨spill, -⟩ := h.1 (jammed l2Lines []) 0 0 0 (by decide)
  obtain ⟨t, served, -⟩ := spill (mappedAt_jammed _ _ _)
  exact nomatch (spillUnit_jammed rfl).symm.trans served

end Sys2Proof.Claims
end

section
/-! SUPPORT. Rounding on the grid of a format: a value that lies on the grid is its own lower neighbour, whatever the mode and the draw (06 R148, step 3). -/
namespace Sys2Proof.Machine

/-! Lengths and the cut. -/

theorem bitLen_le {m n : Nat} (h : m < 2 ^ n) : bitLen m ≤ n := by
  unfold bitLen
  split
  · exact Nat.zero_le n
  · next nz => exact (Nat.log2_lt nz).2 h

/-- The hidden bit is the top bit. -/
theorem bitLen_hidden {m n : Nat} (h : m < 2 ^ n) : bitLen (2 ^ n + m) = n + 1 := by
  have nz : 2 ^ n + m ≠ 0 := by have := Nat.two_pow_pos n; omega
  have top : (2 ^ n + m).log2 = n := (Nat.log2_eq_iff nz).2 ⟨Nat.le_add_right _ _, by rw [Nat.pow_succ]; omega⟩
  rw [bitLen, if_neg nz, top]

/-- A multiple of the unit of the cut leaves no rest. -/
theorem cutAt_self (m : Nat) (e : Int) : cutAt m e e = (m, 0, 0) := by simp [cutAt]

/-! The parts of an encoding. -/

theorem signOf_eq (f : Fmt) (neg : Bool) : signOf f neg = 2 ^ (f.bits - 1) * neg.toNat := by cases neg <;> simp [signOf]

/-- An encoding is its sign bit and the bits below it (06 R142). -/
theorem sign_add_magnitude {f : Fmt} {x : Nat} (wide : 0 < f.bits) (h : x < 2 ^ f.bits) :
    signOf f (x.testBit (f.bits - 1)) + x % 2 ^ (f.bits - 1) = x := by
  rw [signOf_eq, Nat.toNat_testBit, Nat.add_comm, ← Nat.mod_pow_succ, Nat.sub_add_cancel wide, Nat.mod_eq_of_lt h]

/-- What the limits of the formats have in common: without the sign, the encodings of no finite value are those above the largest finite one (06 R142). -/
structure Fmt.Sound (f : Fmt) : Prop where
  fields : f.man < f.bits
  infinity : f.top = true → f.inf = some ((2 ^ (f.bits - 1 - f.man) - 1) * 2 ^ f.man)
  largest : f.max + 1 =
    if f.top then (2 ^ (f.bits - 1 - f.man) - 1) * 2 ^ f.man else if f.bits = 8 then f.nan else 2 ^ (f.bits - 1)
  nanLast : f.top = false → f.bits = 8 → f.nan + 1 = 2 ^ (f.bits - 1)

/-- The limits of each format of R142 are sound. -/
theorem sound_of_format {f : Fmt} (h : f ∈ [fp64, fp32, fp16, bf16, e5m2, e4m3, e2m1]) : f.Sound := by
  simp only [List.mem_cons, List.not_mem_nil, or_false] at h
  rcases h with rfl | rfl | rfl | rfl | rfl | rfl | rfl <;> exact ⟨by decide, by decide, by decide, by decide⟩

/-- What an encoding of sign neg and magnitude y can stand for (06 R143). Finite values come with their bound, the largest finite magnitude. -/
inductive Stands (f : Fmt) (neg : Bool) (y : Nat) : Num → Prop
  | nan : Stands f neg y .nan
  | inf : f.top = true → y = (2 ^ (f.bits - 1 - f.man) - 1) * 2 ^ f.man → Stands f neg y (.inf neg)
  | zero : y = 0 → Stands f neg y (.zero neg)
  | subnormal : y < 2 ^ f.man → y ≤ f.max → Stands f neg y (.fin neg y (1 - (f.bias : Int) - f.man))
  | normal (e m : Nat) : e ≠ 0 → m < 2 ^ f.man → y = e * 2 ^ f.man + m → y ≤ f.max →
      Stands f neg y (.fin neg (2 ^ f.man + m) ((e : Int) - f.bias - f.man))

/-- A magnitude that is neither infinity nor NaN is at most the largest finite one. -/
theorem magnitude_le_max {f : Fmt} (sound : f.Sound) {y : Nat} (h : y < 2 ^ (f.bits - 1))
    (below : f.top = true → y / 2 ^ f.man ≠ 2 ^ (f.bits - 1 - f.man) - 1)
    (notNan : f.top = false → f.bits = 8 → y ≠ f.nan) : y ≤ f.max := by
  obtain ⟨fields, -, largest, nanLast⟩ := sound
  cases top : f.top
  case true =>
    have fits : y / 2 ^ f.man < 2 ^ (f.bits - 1 - f.man) := by
      rw [Nat.div_lt_iff_lt_mul (Nat.two_pow_pos _), ← Nat.pow_add, Nat.sub_add_cancel (by omega)]
      exact h
    have finite : y / 2 ^ f.man < 2 ^ (f.bits - 1 - f.man) - 1 := Nat.lt_of_le_of_ne (Nat.le_sub_one_of_lt fits) (below top)
    rw [Nat.div_lt_iff_lt_mul (Nat.two_pow_pos _)] at finite
    rw [if_pos top] at largest
    omega
  case false =>
    rw [if_neg (by simp [top])] at largest
    split at largest
    · next eight =>
      have last := nanLast top eight
      have other := notNan top eight
      omega
    · omega

/-- An encoding decodes to what it stands for (06 R143). -/
theorem decodeFp_stands {f : Fmt} (sound : f.Sound) (x : Nat) :
    Stands f (x.testBit (f.bits - 1)) (x % 2 ^ (f.bits - 1)) (decodeFp f x) := by
  have fits := Nat.mod_lt x (Nat.two_pow_pos (f.bits - 1))
  unfold decodeFp
  generalize x.testBit (f.bits - 1) = neg, x % 2 ^ (f.bits - 1) = y at fits ⊢
  have parts : y = y / 2 ^ f.man * 2 ^ f.man + y % 2 ^ f.man := (Nat.div_add_mod' _ _).symm
  have mantissa : y % 2 ^ f.man < 2 ^ f.man := Nat.mod_lt _ (Nat.two_pow_pos _)
  dsimp only
  split
  · next top =>
    simp only [Bool.and_eq_true, decide_eq_true_eq] at top
    split
    · next whole => exact .inf top.1 (by rw [← top.2]; omega)
    · exact .nan
  next notTop =>
  split
  · exact .nan
  next notNan =>
  have bounded : y ≤ f.max := magnitude_le_max sound fits (fun t e => notTop (by simp [t, e])) (fun t b n => notNan (by simp [t, b, n]))
  split
  · next low =>
    have same : y % 2 ^ f.man = y := by rw [low] at parts; omega
    rw [same] at mantissa ⊢
    split
    · next zero => exact .zero zero
    · exact .subnormal mantissa bounded
  · next high => exact .normal _ _ high mantissa parts bounded

/-! Rounding. -/

/-- A value m × 2^e where 2^e is the gap between the encodings around it, and y is its place among them, rounds to y. -/
theorem roundFp_grid {f : Fmt} {rm : Rm} {u m y : Nat} {neg : Bool} {e : Int}
    (gap : (if e + bitLen m - 1 < 1 - (f.bias : Int) then 1 - (f.bias : Int) else e + bitLen m - 1) - f.man = e)
    (place : (e - (1 - (f.bias : Int) - f.man)) * ((2 ^ f.man : Nat) : Int) + m = y) (bounded : y ≤ f.max) :
    roundFp f rm u (.fin neg m e) = signOf f neg + y := by
  simp only [roundFp, gap, cutAt_self, place]
  simp [Nat.not_lt.2 bounded]

/-- A subnormal rounds to its mantissa. -/
theorem roundFp_subnormal {f : Fmt} {rm : Rm} {u m : Nat} {neg : Bool} (mantissa : m < 2 ^ f.man) (bounded : m ≤ f.max) :
    roundFp f rm u (.fin neg m (1 - (f.bias : Int) - f.man)) = signOf f neg + m := by
  have short := bitLen_le mantissa
  refine roundFp_grid ?_ (by simp) bounded
  split <;> omega

/-- A normal value rounds to its exponent and mantissa fields. -/
theorem roundFp_normal {f : Fmt} {rm : Rm} {u e m : Nat} {neg : Bool} (normal : e ≠ 0) (mantissa : m < 2 ^ f.man) (bounded : e * 2 ^ f.man + m ≤ f.max) :
    roundFp f rm u (.fin neg (2 ^ f.man + m) ((e : Int) - f.bias - f.man)) = signOf f neg + (e * 2 ^ f.man + m) := by
  refine roundFp_grid ?gap ?place bounded
  case gap =>
    rw [bitLen_hidden mantissa]
    split <;> omega
  case place =>
    have above : (e : Int) - f.bias - f.man - (1 - (f.bias : Int) - f.man) = e - 1 := by omega
    rw [above, Int.sub_mul, Int.one_mul, Int.natCast_add, Int.natCast_add, Int.natCast_mul]
    omega

/-- A value that an encoding stands for rounds to it (06 R148). -/
theorem roundFp_stands {f : Fmt} (sound : f.Sound) {rm : Rm} {u y : Nat} {neg : Bool} {v : Num} (h : Stands f neg y v) (num : v ≠ .nan) :
    roundFp f rm u v = signOf f neg + y := by
  cases h with
  | nan => exact absurd rfl num
  | inf top eq => rw [roundFp, sound.infinity top, eq, Option.getD_some]
  | zero eq => rw [eq]; rfl
  | subnormal mantissa bounded => exact roundFp_subnormal mantissa bounded
  | normal e m normal mantissa eq bounded =>
    rw [eq] at bounded ⊢
    exact roundFp_normal normal mantissa bounded

end Sys2Proof.Machine

namespace Sys2Proof.Claims
open Sys2Proof Sys2Proof.Machine

/-- Settles O38: it holds, since every value that an encoding stands for lies on the format's grid at the place of the encoding. -/
theorem roundingKeepsRepresentable : Obligations.RoundingKeepsRepresentable := by
  unfold Obligations.RoundingKeepsRepresentable
  intro f rm u x format fits
  have sound := sound_of_format format
  refine ⟨fun num => ?number, fun nan => ?nan⟩
  case number => exact (roundFp_stands sound (decodeFp_stands sound x) num).trans (sign_add_magnitude (Nat.zero_lt_of_lt sound.fields) fits)
  case nan => rw [nan, roundFp]

end Sys2Proof.Claims
end

section
/-! SUPPORT. The matrix instructions at issue: what each issue check refuses, what entering the matrix queue does, and the settling of the statement on them (08 R187 to R203). -/
namespace Sys2Proof.Machine

/-! What the issue checks refuse. -/

theorem bufAddr_mod (v : Word) {m : Nat} (h : m ∣ 2 ^ 19) : bufAddr v % m = v.toNat % m := by
  rw [bufAddr, bits_eq_div, Nat.pow_zero, Nat.div_one, Nat.mod_mod_of_dvd _ h]

theorem unaligned64_eq_some {u v : Word} : unaligned64 u = some v ↔ v = u ∧ u.toNat % 64 ≠ 0 := by
  rw [unaligned64, bufAddr_mod u (by decide), Option.ite_none_right_eq_some, Option.some.injEq, eq_comm (a := u), and_comm]

/-- What an FP32 decodes to, by its bits below the sign (06 R143). -/
theorem decodeFp_fp32 {x : Nat} (fits : x < 2 ^ 32) :
    (decodeFp fp32 x = .nan ∧ 0x7F800000 < x % 2 ^ 31) ∨
    (decodeFp fp32 x = .inf (decide (2 ^ 31 ≤ x)) ∧ x % 2 ^ 31 = 0x7F800000) ∨
    (decodeFp fp32 x = .zero (decide (2 ^ 31 ≤ x)) ∧ x % 2 ^ 31 = 0) ∨
    ∃ m e, decodeFp fp32 x = .fin (decide (2 ^ 31 ≤ x)) m e ∧ 0 < x % 2 ^ 31 ∧ x % 2 ^ 31 < 0x7F800000 := by
  have sign : x.testBit (fp32.bits - 1) = decide (2 ^ 31 ≤ x) := by
    rw [Nat.testBit_eq_decide_div_mod_eq]
    exact decide_eq_decide.2 (by rw [show fp32.bits - 1 = 31 from rfl]; omega)
  unfold decodeFp
  rw [sign]
  dsimp only
  split
  · next top =>
    have top : x % 2 ^ 31 / 2 ^ 23 = 255 := of_decide_eq_true top
    split
    · next whole =>
      change x % 2 ^ 31 % 2 ^ 23 = 0 at whole
      exact .inr (.inl ⟨rfl, by omega⟩)
    · next whole =>
      change ¬ x % 2 ^ 31 % 2 ^ 23 = 0 at whole
      exact .inl ⟨rfl, by omega⟩
  next top =>
  have top : ¬ x % 2 ^ 31 / 2 ^ 23 = 255 := fun h => top (decide_eq_true h)
  rw [if_neg (by simp [fp32])]
  split
  · next low =>
    change x % 2 ^ 31 / 2 ^ 23 = 0 at low
    split
    · next zero =>
      change x % 2 ^ 31 % 2 ^ 23 = 0 at zero
      exact .inr (.inr (.inl ⟨rfl, by omega⟩))
    · next zero =>
      change ¬ x % 2 ^ 31 % 2 ^ 23 = 0 at zero
      exact .inr (.inr (.inr ⟨_, _, rfl, by omega⟩))
  · next high =>
    change ¬ x % 2 ^ 31 / 2 ^ 23 = 0 at high
    exact .inr (.inr (.inr ⟨_, _, rfl, by omega⟩))

/-- The check on a bound refuses what lies above the magnitude of infinity, with either sign, and what lies below -0. -/
theorem badBound_iff (v : Word) : badBound v = true ↔ Claims.negativeOrNan v := by
  have field : bits v 0 32 = v.toNat % 2 ^ 32 := by rw [bits_eq_div, Nat.pow_zero, Nat.div_one]
  have fits : v.toNat % 2 ^ 32 < 2 ^ 32 := Nat.mod_lt _ (by decide)
  simp only [badBound, Claims.negativeOrNan, field]
  rcases decodeFp_fp32 fits with ⟨eq, h⟩ | ⟨eq, h⟩ | ⟨eq, h⟩ | ⟨m, e, eq, h⟩
  all_goals
    simp only [eq, decide_eq_true_eq, true_iff, Bool.false_eq_true, false_iff]
    omega

theorem boundBad_eq_some {u v : Word} : boundBad u = some v ↔ v = u ∧ Claims.negativeOrNan u := by
  rw [boundBad, Option.ite_none_right_eq_some, Option.some.injEq, badBound_iff, eq_comm (a := u), and_comm]

theorem gangBad_eq_some {u v : Word} :
    gangBad u = some v ↔ v = u ∧ (u.toNat / 2 ^ 4 % 4 + 1 ≤ u.toNat / 2 ^ 9 % 4 ∨ u.toNat / 2 ^ 6 % 8 + 1 ≤ u.toNat / 2 ^ 11 % 8) := by
  simp only [gangBad, gangAsk, bits_eq_div, Option.ite_none_right_eq_some, Option.some.injEq, eq_comm (a := u), and_comm, Nat.reducePow]

/-! Entering the queue. -/

/-- s with an operation of the acting context entered in the matrix queue. -/
def entered (s : State) (x : MxOp) : State :=
  (s.modMx s.actor.core fun m => { m with queue := m.queue ++ [x] }).modMe fun c => { c with mx := { c.mx with outstanding := c.mx.outstanding + 1 } }

theorem queue_entered (s : State) (x : MxOp) :
    ((Claims.retired (entered s x)).core s.actor.core).mx.queue = (s.core s.actor.core).mx.queue ++ [x] := by
  simp [Claims.retired, Claims.moved, entered, State.modMe, State.setMe, State.modMx]

theorem me_entered (s : State) (x : MxOp) :
    (Claims.retired (entered s x)).me =
      { s.me with mx := { s.me.mx with outstanding := s.me.mx.outstanding + 1 }, pc := s.nextPc, resume := none, going := none } := by
  have me (f : Matrix → Matrix) : (s.modMx s.actor.core f).me = s.me := State.ctx_modCore (by intro c; rfl) _ _
  rw [Claims.retired, Claims.moved, State.me_modMe, entered, State.me_modMe, me]
  rfl

section
variable {s : State} {i : Instr} {bad : Option Word} {a b : Word} {rm : Rm}

theorem enterMatrix_fault {c : Cause} {v : Word} (fault : s.me.mx.fault = some (c, v)) :
    enterMatrix s i bad a b rm = .next (Claims.trapped (s.modMe fun c => { c with mx := { c.mx with fault := none } }) c.code v) := by
  simp only [enterMatrix, fault, trap_eq]

theorem enterMatrix_refused {v : Word} (clear : s.me.mx.fault = none) : enterMatrix s i (some v) a b rm = .next (Claims.trapped s 0x51 v) := by
  simp only [enterMatrix, clear, trap_eq]

/-- An instruction that its check passes enters a queue with room, and retires. -/
theorem enterMatrix_enters (clear : s.me.mx.fault = none) (room : (s.core s.actor.core).mx.queue.length < 16) :
    ∃ x, enterMatrix s i none a b rm = .next (Claims.retired (entered s x)) ∧ x.act = i ∧ x.a = a ∧ x.b = b ∧ x.ctx = s.actor.ctx := by
  simp only [enterMatrix, clear, if_neg (Nat.not_le.2 room), retire_eq]
  exact ⟨_, rfl, rfl, rfl, rfl, rfl⟩

theorem mxWait_retires {n : BitVec 5} (clear : s.me.mx.fault = none) (few : s.me.mx.outstanding ≤ n.toNat) :
    execMxWait n s = .next (Claims.retired s) := by
  simp only [execMxWait, clear, if_pos few, retire_eq]

theorem mxWait_waits {n : BitVec 5} (clear : s.me.mx.fault = none) (many : n.toNat < s.me.mx.outstanding) :
    ∃ t, execMxWait n s = .next t ∧ t.me.run = .wait ∧ t.me.await = some (.matrix n.toNat) ∧ t.me.pc = s.me.pc := by
  refine ⟨s.modMe fun c => { c with run := .wait, await := some (.matrix n.toNat) }, ?_, ?_⟩
  · simp only [execMxWait, clear, if_neg (Nat.not_le.2 many), waitFor]
  · simp
end

end Sys2Proof.Machine

namespace Sys2Proof.Claims
open Sys2Proof Sys2Proof.Machine

/-- A matrix instruction issues with its operands and the check that refuses what R191 to R203 name. -/
theorem exec_matrix {s : State} {i : Instr} {a b : Word} (h : matrixOperands s i = some (a, b)) :
    ∃ bad rm, exec i s = enterMatrix s i bad a b rm ∧ ∀ v, bad = some v ↔ matrixRefuses s i v := by
  cases i with
  | mxLdb => cases h; exact ⟨_, _, rfl, fun v => unaligned64_eq_some⟩
  | mxScale _ _ _ ben =>
    cases h
    refine ⟨_, _, rfl, fun v => ?_⟩
    cases ben with
    | false => simp [matrixRefuses]
    | true => simpa [matrixRefuses] using unaligned64_eq_some
  | mxThr | mxSamp => cases h; exact ⟨_, _, rfl, fun v => boundBad_eq_some⟩
  | mm | mmz | mmr | mxDrain | mxEdge => cases h; exact ⟨_, _, rfl, fun v => Iff.rfl⟩
  | mxGang => cases h; exact ⟨_, _, rfl, fun v => gangBad_eq_some⟩
  | mxGangLeave => cases h; exact ⟨_, _, rfl, fun v => by simp [matrixRefuses]⟩
  | _ => cases h

/-- Settles O33: it holds, each instruction by its issue check and then by the rules for entering the queue. -/
theorem matrixInstructionsEnterTheQueue : Obligations.MatrixInstructionsEnterTheQueue := by
  unfold Obligations.MatrixInstructionsEnterTheQueue
  intro s i a b n
  refine ⟨fun operands => ?enters, mxWait_retires, mxWait_waits⟩
  obtain ⟨bad, rm, run, refuses⟩ := exec_matrix operands
  rw [run]
  refine ⟨fun clear passes room => ?passes, fun v clear refused => ?refused, fun c v fault => enterMatrix_fault fault⟩
  case passes =>
    obtain rfl : bad = none := Option.eq_none_iff_forall_ne_some.2 fun v h => passes v ((refuses v).1 h)
    obtain ⟨x, enters, act, operandA, operandB, ctx⟩ := enterMatrix_enters (i := i) (a := a) (b := b) (rm := rm) clear room
    have me := me_entered s x
    exact ⟨_, x, enters, queue_entered s x, act, operandA, operandB, ctx, congrArg Ctx.mx me, congrArg Ctx.pc me, (congrArg Ctx.x me :)⟩
  case refused =>
    obtain rfl := (refuses v).2 refused
    exact enterMatrix_refused clear

end Sys2Proof.Claims
end

section
/-! SUPPORT. The matrix array as it executes: what the operations on its queue, slices, banks and buffers leave alone, each event of the head operation, and the settling of the statement on them (08 R187 to R205). -/
namespace Sys2Proof.Machine

/-! What each operation on the array leaves alone. -/

theorem core_modMx (s : State) (k : Nat) (f : Matrix → Matrix) : (s.modMx k f).core k = { s.core k with mx := f (s.core k).mx } := by
  rw [State.modMx, State.core_modCore, if_pos rfl]

@[simp] theorem modMx_ctx (s : State) (k : Nat) (f : Matrix → Matrix) (j n : Nat) : (s.modMx k f).ctx j n = s.ctx j n :=
  State.ctx_modCore (by intro c; rfl) j n

theorem core_setOp (s : State) (k : Nat) (x : MxOp) :
    (setOp s k x).core k = { s.core k with mx := { (s.core k).mx with queue := x :: (s.core k).mx.queue.drop 1 } } := core_modMx _ _ _

@[simp] theorem setOp_mem (s : State) (k : Nat) (x : MxOp) : (setOp s k x).mem = s.mem := rfl
@[simp] theorem setOp_ab (s : State) (k : Nat) (x : MxOp) : ((setOp s k x).core k).ab = (s.core k).ab := by rw [core_setOp]
@[simp] theorem setOp_cb (s : State) (k : Nat) (x : MxOp) : ((setOp s k x).core k).cb = (s.core k).cb := by rw [core_setOp]
@[simp] theorem setOp_seed (s : State) (k : Nat) (x : MxOp) : ((setOp s k x).core k).seed = (s.core k).seed := by rw [core_setOp]
@[simp] theorem setOp_slice (s : State) (k : Nat) (x : MxOp) (i : Nat) : ((setOp s k x).core k).mx.slice i = (s.core k).mx.slice i := by
  rw [core_setOp]
  rfl

/-- The operation put at the head is at the head. -/
theorem mxNow_setOp (s : State) (k : Nat) (x : MxOp) : Claims.mxNow (setOp s k x) k x := by
  rw [Claims.mxNow, core_setOp]
  rfl

theorem setSlice_slice (s : State) (k i : Nat) (f : MxSlice → MxSlice) :
    ((setSlice s k i f).core k).mx.slice i = f ((s.core k).mx.slice i) := by
  rw [setSlice, core_modMx]
  exact (Tab.look_set _ _ _ _ _).trans (if_pos rfl)

/-- Reading for the array uses up free choices, and nothing else. -/
theorem seenOnce_frame (s : State) (k : Nat) : (seenOnce s k).mem = s.mem ∧ ∀ j, (seenOnce s k).core j = s.core j := by
  rw [seenOnce]
  split
  · exact ⟨rfl, fun _ => rfl⟩
  · exact ⟨rfl, fun _ => rfl⟩
@[simp] theorem seenOnce_mem (s : State) (k : Nat) : (seenOnce s k).mem = s.mem := (seenOnce_frame s k).1
@[simp] theorem seenOnce_core (s : State) (k j : Nat) : (seenOnce s k).core j = s.core j := (seenOnce_frame s k).2 j

@[simp] theorem setRow_mem (s : State) (k bank row : Nat) (vs : List Nat) : (setRow s k bank row vs).mem = s.mem := rfl
theorem core_setRow (s : State) (k bank row : Nat) (vs : List Nat) :
    (setRow s k bank row vs).core k = { s.core k with cb := putBytes (s.core k).cb (cellAt bank row 0) (vs.flatMap fun v => bytesLE v 4) } := by
  rw [setRow, State.core_modCore, if_pos rfl]

theorem setRow_cb (s : State) (k bank row : Nat) (vs : List Nat) :
    ((setRow s k bank row vs).core k).cb = putBytes (s.core k).cb (cellAt bank row 0) (vs.flatMap fun v => bytesLE v 4) := by rw [core_setRow]

@[simp] theorem bufPut_mem (s : State) (k sp off : Nat) (bs : List Byte) : (bufPut s k sp off bs).mem = s.mem := rfl

/-- The writes of AB leave the rest of a core. -/
theorem core_bufPut_ab (s : State) (k off : Nat) (bs : List Byte) :
    (bufPut s k 1 off bs).core k = { s.core k with ab := ((bufPut s k 1 off bs).core k).ab } := by
  rw [bufPut, State.core_modCore, if_pos rfl]
  rfl

/-- Where accesses are shut hangs on the shadow windows alone. -/
theorem bufShut_congr {c d : CoreSt} (h : d.shadows = c.shadows) (sp off n : Nat) : bufShut d sp off n = bufShut c sp off n := by
  have windows : d.windows = c.windows := by
    funext sp
    rw [CoreSt.windows, h, CoreSt.windows]
  unfold bufShut mapBuf
  rw [windows]

/-! MX.LDB (08 R190, R191). -/

/-- s as the first unit of an MX.LDB leaves its slice before it loads. -/
def ldbBegun (s : State) (k : Nat) (x : MxOp) (sl : Nat) : State :=
  if x.begun then s else setSlice s k sl fun y => { y with valid := false, aen := false, ben := false }

/-- s with the values of unit u in its slice, which the last unit makes valid. -/
def ldbLoaded (s : State) (k sl u : Nat) (bt : MTy) (vs : List Nat) : State :=
  let t := setSlice s k sl fun y => { y with vals := vs.zipIdx.foldl (fun t v => Tab.put 0 t ((32 * (u / 128) + v.2) * 128 + u % 128) v.1) y.vals }
  if u + 1 = 128 * (4 * MTy.p bt) then setSlice t k sl fun y => { y with bt := bt, valid := true } else t

@[simp] theorem ldbBegun_mem (s : State) (k : Nat) (x : MxOp) (sl : Nat) : (ldbBegun s k x sl).mem = s.mem := by
  rw [ldbBegun]
  split <;> rfl

@[simp] theorem ldbLoaded_mem (s : State) (k sl u : Nat) (bt : MTy) (vs : List Nat) : (ldbLoaded s k sl u bt vs).mem = s.mem := by
  rw [ldbLoaded]
  split <;> rfl

/-- Puts at other places leave a place. -/
theorem look_foldl_put_other {place : Nat → Nat} {j : Nat} (vs : List Nat) : ∀ {n : Nat} {t : Tab Nat}, (∀ m, n ≤ m → place m ≠ j) →
    Tab.look 0 ((vs.zipIdx n).foldl (fun t v => Tab.put 0 t (place v.2) v.1) t) j = Tab.look 0 t j := by
  induction vs with
  | nil => exact fun _ => rfl
  | cons u vs ih =>
    intro n t other
    rw [List.zipIdx_cons, List.foldl_cons, ih fun m h => other m (by omega), Tab.look_put, if_neg fun h => other n (Nat.le_refl n) h.symm]

/-- Values put at places that differ are read back. -/
theorem look_foldl_put {place : Nat → Nat} (inj : ∀ m n, place m = place n → m = n) {v : Nat} (vs : List Nat) :
    ∀ {i n : Nat} {t : Tab Nat}, vs[i]? = some v →
    Tab.look 0 ((vs.zipIdx n).foldl (fun t v => Tab.put 0 t (place v.2) v.1) t) (place (n + i)) = v := by
  induction vs with
  | nil => exact fun h => absurd h (by simp)
  | cons u vs ih =>
    intro i n t h
    rw [List.zipIdx_cons, List.foldl_cons]
    cases i with
    | zero =>
      obtain rfl : u = v := by simpa using h
      rw [Nat.add_zero, look_foldl_put_other vs fun m above same => by have := inj m n same; omega, Tab.look_put]
      exact if_pos rfl
    | succ i =>
      rw [show n + (i + 1) = n + 1 + i by omega]
      exact ih (by simpa using h)

theorem ldbLoaded_vals {s : State} {k sl u i v : Nat} {bt : MTy} {vs : List Nat} (h : vs[i]? = some v) :
    Tab.look 0 (((ldbLoaded s k sl u bt vs).core k).mx.slice sl).vals ((32 * (u / 128) + i) * 128 + u % 128) = v := by
  have filled := look_foldl_put (place := fun m => (32 * (u / 128) + m) * 128 + u % 128) (by intro m n same; omega)
    (n := 0) (t := ((s.core k).mx.slice sl).vals) vs h
  rw [Nat.zero_add] at filled
  rw [ldbLoaded]
  split
  · rw [setSlice_slice, setSlice_slice]
    exact filled
  · rw [setSlice_slice]
    exact filled

theorem ldbLoaded_last {s : State} {k sl u : Nat} {bt : MTy} {vs : List Nat} (last : u + 1 = 128 * (4 * MTy.p bt)) :
    (((ldbLoaded s k sl u bt vs).core k).mx.slice sl).valid = true ∧ (((ldbLoaded s k sl u bt vs).core k).mx.slice sl).bt = bt := by
  rw [ldbLoaded, if_pos last, setSlice_slice]
  exact ⟨rfl, rfl⟩

theorem unitValues_zero {w : Nat} {bs : List Byte} {vs : List Nat} (h : unitValues w 0 bs = some vs) : vs = List.replicate 32 0 := (Option.some.inj h).symm

/-- The values of a DENSE unit lie in its bytes one after another. -/
theorem unitValues_dense {w : Nat} {bs : List Byte} {vs : List Nat} (h : unitValues w 1 bs = some vs) :
    vs = (List.range 32).map fun i => ofBytesLE bs / 2 ^ (w * i) % 2 ^ w := by
  rw [← Option.some.inj h]
  exact List.map_congr_left fun i _ => by rw [packed, Nat.shiftRight_eq_div_pow]

/-! Rows of a bank (08 R194, R199). -/

/-- Cell n of the bank row that a fired row is added to, once it is added. -/
def mmCell (s : State) (k : Nat) (x : MxOp) (o : MmOpts) (zero : Bool) (r : MxRow) (n : Nat) : Nat :=
  cellSum (MTy.float o.at_) (if zero then 0 else cellOf (s.core k) o.bank.val (cRow0 x.b + x.written) n)
    ((rowNums o.at_ ((s.core k).mx.slice o.s.val).aen x.degraded r).zipIdx.map fun a => mulNum a.1 (sliceNum ((s.core k).mx.slice o.s.val) x.degraded a.2 n))

/-- The next row of an MX.DRAIN converted with draws us, as its bytes in AB. -/
def drainBytes (s : State) (k : Nat) (x : MxOp) (bank : Nat) (dt : DrainTy) (us : List Nat) : List Byte :=
  bytesLE (pack (drainRow dt / 16) ((List.range 128).map fun n =>
    drainCell dt x.rm ((us[n]?).getD 0) (cellOf (s.core k) bank (cRow0 x.b + x.written) n))) (drainRow dt)

/-- s with the next row of an MX.DRAIN in AB, and the seed as its draws leave it. -/
def drainPut (s : State) (k : Nat) (x : MxOp) (bank : Nat) (dt : DrainTy) : State :=
  let d := if x.rm = .sr then srDraws 128 (s.core k).seed else ([], (s.core k).seed)
  bufPut (if x.rm = .sr then s.setSeed k 64 d.2 else s) k 1 (bufAddr x.a + drainRow dt * x.written) (drainBytes s k x bank dt d.1)

/-- s with the row that an MX.DRAIN has put in AB marked FULL, and its bank row cleared, where the operation says so. -/
def drainEnd (s : State) (k : Nat) (x : MxOp) (clr mark : Bool) (bank : Nat) (dt : DrainTy) : State :=
  let t := if mark then markFull s k (bufAddr x.a + drainRow dt * x.written) (drainRow dt) else s
  if clr then setRow t k bank (cRow0 x.b + x.written) (List.replicate 128 0) else t

/-- The seed, AB, CB and memory of s and t agree for core k. -/
def drainKeeps (k : Nat) (s t : State) : Prop :=
  t.mem = s.mem ∧ (t.core k).seed = (s.core k).seed ∧ (t.core k).ab = (s.core k).ab ∧ (t.core k).cb = (s.core k).cb

/-- Marking rows FULL keeps what a drain is about. -/
theorem markFull_keeps (s : State) (k off n : Nat) : drainKeeps k s (markFull s k off n) := by
  refine foldl_keeps (p := drainKeeps k s) _ (fun t i h => ?_) s ⟨rfl, rfl, rfl, rfl⟩
  rw [drainKeeps, core_modMx]
  exact h

/-- The put of a drain keeps CB and memory; in a mode that draws nothing it keeps the seed, and AB takes the row converted without draws. -/
theorem drainPut_frame {s : State} {k bank : Nat} {x : MxOp} {dt : DrainTy} :
    (drainPut s k x bank dt).mem = s.mem ∧ ((drainPut s k x bank dt).core k).cb = (s.core k).cb ∧
    (x.rm ≠ .sr → ((drainPut s k x bank dt).core k).seed = (s.core k).seed ∧ ((drainPut s k x bank dt).core k).ab =
      ((bufPut s k 1 (bufAddr x.a + drainRow dt * x.written) (drainBytes s k x bank dt [])).core k).ab) := by
  rw [drainPut]
  split
  · next random =>
    refine ⟨rfl, ?_, fun other => absurd random other⟩
    rw [core_bufPut_ab, State.setSeed, State.core_modCore, if_pos rfl]
  · next other =>
    refine ⟨rfl, ?_, fun _ => ⟨?_, rfl⟩⟩
    · rw [core_bufPut_ab]
    · rw [core_bufPut_ab]

/-- What follows the put of a drain keeps seed, AB and memory, and clears the bank row where CLR says so. -/
theorem drainEnd_frame (s : State) (k : Nat) (x : MxOp) (clr mark : Bool) (bank : Nat) (dt : DrainTy) :
    (drainEnd s k x clr mark bank dt).mem = s.mem ∧ ((drainEnd s k x clr mark bank dt).core k).seed = (s.core k).seed ∧
    ((drainEnd s k x clr mark bank dt).core k).ab = (s.core k).ab ∧
    ((drainEnd s k x clr mark bank dt).core k).cb = if clr then
      putBytes (s.core k).cb (cellAt bank (cRow0 x.b + x.written) 0) ((List.replicate 128 0).flatMap fun v => bytesLE v 4) else (s.core k).cb := by
  have marked : drainKeeps k s (if mark then markFull s k (bufAddr x.a + drainRow dt * x.written) (drainRow dt) else s) := by
    split
    · exact markFull_keeps _ _ _ _
    · exact ⟨rfl, rfl, rfl, rfl⟩
  rw [drainEnd]
  generalize (if mark then markFull s k (bufAddr x.a + drainRow dt * x.written) (drainRow dt) else s) = t at marked
  obtain ⟨mem, seed, ab, cb⟩ := marked
  cases clr with
  | false => exact ⟨mem, seed, ab, cb⟩
  | true =>
    simp only [if_true, core_setRow, setRow_mem, cb, and_true]
    exact ⟨mem, seed, ab⟩

/-! Masks (08 R203, R205). -/

/-- The mask of the group of an edge once the edge is taken. -/
def edgeGroup (x : MxOp) (g : Fin 4) (bs : List Byte) (sx sy : BitVec 8) : Nat :=
  let v (o : Nat) : Int := sextN (fld bs o 4) 32
  let m := edgeMask (v 0) (v 4) (v 8) sx.toNat sy.toNat
  if x.row % (g.val + 1) = 0 then m else x.mask &&& m

/-- A sum of powers of two below 2^n has the bits that p chooses. -/
theorem foldl_range_bits (p : Nat → Prop) [DecidablePred p] (n : Nat) :
    (List.range n).foldl (fun m i => if p i then m + 2 ^ i else m) 0 < 2 ^ n ∧
    ∀ i < n, ((List.range n).foldl (fun m i => if p i then m + 2 ^ i else m) 0).testBit i = decide (p i) := by
  induction n with
  | zero => exact ⟨Nat.one_pos, fun i h => absurd h (Nat.not_lt_zero i)⟩
  | succ n ih =>
    obtain ⟨below, bits⟩ := ih
    rw [List.range_succ, List.foldl_append, List.foldl_cons, List.foldl_nil]
    generalize (List.range n).foldl (fun m i => if p i then m + 2 ^ i else m) 0 = m at below bits ⊢
    rw [Nat.pow_succ]
    split
    · next chosen =>
      refine ⟨by omega, fun i h => ?_⟩
      rw [Nat.add_comm]
      rcases Nat.lt_succ_iff_lt_or_eq.1 h with lower | rfl
      · rw [Nat.testBit_two_pow_add_gt lower, bits i lower]
      · rw [Nat.testBit_two_pow_add_eq, Nat.testBit_lt_two_pow below, Bool.not_false, decide_eq_true chosen]
    · next passed =>
      refine ⟨by omega, fun i h => ?_⟩
      rcases Nat.lt_succ_iff_lt_or_eq.1 h with lower | rfl
      · exact bits i lower
      · rw [Nat.testBit_lt_two_pow below, decide_eq_false passed]

/-- The mask of an edge has the bits of the samples that it covers. -/
theorem edgeMask_testBit (a b c : Int) (sx sy : Nat) {i : Nat} (h : i < 256) :
    (edgeMask a b c sx sy).testBit i = decide (0 ≤ a * (256 * (i % 16) + sx : Nat) + b * (256 * (i / 16) + sy : Nat) + c) :=
  (foldl_range_bits (fun i => 0 ≤ a * (256 * (i % 16) + sx : Nat) + b * (256 * (i / 16) + sy : Nat) + c) 256).2 i h

/-- A group keeps the samples that its first edge covers, then those that each further edge covers too. -/
theorem edgeGroup_testBit (x : MxOp) (g : Fin 4) (bs : List Byte) (sx sy : BitVec 8) {i : Nat} (h : i < 256) :
    (edgeGroup x g bs sx sy).testBit i =
      (decide (0 ≤ sextN (fld bs 0 4) 32 * (256 * (i % 16) + sx.toNat : Nat) + sextN (fld bs 4 4) 32 * (256 * (i / 16) + sy.toNat : Nat) + sextN (fld bs 8 4) 32) &&
        (decide (x.row % (g.val + 1) = 0) || x.mask.testBit i)) := by
  simp only [edgeGroup]
  split
  · next first => rw [edgeMask_testBit _ _ _ _ _ h, decide_eq_true first, Bool.true_or, Bool.and_true]
  · next further => rw [Nat.testBit_and, edgeMask_testBit _ _ _ _ _ h, decide_eq_false further, Bool.false_or, Bool.and_comm]

/-- Masks whose places are open are all written. -/
theorem writeMasks_writes {k g : Nat} {x : MxOp} (l : List Nat) : ∀ {s : State} {m : Nat},
    (∀ j < l.length, bufShut (s.core k) 1 (bufAddr x.b + 32 * (m + j)) 32 = false) →
    writeMasks s k x g m l =
      .next (setOp ((l.zipIdx m).foldl (fun u v => bufPut u k 1 (bufAddr x.b + 32 * v.2) (bytesLE v.1 32)) s) k { x with written := m + l.length }) := by
  induction l with
  | nil => exact fun _ => rfl
  | cons v l ih =>
    intro s m open_
    have here : bufShut (s.core k) 1 (bufAddr x.b + 32 * m) 32 = false := open_ 0 (Nat.succ_pos _)
    rw [writeMasks, if_neg (by simp [here]), ih, List.zipIdx_cons, List.foldl_cons, List.length_cons, Nat.add_right_comm m 1, Nat.add_assoc m]
    intro j below
    rw [core_bufPut_ab, bufShut_congr (by rfl), Nat.add_assoc, Nat.add_comm 1]
    exact open_ (j + 1) (Nat.succ_lt_succ below)

/-! Gangs (08 R201). -/

/-- s with the head MX.GANG of core k joined to entry y of the gang table. -/
def gangJoined (s : State) (k : Nat) (x : MxOp) (y : Gang) : State :=
  (setOp (s.modDie (dieOf k) fun d => { d with gangs := Tab.set d.gangs (gangAsk x.a).1 y }) k { x with begun := true, joined := true }).modMx k
    fun m => { m with gang := some { gid := (gangAsk x.a).1, row := (gangAsk x.a).2.2.2.1, col := (gangAsk x.a).2.2.2.2 } }

/-- s with the MX.GANG of every member of y left to complete, where y is formed. -/
def gangFormedIf (y : Gang) (s : State) : State := if y.formed then y.members.foldl (fun s m => gangDone s m.1) s else s

/-- Core k is in a gang, and the operation at the head of its queue has joined. -/
def HasJoined (k : Nat) (s : State) : Prop := (∃ u, Claims.mxNow s k u ∧ u.joined = true) ∧ (s.core k).mx.gang.isSome = true

theorem gangDone_dies (s : State) (c : Nat) : (gangDone s c).dies = s.dies := by
  rw [gangDone]
  split
  · split <;> rfl
  · rfl

/-- An MX.GANG left to complete still has joined. -/
theorem gangDone_hasJoined {s : State} {k : Nat} (c : Nat) (h : HasJoined k s) : HasJoined k (gangDone s c) := by
  rw [gangDone]
  split
  · next u l head =>
    split
    · next joined =>
      by_cases same : k = c
      · subst same
        refine ⟨⟨_, mxNow_setOp _ _ _, joined⟩, ?_⟩
        rw [core_setOp]
        exact h.2
      · unfold HasJoined Claims.mxNow
        rwa [setOp, State.modMx, State.core_modCore, if_neg same]
    · exact h
  · exact h

theorem gangJoined_hasJoined (s : State) (k : Nat) (x : MxOp) (y : Gang) : HasJoined k (gangJoined s k x y) := by
  unfold HasJoined Claims.mxNow
  rw [gangJoined, core_modMx, core_setOp]
  exact ⟨⟨_, rfl, rfl⟩, rfl⟩

/-- The gang of core k, formed or not, stands in the table of its die, and core k in it. -/
theorem gangFormedIf_joined (s : State) (k : Nat) (x : MxOp) (y : Gang) :
    HasJoined k (gangFormedIf y (gangJoined s k x y)) ∧ Tab.find ((gangFormedIf y (gangJoined s k x y)).die (dieOf k)).gangs (gangAsk x.a).1 = some y := by
  have entry : Tab.find ((gangJoined s k x y).die (dieOf k)).gangs (gangAsk x.a).1 = some y := by
    have table : ((gangJoined s k x y).die (dieOf k)).gangs = Tab.set (s.die (dieOf k)).gangs (gangAsk x.a).1 y :=
      congrArg Die.gangs ((State.die_modDie s (dieOf k) (fun d => { d with gangs := Tab.set d.gangs (gangAsk x.a).1 y }) (dieOf k)).trans (if_pos rfl))
    rw [table, Tab.find_set, if_pos rfl]
  rw [gangFormedIf]
  split
  · refine ⟨foldl_keeps (p := HasJoined k) _ (fun t m h => gangDone_hasJoined m.1 h) _ (gangJoined_hasJoined s k x y), ?_⟩
    have dies := foldl_keeps (p := fun t : State => t.dies = (gangJoined s k x y).dies) y.members (fun t m h => (gangDone_dies t m.1).trans h) _ rfl
    rw [State.die, dies]
    exact entry
  · exact ⟨gangJoined_hasJoined s k x y, entry⟩

/-! Completing (08 R187). -/

/-- An operation that completes leaves the queue and the count of its context, and what its completion sets there stands. -/
theorem finishOp_leaves (s : State) (k : Nat) (x : MxOp) :
    ((finishOp s k x).core k).mx.queue = (s.core k).mx.queue.drop 1 ∧
    ((finishOp s k x).ctx k x.ctx).mx = { (s.ctx k x.ctx).mx with outstanding := (s.ctx k x.ctx).mx.outstanding - 1 } ∧ (finishOp s k x).mem = s.mem := by
  refine ⟨?_, ?_, rfl⟩
  · rw [finishOp, State.modMxCtx, State.core_modCtx, if_pos rfl, CoreSt.setCtx_mx, core_modMx]
  · rw [finishOp, State.modMxCtx, State.ctx_modCtx, if_pos ⟨rfl, rfl⟩, modMx_ctx]

/-- The head operation of core k completes from s, or from s with the registers of its context as it sets them. -/
def Finishes (s : State) (k : Nat) (x : MxOp) : Prop :=
  ∃ t, execMatrixOpComplete k s = .next (finishOp t k x) ∧ t.mem = s.mem ∧ (t.core k).mx = (s.core k).mx ∧
    (t.ctx k x.ctx).mx.outstanding = (s.ctx k x.ctx).mx.outstanding ∧ ∀ a, x.act = .mxThr a → (t.ctx k x.ctx).mx.thr = thrOf x.a

section
variable {s : State} {k : Nat} {x : MxOp}

theorem finishes_plain (run : execMatrixOpComplete k s = .next (finishOp s k x)) (plain : ∀ a, x.act ≠ .mxThr a) : Finishes s k x :=
  ⟨s, run, rfl, rfl, rfl, fun a thr => absurd thr (plain a)⟩

theorem finishes_setting {f : MxCtx → MxCtx} (run : execMatrixOpComplete k s = .next (finishOp (s.modMxCtx k x.ctx f) k x))
    (counts : ∀ c, (f c).outstanding = c.outstanding) (thr : ∀ c a, x.act = .mxThr a → (f c).thr = thrOf x.a) : Finishes s k x := by
  have ctx : ((s.modMxCtx k x.ctx f).ctx k x.ctx).mx = f (s.ctx k x.ctx).mx := by rw [State.modMxCtx, State.ctx_modCtx, if_pos ⟨rfl, rfl⟩]
  refine ⟨_, run, rfl, ?_, ?_, fun a h => ?_⟩
  · rw [State.modMxCtx, State.core_modCtx, if_pos rfl, CoreSt.setCtx_mx]
  · rw [ctx, counts]
  · rw [ctx, thr _ a h]

/-- An operation that finishes leaves the queue and the count of its context. -/
theorem finishes_leaves (h : Finishes s k x) :
    ∃ t, execMatrixOpComplete k s = .next t ∧ (t.core k).mx.queue = (s.core k).mx.queue.drop 1 ∧
      (t.ctx k x.ctx).mx.outstanding = (s.ctx k x.ctx).mx.outstanding - 1 ∧ (∀ a, x.act = .mxThr a → (t.ctx k x.ctx).mx.thr = thrOf x.a) ∧ t.mem = s.mem := by
  obtain ⟨t, run, mem, mx, counts, thr⟩ := h
  obtain ⟨queue, ctx, kept⟩ := finishOp_leaves t k x
  refine ⟨_, run, ?_, ?_, fun a h => ?_, kept.trans mem⟩
  · rw [queue, mx]
  · rw [ctx, counts]
  · rw [ctx]
    exact thr a h
end

/-- All the work of an operation at the head of the queue is done, or it acts in completing and its context may begin it. -/
def workDone (s : State) (k : Nat) (x : MxOp) : Prop :=
  match x.act with
  | .mxLdb _ _ bt => x.row = 128 * (4 * MTy.p bt)
  | .mxScale .. => x.begun = true
  | .mm .. | .mmz .. | .mmr .. => x.written = cRows x.b ∧ x.fail = none
  | .mxDrain .. => x.written = cRows x.b
  | .mxEdge _ _ _ _ _ ne => x.row = ne.toNat + 1 ∧ x.written ≠ 0
  | .mxSamp .. | .mxThr _ => mxStopped s k x = false
  | .mxGang _ => x.joined = true ∧ x.written = 1
  | _ => False

section
variable {s : State} {k : Nat} {x : MxOp} {rest : List MxOp} (head : (s.core k).mx.queue = x :: rest)
include head

theorem mxLdb_loads {a : Reg} {sl : Fin 2} {bt : MTy} {mb bs : List Byte} {vs : List Nat} {mode : Nat} (act : x.act = .mxLdb a sl bt)
    (goes : mxStopped s k x = false) (left : x.row < 128 * (4 * MTy.p bt))
    (modes : mxRead (ldbBegun s k x sl.val) k 2 (bufAddr x.a + x.row / 4) 1 = .ok mb) (field : nbits (ofBytesLE mb) (2 * (x.row % 4)) 2 = mode)
    (valid : mode ≠ 3) (payload : mxRead (ldbBegun s k x sl.val) k 2 (bufAddr x.a + 128 * MTy.p bt + x.written) (unitBytes (MTy.bits bt) mode) = .ok bs)
    (values : unitValues (MTy.bits bt) mode bs = some vs) :
    execMxLdbExecute k s = .next (setOp (seenOnce (ldbLoaded (ldbBegun s k x sl.val) k sl.val x.row bt vs) k) k
      { x with begun := true, row := x.row + 1, written := x.written + unitBytes (MTy.bits bt) mode }) := by
  have going : ¬ (128 * (4 * MTy.p bt) ≤ x.row ∨ mxStopped s k x = true) := by simp [goes, left]
  rw [ldbBegun] at modes payload
  simp only [execMxLdbExecute, head, act, if_neg going, modes, field, if_neg valid, payload, values]
  rfl

/-! MX.SCALE (08 R192). -/

theorem mxScale_sets {a : Reg} {sl : Fin 2} {aen : Bool} (act : x.act = .mxScale a sl aen false) (fresh : x.begun = false) (goes : mxStopped s k x = false)
    (valid : ((s.core k).mx.slice sl.val).valid = true) (scaled : aen = true → MTy.scaled ((s.core k).mx.slice sl.val).bt = true) :
    execMxScaleExecute k s = .next (setOp (setSlice s k sl.val fun y => { y with aen := aen, ben := false }) k { x with begun := true }) := by
  have fits : ¬ ((aen = true ∨ False) ∧ (!MTy.scaled ((s.core k).mx.slice sl.val).bt) = true) := by simpa using scaled
  simp only [execMxScaleExecute, head, act, fresh, goes, valid, Bool.false_eq_true, or_self, if_false, Bool.not_true, Bool.not_false, if_true, if_neg fits]

theorem mxScale_loads {a : Reg} {sl : Fin 2} {aen : Bool} {bs : List Byte} (act : x.act = .mxScale a sl aen true) (fresh : x.begun = false)
    (goes : mxStopped s k x = false) (valid : ((s.core k).mx.slice sl.val).valid = true) (scaled : MTy.scaled ((s.core k).mx.slice sl.val).bt = true)
    (reads : mxRead (setSlice s k sl.val fun y => { y with aen := aen, ben := true }) k 2 (bufAddr x.a) (128 * (4 * MTy.p ((s.core k).mx.slice sl.val).bt)) = .ok bs) :
    execMxScaleExecute k s = .next (setOp (setSlice (seenOnce (setSlice s k sl.val fun y => { y with aen := aen, ben := true }) k) k sl.val fun y =>
      { y with scales := (bs.map BitVec.toNat).zipIdx.map fun v => (v.2, v.1) }) k { x with begun := true }) := by
  simp only [execMxScaleExecute, head, act, fresh, goes, valid, scaled, reads, Bool.false_eq_true, or_self, and_false, if_false, Bool.not_true]

/-! MM, MMZ and MMR (08 R194 to R196). -/

theorem mm_fires {o : MmOpts} {z m : Bool} {r : MxRow} (act : mmOf x.act = some (o, z, m)) (holds : x.fail = none) (left : x.row < cRows x.b)
    (goes : mxStopped s k x = false) (begun : x.begun = true) (alone : o.gang = false) (free : o.pres = false)
    (reads : readRow (setOp s k x) k x o x.row = .ok r) :
    execMmRowFire k s = .next (setOp (seenOnce (setOp s k x) k) k { x with row := x.row + 1, fired := x.fired ++ [r] }) := by
  have going : ¬ (cRows x.b ≤ x.row ∨ mxStopped s k x = true) := by simp [goes, left]
  simp only [execMmRowFire, head, act, holds, Option.isSome_none, Bool.false_eq_true, if_false, if_neg going, begun, if_true]
  simp [fireRow, rowOpen, takeFull, alone, free, reads, holds, begun]

theorem mm_writes {o : MmOpts} {z m : Bool} {r : MxRow} {later : List MxRow} (act : mmOf x.act = some (o, z, m)) (fired : x.fired = r :: later)
    (exact_ : o.apx = false) (agree : m = true → (s.core k).mx.err = false)
    (readable : z = true ∨ rowBad (s.core k) o.bank.val (cRow0 x.b + x.written) = false) :
    execAccumulatorRowWrite k s = .next (setOp ((setRow s k o.bank.val (cRow0 x.b + x.written) ((List.range 128).map (mmCell s k x o z r))).modMxCtx k x.ctx
      fun _ => ((s.core k).ctx x.ctx).mx) k { x with fired := later, written := x.written + 1 }) := by
  have agrees : ¬ (m = true ∧ (s.core k).mx.err = true) := fun ⟨twice, err⟩ => by simp [agree twice] at err
  have reads : ¬ ((!z) = true ∧ rowBad (s.core k) o.bank.val (cRow0 x.b + x.written) = true) := by
    rintro ⟨kept, bad⟩
    rcases readable with zeroed | good
    · simp [zeroed] at kept
    · simp [good] at bad
  simp only [execAccumulatorRowWrite, head, act, fired, if_neg agrees, if_neg reads, exact_, Bool.false_and, Bool.false_eq_true, if_false, product]
  rfl

/-! MX.DRAIN (08 R199). -/

theorem mxDrain_drains {a b : Reg} {c mark : Bool} {bank : Fin 2} {dt : DrainTy} {rm : Rm} (act : x.act = .mxDrain a b rm c mark bank dt)
    (goes : mxStopped s k x = false) (draws : x.rm = .sr → s.mayDraw k 64 = true) (left : x.written < cRows x.b)
    (fits : drainFits dt ((s.core k).mx.floatBank bank.val) = true) (readable : rowBad (s.core k) bank.val (cRow0 x.b + x.written) = false)
    (open_ : bufShut (s.core k) 1 (bufAddr x.a + drainRow dt * x.written) (drainRow dt) = false) :
    execMxDrainExecute k s = .next (setOp (drainEnd (drainPut s k x bank.val dt) k x c mark bank.val dt) k { x with begun := true, written := x.written + 1 }) := by
  have going : ¬ (cRows x.b ≤ x.written ∨ mxStopped s k x = true ∨ x.rm = .sr ∧ (!s.mayDraw k 64) = true) := by
    rintro (done | stopped | ⟨random, late⟩)
    · omega
    · simp [goes] at stopped
    · simp [draws random] at late
  simp only [execMxDrainExecute, head, act, if_neg going, fits, readable, open_, Bool.not_true, Bool.false_eq_true, if_false]
  rfl

/-! MX.EDGE (08 R203). -/

theorem mxEdge_takes {a b : Reg} {sx sy : BitVec 8} {g : Fin 4} {ne : BitVec 7} {bs : List Byte} (act : x.act = .mxEdge a b sx sy g ne)
    (goes : mxStopped s k x = false) (unwritten : x.written = 0) (left : x.row < ne.toNat + 1) (reads : mxRead s k 1 (bufAddr x.a + 16 * x.row) 16 = .ok bs) :
    execMxEdgeExecute k s = .next (setOp (seenOnce s k) k { x with
      begun := true, row := x.row + 1, mask := edgeGroup x g bs sx sy
      masks := if (x.row + 1) % (g.val + 1) = 0 then x.masks ++ [edgeGroup x g bs sx sy] else x.masks }) := by
  have going : ¬ (mxStopped s k x = true ∨ x.written ≠ 0) := by simp [goes, unwritten]
  simp only [execMxEdgeExecute, head, act, if_neg going, if_neg (Nat.not_le.2 left), reads]
  rfl

theorem mxEdge_writes {a b : Reg} {sx sy : BitVec 8} {g : Fin 4} {ne : BitVec 7} (act : x.act = .mxEdge a b sx sy g ne)
    (goes : mxStopped s k x = false) (unwritten : x.written = 0) (last : x.row = ne.toNat + 1)
    (open_ : ∀ m < x.masks.length, bufShut (s.core k) 1 (bufAddr x.b + 32 * m) 32 = false) :
    execMxEdgeExecute k s = .next (setOp (x.masks.zipIdx.foldl (fun u v => bufPut u k 1 (bufAddr x.b + 32 * v.2) (bytesLE v.1 32)) s) k
      { x with written := x.masks.length }) := by
  have going : ¬ (mxStopped s k x = true ∨ x.written ≠ 0) := by simp [goes, unwritten]
  simp only [execMxEdgeExecute, head, act, if_neg going, if_pos (Nat.le_of_eq last.symm)]
  rw [writeMasks_writes x.masks (by simpa using open_), Nat.zero_add, act]

/-! Gangs (08 R201, R202). -/

theorem mxGang_joins {a : Reg} {y : Gang} (act : x.act = .mxGang a) (apart : x.joined = false) (goes : mxStopped s k x = false)
    (joins : gangJoin s k x.a = .ok y) : execGangFormed k s = .next (gangFormedIf y (gangJoined s k x y)) := by
  have going : ¬ (x.joined = true ∨ mxStopped s k x = true) := by simp [goes, apart]
  simp only [execGangFormed, head, act, if_neg going, joins, gangFormedIf, gangJoined]

theorem gangRow_arrives {g : GangMem} {r : MxRow} {later : List MxRow} (coming : (s.core k).mx.coming = r :: later) (gang : (s.core k).mx.gang = some g) :
    ∃ t y, execGangRowArrival k s = .next t ∧ Claims.mxNow t k y ∧ (t.core k).mx.coming = later ∧ y.fired = x.fired ++ (if g.col = 0 then [r] else []) ∧
      (t.core k).mx.rowq = (s.core k).mx.rowq ++ (if g.col = 0 then [] else [r]) := by
  simp only [execGangRowArrival, head, coming, gang]
  by_cases leader : g.col = 0
  · simp only [if_pos leader, List.append_nil]
    refine ⟨_, { x with fired := x.fired ++ [r] }, rfl, mxNow_setOp _ _ _, ?_, rfl, ?_⟩
    · rw [core_setOp, core_modMx]
    · rw [core_setOp, core_modMx]
  · simp only [if_neg leader, List.append_nil]
    refine ⟨_, x, rfl, ?_, ?_, rfl, ?_⟩
    · rw [Claims.mxNow, core_modMx, core_modMx, head]
      rfl
    · rw [core_modMx, core_modMx]
    · rw [core_modMx, core_modMx]

/-! Completing (08 R187, R196, R197). -/

/-- An operation whose work is done leaves the queue. -/
theorem matrixOp_finishes (done : workDone s k x) : Finishes s k x := by
  unfold workDone at done
  split at done
  case h_8 act =>
    exact finishes_setting (f := fun c => { c with sn := bits x.a 0 16, bound := x.b.setWidth 32, err := 0, scnt := 0 })
      (by simp [execMatrixOpComplete, head, act, done]) (fun c => rfl) (by simp [act])
  case h_9 act =>
    exact finishes_setting (f := fun c => { c with thr := thrOf x.a }) (by simp [execMatrixOpComplete, head, act, done]) (fun c => rfl) (fun c a _ => rfl)
  case h_11 => exact done.elim
  all_goals
    next act => exact finishes_plain (by simp [execMatrixOpComplete, head, act, done]) (by simp [act])

end

end Sys2Proof.Machine

namespace Sys2Proof.Claims
open Sys2Proof Sys2Proof.Machine

/-- Settles O59: it holds, each clause by the rule that says which state its event leaves, and what the operations on the array leave of that state. -/
theorem matrixEvents : Obligations.MatrixEvents := by
  unfold Obligations.MatrixEvents
  intro s k x ⟨rest, head⟩
  refine ⟨?ldb, ?scale, ?scaleLoad, ?fire, ?write, ?drain, ?edge, ?masks, ?gang, fun g r later coming gang => gangRow_arrives head coming gang,
    fun done => finishes_leaves (matrixOp_finishes head done)⟩
  case ldb =>
    intro a sl bt mb bs vs act goes left modes mode valid payload values
    refine ⟨_, _, mxLdb_loads head act goes left modes rfl valid payload values, mxNow_setOp _ _ _, rfl,
      fun last => ?_, fun i v at_ => ?_, fun zero => ?_, fun dense => ?_, by simp⟩
    · rw [setOp_slice, seenOnce_core]
      exact ldbLoaded_last last
    · rw [setOp_slice, seenOnce_core]
      exact ldbLoaded_vals at_
    · rw [zero] at values
      exact unitValues_zero values
    · rw [dense] at values
      exact unitValues_dense values
  case scale =>
    intro a sl aen act fresh goes valid scaled
    refine ⟨_, _, mxScale_sets head act fresh goes valid scaled, mxNow_setOp _ _ _, rfl, ?_⟩
    rw [setOp_slice, setSlice_slice]
    exact ⟨rfl, rfl, rfl⟩
  case scaleLoad =>
    intro a sl aen bs act fresh goes valid scaled reads
    refine ⟨_, _, mxScale_loads head act fresh goes valid scaled reads, mxNow_setOp _ _ _, rfl, ?_⟩
    rw [setOp_slice, setSlice_slice, seenOnce_core, setSlice_slice]
    exact ⟨rfl, rfl⟩
  case fire =>
    intro o z m r act holds left goes begun alone free reads
    exact ⟨_, _, mm_fires head act holds left goes begun alone free reads, mxNow_setOp _ _ _, rfl, rfl, by simp, by simp⟩
  case write =>
    intro o z m r later act fired exact_ agree readable
    refine ⟨_, _, mm_writes head act fired exact_ agree readable, mxNow_setOp _ _ _, rfl, rfl, ?_, rfl⟩
    rw [setOp_cb, State.modMxCtx, State.core_modCtx, if_pos rfl, CoreSt.setCtx_cb, setRow_cb]
    unfold mmCell
    rfl
  case drain =>
    intro a b c mark bank dt rm act goes draws left fits readable open_
    obtain ⟨putMem, putCb, putRow⟩ := drainPut_frame (s := s) (k := k) (bank := bank.val) (x := x) (dt := dt)
    obtain ⟨mem, seed, ab, cb⟩ := drainEnd_frame (drainPut s k x bank.val dt) k x c mark bank.val dt
    refine ⟨_, _, mxDrain_drains head act goes draws left fits readable open_, mxNow_setOp _ _ _, rfl,
      fun keep => ?_, fun other => ⟨?_, ?_⟩, fun clear => ?_, mem.trans putMem⟩
    · rw [setOp_cb, cb, keep, if_neg Bool.false_ne_true, putCb]
    · rw [setOp_seed, seed, (putRow other).1]
    · rw [setOp_ab, ab, (putRow other).2]
      rfl
    · rw [setOp_cb, cb, clear, if_pos rfl, putCb]
  case edge =>
    intro a b sx sy g ne bs act goes unwritten left reads
    exact ⟨_, _, mxEdge_takes head act goes unwritten left reads, mxNow_setOp _ _ _, rfl, by simp,
      fun i below => edgeGroup_testBit x g bs sx sy below, rfl, by simp⟩
  case masks =>
    intro a b sx sy g ne act goes unwritten last open_
    refine ⟨_, _, mxEdge_writes head act goes unwritten last open_, mxNow_setOp _ _ _, rfl, rfl, by simp, ?_⟩
    exact foldl_keeps (p := fun t : State => t.mem = s.mem) x.masks.zipIdx (fun t v h => (bufPut_mem _ _ _ _ _).trans h) s rfl
  case gang =>
    intro a act apart goes y joins
    obtain ⟨⟨⟨u, now, joined⟩, member⟩, entry⟩ := gangFormedIf_joined s k x y
    exact ⟨_, u, mxGang_joins head act apart goes joins, now, joined, member, entry⟩

end Sys2Proof.Claims
end

section
/-! SUPPORT. Ingress ports and the registration of descriptors: a queue, a stage or a die's registers after a write, each answer of a port, and the settling of the statement on them (09 R209 to R215; 05 R127, R129). -/
namespace Sys2Proof.Machine

/-! Queues and registers of a die after a write. -/

@[simp] theorem Die.queue_set (y : Die) (n : Nat) (x : Queue) : ({ y with queues := Tab.set y.queues n x } : Die).queue n = x := by simp [Die.queue]
@[simp] theorem queue_modQueue (s : State) (q : Nat) (f : Queue → Queue) : (s.modQueue q f).queue q = f (s.queue q) := by simp [State.queue, State.modQueue]
@[simp] theorem modRegs_queue (s : State) (d : Nat) (f : DieRegs → DieRegs) (q : Nat) : (s.modRegs d f).queue q = s.queue q := by
  rw [State.queue, State.modRegs, State.die_modDie]
  split
  · next same => rw [← same]; rfl
  · rfl

@[simp] theorem setRegst_queue (s : State) (d : Nat) (ok : Bool) (q : Nat) : (setRegst s d ok).queue q = s.queue q := modRegs_queue _ _ _ _
@[simp] theorem setRegst_done (s : State) (d : Nat) : ((setRegst s d true).die d).regs.regst = 1 := by simp [setRegst, State.modRegs]
@[simp] theorem setRegst_refused (s : State) (d : Nat) : ((setRegst s d false).die d).regs.regst = 2 := by simp [setRegst, State.modRegs]
@[simp] theorem setRegst_stages (s : State) (d : Nat) (ok : Bool) : ((setRegst s d ok).die d).stages = (s.die d).stages := by simp [setRegst, State.modRegs]
@[simp] theorem withStageDesc_image (x : Stage) (now : Nat) (b : List Byte) : (withStageDesc x now b).image = w64 (fld b 0 8) := rfl
@[simp] theorem withStageDesc_cores (x : Stage) (now : Nat) (b : List Byte) : (withStageDesc x now b).cores = x.cores := rfl

/-! What a port does with a write, where the host reaches a queue of a compute die. -/

section
variable {s : State} {d n : Nat} {v : Word} {tok : BitVec 128}

/-- The checks that every write to a port makes first pass for a queue of a compute die that the host reaches. -/
theorem port_reached (reach : hostReady s = true) (die : d < 4) (number : n < 4096) : ¬((!hostReady s) = true ∨ (!realQueue d n) = true) := by
  simp [reach, realQueue, die, number]

variable (reach : hostReady s = true) (die : d < 4) (number : n < 4096)
include reach die number

/-- A token enters an open port's queue against a credit (09 R210, R213). -/
theorem ingressToken_enters (opened : portOpen (s.queue (d * 4096 + n)) = true) (credit : 0 < (s.queue (d * 4096 + n)).credit) :
    execIngressToken d n tok true s = .next (s.modQueue (d * 4096 + n) fun x =>
      { x with toks := x.toks ++ [{ tok := tok, dl := arrive (s.die d) (s.queue (d * 4096 + n)).dlnext }], credit := x.credit - 1, reserved := x.reserved - 1 }) := by
  have takes : ¬((s.queue (d * 4096 + n)).credit = 0 ∨ (!true) = true ∨ (!portOpen (s.queue (d * 4096 + n))) = true) := by
    simp only [opened, Bool.not_true, Bool.false_eq_true, or_false]
    omega
  rw [execIngressToken, if_neg (port_reached reach die number), if_neg takes]

/-- A token without a credit, or for a port that is not open, is dropped (09 R215). -/
theorem ingressToken_drops (barred : portOpen (s.queue (d * 4096 + n)) = false ∨ (s.queue (d * 4096 + n)).credit = 0) :
    execIngressToken d n tok true s = .next (dropWrite s (d * 4096 + n)) := by
  have drops : (s.queue (d * 4096 + n)).credit = 0 ∨ (!true) = true ∨ (!portOpen (s.queue (d * 4096 + n))) = true := by
    rcases barred with shut | spent
    · exact .inr (.inr (by rw [shut]; rfl))
    · exact .inl spent
  rw [execIngressToken, if_neg (port_reached reach die number), if_pos drops]

/-- What an open port does with a request for credits: it gives them all, or none (05 R127; 09 R214). -/
theorem credreq_open (opened : portOpen (s.queue (d * 4096 + n)) = true) :
    execCredreq d n v s = if 1 ≤ v.toNat ∧ v.toNat ≤ 65536 ∧ v.toNat ≤ (s.queue (d * 4096 + n)).room then
      .next (s.modQueue (d * 4096 + n) fun x => { x with credit := x.credit + v.toNat, reserved := x.reserved + v.toNat }) else .next s := by
  rw [execCredreq, if_neg (port_reached reach die number), if_neg (by simp [opened])]

/-- Credits return to an open port's queue, as many as the port has (09 R214). -/
theorem creditRelease_returns (opened : portOpen (s.queue (d * 4096 + n)) = true) :
    execCreditRelease d n v s = .next (s.modQueue (d * 4096 + n) fun x =>
      { x with credit := x.credit - min v.toNat (s.queue (d * 4096 + n)).credit, reserved := x.reserved - min v.toNat (s.queue (d * 4096 + n)).credit }) := by
  rw [execCreditRelease, if_neg (port_reached reach die number), if_neg (by simp [opened])]

/-- An open port's DROPS is cleared (09 R214). -/
theorem dropsClear_clears (opened : portOpen (s.queue (d * 4096 + n)) = true) : execDropsClear d n s = .next (s.modQueue (d * 4096 + n) fun x => { x with drops := 0 }) := by
  rw [execDropsClear, if_neg (port_reached reach die number), if_neg (by simp [opened])]

/-- A port that is not open drops what it is asked of credits, and counts it (09 R215). -/
theorem credits_dropped (shut : portOpen (s.queue (d * 4096 + n)) = false) :
    execCredreq d n v s = .next (dropWrite s (d * 4096 + n)) ∧ execCreditRelease d n v s = .next (dropWrite s (d * 4096 + n)) := by
  rw [execCredreq, execCreditRelease, if_neg (port_reached reach die number), if_neg (port_reached reach die number), if_pos (by simp [shut]), if_pos (by simp [shut])]
  exact ⟨rfl, rfl⟩

/-- A queue descriptor in range is registered, and another is refused (09 R212; 24 R423). -/
theorem regcmdQueue_answers :
    execRegcmdQueue d n s = if queueDescOk (regBytes (s.die d).regs) then
      .next (setRegst (s.modQueue (d * 4096 + n) fun x => withQueueDesc x (regBytes (s.die d).regs)) d true) else .next (setRegst s d false) := by
  rw [execRegcmdQueue, if_neg (port_reached reach die number)]
end

/-- A stage descriptor in range is registered, and another is refused (05 R129; 24 R423). -/
theorem regcmdStage_answers {s : State} {d m : Nat} (reach : hostReady s = true) (die : d < 4) (number : m < 256) :
    execRegcmdStage d m s = if stageDescOk (regBytes (s.die d).regs) then
      .next (setRegst (s.modDie d fun y => { y with stages := Tab.mod {} y.stages m fun x => withStageDesc x (s.plain d 0).ac (regBytes (s.die d).regs) }) d true)
      else .next (setRegst s d false) := by
  have reached : ¬((!hostReady s) = true ∨ 4 ≤ d ∨ 4096 ≤ m) := by
    simp only [reach, Bool.not_true, Bool.false_eq_true, false_or]
    omega
  rw [execRegcmdStage, if_neg reached]
  simp only [number, and_true]

end Sys2Proof.Machine

namespace Sys2Proof.Claims
open Sys2Proof Sys2Proof.Machine

/-- Settles O48: it holds, each write by the rule of its port above, and each registration by what the registers of its die answer. -/
theorem ingressAndRegistration : Obligations.IngressAndRegistration := by
  unfold Obligations.IngressAndRegistration
  intro s d n m v tok reaches die number q x b dropped
  have reach := hostReady_of_reaches reaches
  refine ⟨fun opened => ⟨fun credit => ?token, fun least most fits => ?given, fun lacks least => ?refused, ?returned, ?cleared⟩,
    ingressToken_drops reach die number, credits_dropped reach die number, fun ok => ?queue, fun bad => ?noQueue, fun ok below => ?stage, fun bad below => ?noStage⟩
  case token =>
    refine ⟨_, { tok := tok, dl := arrive (s.die d) x.dlnext }, ingressToken_enters reach die number opened credit, ?_⟩
    rw [queue_modQueue]
    exact ⟨rfl, rfl, rfl, rfl, rfl⟩
  case given =>
    have room : v.toNat ≤ x.room := by rw [Queue.room, Queue.occ]; omega
    refine ⟨_, (credreq_open reach die number opened).trans (if_pos ⟨least, most, room⟩), ?_⟩
    rw [queue_modQueue]
    exact ⟨rfl, rfl⟩
  case refused =>
    have full : ¬(v.toNat ≤ x.room) := by rw [Queue.room, Queue.occ]; omega
    exact (credreq_open reach die number opened).trans (if_neg fun h => full h.2.2)
  case returned =>
    refine ⟨_, creditRelease_returns reach die number opened, ?_⟩
    rw [queue_modQueue]
    exact ⟨rfl, rfl⟩
  case cleared =>
    refine ⟨_, dropsClear_clears reach die number opened, ?_⟩
    rw [queue_modQueue]
    exact ⟨rfl, rfl⟩
  case queue =>
    refine ⟨_, (regcmdQueue_answers reach die number).trans (if_pos ok), setRegst_done _ _, ?_⟩
    rw [setRegst_queue, queue_modQueue, w_natCast, w_natCast]
    exact ⟨rfl, rfl, rfl, rfl, rfl⟩
  case noQueue =>
    exact ⟨_, (regcmdQueue_answers reach die number).trans (if_neg (by rw [bad]; exact Bool.false_ne_true)), setRegst_refused _ _, setRegst_queue _ _ _ _⟩
  case stage =>
    refine ⟨_, (regcmdStage_answers reach die below).trans (if_pos ok), setRegst_done _ _, ?_⟩
    rw [setRegst_stages, State.die_modDie, if_pos rfl, Tab.look_mod, if_pos rfl, w_natCast]
    exact ⟨withStageDesc_image _ _ _, withStageDesc_cores _ _ _⟩
  case noStage =>
    exact ⟨_, (regcmdStage_answers reach die below).trans (if_neg (by rw [bad]; exact Bool.false_ne_true)), setRegst_refused _ _, setRegst_stages _ _ _⟩

end Sys2Proof.Claims
end

section
/-! SUPPORT. What an access leaves of the I/O die: memory is reached, a walk asked for, or a write held back, and the display heads stand (11 R252 to R255; 23 R405, R406). -/
namespace Sys2Proof.Machine

/-! Lines and bytes of memory. -/

@[simp] theorem touchLine_iod (s : State) (d line : Nat) : (touchLine s d line).iod = s.iod := by simp [touchLine]

@[simp] theorem ownLine_iod (s : State) (d part line : Nat) : (ownLine s d part line).iod = s.iod := by
  unfold ownLine
  dsimp only
  split <;> simp

@[simp] theorem touchCmp_iod (s : State) (d part desc off : Nat) (write : Bool) : (touchCmp s d part desc off write).iod = s.iod := by
  unfold touchCmp
  dsimp only
  split <;> split <;> simp

@[simp] theorem physWrite_iod (s : State) (d part pa : Nat) (bs : List Byte) : (physWrite s d part pa bs).iod = s.iod := by
  unfold physWrite
  split
  · rfl
  · exact foldl_keeps (p := fun t : State => t.iod = s.iod) _ (fun t a h => by simpa [touchWrite] using h) _ rfl

@[simp] theorem iodRead_iod (s : State) (pa n : Nat) : (iodRead s pa n).2.iod = s.iod := by
  unfold iodRead
  split <;> rfl

/-- A write by the I/O die may wait with it, and its heads stand. -/
theorem iodWrite_heads (s : State) (pa : Nat) (bs : List Byte) : (iodWrite s pa bs).iod.heads = s.iod.heads := by
  unfold iodWrite
  split
  · rw [(iodPut_frame s pa bs).2.2]
  · rfl
  · rfl

theorem agentRead_iod (s : State) (k pa n : Nat) : (agentRead s k pa n).2.iod = s.iod := by
  unfold agentRead
  split
  · exact iodRead_iod s pa n
  · exact physRead_iod s _ pa n

theorem agentWrite_heads (s : State) (k pa : Nat) (bs : List Byte) : (agentWrite s k pa bs).iod.heads = s.iod.heads := by
  unfold agentWrite
  split
  · exact iodWrite_heads s pa bs
  · rw [physWrite_iod]

@[simp] theorem performStores_iod (s : State) (p : Late → Bool) : (performStores s p).iod = s.iod := by
  obtain ⟨l, h⟩ := performStores_eq s p
  rw [h, State.modMem_iod]

/-! Records and duty requests. -/

theorem ringPut_heads (s : State) (r : Ring) (bs : List Byte) : (ringPut s r bs).1.iod.heads = s.iod.heads := by
  unfold ringPut
  split
  · exact iodWrite_heads _ _ _
  · rfl

theorem partRing_heads (s : State) (p m : Nat) (bs : List Byte) : (partRing s p m bs).1.iod.heads = s.iod.heads := ringPut_heads s _ bs

@[simp] theorem postEvent_iod (s : State) (k lo hi : Nat) : (postEvent s k lo hi).iod = s.iod := rfl

theorem partEvent_heads (s : State) (p lo hi : Nat) : (partEvent s p lo hi).iod.heads = s.iod.heads := by
  unfold partEvent
  split
  · split
    · rfl
    · exact partRing_heads _ _ _ _
  · exact partRing_heads _ _ _ _

theorem sendDuty_heads (s : State) (p : Nat) (y : Duty) (w1 w2 : Nat) (tail : List Byte) : (sendDuty s p y w1 w2 tail).1.iod.heads = s.iod.heads := by
  unfold sendDuty
  dsimp only
  split
  · exact partRing_heads _ _ _ _
  · exact (partEvent_heads _ _ _ _).trans (partRing_heads _ _ _ _)

/-! Walks. -/

theorem startWalk_heads (s : State) (d p : Nat) (y : Duty) : (startWalk s d p y).iod.heads = s.iod.heads := by
  unfold startWalk
  split
  · rfl
  · split
    · exact sendDuty_heads _ _ _ _ _ _
    · rfl

theorem promoteWalks_heads (d n : Nat) : ∀ s : State, (promoteWalks d n s).iod.heads = s.iod.heads := by
  induction n with
  | zero => exact fun s => rfl
  | succ n ih =>
    intro s
    unfold promoteWalks
    split
    · rfl
    · split
      · rfl
      · exact (ih _).trans (startWalk_heads _ _ _ _)

theorem askHost_heads (s : State) (k va : Nat) (acc : Acc) (probe : Bool) : (askHost s k va acc probe).2.iod.heads = s.iod.heads := by
  unfold askHost
  dsimp only
  split
  · split
    · rfl
    · split <;> rfl
  · split
    · rfl                                  -- the walk waits for room
    split
    · rfl                                  -- no translation
    split
    · rfl                                  -- the page is walked
    split
    · rfl                                  -- no room
    split
    · rfl                                  -- walks are the hardware's
    split
    · exact sendDuty_heads _ _ _ _ _ _     -- the host's ring lost the request
    · exact sendDuty_heads _ _ _ _ _ _

theorem askWalk_heads (s : State) (k va : Nat) (acc : Acc) (probe : Bool) : (askWalk s k va acc probe).2.iod.heads = s.iod.heads := by
  unfold askWalk
  dsimp only
  split
  · exact promoteWalks_heads _ _ s
  · exact (askHost_heads _ _ _ _ _).trans (promoteWalks_heads _ _ s)

theorem findLeaf_iod (s : State) (d p va : Nat) (acc : Acc) (begun : Option HwWalk) : (findLeaf s d p va acc begun).2.iod = s.iod := by
  cases begun with
  | none => exact (findLeaf_spec s d p va acc).2.1
  | some w => exact (walkFrom_spec _ _ _ _ _ _ _).2.1

theorem dieWalk_iod (s : State) (k va : Nat) (acc : Acc) (probe : Bool) : (dieWalk s k va acc probe).2.iod = s.iod := by
  rcases h : findLeaf s (walkDie k) (s.partOf k) va acc (begunWalk s k va acc probe) with ⟨leaf, t⟩
  have found : t.iod = s.iod := by
    have := findLeaf_iod s (walkDie k) (s.partOf k) va acc (begunWalk s k va acc probe)
    rwa [h] at this
  unfold dieWalk
  dsimp only
  rw [h]
  cases leaf <;> exact found

/-! Where an access ends. -/

/-- The state in which an access ends, whatever it answers. -/
def Mr.state {α : Type} : Mr α → State
  | .ok _ s => s
  | .fault _ _ s => s
  | .wait s => s

/-- An access that goes on from one that kept the heads keeps them where what follows does. -/
theorem Mr.andThen_heads {α β : Type} {r : Mr α} {f : α → State → Mr β} {s : State} (kept : r.state.iod.heads = s.iod.heads)
    (each : ∀ v t, (f v t).state.iod.heads = t.iod.heads) : (r.andThen f).state.iod.heads = s.iod.heads := by
  cases r with
  | ok v t => exact (each v t).trans kept
  | fault c v t => exact kept
  | wait t => exact kept

/-- An access that keeps the heads ends with them in whatever form its answer is known. -/
theorem Mr.heads_of_eq {α : Type} {r r' : Mr α} {s : State} (kept : r.state.iod.heads = s.iod.heads) (e : r = r') : r'.state.iod.heads = s.iod.heads := e ▸ kept

theorem hostLeaf_state (s : State) (va e : Nat) (ok : Nat → Bool) : (hostLeaf s va e ok).state = s := by
  unfold hostLeaf
  split
  · rfl
  · split <;> rfl

theorem hwLeaf_heads (s : State) (k va : Nat) (acc : Acc) (ok : Nat → Bool) : (hwLeaf s k va acc ok).state.iod.heads = s.iod.heads := by
  rcases h : dieWalk s k va acc false with ⟨leaf, t⟩
  have walked : t.iod.heads = s.iod.heads := by
    have := dieWalk_iod s k va acc false
    rw [h] at this
    exact congrArg Iod.heads this
  unfold hwLeaf
  rw [h]
  cases leaf with
  | bad c => exact walked
  | wait n table => exact walked
  | found e lv a =>
    dsimp only
    split
    · dsimp only [Mr.state]
      split
      · exact walked
      · rw [physWrite_iod]; exact walked
    · exact walked

theorem hostWalk_heads (s : State) (k va : Nat) (acc : Acc) (ok : Nat → Bool) : (hostWalk s k va acc ok).state.iod.heads = s.iod.heads := by
  rcases h : askWalk s k va acc false with ⟨answer, t⟩
  have asked : t.iod.heads = s.iod.heads := by
    have := askWalk_heads s k va acc false
    rwa [h] at this
  unfold hostWalk
  rw [h]
  cases answer with
  | hw => exact (hwLeaf_heads _ _ _ _ _).trans asked
  | wait => exact asked
  | leaf e => dsimp only; rw [hostLeaf_state]; exact asked
  | bad c => exact asked

theorem reach_heads (s : State) (k va : Nat) (acc : Acc) (user : Bool) : (reach s k va acc user).state.iod.heads = s.iod.heads := by
  unfold reach translate
  split
  · rfl
  · split
    · split <;> rfl
    · exact Mr.andThen_heads (hostWalk_heads _ _ _ _ _) fun v t => rfl

theorem locWay_state (s : State) (k va : Nat) (l : Loc) (write : Bool) : (locWay s k va l write).state = s := by
  unfold locWay crossTo
  split
  · rfl
  · split
    · rfl
    · split <;> rfl

theorem cmpCheck_iod (s : State) (k desc off va : Nat) : (cmpCheck s k desc off va).state.iod = s.iod := by
  unfold cmpCheck
  dsimp only
  repeat' split
  all_goals rfl

/-- A read at a location keeps the heads. -/
theorem locRead_heads (s : State) (k va : Nat) (l : Loc) (n : Nat) (own : Bool) : (locRead s k va l n own).state.iod.heads = s.iod.heads := by
  have newest (t : State) : (locNewest t k va l n).state.iod.heads = t.iod.heads := by
    cases l with
    | plain pa => exact Mr.andThen_heads (by rw [locWay_state]) fun v u => congrArg Iod.heads (agentRead_iod u k pa n)
    | comp desc off =>
      exact Mr.andThen_heads (by rw [locWay_state]) fun v u => Mr.andThen_heads (by rw [cmpCheck_iod]) fun w t => by rw [Mr.state, touchCmp_iod]
  unfold locRead locFetch
  refine Mr.andThen_heads (Mr.andThen_heads ((newest _).trans (by rw [performStores_iod])) fun v t => rfl) fun v t => ?_
  split <;> rfl

/-- A write at a location keeps the heads. -/
theorem locWrite_heads (s : State) (k va : Nat) (l : Loc) (bs : List Byte) : (locWrite s k va l bs).state.iod.heads = s.iod.heads := by
  have put (t : State) : (locPut t k va l bs).state.iod.heads = t.iod.heads := by
    cases l with
    | plain pa => exact Mr.andThen_heads (by rw [locWay_state]) fun v u => agentWrite_heads u k pa bs
    | comp desc off =>
      exact Mr.andThen_heads (by rw [locWay_state]) fun v u => Mr.andThen_heads (by rw [cmpCheck_iod]) fun w t => by
        rw [Mr.state, State.modMem_iod, touchCmp_iod]
  exact (put _).trans (by rw [performStores_iod])

/-- A load from unified memory keeps the heads. -/
theorem vread_heads (s : State) (k va n : Nat) (acc : Acc) (user own : Bool) : (vread s k va n acc user own).state.iod.heads = s.iod.heads :=
  Mr.andThen_heads (reach_heads s k va acc user) fun l t => locRead_heads t k va l n own

/-- A write to unified memory keeps the heads. -/
theorem vwrite_heads (s : State) (k va : Nat) (bs : List Byte) (user : Bool) : (vwrite s k va bs user).state.iod.heads = s.iod.heads :=
  Mr.andThen_heads (reach_heads s k va .write user) fun l t => locWrite_heads t k va l bs

end Sys2Proof.Machine
end

section
/-! SUPPORT. The display synthesis engine: what its accesses and the ends of its levels leave of a head, each operation of its queue as it runs, and the settling of the statement on them (09 R207, R208; 19 R355 to R367). -/
namespace Sys2Proof.Machine

/-! Heads and bands. -/

@[simp] theorem head_modHead (s : State) (h : Nat) (f : Head → Head) : (s.modHead h f).iod.head h = f (s.iod.head h) := by simp [Iod.head, State.modHead]

/-- A head is read from the heads alone. -/
theorem head_congr {s t : State} (same : t.iod.heads = s.iod.heads) (h : Nat) : t.iod.head h = s.iod.head h := by rw [Iod.head, same, Iod.head]

/-- What is set of a band is what is known of it. -/
theorem setBand_band (s : State) (h : Nat) (x : Band) : ((setBand s h x).iod.head h).band x.f x.b = some x := by
  have others : ((s.iod.head h).bands.filter fun z => !(decide (z.f = x.f) && decide (z.b = x.b))).find? (fun z => decide (z.f = x.f) && decide (z.b = x.b)) = none := by
    refine List.find?_eq_none.2 fun z listed => ?_
    simpa only [Bool.not_eq_true, Bool.not_eq_true'] using (List.mem_filter.1 listed).2
  have own : (decide (x.f = x.f) && decide (x.b = x.b)) = true := by rw [decide_eq_true rfl, decide_eq_true rfl, Bool.and_self]
  rw [setBand, head_modHead, Head.band, List.find?_append, others, Option.none_or]
  exact List.find?_cons_of_pos own

/-- A band of which a level other than 7 is known has committed. -/
theorem committed_of_band {h : Head} {f b : Nat} {x : Band} (known : h.band f b = some x) (level : x.level ≠ 7) : h.committed f b = true := by
  rw [Head.committed, known]
  exact decide_eq_true level

/-- A band commits by the fallback path (19 R356). -/
theorem commitFallback_committed (s : State) (h : Nat) (x : Band) {level : Nat} (real : level ≠ 7) :
    ((commitFallback s h x level).iod.head h).committed x.f x.b = true :=
  committed_of_band (setBand_band s h { x with running := none, level := level }) real

/-- A band commits on the network path (19 R356). -/
theorem commitNetwork_committed (s : State) (h f b : Nat) : ((commitNetwork s h f b).iod.head h).committed f b = true :=
  committed_of_band (setBand_band s h _) (show 0 ≠ 7 by decide)

/-! What the engine's accesses and the ends of its levels leave of LINE. -/

theorem softly_state {α : Type} (w : DsWho) (v : α) (r : Mr α) : (softly w v r).state = r.state := by
  cases r with
  | ok x s => rfl
  | wait s => rfl
  | fault c t s =>
    dsimp only [softly]
    split <;> rfl

theorem dsRead_heads (w : DsWho) (n : Nat) (s : State) (va : Nat) : (dsRead w n s va).state.iod.heads = s.iod.heads := by
  rw [dsRead, softly_state]
  split
  · rfl
  · exact Mr.andThen_heads (vread_heads _ _ _ _ _ _ _) fun v t => rfl

theorem dsWrite_heads (w : DsWho) (n : Nat) (s : State) (x : Nat × Nat) : (dsWrite w n s x).state.iod.heads = s.iod.heads := by
  rw [dsWrite, softly_state]
  split
  · rfl
  · exact vwrite_heads _ _ _ _ _

/-- Accesses over a list keep the heads where each of them does. -/
theorem mrMap_heads {α β : Type} {f : State → α → Mr (β × Bool)} (each : ∀ s a, (f s a).state.iod.heads = s.iod.heads) (l : List α) :
    ∀ s, (mrMap f l s).state.iod.heads = s.iod.heads := by
  induction l with
  | nil => exact fun s => rfl
  | cons a l ih => exact fun s => Mr.andThen_heads (each s a) fun v t => Mr.andThen_heads (ih t) fun w u => rfl

section
variable (s : State) (h : Nat)

theorem setBand_line (x : Band) : ((setBand s h x).iod.head h).line = (s.iod.head h).line := by rw [setBand, head_modHead]

/-- What keeps LINE at each step of a list keeps it over the list. -/
theorem foldl_line {α : Type} {f : State → α → State} (each : ∀ t a, ((f t a).iod.head h).line = (t.iod.head h).line) (l : List α) :
    ((l.foldl f s).iod.head h).line = (s.iod.head h).line :=
  foldl_keeps (p := fun t : State => (t.iod.head h).line = (s.iod.head h).line) l (fun t a same => (each t a).trans same) s rfl

theorem copyLine_line (f b j : Nat) : ((copyLine s h f b j).iod.head h).line = (s.iod.head h).line := by
  have reads (t : State) (l : List Nat) := mrMap_heads (dsRead_heads { soft := true } 8) l t
  have writes (t : State) (l : List (Nat × Nat)) := mrMap_heads (dsWrite_heads { soft := true } 8) l t
  unfold copyLine
  dsimp only
  split
  · rfl
  split
  case' h_1 => refine (setBand_line _ h _).trans ?_
  all_goals
    refine congrArg Head.line (head_congr ?_ h)
    split
    · split <;> next e => exact Mr.heads_of_eq (writes s _) e      -- no frame before: pixels of value 0
    · split
      · rfl                                                        -- the frame before has the same OUT
      · split
        · next e =>
          have kept := Mr.heads_of_eq (reads s _) e
          split <;> next e => exact (Mr.heads_of_eq (writes _ _) e).trans kept
        · next e => exact Mr.heads_of_eq (reads s _) e
        · next e =>
          have kept := Mr.heads_of_eq (reads s _) e
          split <;> next e => exact (Mr.heads_of_eq (writes _ _) e).trans kept

theorem levelThree_line (x : Band) : ((levelThree s h x).iod.head h).line = (s.iod.head h).line :=
  (foldl_line _ h (fun t j => copyLine_line t h x.f x.b j) _).trans (setBand_line s h _)

theorem abandonLate_line : ((abandonLate s h).iod.head h).line = (s.iod.head h).line := foldl_line s h (fun t _ => levelThree_line t h _) _

theorem startFallback_line (f b lv : Nat) (forced late : Bool) : ((startFallback s h f b lv forced late).iod.head h).line = (s.iod.head h).line := by
  unfold startFallback
  dsimp only
  split
  · rfl
  · split
    · rfl
    · split
      · exact (levelThree_line _ h _).trans (setBand_line _ h _)
      · exact setBand_line _ h _

theorem scanOut_line : ((scanOut s h).iod.head h).line = (s.iod.head h).line := by
  have reads (l : List Nat) := mrMap_heads (dsRead_heads { soft := true } 8) l s
  have sent {t : State} {g : Head → Head} (same : t.iod.heads = s.iod.heads) (keeps : ∀ y, (g y).line = y.line) : ((t.modHead h g).iod.head h).line = (s.iod.head h).line := by
    rw [head_modHead, keeps, head_congr same]
  unfold scanOut
  dsimp only
  split
  · split
    · exact sent rfl fun y => rfl
    · split
      · next e => exact sent (Mr.heads_of_eq (reads _) e) fun y => rfl
      · next e => exact sent (Mr.heads_of_eq (reads _) e) fun y => rfl
      · next e => exact sent (Mr.heads_of_eq (reads _) e) fun y => rfl
  · exact sent rfl fun y => rfl
end

theorem settleFrame_line (h : Head) (f : Nat) : (settleFrame h f).line = h.line := by
  unfold settleFrame
  split
  · rfl
  · split <;> rfl

theorem closeFrame_line (h : Head) : (closeFrame h).line = h.line :=
  foldl_keeps (p := fun y : Head => y.line = h.line) _ (fun y f same => (settleFrame_line y f).trans same) _ rfl

/-! Beacons and lines. -/

section
variable {s : State} {h : Nat} (below : h < 4) (on : headOn s h = true)
include below on

/-- A beacon of an enabled head sets LINE and LPER of a die's mirror (09 R207, R208). -/
theorem lineBeacon_mirrors {d : Nat} (die : d < 4) :
    execLineBeacon d h s = .next (s.modDie d fun x => { x with heads := Tab.mod {} x.heads h fun m => { m with line := (s.iod.head h).line, lper := lperOf (s.iod.head h) } }) :=
  if_pos ⟨die, below, on⟩

/-- A line start of an enabled head counts LINE, whatever its bands then do (19 R352, R353, R356). -/
theorem lineStart_counts : ∃ t, execLineStart h s = .next t ∧ (t.iod.head h).line = (s.iod.head h).line + 1 := by
  have runs : ¬((!headOn s h) = true ∨ 4 ≤ h) := by
    simp only [on, Bool.not_true, Bool.false_eq_true, false_or]
    omega
  refine ⟨_, if_neg runs, ?_⟩
  rw [scanOut_line]
  refine (foldl_line _ h (fun t (a : Nat × Nat × Nat) => copyLine_line t h a.1 a.2.1 a.2.2) _).trans ?_
  refine (foldl_line _ h (fun t (a : Nat × Nat) => startFallback_line t h a.1 a.2 1 false true) _).trans ?_
  rw [head_modHead]
  exact (abandonLate_line _ h).trans (by rw [head_modHead, closeFrame_line])
end

/-! Levels of the fallback path. -/

/-- A level whose accesses succeed ends: its band commits (19 R356, R359). -/
theorem fallbackLevelFinish_commits {s u : State} {h b lv : Nat} {z : Band} {x : Frame} {bad : Bool}
    (found : ((s.iod.head h).bands.find? fun x => decide (x.b = b) && x.running.any fun l => decide (l = 1 ∨ l = 2)) = some z) (running : z.running = some lv)
    (framed : (s.iod.head h).frame z.f = some x) (writes : writeLevel { soft := true } (s.iod.head h) x lv b (bandAt (s.iod.head h) x b) s = .ok bad u) :
    execFallbackLevelFinish h b s = .next (commitFallback u h { z with flags := z.flags + 32 * b2n bad } lv) := by
  simp only [execFallbackLevelFinish, found, framed, running, writes]

/-! Operations of the DSE queue: the head operation, of frame f and band n. -/

section
variable {s : State} {o : DsOp} {f n j : Nat} {a c : Reg} {i : Fin 4} {x : Frame}
  (head : dsHead s = some o) (frameNo : bits o.a 16 32 = f) (framed : (s.iod.head i.val).frame f = some x)
include head frameNo framed

/-- DS.ME writes the vectors of its next block row; the last makes its rows complete (19 R357, R364). -/
theorem dsMeRun_writes {r : List Nat × Bool} {r' : List Unit × Bool} {u u' : State} (act : o.act = .dsMe a c i) (rowNo : bits o.a 0 16 = j) (left : o.done < o.b.toNat)
    (inside : j + o.done < x.sh / 8)
    (vectors : mrMap (blockVector { user := o.user } x (srcBefore (s.iod.head i.val) x.f) (j + o.done)) (List.range x.blocks) s = .ok r u)
    (writes : mrMap (dsWrite { user := o.user } 4) (r.1.zipIdx.map fun (v, m) => (x.mv.toNat + 4 * ((j + o.done) * x.blocks + m), v)) u = .ok r' u') :
    execDsMeRun s = .next (if o.b.toNat ≤ o.done + 1 then dsPop (coverRows u' i.val x.f ((List.range o.b.toNat).map fun m => j + m)) else dsStep u') := by
  simp only [execDsMeRun, head, act, frameNo, framed, rowNo, if_neg (Nat.not_le.2 left), if_neg (Nat.not_le.2 inside), vectors, Mr.ds, writes]
  split <;> rfl

variable (bandNo : bits o.a 0 9 = n) (waits : (s.iod.head i.val).committed f n = false)
include bandNo waits

section
variable {up : Bool} (act : o.act = .dsWarp a c up i)
include act

/-- DS.WARP to an address that is no multiple of 64 fails (19 R365). -/
theorem dsWarpRun_misaligned (off : o.b.toNat % 64 ≠ 0) : execDsWarpRun s = .next (dsFail s .displayFormat o.b.toNat) := by
  simp only [execDsWarpRun, head, act, frameNo, framed, bandNo, waits, Bool.false_eq_true, if_false, if_pos off]

/-- DS.WARP that has its inputs writes its band and leaves the queue (19 R365). -/
theorem dsWarpRun_writes {bad : Bool} {u : State} (aligned : o.b.toNat % 64 = 0) (inputs : if up then x.taken = false else haveVec (s.iod.head i.val) x n = true)
    (writes : writeLevel { user := o.user } (s.iod.head i.val) x (if up then 2 else 1) n o.b.toNat s = .ok bad u) : execDsWarpRun s = .next (dsPop u) := by
  have served : ¬((up = true ∧ x.taken = true) ∨ ((!up) = true ∧ (!haveVec (s.iod.head i.val) x n) = true)) := by
    cases up with
    | true => simpa using inputs
    | false => simpa using inputs
  simp only [execDsWarpRun, head, act, frameNo, framed, bandNo, waits, Bool.false_eq_true, if_false, if_neg (not_not_intro aligned), if_neg served, writes, Mr.ds]
end

variable (act : o.act = .dsNet a c i)
include act

/-- DS.NET with a descriptor at an address that is no multiple of 64 fails (19 R366). -/
theorem dsNetRun_misaligned (off : o.b.toNat % 64 ≠ 0) : execDsNetRun s = .next (dsFail s .displayFormat o.b.toNat) := by
  simp only [execDsNetRun, head, act, frameNo, framed, bandNo, waits, Bool.false_eq_true, if_false, if_pos off]

section
variable {hs rs : List Nat × Bool} {u u1 : State} (aligned : o.b.toNat % 64 = 0) (header : dsBytes { user := o.user } o.b.toNat 16 s = .ok hs u)
  (least : 1 ≤ hs.1.headD 0) (most : hs.1.headD 0 ≤ 16) (zeros : ∀ z ∈ hs.1.drop 1, z = 0)
  (layer : dsBytes { user := o.user } (o.b.toNat + 16 + 32 * o.done) 32 u = .ok rs u1)
include aligned header least most zeros layer

/-- DS.NET whose next layer has a field outside R366 fails with the field's address (19 R361, R366). -/
theorem dsNetRun_malformed {m : Nat} (bad : badField (rs.1.map (BitVec.ofNat 8)) (decide (o.done + 1 = hs.1.headD 0)) = some m) :
    execDsNetRun s = .next (dsFail u1 .displayFormat (o.b.toNat + 16 + 32 * o.done + m)) := by
  have count : ¬(hs.1.headD 0 < 1 ∨ 16 < hs.1.headD 0) := by omega
  have reserved : ¬((hs.1.drop 1).any (· ≠ 0) = true) := by simpa using zeros
  simp only [execDsNetRun, head, act, frameNo, framed, bandNo, waits, Bool.false_eq_true, if_false, if_neg (not_not_intro aligned), header, Mr.ds, if_neg count, if_neg reserved, layer, bad]

/-- DS.NET runs its next layer; with the last it leaves the queue (19 R366). -/
theorem dsNetRun_runs {u2 : State} (fine : badField (rs.1.map (BitVec.ofNat 8)) (decide (o.done + 1 = hs.1.headD 0)) = none)
    (draws : (layerOf (rs.1.map (BitVec.ofNat 8))).sr = true → u1.mayDraw dsCore 64 = true)
    (runs : runLayer { user := o.user } (layerOf (rs.1.map (BitVec.ofNat 8))) (bandAt (s.iod.head i.val) x n)
      (16 * (s.iod.head i.val).hact * (layerOf (rs.1.map (BitVec.ofNat 8))).n - o.val) o.val u1 = .ok () u2) :
    execDsNetRun s = .next (if (layerOf (rs.1.map (BitVec.ofNat 8))).last then dsPop u2 else dsStep u2) := by
  have count : ¬(hs.1.headD 0 < 1 ∨ 16 < hs.1.headD 0) := by omega
  have reserved : ¬((hs.1.drop 1).any (· ≠ 0) = true) := by simpa using zeros
  have mayDraw : ¬((layerOf (rs.1.map (BitVec.ofNat 8))).sr = true ∧ (!u1.mayDraw dsCore 64) = true) := by simpa using draws
  simp only [execDsNetRun, head, act, frameNo, framed, bandNo, waits, Bool.false_eq_true, if_false, if_neg (not_not_intro aligned), header, Mr.ds, if_neg count, if_neg reserved, layer, fine,
    if_neg mayDraw, runs]
end
end

/-! DS.EMIT. -/

/-- The band of a DS.EMIT that waits commits once none of its operations is queued (19 R367). -/
theorem emitCommit_commits {s : State} {e : EmitWait} (emit : s.iod.emit = some e) (run : (s.ctx dsCore 0).run = .run) (pc : (s.ctx dsCore 0).pc = e.pc)
    (clear : s.iod.dsFault = none) (fresh : (s.iod.head e.head).band e.f e.b = none) (idle : ∀ o ∈ s.iod.dsq, o.ofBand e.head e.f e.b = false) :
    execEmitCommit s = .next (commitNetwork s e.head e.f e.b) := by
  have unqueued : (!(s.iod.dsq.any fun o => o.ofBand e.head e.f e.b)) = true := by simpa using idle
  simp only [execEmitCommit, emit]
  exact if_pos ⟨run, pc, by rw [clear]; rfl, by rw [fresh]; rfl, unqueued⟩

end Sys2Proof.Machine

namespace Sys2Proof.Claims
open Sys2Proof Sys2Proof.Machine

/-- Settles O56: it holds, each event by the rule of its kind above; LINE counts because no access of the engine reaches the heads. -/
theorem displayEvents : Obligations.DisplayEvents := by
  unfold Obligations.DisplayEvents
  intro s d h b
  refine ⟨fun die below on => ⟨_, lineBeacon_mirrors below on die, ?beacon⟩, fun below on => lineStart_counts below on,
    fun z lv x bad u found running framed writes => ?fallback, fun o rest queue => ?operations, fun e emit run pc clear fresh idle => ?emit⟩
  case beacon =>
    simp [Die.lines]
  case fallback =>
    obtain ⟨rfl, real⟩ : z.b = b ∧ lv ≠ 7 := by
      have kind := List.find?_some found
      rw [running] at kind
      simp only [Bool.and_eq_true, decide_eq_true_eq, Option.any_some] at kind
      omega
    exact ⟨_, fallbackLevelFinish_commits found running framed writes, commitFallback_committed _ _ { z with flags := z.flags + 32 * b2n bad } real, rfl⟩
  case operations =>
    have head : dsHead s = some o := by rw [dsHead, queue]; rfl
    have frameNo : bits o.a 16 32 = o.a.toNat / 2 ^ 16 % 2 ^ 32 := bits_eq_div _ _ _
    have low (k : Nat) : bits o.a 0 k = o.a.toNat % 2 ^ k := by rw [bits_eq_div, Nat.pow_zero, Nat.div_one]
    exact ⟨fun a c i x r u r' u' act framed left inside vectors writes => dsMeRun_writes head frameNo framed act (low 16) left inside vectors writes,
      fun a c up i x bad u act framed waits aligned inputs writes => dsWarpRun_writes head frameNo framed (low 9) waits act aligned inputs writes,
      fun a c up i x act framed waits off => dsWarpRun_misaligned head frameNo framed (low 9) waits act off,
      fun a c i x act framed waits off => dsNetRun_misaligned head frameNo framed (low 9) waits act off,
      fun a c i x hs u rs u1 u2 act framed waits aligned header least most zeros layer =>
        ⟨fun m bad => dsNetRun_malformed head frameNo framed (low 9) waits act aligned header least most zeros layer bad,
          fun fine draws runs => dsNetRun_runs head frameNo framed (low 9) waits act aligned header least most zeros layer fine draws runs⟩⟩
  case emit =>
    exact ⟨_, emitCommit_commits emit run pc clear fresh idle, commitNetwork_committed _ _ _ _, rfl, rfl⟩

end Sys2Proof.Claims
end

section
/-! SUPPORT. The policy bytecode: a halfword read back from its fields, an instruction as one step of the decision that acts, the loading and swapping of programs, and the settling of the statements on them (10 R229 to R236, R244 to R246). -/
namespace Sys2Proof
open Sys2Proof.Machine

/-! Halfwords (10 R234). -/

/-- A form whose reserved bits are clear gives its instruction, where that is well formed. -/
@[simp] theorem finP_wf {i : Instr} (wf : instrWf i = true) : finP true i = some i := by simp [finP, wf]

/-- By the rows of the bytecode: the fields of each form read as they were put together. -/
theorem decodePolicy_encodePolicy {i : Instr} {h : BitVec 16} (wf : instrWf i = true) (enc : encodePolicy i = some h) : decodePolicy h = some i := by
  cases i with
  | imm | addiv | jfw => cases enc; simp [decodePolicy, pv, wf]
  | kld | env | cand | subj | copy => cases enc; simp [decodePolicy, pol, pv, wf]
  | addv | subv | andv | orv | minv | maxv | shlv | shrv => cases enc; simp [decodePolicy, pol, pv]
  | mall | mkeepEq | mkeepNe | mkeepLt | mkeepGe | mcnt | scanMin | scanMax => cases enc; simp [decodePolicy, pol, pv, wf]
  | jeq | jne | jlt | jge => cases enc; simp [decodePolicy, pol, pv, wf]
  | pick | idle | preempt | keep | restart | kill | host | migrate => cases enc; simp [decodePolicy, pol, pv]
  | _ => cases enc

end Sys2Proof

namespace Sys2Proof.Machine
open Claims

/-! One instruction of a decision's program (10 R229, R230). -/

theorem decision_modDec (s : State) (d c n : Nat) (f : Decision → Decision) : (s.modDec d c n f).decision d c n = (s.decision d c n).map f := by
  simp [State.decision, State.modDec]

theorem decision_modDec_other {s : State} {d c n d' c' m : Nat} (f : Decision → Decision) (other : d' ≠ d ∨ c' ≠ c ∨ m ≠ n) :
    (s.modDec d c n f).decision d' c' m = s.decision d' c' m := by
  by_cases die : d' = d
  · subst die
    by_cases cluster : c' = c
    · subst cluster
      have place : n ≠ m := fun same => by simp [same] at other
      simp [State.decision, State.modDec, place]
    · simp [State.decision, State.modDec, cluster]
  · simp [State.decision, State.modDec, die]

/-- A decision at its next instruction, n ac later. -/
def Decision.stepped (x : Decision) (n : Nat) : Decision := { x with ix := x.ix + 1, time := x.time + n }

/-- i is one step of n ac of the acting decision x, which comes to f of the decision at its next instruction. -/
def StepsAs (s : State) (x : Decision) (i : Instr) (n : Nat) (f : Decision → Decision) : Prop :=
  ∃ g, exec i s = policyStep s n g ∧ g (x.stepped n) = f (x.stepped n)

section
variable {s : State} {x : Decision} {i : Instr} {n : Nat} {f : Decision → Decision}

/-- A step of a decision that runs does what its function says, or is stopped by the budget. -/
theorem StepsAs.does (steps : StepsAs s x i n f) (act : acting s = some x) : policyDoes s i n f := by
  obtain ⟨g, run, value⟩ := steps
  intro y act' running
  obtain rfl : x = y := Option.some.inj (act.symm.trans act')
  have found : s.decision s.actor.die s.actor.cluster s.actor.dec = some x := act
  simp only [run, policyStep, found, running, Bool.not_true, Bool.false_eq_true, if_false]
  split
  · refine ⟨_, rfl, ?_, fun d c m other => decision_modDec_other _ other, rfl, rfl, rfl, rfl⟩
    exact (decision_modDec _ _ _ _ _).trans (by rw [found]; rfl)
  · refine ⟨_, rfl, ?_, fun d c m other => decision_modDec_other _ other, rfl, rfl, rfl, rfl⟩
    exact (decision_modDec _ _ _ _ _).trans (by rw [found]; exact congrArg some value)

/-- A step of a decision that does not run changes nothing. -/
theorem StepsAs.idle (steps : StepsAs s x i n f) (act : acting s = some x) (stopped : x.running = false) : exec i s = .next s := by
  obtain ⟨g, run, -⟩ := steps
  have found : s.decision s.actor.die s.actor.cluster s.actor.dec = some x := act
  simp only [run, policyStep, found, stopped, Bool.not_false, if_true]

/-- An instruction that writes a register, by the value it writes. -/
theorem StepsAs.set {d : PReg} {v : Word} {g : Decision → Word} (run : exec i s = policySet s d g) (value : g (x.stepped 1) = v) :
    StepsAs s x i 1 fun y => setV y d v := ⟨_, run, by rw [value]; rfl⟩

/-- The two-register operations of R235. -/
theorem stepsAs_arithmetic {d : PReg} {v : Word} (h : policyArithmetic x i = some (d, v)) : StepsAs s x i 1 fun y => setV y d v := by
  cases i with
  | addv d r => cases h; exact .set (g := fun x => x.reg d + x.reg r) rfl (add_eq_w _ _)
  | subv d r => cases h; exact .set (g := fun x => x.reg d - x.reg r) rfl (sub_eq_w _ _)
  | andv d r => cases h; exact .set (g := fun x => x.reg d &&& x.reg r) rfl rfl
  | orv d r => cases h; exact .set (g := fun x => x.reg d ||| x.reg r) rfl rfl
  | minv d r =>
    cases h
    exact .set (g := fun x => if (x.reg d).slt (x.reg r) then x.reg d else x.reg r) rfl ((smin_eq_w _ _).trans (congrArg w (min_comm _ _)))
  | maxv d r => cases h; exact .set (g := fun x => if (x.reg d).slt (x.reg r) then x.reg r else x.reg d) rfl (smax_eq_w _ _)
  | shlv d r => cases h; exact .set (g := fun x => x.reg d <<< bits (x.reg r) 0 6) rfl (shl_eq_w _ _)
  | shrv d r => cases h; exact .set (g := fun x => x.reg d >>> bits (x.reg r) 0 6) rfl (shr_eq_w _ _)
  | _ => cases h

/-- The loads and moves of R234. -/
theorem stepsAs_load {d : PReg} {v : Word} (h : policyLoad x i = some (d, v)) : StepsAs s x i 1 fun y => setV y d v := by
  cases i with
  | imm _ v => cases h; exact .set (g := fun _ => v.signExtend 64) rfl rfl
  | kld _ k => cases h; exact .set (g := fun x => (((x.prog.getD {}).consts)[k.val]?).getD 0) rfl rfl
  | env _ e => cases h; exact .set (g := fun x => (x.env[e.toNat]?).getD 0) rfl rfl
  | cand _ r f => cases h; exact .set (g := fun x => if (x.reg r).toNat < x.cands.length then x.field (x.reg r).toNat f.toNat else 0) rfl rfl
  | subj _ f => cases h; exact .set (g := fun x => (x.subj[f.toNat]?).getD 0) rfl rfl
  | copy _ r => cases h; exact .set (g := fun x => x.reg r) rfl rfl
  | addiv d v => cases h; exact .set (g := fun x => x.reg d + v.signExtend 64) rfl (add_w _ _)
  | mcnt => cases h; exact .set (g := fun x => w64 (popcount x.m.toNat 32)) rfl ((congrArg w64 (popcount_eq _ _)).trans (w_natCast _).symm)
  | _ => cases h

/-- The jumps, by their conditions (10 R234, R235). -/
theorem exec_jump {c : Cond} {a r : PReg} {o : Nat} (h : jumpOf i = some (c, a, r, o)) :
    ∃ b : Decision → Bool, exec i s = policyJump s o b ∧ ∀ y, b y = true ↔ policyCond c (y.reg a) (y.reg r) := by
  cases i with
  | jeq a r => cases h; exact ⟨fun x => decide (x.reg a = x.reg r), rfl, fun y => by simp [policyCond]⟩
  | jne a r => cases h; exact ⟨fun x => decide (x.reg a ≠ x.reg r), rfl, fun y => by simp [policyCond]⟩
  | jlt a r => cases h; exact ⟨fun x => (x.reg a).slt (x.reg r), rfl, fun y => BitVec.slt_iff_toInt_lt⟩
  | jge a r => cases h; exact ⟨fun x => !((x.reg a).slt (x.reg r)), rfl, fun y => by simp [policyCond, BitVec.slt]⟩
  | jfw => cases h; exact ⟨fun _ => true, rfl, fun y => by simp [policyCond]⟩
  | _ => cases h

theorem stepsAs_jump_taken {c : Cond} {a r : PReg} {o : Nat} (h : jumpOf i = some (c, a, r, o)) (holds : policyCond c (x.reg a) (x.reg r)) :
    StepsAs s x i 1 fun y => { y with ix := y.ix + o } := by
  obtain ⟨b, run, iff⟩ := exec_jump (s := s) h
  exact ⟨_, run, if_pos ((iff (x.stepped 1)).2 holds)⟩

theorem stepsAs_jump_not_taken {c : Cond} {a r : PReg} {o : Nat} (h : jumpOf i = some (c, a, r, o)) (fails : ¬ policyCond c (x.reg a) (x.reg r)) :
    StepsAs s x i 1 id := by
  obtain ⟨b, run, iff⟩ := exec_jump (s := s) h
  exact ⟨_, run, if_neg fun holds => fails ((iff (x.stepped 1)).1 holds)⟩

/-- A verdict, by its code and the operand it gives. -/
theorem StepsAs.verdict {code v : Nat} {g : Decision → Nat} (run : exec i s = policyVerdict s code g) (value : g (x.stepped 1) = v) :
    StepsAs s x i 1 fun y => { y with ix := x.ix, verdict := some (code, v), byProg := true } := ⟨_, run, by rw [value]; rfl⟩

/-- The verdicts of R236. -/
theorem stepsAs_verdict {v : Nat × Nat} (h : verdictOf x i = some v) : StepsAs s x i 1 fun y => { y with ix := x.ix, verdict := some v, byProg := true } := by
  cases i with
  | pick r => cases h; exact .verdict (g := fun x => (x.reg r).toNat) rfl rfl
  | idle => cases h; exact .verdict (g := fun _ => 0) rfl rfl
  | preempt r => cases h; exact .verdict (g := fun x => (x.reg r).toNat) rfl rfl
  | keep => cases h; exact .verdict (g := fun _ => 0) rfl rfl
  | restart => cases h; exact .verdict (g := fun _ => 0) rfl rfl
  | kill => cases h; exact .verdict (g := fun _ => 0) rfl rfl
  | host => cases h; exact .verdict (g := fun _ => 0) rfl rfl
  | migrate r => cases h; exact .verdict (g := fun x => bits (x.reg r) 0 2) rfl rfl
  | _ => cases h
end

/-! The candidate mask (10 R229, R234). -/

theorem getLsbD_setBit_false (m : BitVec 32) (i : Nat) {j : Nat} (below : j < 32) : (setBit m i false).getLsbD j = (m.getLsbD j && decide (j ≠ i)) := by
  rw [setBit, if_neg Bool.false_ne_true, BitVec.getLsbD_and, BitVec.getLsbD_not, BitVec.getLsbD_ofNat, Nat.testBit_two_pow]
  simp [below, eq_comm]

/-- The mask m without its bits below n that `keep` does not keep. -/
def keptBelow (keep : Nat → Bool) (m : BitVec 32) (n : Nat) : BitVec 32 := (List.range n).foldl (fun m i => if keep i then m else setBit m i false) m

theorem getLsbD_keptBelow (keep : Nat → Bool) (m : BitVec 32) {j : Nat} (below : j < 32) (n : Nat) :
    (keptBelow keep m n).getLsbD j = true ↔ m.getLsbD j = true ∧ (j < n → keep j = true) := by
  induction n with
  | zero => simp [keptBelow]
  | succ n ih =>
    rw [keptBelow, List.range_succ, List.foldl_append]
    change (if keep n = true then keptBelow keep m n else setBit (keptBelow keep m n) n false).getLsbD j = true ↔ _
    by_cases kept : keep n = true
    · rw [if_pos kept, ih]
      refine and_congr_right fun _ => ⟨fun all less => ?_, fun all less => all (by omega)⟩
      rcases Nat.lt_succ_iff_lt_or_eq.1 less with less | rfl
      · exact all less
      · exact kept
    · rw [if_neg kept, getLsbD_setBit_false _ _ below, Bool.and_eq_true, ih, decide_eq_true_iff, and_assoc]
      refine and_congr_right fun _ => ⟨fun ⟨all, other⟩ less => all (by omega), fun all => ⟨fun less => all (by omega), fun same => kept (same ▸ all (by omega))⟩⟩

/-- The MKEEPs, by their conditions (10 R234, R235). -/
theorem exec_keep {s : State} {i : Instr} {c : Cond} {r : PReg} {n : Nat} (h : keepOf i = some (c, r, n)) :
    ∃ (f : BitVec 5) (b : Word → Word → Bool), f.toNat = n ∧ exec i s = maskKeep s r f b ∧ ∀ u v, b u v = true ↔ policyCond c u v := by
  cases i with
  | mkeepEq _ f => cases h; exact ⟨f, fun u v => decide (u = v), rfl, rfl, fun u v => by simp [policyCond]⟩
  | mkeepNe _ f => cases h; exact ⟨f, fun u v => decide (u ≠ v), rfl, rfl, fun u v => by simp [policyCond]⟩
  | mkeepLt _ f => cases h; exact ⟨f, fun u v => u.slt v, rfl, rfl, fun u v => BitVec.slt_iff_toInt_lt⟩
  | mkeepGe _ f => cases h; exact ⟨f, fun u v => !(u.slt v), rfl, rfl, fun u v => by simp [policyCond, BitVec.slt]⟩
  | _ => cases h

/-! SCAN (10 R235). -/

/-- The first element of a list, begun with a, whose key is least. -/
def leastOf {α : Type} (key : α → Int) (a : α) (l : List α) : α := l.foldl (fun a b => if key b < key a then b else a) a

/-- No element has a lesser key, and none of the same key stands before it. -/
theorem leastOf_spec {α : Type} (key : α → Int) (place : α → Nat) (l : List α) : ∀ a, (a :: l).Pairwise (place · < place ·) →
    leastOf key a l ∈ a :: l ∧ ∀ b ∈ a :: l, key (leastOf key a l) ≤ key b ∧ (key b = key (leastOf key a l) → place (leastOf key a l) ≤ place b) := by
  induction l with
  | nil => intro a _; simp [leastOf]
  | cons e l ih =>
    intro a order
    obtain ⟨first, rest⟩ := List.pairwise_cons.1 order
    by_cases less : key e < key a
    · have step : leastOf key a (e :: l) = leastOf key e l := by rw [leastOf, List.foldl_cons, if_pos less, leastOf]
      obtain ⟨mem, least⟩ := ih e rest
      rw [step]
      refine ⟨.tail _ mem, fun b hb => ?_⟩
      rcases List.mem_cons.1 hb with rfl | hb
      · have := (least e (.head _)).1
        exact ⟨by omega, fun same => absurd same (by omega)⟩
      · exact least b hb
    · have step : leastOf key a (e :: l) = leastOf key a l := by rw [leastOf, List.foldl_cons, if_neg less, leastOf]
      obtain ⟨mem, least⟩ := ih a (order.sublist (List.Sublist.cons_cons _ (List.sublist_cons_self _ _)))
      obtain ⟨bound, tie⟩ := least a (.head _)
      rw [step]
      refine ⟨List.mem_cons.2 ((List.mem_cons.1 mem).imp_right (.tail _)), fun b hb => ?_⟩
      rcases List.mem_cons.1 hb with rfl | hb
      · exact ⟨bound, tie⟩
      · rcases List.mem_cons.1 hb with rfl | hb
        · have := first b (.head _)
          exact ⟨by omega, fun same => by have := tie (by omega); omega⟩
        · exact least b (.tail _ hb)

/-- SCAN of an empty mask. -/
theorem scanIndex_none {x : Decision} (f : Nat) (better : Word → Word → Bool) (empty : x.m = 0) : scanIndex x f better = w (2 ^ 64 - 1) := by
  rw [scanIndex, empty]
  rfl

/-- SCAN by a key gives the first of those candidates in the mask whose key is least. -/
theorem scanIndex_some {x : Decision} (f : Nat) {better : Word → Word → Bool} (key : Word → Int) (by_key : ∀ u v, better u v = true ↔ key u < key v) (nonempty : x.m ≠ 0) :
    ∃ n < 32, x.m.getLsbD n = true ∧ scanIndex x f better = w n ∧
      ∀ j < 32, x.m.getLsbD j = true → key (x.field n f) ≤ key (x.field j f) ∧ (key (x.field j f) = key (x.field n f) → n ≤ j) := by
  have mem (j : Nat) : j ∈ maskBits 32 x.m.toNat ↔ j < 32 ∧ x.m.getLsbD j = true := by simp [maskBits, BitVec.getLsbD]
  have order : (maskBits 32 x.m.toNat).Pairwise (· < ·) := List.pairwise_lt_range.filter _
  cases l : maskBits 32 x.m.toNat with
  | nil =>
    refine absurd (BitVec.eq_of_getLsbD_eq fun j below => ?_) nonempty
    have out := (mem j).not.1 (by rw [l]; exact List.not_mem_nil)
    simpa [below] using out
  | cons a rest =>
    rw [l] at order mem
    have sorted : ((a :: rest).map fun i => (i, x.field i f)).Pairwise (Prod.fst · < Prod.fst ·) := List.pairwise_map.2 order
    obtain ⟨found, least⟩ := leastOf_spec (fun p : Nat × Word => key p.2) Prod.fst _ _ sorted
    obtain ⟨n, listed, best⟩ := List.mem_map.1 (show _ ∈ (a :: rest).map fun i => (i, x.field i f) from found)
    have index : scanIndex x f better = w n := by
      have fold : (fun a b : Nat × Word => if better b.2 a.2 = true then b else a) = fun a b => if key b.2 < key a.2 then b else a :=
        funext fun a => funext fun b => if_congr (by_key _ _) rfl rfl
      rw [scanIndex, l, w_natCast]
      simp only [List.map_cons, fold]
      exact congrArg (fun p : Nat × Word => w64 p.1) best.symm
    rw [← best] at least
    refine ⟨n, ((mem n).1 listed).1, ((mem n).1 listed).2, index, fun j below inMask => ?_⟩
    exact least (j, x.field j f) (List.mem_map_of_mem (f := fun i => (i, x.field i f)) ((mem j).2 ⟨below, inMask⟩))

/-- What SCAN compares: the signed value, or for the greatest its negation. -/
def scanKey (mx : Bool) (u : Word) : Int := if mx then -u.toInt else u.toInt

theorem scanFinds_of_least {x : Decision} {f n : Nat} {mx : Bool} (below : n < 32) (inMask : x.m.getLsbD n = true)
    (least : ∀ j < 32, x.m.getLsbD j = true → scanKey mx (x.field n f) ≤ scanKey mx (x.field j f) ∧ (scanKey mx (x.field j f) = scanKey mx (x.field n f) → n ≤ j)) :
    scanFinds x f mx n := by
  refine ⟨below, inMask, fun j belowJ inMaskJ => ?_⟩
  obtain ⟨bound, tie⟩ := least j belowJ inMaskJ
  cases mx with
  | false => exact ⟨bound, tie⟩
  | true => exact ⟨Int.neg_le_neg_iff.1 bound, fun same => tie (congrArg (- ·) same)⟩

/-- The SCANs: each steps by an order that its key gives. -/
theorem exec_scan {s : State} {i : Instr} {d : PReg} {f : BitVec 5} {mx : Bool} (scan : i = .scanMin d f ∧ mx = false ∨ i = .scanMax d f ∧ mx = true) :
    ∃ better, exec i s = policyStep s 4 (fun x => x.setReg d (scanIndex x f.toNat better)) ∧ ∀ u v, better u v = true ↔ scanKey mx u < scanKey mx v := by
  rcases scan with ⟨rfl, rfl⟩ | ⟨rfl, rfl⟩
  · exact ⟨fun u v => u.slt v, rfl, fun u v => BitVec.slt_iff_toInt_lt⟩
  · exact ⟨fun u v => v.slt u, rfl, fun u v => BitVec.slt_iff_toInt_lt.trans Int.neg_lt_neg_iff.symm⟩

/-! Loading and swapping programs (10 R244 to R246). -/

section
variable {s : State} {a d : Reg}

theorem policy_user (user : s.me.priv = false) : execPolicyLd a s = .next (trapped s 0x22 s.actor.bits) ∧ execPolicySwap d s = .next (trapped s 0x22 s.actor.bits) := by
  have mode : s.user = true := by simp [State.user, user]
  simp only [execPolicyLd, execPolicySwap, mode, if_true, trap_eq, and_self]

variable (super : s.me.priv = true)
include super

theorem policy_swapping (swapping : (s.part (s.partOf s.actor.core)).policy.swp = true) :
    execPolicyLd a s = .next (trapped s 0x42 0) ∧ execPolicySwap d s = .next (trapped s 0x42 0) := by
  simp [execPolicyLd, execPolicySwap, State.user, super, swapping, trap_eq]

theorem policyLd_builtin (still : (s.part (s.partOf s.actor.core)).policy.swp = false) :
    execPolicyLd 0 s = .next (retired (s.modPolicy (s.partOf s.actor.core) fun x => { x with staged := .builtin })) := by
  simp [execPolicyLd, State.user, super, still, retire_eq]

theorem policyLd_program (still : (s.part (s.partOf s.actor.core)).policy.swp = false) (named : a ≠ 0) {g : Program} {u : State}
    (read : readPolicy s s.actor.core (s.reg a).toNat s.user = .ok g u) :
    execPolicyLd a s = .next (retired ((settleCore u s.actor.core).modPolicy (s.partOf s.actor.core) fun x => { x with staged := .prog g })) := by
  have mode : s.user = false := by simp [State.user, super]
  rw [mode] at read
  simp [execPolicyLd, mode, still, named, read, Mr.seq, retire_eq]

theorem policySwap_empty (empty : (s.part (s.partOf s.actor.core)).policy.staged = .empty) : execPolicySwap d s = .next (trapped s 0x42 0) := by
  simp [execPolicySwap, State.user, super, empty, trap_eq]

theorem policySwap_begins (still : (s.part (s.partOf s.actor.core)).policy.swp = false) (staged : (s.part (s.partOf s.actor.core)).policy.staged ≠ .empty) :
    execPolicySwap d s = .next (wrote (s.modPolicy (s.partOf s.actor.core) fun x => { x with swp := true, switched := [], acked := [], swapper := some s.actor.core }) d
      (w64 (s.part (s.partOf s.actor.core)).policy.nextGen)) := by
  simp [execPolicySwap, State.user, super, still, staged, retireWith_eq]
end

theorem policy_modPolicy (s : State) (p : Nat) (f : Policy → Policy) : ((s.modPolicy p f).part p).policy = f (s.part p).policy := by simp [State.modPolicy]

end Sys2Proof.Machine

namespace Sys2Proof.Claims
open Sys2Proof Sys2Proof.Machine

/-- Settles O7: it holds, by the rows of the bytecode read on the fields of each form. -/
theorem policyRoundTrip : Obligations.PolicyRoundTrip := by
  unfold Obligations.PolicyRoundTrip
  exact fun i h wf enc => decodePolicy_encodePolicy wf enc

/-- Settles O31: it holds, each clause by the rule of its instruction above. -/
theorem policyLoadAndSwap : Obligations.PolicyLoadAndSwap := by
  unfold Obligations.PolicyLoadAndSwap
  intro s d a p x
  refine ⟨policy_user, policy_swapping, fun super still => ⟨?builtin, fun g u named read => ?program, policySwap_empty super, fun staged => ?swap⟩⟩
  case builtin => exact ⟨_, policyLd_builtin super still, policy_modPolicy s p fun x => { x with staged := .builtin }, congrArg Ctx.pc (State.me_modMe _ _)⟩
  case program => exact ⟨_, policyLd_program super still named read, congrArg Policy.staged (policy_modPolicy (settleCore u s.actor.core) p fun x => { x with staged := .prog g })⟩
  case swap =>
    have begun := policy_modPolicy s p fun x => { x with swp := true, switched := [], acked := [], swapper := some s.actor.core }
    refine ⟨_, (policySwap_begins super still staged).trans ?_, congrArg Policy.swp begun, congrArg Policy.swapper begun, rfl, rfl⟩
    rw [← w_natCast, Policy.nextGen]
    norm_cast

/-- Settles O44: it holds, each operation as a step of the acting decision by what it comes to as an integer, SCAN by the first least key and MKEEP by induction on the candidates. -/
theorem policyArithmeticHolds : Obligations.PolicyArithmetic := by
  unfold Obligations.PolicyArithmetic
  intro s x act running
  refine ⟨fun i d v h => (stepsAs_arithmetic h).does act, fun i d f mx scan => ?scan, fun i c r f keep => ?keep⟩
  case scan =>
    obtain ⟨better, run, by_key⟩ := exec_scan (s := s) scan
    have steps {v : Word} (value : scanIndex x f.toNat better = v) : StepsAs s x i 4 fun y => setV y d v := ⟨_, run, by rw [← value]; rfl⟩
    refine ⟨fun empty => (steps (scanIndex_none _ _ empty)).does act, fun candidates => ?_⟩
    obtain ⟨n, below, inMask, index, least⟩ := scanIndex_some f.toNat (scanKey mx) by_key candidates
    exact ⟨n, scanFinds_of_least below inMask least, (steps index).does act⟩
  case keep =>
    obtain ⟨g, b, rfl, run, iff⟩ := exec_keep (s := s) keep
    refine ⟨keptBelow (fun j => b (x.field j g.toNat) (x.reg r)) x.m x.cands.length, fun j below => ?_, StepsAs.does ⟨_, run, rfl⟩ act⟩
    rw [getLsbD_keptBelow _ _ below, iff]

/-- Settles O45: it holds, each instruction as a step of the acting decision. -/
theorem policyLoadsJumpsAndVerdicts : Obligations.PolicyLoadsJumpsAndVerdicts := by
  unfold Obligations.PolicyLoadsJumpsAndVerdicts
  intro s x act
  refine ⟨fun running => ⟨fun i d v h => (stepsAs_load h).does act, ?mall, fun i c a r o h => ⟨?taken, ?notTaken⟩, fun i v h => (stepsAs_verdict h).does act⟩, fun stopped i form => ?idle⟩
  case mall => exact StepsAs.does ⟨fun x => { x with m := fullMask x.cands.length }, rfl, rfl⟩ act
  case taken => exact fun holds => (stepsAs_jump_taken h holds).does act
  case notTaken => exact fun fails => (stepsAs_jump_not_taken h fails).does act
  case idle =>
    rcases form with verdict | load | arithmetic | jump
    · obtain ⟨v, h⟩ := Option.isSome_iff_exists.1 verdict
      exact (stepsAs_verdict h).idle act stopped
    · obtain ⟨v, h⟩ := Option.isSome_iff_exists.1 load
      exact (stepsAs_load h).idle act stopped
    · obtain ⟨v, h⟩ := Option.isSome_iff_exists.1 arithmetic
      exact (stepsAs_arithmetic h).idle act stopped
    · obtain ⟨⟨c, a, r, o⟩, h⟩ := Option.isSome_iff_exists.1 jump
      by_cases holds : policyCond c (x.reg a) (x.reg r)
      · exact (stepsAs_jump_taken h holds).idle act stopped
      · exact (stepsAs_jump_not_taken h holds).idle act stopped

end Sys2Proof.Claims
end

section
/-! SUPPORT. The register writes of the host: what stopping contexts and changing the owners of cores leave alone, each register's command, the register that an offset names, and the settling of the statement on them (19 R352; 21 R375; 24 R417 to R421, R429, R430). -/
namespace Sys2Proof.Machine
open Claims

/-- The low field of a word, as arithmetic. -/
theorem bits_low {k : Nat} (x : BitVec k) (n : Nat) : bits x 0 n = x.toNat % 2 ^ n := by rw [bits_eq_div, Nat.pow_zero, Nat.div_one]

/-! What changes the owner of a core leaves of partitions and of the owners of the others (24 R420). -/

/-- What stands of a partition: its clusters, its policy and how far it has ended. -/
structure PartStands (x y : Part) : Prop where
  partclu : y.partclu = x.partclu
  policy : y.policy = x.policy
  ending : y.ending = x.ending

/-- Every partition stands. -/
def PartsStand (s t : State) : Prop := ∀ p, PartStands (s.part p) (t.part p)

/-- Partitions stand, and every core has the owner that it had. -/
structure OwnersStand (s t : State) : Prop where
  parts : PartsStand s t
  owner : ∀ j, (t.core j).part = (s.core j).part

theorem PartsStand.trans {s t u : State} (first : PartsStand s t) (next : PartsStand t u) : PartsStand s u := fun p =>
  ⟨(next p).partclu.trans (first p).partclu, (next p).policy.trans (first p).policy, (next p).ending.trans (first p).ending⟩

theorem PartsStand.of_eq {s t : State} (same : t.parts = s.parts) : PartsStand s t := fun p => by
  rw [State.part, State.part, same]
  exact ⟨rfl, rfl, rfl⟩

namespace OwnersStand
variable {s t u : State}

theorem trans (first : OwnersStand s t) (next : OwnersStand t u) : OwnersStand s u :=
  ⟨first.parts.trans next.parts, fun j => (next.owner j).trans (first.owner j)⟩

theorem of_eq (cores : t.cores = s.cores) (parts : t.parts = s.parts) : OwnersStand s t :=
  ⟨.of_eq parts, fun j => by rw [State.core, cores, State.core]⟩

theorem refl (s : State) : OwnersStand s s := .of_eq rfl rfl

/-- A change of a core that leaves its owner. -/
theorem modCore {f : CoreSt → CoreSt} (owner : ∀ c, (f c).part = c.part) (s : State) (k : Nat) : OwnersStand s (s.modCore k f) :=
  ⟨.of_eq rfl, fun j => by
    rw [State.core_modCore]
    split
    · next same => rw [owner, same]
    · rfl⟩

theorem modMx (s : State) (k : Nat) (f : Matrix → Matrix) : OwnersStand s (s.modMx k f) := modCore (by intro c; rfl) s k

theorem modCtx (s : State) (k n : Nat) (f : Ctx → Ctx) : OwnersStand s (s.modCtx k n f) := modCore (f := fun c => c.setCtx n (f (s.ctx k n))) (fun _ => rfl) s k

theorem foldl {α : Type} {f : State → α → State} (each : ∀ s a, OwnersStand s (f s a)) (l : List α) (s : State) : OwnersStand s (l.foldl f s) :=
  foldl_keeps (p := OwnersStand s) l (fun _ a stands => stands.trans (each _ a)) s (.refl s)

theorem ite {c : Prop} [Decidable c] (yes : OwnersStand s t) (no : OwnersStand s u) : OwnersStand s (if c then t else u) := by
  split
  · exact yes
  · exact no

theorem returnSlots (s : State) (q n : Nat) : OwnersStand s (returnSlots s q n) := of_eq (returnSlots_cores s q n) (by unfold Machine.returnSlots; split <;> rfl)

theorem freePly (s : State) (k q : Nat) : OwnersStand s (freePly s k q) :=
  (foldl (fun _ _ => returnSlots _ _ _) _ s).trans (modCore (by intro c; rfl) _ k)

theorem stopAt (s : State) (k : Nat) (x : MxOp) (c : Cause) (row : Nat) : OwnersStand s (stopAt s k x c row) := by
  unfold Machine.stopAt failOp State.modMxCtx
  split
  · exact (modMx s k _).trans (modCtx _ k _ _)
  · exact modMx s k _

theorem loseGang (s : State) (k : Nat) : OwnersStand s (loseGang s k) := by
  unfold Machine.loseGang
  split
  · split
    · exact stopAt _ _ _ _ _
    · split
      · exact modMx s k _
      · exact .refl s
  · exact .refl s

theorem dissolveGang (s : State) (k : Nat) : OwnersStand s (dissolveGang s k) := by
  unfold Machine.dissolveGang
  split
  · exact .refl s
  · exact (foldl (fun _ _ => (ite (modMx _ _ _) (.refl _)).trans ((ite (.refl _) (loseGang _ _)).trans (modMx _ _ _))) _ s).trans (.of_eq rfl rfl)

theorem settleCore (s : State) (k : Nat) : OwnersStand s (settleCore s k) := by
  obtain ⟨l, h⟩ := performStores_eq s fun x => decide (x.core = k)
  rw [Machine.settleCore, h]
  exact .of_eq rfl rfl

theorem giveUpOn (s : State) (k n : Nat) : OwnersStand s (giveUpOn s k n) := by
  unfold Machine.giveUpOn Machine.giveUp
  split
  · dsimp only
    split <;> split <;> exact .of_eq rfl rfl
  · exact .refl s

theorem dropFaults (s : State) (k n : Nat) : OwnersStand s (dropFaults s k n) :=
  ⟨fun p => by
    rw [Machine.dropFaults, State.part_modPart]
    split
    · next same => rw [same]; exact ⟨rfl, rfl, rfl⟩
    · exact ⟨rfl, rfl, rfl⟩, fun _ => rfl⟩

/-- What a context of a core that changes owner loses leaves all owners. -/
theorem unserved (s : State) (k n : Nat) : OwnersStand s (unwarm (Machine.dropFaults (Machine.giveUpOn s k n) k n) k n) :=
  (giveUpOn s k n).trans ((dropFaults _ k n).trans (.of_eq rfl rfl))
end OwnersStand

/-- A core that changes owner is the last change of others that leave owners. -/
theorem changeOwner_eq (s : State) (k p : Nat) : ∃ (u : State) (f : CoreSt → CoreSt), OwnersStand s u ∧ (∀ c, (f c).part = p) ∧ changeOwner s k p = u.modCore k f := by
  unfold changeOwner
  refine ⟨_, _, ?_, ?_, rfl⟩
  · exact ((OwnersStand.settleCore s k).trans (.dissolveGang _ k)).trans ((OwnersStand.foldl (fun s n => .unserved s k n) _ _).trans
      ((OwnersStand.foldl (fun s q => .freePly s k q) _ _).trans (OwnersStand.foldl (fun s n => .returnSlots s _ _) _ _)))
  · exact fun _ => rfl

theorem changeOwner_parts (s : State) (k p : Nat) : PartsStand s (changeOwner s k p) := by
  obtain ⟨u, f, stands, -, eq⟩ := changeOwner_eq s k p
  rw [eq]
  exact stands.parts

theorem owner_changeOwner (s : State) (k p j : Nat) : ((changeOwner s k p).core j).part = if j = k then p else (s.core j).part := by
  obtain ⟨u, f, stands, owner, eq⟩ := changeOwner_eq s k p
  rw [eq, State.core_modCore]
  split
  · exact owner _
  · exact stands.owner j

theorem foldl_changeOwner_parts (l : List Nat) (p : Nat) (s : State) : PartsStand s (l.foldl (fun s k => changeOwner s k p) s) :=
  foldl_keeps (p := PartsStand s) l (fun _ k stands => stands.trans (changeOwner_parts _ k p)) s (.of_eq rfl)

theorem owner_foldl_changeOwner (p j : Nat) (l : List Nat) : ∀ s : State,
    ((l.foldl (fun s k => changeOwner s k p) s).core j).part = if j ∈ l then p else (s.core j).part := by
  induction l with
  | nil => exact fun _ => rfl
  | cons k l ih =>
    intro s
    rw [List.foldl_cons, ih, owner_changeOwner]
    by_cases later : j ∈ l
    · simp [later]
    · simp [later]

/-! The stop command, given to several contexts (24 R421). -/

/-- t differs from s in one context, and in nothing that says who owns what. -/
structure OnlyCtx (k n : Nat) (s t : State) : Prop where
  others : ∀ j m, ¬(j = k ∧ m = n) → t.ctx j m = s.ctx j m
  owner : ∀ j, (t.core j).part = (s.core j).part
  iod : t.iod = s.iod
  parts : t.parts = s.parts

theorem OnlyCtx.refl (k n : Nat) (s : State) : OnlyCtx k n s s := ⟨fun _ _ _ => rfl, fun _ => rfl, rfl, rfl⟩

theorem OnlyCtx.modCtx {s u : State} (cores : u.cores = s.cores) (iod : u.iod = s.iod) (parts : u.parts = s.parts) (k n : Nat) (f : Ctx → Ctx) :
    OnlyCtx k n s (u.modCtx k n f) where
  others j m other := by rw [State.ctx_modCtx, if_neg other, State.ctx_congr cores]
  owner j := ((OwnersStand.of_eq cores parts).trans (.modCtx u k n f)).owner j
  iod := iod
  parts := parts

theorem stopContext_only (s : State) (k n : Nat) : OnlyCtx k n s (stopContext s k n) := by
  unfold stopContext
  refine .modCtx (returnSlots_cores _ _ _) ?_ ?_ k n _
  · unfold returnSlots; split <;> rfl
  · unfold returnSlots; split <;> rfl

theorem stopContext_ctx (s : State) (k n : Nat) : ((stopContext s k n).ctx k n).run = .off := by
  simp [stopContext, State.ctx_modCtx]

theorem stopCmd_only (s : State) (k n : Nat) : OnlyCtx k n s (stopCmd s k n) := by
  unfold stopCmd
  dsimp only
  split
  · exact .refl k n s
  · exact stopContext_only s k n
  · split
    · exact .modCtx rfl rfl rfl k n _
    · exact stopContext_only s k n

/-- A context that waits for nothing is OFF after its stop command. -/
theorem stopCmd_quiet {s : State} {k n : Nat} (quiet : (s.ctx k n).hold = false ∧ (s.ctx k n).going = none) : ((stopCmd s k n).ctx k n).run = .off := by
  obtain ⟨hold, going⟩ := quiet
  unfold stopCmd
  dsimp only
  split
  · next off => exact off
  · exact stopContext_ctx s k n
  · rw [if_neg (by simp [hold, going])]
    exact stopContext_ctx s k n

/-- A stop command leaves an OFF context alone. -/
theorem stopCmd_off {s : State} {k n : Nat} (off : (s.ctx k n).run = .off) : stopCmd s k n = s := by simp [stopCmd, off]

/-- A context that has issued an instruction runs on after its stop command. -/
theorem stopCmd_going {s : State} {k n : Nat} (run : (s.ctx k n).run = .run) (going : (s.ctx k n).going ≠ none) :
    ((stopCmd s k n).ctx k n).run = .run ∧ ((stopCmd s k n).ctx k n).going ≠ none := by
  have issued : (s.ctx k n).going.isSome = true := Option.isSome_iff_ne_none.2 going
  simp [stopCmd, run, issued, State.ctx_modCtx, going]

/-- s once each of some contexts has been given a stop command. -/
def stopAll (s : State) (l : List (Nat × Nat)) : State := l.foldl (fun s x => stopCmd s x.1 x.2) s

theorem stopAll_frame (l : List (Nat × Nat)) (s : State) :
    (∀ j, ((stopAll s l).core j).part = (s.core j).part) ∧ (stopAll s l).iod = s.iod ∧ (stopAll s l).parts = s.parts := by
  refine foldl_keeps (p := fun t : State => (∀ j, (t.core j).part = (s.core j).part) ∧ t.iod = s.iod ∧ t.parts = s.parts) l (fun t x kept => ?_) s ⟨fun _ => rfl, rfl, rfl⟩
  obtain ⟨owner, iod, parts⟩ := kept
  have only := stopCmd_only t x.1 x.2
  exact ⟨fun j => (only.owner j).trans (owner j), only.iod.trans iod, only.parts.trans parts⟩

/-- What a stop command to any context keeps of a context, stop commands to several keep. -/
theorem stopAll_keeps {p : Ctx → Prop} {j m : Nat} (own : ∀ s : State, p (s.ctx j m) → p ((stopCmd s j m).ctx j m)) (l : List (Nat × Nat)) {s : State} (holds : p (s.ctx j m)) :
    p ((stopAll s l).ctx j m) := by
  refine foldl_keeps (p := fun t : State => p (t.ctx j m)) l (fun t x kept => ?_) s holds
  by_cases same : j = x.1 ∧ m = x.2
  · obtain ⟨rfl, rfl⟩ := same
    exact own t kept
  · rw [(stopCmd_only t x.1 x.2).others j m same]
    exact kept

theorem stopAll_off {l : List (Nat × Nat)} {s : State} {j m : Nat} (off : (s.ctx j m).run = .off) : ((stopAll s l).ctx j m).run = .off :=
  stopAll_keeps (p := fun c => c.run = .off) (fun t h => by rw [stopCmd_off h]; exact h) l off

theorem stopAll_going {l : List (Nat × Nat)} {s : State} {j m : Nat} (run : (s.ctx j m).run = .run) (going : (s.ctx j m).going ≠ none) :
    ((stopAll s l).ctx j m).run = .run :=
  (stopAll_keeps (p := fun c => c.run = .run ∧ c.going ≠ none) (fun _ h => stopCmd_going h.1 h.2) l ⟨run, going⟩).1

/-- A context that waits for nothing is OFF once it has been among those stopped. -/
theorem stopAll_quiet {x : Nat × Nat} (l : List (Nat × Nat)) : ∀ {s : State}, x ∈ l → (s.ctx x.1 x.2).hold = false ∧ (s.ctx x.1 x.2).going = none →
    ((stopAll s l).ctx x.1 x.2).run = .off := by
  induction l with
  | nil => exact fun listed => absurd listed List.not_mem_nil
  | cons y l ih =>
    intro s listed quiet
    by_cases same : x.1 = y.1 ∧ x.2 = y.2
    · obtain rfl := Prod.ext same.1 same.2
      exact stopAll_off (l := l) (stopCmd_quiet quiet)
    · refine ih ((List.mem_cons.1 listed).resolve_left fun eq => same ⟨by rw [eq], by rw [eq]⟩) ?_
      rw [(stopCmd_only s y.1 y.2).others x.1 x.2 same]
      exact quiet

/-! The end of a partition (24 R420, R421). -/

/-- The owner of a core is read from the core and the I/O die. -/
theorem partOf_of_owner {s t : State} (owner : ∀ j, (t.core j).part = (s.core j).part) (iod : t.iod = s.iod) (k : Nat) : t.partOf k = s.partOf k := by
  unfold State.partOf dsPart
  rw [owner, iod]

theorem endingCtxs_congr {s t : State} (owner : ∀ j, (t.core j).part = (s.core j).part) (iod : t.iod = s.iod) (p m : Nat) : endingCtxs t p m = endingCtxs s p m := by
  unfold endingCtxs
  rw [funext fun k => congrArg (fun q => decide (q = p)) (partOf_of_owner owner iod k), dsPart, iod, dsPart]

/-- No cluster holds the display sequencer. -/
theorem ne_dsCore_of_mem_maskCores {c m : Nat} (named : c ∈ maskCores m) : c ≠ dsCore := by
  simp only [maskCores, clusterCores, List.mem_flatMap, List.mem_map, List.mem_range] at named
  obtain ⟨i, -, j, below, rfl⟩ := named
  rw [dsCore]
  omega

theorem core_modIod (s : State) (f : Iod → Iod) (j : Nat) : (s.modIod f).core j = s.core j := rfl

theorem resetDs_core {s : State} {j : Nat} (other : j ≠ dsCore) : (resetDs s).core j = s.core j := by
  rw [resetDs, core_modIod, State.core_modCore, if_neg other]

theorem resetDs_local (s : State) : ((resetDs s).core dsCore).local_ = [] := by
  rw [resetDs, core_modIod, State.core_modCore, if_pos rfl]

/-- Where a context of a partition that ends is not OFF, its clusters are not released. -/
theorem releaseClusters_waits {s : State} {p m : Nat} (busy : ∃ x ∈ endingCtxs s p m, (s.ctx x.1 x.2).run ≠ .off) : releaseClusters s p m = s := by
  rw [releaseClusters, if_neg (by simpa using busy)]

/-- Where every context of a partition that ends is OFF, the cores that it had lose their owner, and it ends no more. -/
theorem releaseClusters_frees {s : State} {p m : Nat} (off : ∀ x ∈ endingCtxs s p m, (s.ctx x.1 x.2).run = .off) :
    ∃ u, PartsStand s u ∧ (∀ c ∈ maskCores m, s.partOf c = p → (u.core c).part = 0) ∧ releaseClusters s p m = u.modPart p fun x => { x with ending := none } := by
  have stands := foldl_changeOwner_parts ((maskCores m).filter fun k => decide (s.partOf k = p)) 0 s
  have freed (c : Nat) (named : c ∈ maskCores m) (own : s.partOf c = p) :
      ((((maskCores m).filter fun k => decide (s.partOf k = p)).foldl (fun s k => changeOwner s k 0) s).core c).part = 0 := by
    rw [owner_foldl_changeOwner, if_pos (List.mem_filter.2 ⟨named, decide_eq_true own⟩)]
  rw [releaseClusters, if_pos (by simpa using off)]
  refine ⟨_, ?_, fun c named own => ?_, rfl⟩
  · split
    · exact stands.trans (.of_eq rfl)
    · exact stands
  · split
    · exact (congrArg CoreSt.part (resetDs_core (ne_dsCore_of_mem_maskCores named))).trans (freed c named own)
    · exact freed c named own

theorem releaseClusters_part (s : State) (p m : Nat) :
    ((releaseClusters s p m).part p).partclu = (s.part p).partclu ∧ ((releaseClusters s p m).part p).policy = (s.part p).policy := by
  by_cases off : ∀ x ∈ endingCtxs s p m, (s.ctx x.1 x.2).run = .off
  · obtain ⟨u, stands, -, eq⟩ := releaseClusters_frees off
    rw [eq, State.part_modPart, if_pos rfl]
    exact ⟨(stands p).partclu, (stands p).policy⟩
  · rw [releaseClusters_waits (by simpa using off)]
    exact ⟨rfl, rfl⟩

/-- The clusters that PARTCLU of a partition names. -/
def ownClusters (s : State) (p : Nat) : Nat := (s.part p).partclu.toNat % 2 ^ 20

/-- s once the contexts of partition p have been given their stop commands and p ends with the clusters of a mask. -/
def ended (s : State) (p m : Nat) : State := (stopAll s (endingCtxs s p m)).modPart p fun x =>
  { x with partclu := 0, ending := some m, policy := { x.policy with staged := .empty, active := .empty, swp := false, switched := [], acked := [], swapper := none } }

theorem ended_part (s : State) (p m : Nat) : ((ended s p m).part p).partclu = 0 ∧ ((ended s p m).part p).ending = some m ∧
    ((ended s p m).part p).policy.active = .empty ∧ ((ended s p m).part p).policy.staged = .empty := by
  rw [ended, State.part_modPart, if_pos rfl]
  exact ⟨rfl, rfl, rfl, rfl⟩

theorem ended_owner (s : State) (p m c : Nat) : (ended s p m).partOf c = s.partOf c :=
  partOf_of_owner (s := s) (t := ended s p m) (stopAll_frame _ s).1 (stopAll_frame _ s).2.1 c

theorem endingCtxs_ended (s : State) (p m : Nat) : endingCtxs (ended s p m) p m = endingCtxs s p m :=
  endingCtxs_congr (s := s) (t := ended s p m) (stopAll_frame _ s).1 (stopAll_frame _ s).2.1 p m

theorem ended_off {s : State} {p m : Nat} (quiet : ∀ x ∈ endingCtxs s p m, (s.ctx x.1 x.2).hold = false ∧ (s.ctx x.1 x.2).going = none) :
    ∀ x ∈ endingCtxs (ended s p m) p m, ((ended s p m).ctx x.1 x.2).run = .off := by
  rw [endingCtxs_ended]
  exact fun x listed => stopAll_quiet _ listed (quiet x listed)

theorem ended_busy {s : State} {p m : Nat} (busy : ∃ x ∈ endingCtxs s p m, (s.ctx x.1 x.2).run = .run ∧ (s.ctx x.1 x.2).going ≠ none) :
    ∃ x ∈ endingCtxs (ended s p m) p m, ((ended s p m).ctx x.1 x.2).run ≠ .off := by
  obtain ⟨x, listed, run, going⟩ := busy
  rw [endingCtxs_ended]
  have still : ((ended s p m).ctx x.1 x.2).run = .run := stopAll_going (l := endingCtxs s p m) run going
  exact ⟨x, listed, by simp [still]⟩

section
variable {s : State} {p : Nat} {v : Word} (reach : hostReady s = true)
include reach

/-- PARTCLU with EN clear ends a partition that exists. -/
theorem partitionEnd_ends (pos : 0 < p) (below : p < 4096) (enabled : (s.part p).partclu.getLsbD 63 = true) :
    execPartitionEnd p s = .next (releaseClusters (ended s p (ownClusters s p)) p (ownClusters s p)) := by
  have taken : ¬((!hostReady s) = true ∨ p = 0 ∨ 4096 ≤ p ∨ (!bit (s.part p).partclu 63) = true) := by
    simp only [reach, bit, enabled, Bool.not_true, Bool.false_eq_true, false_or, or_false]
    omega
  rw [execPartitionEnd, if_neg taken]
  simp only [bits_low]
  rfl

/-- PARTCLU with EN set gives the partition its clusters, where none is another's and it does not end (24 R420). -/
theorem partitionSetup_gives (set : v.getLsbD 63 = true) (pos : 0 < p) (below : p < 4096) (lives : (s.part p).ending = none)
    (free : ∀ x ∈ s.parts, x.1 ≠ p → Part.holds x.2 &&& v.toNat % 2 ^ 20 = 0) :
    ∃ u, PartsStand s u ∧ execPartitionSetup p v s = .next (u.modPart p fun x =>
      { x with partclu := w64 (2 ^ 63 + v.toNat % 2 ^ 20), policy := if bit x.partclu 63 then x.policy else {} }) := by
  have taken : ¬((!hostReady s) = true ∨ (!bit v 63) = true ∨ p = 0 ∨ 4096 ≤ p) := by
    simp only [reach, bit, set, Bool.not_true, Bool.false_eq_true, false_or]
    omega
  have unbarred : ¬((s.part p).ending.isSome = true ∨ (s.parts.any fun x => decide (x.1 ≠ p) && decide (Part.holds x.2 &&& v.toNat % 2 ^ 20 ≠ 0)) = true) := by
    simpa [lives] using free
  rw [execPartitionSetup, if_neg taken]
  simp only [bits_low]
  rw [if_neg unbarred]
  exact ⟨_, (foldl_changeOwner_parts _ 0 s).trans (foldl_changeOwner_parts _ p _), rfl⟩

/-! The display sequencer and the heads (19 R352; 24 R420). -/

theorem dspartWrite_takes (off : (s.ctx dsCore 0).run = .off) : execDspartWrite v s =
    .next ((if w64 (v.toNat % 2 ^ 13) = s.iod.dspart then s else resetDs s).modIod fun i => { i with dspart := w64 (v.toNat % 2 ^ 13) }) := by
  rw [execDspartWrite, if_neg (by simp [reach, off])]
  simp only [bits_low]

variable {h : Nat} (below : h < 4) (leads : leadsOk v = true)
include below leads

/-- The checks that a write of HCTL with EN set makes first pass for good leads of a head that the host reaches. -/
theorem headEnable_reached (set : v.getLsbD 0 = true) : ¬((!hostReady s) = true ∨ 4 ≤ h ∨ (!bit v 0) = true ∨ (!leadsOk v) = true) := by
  simp [reach, bit, set, leads, below]

theorem headEnable_enables (set : v.getLsbD 0 = true) (dark : (s.iod.head h).hctl.getLsbD 0 = false) (timing : timingOk (s.iod.head h) = true) :
    execHeadEnable h v s = .next (enableHead s h v) := by
  rw [execHeadEnable, if_neg (headEnable_reached reach below leads set), if_neg (by rw [headOn, bit, dark]; exact Bool.false_ne_true), if_pos timing]

theorem headEnable_refused (set : v.getLsbD 0 = true) (dark : (s.iod.head h).hctl.getLsbD 0 = false) (timing : timingOk (s.iod.head h) = false) :
    execHeadEnable h v s = .next (s.modHead h fun x => { x with hctl := setBit (v &&& hctlMask) 0 false }) := by
  rw [execHeadEnable, if_neg (headEnable_reached reach below leads set), if_neg (by rw [headOn, bit, dark]; exact Bool.false_ne_true), if_neg (by rw [timing]; exact Bool.false_ne_true)]

theorem headDisable_disables (clear : v.getLsbD 0 = false) : execHeadDisable h v s = .next (s.modHead h fun x => { x with hctl := v &&& hctlMask, sent := none }) := by
  have taken : ¬((!hostReady s) = true ∨ 4 ≤ h ∨ bit v 0 = true ∨ (!leadsOk v) = true) := by
    rw [bit, clear]
    simp [reach, leads, below]
  rw [execHeadDisable, if_neg taken]
end

/-- PARTCLU with EN set is ignored where the partition ends, or a cluster named is another's (24 R420). -/
theorem partitionSetup_ignored {s : State} {p : Nat} {v : Word} (taken : (s.part p).ending ≠ none ∨ ∃ x ∈ s.parts, x.1 ≠ p ∧ Part.holds x.2 &&& v.toNat % 2 ^ 20 ≠ 0) :
    execPartitionSetup p v s = .next s := by
  have barred : (s.part p).ending.isSome = true ∨ (s.parts.any fun x => decide (x.1 ≠ p) && decide (Part.holds x.2 &&& v.toNat % 2 ^ 20 ≠ 0)) = true := by
    refine taken.imp Option.isSome_iff_ne_none.2 fun ⟨x, listed, other, shared⟩ => List.any_eq_true.2 ⟨x, listed, ?_⟩
    rw [decide_eq_true other, decide_eq_true shared, Bool.and_self]
  rw [execPartitionSetup]
  split
  · rfl
  · simp only [bits_low]
    rw [if_pos barred]

theorem dspartWrite_ignored {s : State} (v : Word) (busy : (s.ctx dsCore 0).run ≠ .off) : execDspartWrite v s = .next s := if_pos (.inr busy)

/-- HCTL with leads out of range changes nothing. -/
theorem headWrites_ignored {s : State} {h : Nat} {v : Word} (leads : leadsOk v = false) : execHeadEnable h v s = .next s ∧ execHeadDisable h v s = .next s :=
  ⟨if_pos (by simp [leads]), if_pos (by simp [leads])⟩

/-- s once die d follows a head that has been enabled (19 R352, R355). -/
def followHead (h : Nat) (s : State) (d : Nat) : State := s.modDie d fun y =>
  { y with heads := Tab.mod {} y.heads h fun m => { line := 0, lper := lperOf (s.iod.head h), lgen := (m.lgen + 1) % 65536 } }

theorem enableHead_eq (s : State) (h : Nat) (v : Word) : enableHead s h v = (List.range 4).foldl (followHead h)
    (s.modHead h fun x => { x with hctl := v &&& hctlMask, line := 0, frames := [], bands := [], closed := 0, sent := none }) := rfl

theorem foldl_followHead_iod (h : Nat) (l : List Nat) (s : State) : (l.foldl (followHead h) s).iod = s.iod :=
  foldl_keeps (f := followHead h) (p := fun t : State => t.iod = s.iod) l (fun _ _ kept => kept) s rfl

theorem foldl_followHead_other {h d : Nat} {l : List Nat} (other : d ∉ l) (s : State) : (l.foldl (followHead h) s).die d = s.die d := by
  induction l generalizing s with
  | nil => rfl
  | cons e l ih =>
    obtain ⟨apart, other⟩ := List.ne_and_not_mem_of_not_mem_cons other
    rw [List.foldl_cons, ih other, followHead, State.die_modDie, if_neg apart]

theorem foldl_followHead_lines {h d : Nat} {l : List Nat} (nodup : l.Nodup) (listed : d ∈ l) (s : State) :
    (((l.foldl (followHead h) s).die d).lines h).line = 0 ∧ (((l.foldl (followHead h) s).die d).lines h).lgen = (((s.die d).lines h).lgen + 1) % 65536 := by
  induction l generalizing s with
  | nil => exact absurd listed List.not_mem_nil
  | cons e l ih =>
    obtain ⟨fresh, nodup⟩ := List.nodup_cons.1 nodup
    rw [List.foldl_cons]
    rcases List.mem_cons.1 listed with rfl | later
    · rw [foldl_followHead_other fresh, followHead, State.die_modDie, if_pos rfl, Die.lines, Tab.look_mod, if_pos rfl]
      exact ⟨rfl, rfl⟩
    · have apart : d ≠ e := fun same => fresh (same ▸ later)
      have kept : (followHead h s e).die d = s.die d := by rw [followHead, State.die_modDie, if_neg apart]
      rw [← kept]
      exact ih nodup later _

theorem enableHead_head (s : State) (h : Nat) (v : Word) :
    (enableHead s h v).iod.head h = { s.iod.head h with hctl := v &&& hctlMask, line := 0, frames := [], bands := [], closed := 0, sent := none } := by
  rw [enableHead_eq, foldl_followHead_iod, head_modHead]

theorem enableHead_lines (s : State) (h : Nat) (v : Word) {d : Nat} (die : d < 4) :
    (((enableHead s h v).die d).lines h).line = 0 ∧ (((enableHead s h v).die d).lines h).lgen = (((s.die d).lines h).lgen + 1) % 65536 := by
  rw [enableHead_eq]
  exact foldl_followHead_lines List.nodup_range (List.mem_range.2 die) _

/-! The security engine (24 R429, R430). -/

theorem attcmd_signs {s : State} (reach : hostReady s = true) (v : Word) (idle : s.iod.sec.attst.testBit 0 = false) (left : s.iod.sec.index < 2 ^ 20) :
    execAttcmd v s = .next (s.modSec fun y => { y with attst := 1, report := v.toNat / 4096 * 4096, index := y.index + 1 }) := by
  rw [execAttcmd, if_neg (by simp [reach, idle]), attestKeys, if_neg (Nat.not_le.2 left)]

theorem reportBytes_length (s : State) {free : List Byte} (page : free.length = 4096) : (reportBytes s free).length = 4096 := by
  refine foldl_keeps (p := fun bs : List Byte => bs.length = 4096) _ (fun bs x kept => ?_) free page
  simp only [List.length_take, List.length_append, List.length_drop, kept]
  omega

/-- A write by the I/O die that need not wait leaves every core and the I/O die. -/
theorem iodWrite_frame {s : State} {pa : Nat} {bs : List Byte} (way : reaching s 4 pa ≠ .held) : (iodWrite s pa bs).cores = s.cores ∧ (iodWrite s pa bs).iod = s.iod := by
  unfold iodWrite
  split
  · exact ⟨(iodPut_frame s pa bs).1, (iodPut_frame s pa bs).2.2⟩
  · next held => exact absurd held way
  · exact ⟨rfl, rfl⟩

/-- Bytes that the I/O die writes on a clear way are read back. -/
theorem iodWrite_get {s : State} {pa : Nat} {bs : List Byte} (way : reaching s 4 pa = .clear) (plain : rangeReserved pa bs.length = false) :
    (iodWrite s pa bs).mem.get pa bs.length = bs := by
  rw [iodWrite, way, iodPut_open plain, State.modMem_mem, Memory.get_set]

/-- The bytes of the report that an attestation writes, some of them free. -/
def attested (s : State) : List Byte := reportBytes s (freeBytes s 4096).1

theorem attested_length (s : State) : (attested s).length = 4096 := reportBytes_length s (by simp [freeBytes])

/-- The report is written where a way leads to its buffer. -/
theorem attstDone_reports {s : State} (busy : s.iod.sec.attst.testBit 0 = true) (way : reaching s 4 s.iod.sec.report ≠ .held) :
    execAttstDone s = .next ((iodWrite (freeBytes s 4096).2 s.iod.sec.report (attested s)).modSec fun y => { y with attst := if attestKeys ≤ y.index then 6 else 2 }) := by
  rw [execAttstDone, if_neg (by simp [busy, way]), attested]

/-! The register that an offset names (24 R417, R419). -/

section
variable {s : State} {o off : Nat} {v : Word}

theorem registerWrite_misaligned (odd : off % 8 ≠ 0) : execRegisterWrite off v s = .next s := if_pos (.inr odd)

variable (reach : hostReady s = true)
include reach

theorem registerWrite_command {out : Out} (aligned : off % 8 = 0) (command : commandAt off v s = some out) : execRegisterWrite off v s = out := by
  rw [execRegisterWrite, if_neg (by simp [reach, aligned]), command, Option.getD_some]

theorem registerWrite_fields (aligned : off % 8 = 0) (command : commandAt off v s = none) : execRegisterWrite off v s = .next (fieldsAt s off v) := by
  rw [execRegisterWrite, if_neg (by simp [reach, aligned]), command, Option.getD_none]
end

section
variable {p : Nat} (pos : 0 < p) (below : p < 4096) {o : Nat} (inside : o < 0x1000)
include pos below inside

/-- The block of a partition. -/
theorem partBlock_register (v : Word) (s : State) : commandAt (0x5000000 + 0x1000 * p + o) v s = partCommand p o v s ∧
    fieldsAt s (0x5000000 + 0x1000 * p + o) v = s.modPart p fun x => writePart x o v := by
  have number : (0x5000000 + 0x1000 * p + o - 0x5000000) / 0x1000 = p := by omega
  have register : (0x5000000 + 0x1000 * p + o) % 0x1000 = o := by omega
  have notIod : ¬ 0x5000000 + 0x1000 * p + o < 0x1000000 := by omega
  have notDie : ¬ 0x5000000 + 0x1000 * p + o < 0x5000000 := by omega
  have block : 0x5001000 ≤ 0x5000000 + 0x1000 * p + o ∧ 0x5000000 + 0x1000 * p + o < 0x6000000 := by omega
  rw [commandAt, fieldsAt, if_neg notIod, if_neg notIod, if_neg notDie, if_neg notDie, if_pos block, if_pos block, number, register]
  exact ⟨rfl, rfl⟩
end

/-- Where the block of a core lies in BAR0. -/
def coreBlock (k : Nat) : Nat := 0x1000000 * (k / 128 + 1) + 0x400000 + 0x20000 * (k % 128)

theorem coreBlock_aligned (k : Nat) {o : Nat} (register : o % 8 = 0) : (coreBlock k + o) % 8 = 0 := by
  rw [coreBlock]
  omega

section
variable {k : Nat} (die : k / 128 < 4) (core : k % 128 < 80) {o : Nat} (inside : o < 0x20000)
include die core inside

/-- The block of a core. -/
theorem coreBlock_register (v : Word) (s : State) : commandAt (coreBlock k + o) v s = coreCommand k o v s ∧ fieldsAt s (coreBlock k + o) v = writeCore s k o v := by
  have notIod : ¬ coreBlock k + o < 0x1000000 := by rw [coreBlock]; omega
  have block : coreBlock k + o < 0x5000000 := by rw [coreBlock]; omega
  have dieNo : (coreBlock k + o) / 0x1000000 - 1 = k / 128 := by rw [coreBlock]; omega
  have inDie : (coreBlock k + o) % 0x1000000 = 0x400000 + 0x20000 * (k % 128) + o := by rw [coreBlock]; omega
  have number : k / 128 * 128 + (0x400000 + 0x20000 * (k % 128) + o - 0x400000) / 0x20000 = k := by omega
  have register : (0x400000 + 0x20000 * (k % 128) + o - 0x400000) % 0x20000 = o := by omega
  rw [commandAt, fieldsAt, if_neg notIod, if_neg notIod, if_pos block, if_pos block, dieNo, inDie]
  generalize hx : 0x400000 + 0x20000 * (k % 128) + o = x at number register
  have cores : 0x400000 ≤ x ∧ x < 0x400000 + 80 * 0x20000 := by omega
  constructor
  · unfold dieCommand
    rw [if_neg (by omega), if_neg (by omega), if_neg (by omega), if_neg (by omega), if_neg (by omega), if_neg (by omega), if_neg (by omega), if_pos cores, number, register]
  · unfold writeDie
    rw [if_neg (by omega), if_neg (by omega), if_neg (by omega), if_neg (by omega), if_neg (by omega), if_pos cores, number, register]
end

/-- A core of a compute die is a real one. -/
theorem realCore_of_onDie {k : Nat} (die : onDie k) : realCore k = true := by
  obtain ⟨d, c⟩ := die
  simp [realCore, dieOf, coreIn, d, c]

/-- CTXCMD with OP 1 is the start command. -/
theorem ctxCommand_start {v : Word} (op : v.toNat / 2 ^ 62 = 1) (k : Nat) (s : State) : ctxCommand k v s = execCtxStart k v s := by
  have start : cmdOp v = 1 := by rw [cmdOp, bits_eq_div, op]; rfl
  simp only [ctxCommand, start]

end Sys2Proof.Machine

namespace Sys2Proof.Claims
open Sys2Proof Sys2Proof.Machine

/-- Settles O49: it holds, each register by its command above, and the end of a partition by what the stop commands and the release of its clusters leave. -/
theorem hostRegisterWrites : Obligations.HostRegisterWrites := by
  unfold Obligations.HostRegisterWrites
  intro s k p h v reaches
  have reach := hostReady_of_reaches reaches
  have field {n : Nat} : w (v.toNat % 2 ^ n) = w64 (v.toNat % 2 ^ n) := by rw [← w_natCast]; norm_cast
  refine ⟨fun die => ?tokdrop, ?fltptr, fun set pos below => ⟨fun lives free => ?setup, fun taken => partitionSetup_ignored taken⟩,
    fun pos below enabled => ?ends, fun off => ?dspart, dspartWrite_ignored v, fun below leads => ⟨fun set dark timing => ?enable, fun set dark timing => ?refused, fun clear => ?disable⟩,
    fun below leads => headWrites_ignored leads, fun idle left => ?attcmd, fun busy way => ?report, ?svn, fun other => ?noSvn, fun pos below => ?partCommands, fun die core => ?coreRegisters,
    fun pos below => ?troot, ?pkgid, fun o odd => registerWrite_misaligned odd⟩
  case tokdrop =>
    refine ⟨_, congrArg Host.Outcome.next (if_pos ⟨reach, realCore_of_onDie die⟩), ?_⟩
    rw [State.modPort, State.core_modCore, if_pos rfl]
    exact ⟨rfl, rfl⟩
  case fltptr =>
    refine ⟨_, if_neg (by simp [reach]), ?_⟩
    rw [State.part_modPart, if_pos rfl]
    exact ⟨bits_eq_div _ _ _, rfl, rfl⟩
  case setup =>
    obtain ⟨u, stands, run⟩ := partitionSetup_gives reach set pos below lives free
    refine ⟨_, run, ?_⟩
    rw [State.part_modPart, if_pos rfl]
    refine ⟨?_, fun fresh => ?_⟩
    · rw [← w_natCast]
      norm_cast
    · exact if_neg (by rw [(stands p).partclu, bit, fresh]; exact Bool.false_ne_true)
  case ends =>
    obtain ⟨clusters, ending, active, staged⟩ := ended_part s p (ownClusters s p)
    obtain ⟨partclu, policy⟩ := releaseClusters_part (ended s p (ownClusters s p)) p (ownClusters s p)
    refine ⟨_, partitionEnd_ends reach pos below enabled, partclu.trans clusters, (congrArg Policy.active policy).trans active, (congrArg Policy.staged policy).trans staged,
      fun quiet => ?_, fun busy => ?_⟩
    · obtain ⟨u, -, owner, run⟩ := releaseClusters_frees (ended_off (m := ownClusters s p) quiet)
      rw [run]
      refine ⟨by simp, fun c named own => ?_⟩
      rw [State.partOf, if_neg (ne_dsCore_of_mem_maskCores named)]
      exact owner c named ((ended_owner s p _ c).trans own)
    · rw [releaseClusters_waits (ended_busy (m := ownClusters s p) busy)]
      exact ending
  case dspart =>
    refine ⟨_, dspartWrite_takes reach off, field.symm, fun differs => ?_⟩
    rw [if_neg fun same => differs (field.trans same)]
    exact ⟨resetDs_local s, rfl⟩
  case enable =>
    refine ⟨_, headEnable_enables reach below leads set dark timing, ?_⟩
    rw [enableHead_head]
    exact ⟨rfl, rfl, rfl, fun d die => enableHead_lines s h v die⟩
  case refused =>
    refine ⟨_, headEnable_refused reach below leads set dark timing, ?_⟩
    rw [head_modHead]
    simp [setBit]
  case disable =>
    refine ⟨_, headDisable_disables reach below leads clear, ?_⟩
    rw [head_modHead]
    exact ⟨rfl, rfl⟩
  case attcmd => exact ⟨_, attcmd_signs reach v idle left, rfl, rfl, rfl⟩
  case report =>
    obtain ⟨cores, iod⟩ := iodWrite_frame (s := (freeBytes s 4096).2) (bs := attested s) way
    refine ⟨_, attstDone_reports busy way, ?_, cores, fun clear plain => ⟨(freeBytes s 4096).1, ?_⟩⟩
    · simp only [State.modSec, State.modIod, iod]
      exact if_congr Iff.rfl rfl rfl
    · have read := iodWrite_get (s := (freeBytes s 4096).2) (bs := attested s) clear (by rw [attested_length]; exact plain)
      rw [attested_length] at read
      exact read
  case svn => exact if_pos ⟨reach, rfl⟩
  case noSvn => exact if_neg fun h => other h.2
  case partCommands =>
    have command {o : Nat} (register : o % 8 = 0) (inside : o < 0x1000) {out : Out} (answers : partCommand p o v s = some out) :
        execRegisterWrite (0x5000000 + 0x1000 * p + o) v s = out := registerWrite_command reach (by omega) ((partBlock_register pos below inside v s).1.trans answers)
    exact ⟨command rfl (by decide) rfl, command rfl (by decide) rfl, command rfl (by decide) rfl⟩
  case coreRegisters =>
    have command {o : Nat} (register : o % 8 = 0) (inside : o < 0x20000) {out : Out} (answers : coreCommand k o v s = some out) : execRegisterWrite (coreBlock k + o) v s = out :=
      registerWrite_command reach (coreBlock_aligned k register) ((coreBlock_register die core inside v s).1.trans answers)
    refine ⟨fun op => (command (o := 0) rfl (by decide) rfl).trans (ctxCommand_start op k s), command (o := 0x20) rfl (by decide) rfl, ?_⟩
    have block := coreBlock_register die core (o := 0x10) (by decide) v s
    refine (registerWrite_fields reach (coreBlock_aligned k rfl) block.1).trans ?_
    rw [block.2]
    simp only [writeCore, bits_low, Nat.reducePow]
  case troot =>
    have block := partBlock_register pos below (o := 0x18) (by decide) v s
    refine ⟨_, registerWrite_fields reach (by omega) block.1, ?_⟩
    rw [block.2, State.part_modPart, if_pos rfl]
    exact ⟨rfl, rfl⟩
  case pkgid =>
    refine (registerWrite_fields reach rfl rfl).trans ?_
    simp [fieldsAt, writeIod, bits_low]

end Sys2Proof.Claims
end

section
/-! SUPPORT. Memory stays in its canonical form (log 5): one lemma for each operation that takes a state to a state, in the order of the model's files, then for each instruction and event, each turn and each step; and the settling of the two statements on it. -/
namespace Sys2Proof.Machine

/-- The state an operation that may find no room leaves has a canonical memory. -/
def optWf : Option State → Bool
  | some s => s.mem.wf
  | none => true

/-- The state an instruction goes on in has a canonical memory. -/
def outWf : Out → Bool
  | .next s => s.mem.wf
  | _ => true

/-- The state in which the instruction of a turn is executed, or in which the turn ends, has a canonical memory. -/
def pickWf : Pick → Bool
  | .run _ s => s.mem.wf
  | .out o => outWf o

/-- The state a selection leaves has a canonical memory. -/
def pickedWf : Picked → Bool
  | .acts s => s.mem.wf
  | .wait s => s.mem.wf
  | .idle => true

/-- The state an attempt at a request leaves, however it ends. -/
def Perf.state : Perf → State
  | .done _ s => s
  | .failed _ _ s => s
  | .wait _ s => s

/-- The state an attempt at a part of an engine command leaves, however it ends. -/
def EngRes.state : EngRes → State
  | .done _ s => s
  | .failed _ _ _ s => s
  | .wait _ s => s

theorem foldl_wf {α : Type} {f : State → α → State} (each : ∀ t a, t.mem.wf = true → (f t a).mem.wf = true) (l : List α) {s : State} (h : s.mem.wf = true) :
    (l.foldl f s).mem.wf = true := foldl_keeps l each s h

theorem optWf_bind {o : Option State} {f : State → Option State} (h : optWf o = true) (each : ∀ t, t.mem.wf = true → optWf (f t) = true) : optWf (o.bind f) = true := by
  cases o with
  | none => rfl
  | some t => exact each t h

theorem foldlM_wf {α : Type} {f : State → α → Option State} (each : ∀ t a, t.mem.wf = true → optWf (f t a) = true) (l : List α) :
    ∀ {s : State}, s.mem.wf = true → optWf (l.foldlM f s) = true := by
  induction l with
  | nil => intro s h; exact h
  | cons a l ih => intro s h; rw [List.foldlM_cons]; exact optWf_bind (each s a h) fun t => ih

theorem optWf_getD {o : Option State} {s : State} (h : optWf o = true) (g : s.mem.wf = true) : (o.getD s).mem.wf = true := by
  cases o with
  | none => exact g
  | some t => exact h

theorem Mr.andThen_wf {α β : Type} {r : Mr α} {f : α → State → Mr β} (h : r.state.mem.wf = true) (each : ∀ v t, t.mem.wf = true → (f v t).state.mem.wf = true) :
    (r.andThen f).state.mem.wf = true := by
  cases r with
  | ok v t => exact each v t h
  | fault c v t => exact h
  | wait t => exact h

theorem optWf_map {o : Option State} (h : optWf o = true) {f : State → State} (each : ∀ t, t.mem.wf = true → (f t).mem.wf = true) : optWf (o.map f) = true := by
  cases o with
  | none => rfl
  | some t => exact each t h

/-! The operations of Machine/Access. -/

theorem State.setSeed_mem (s : State) (k : ℕ) (u : ℕ) (g : Word) : (State.setSeed s k u g).mem = s.mem := rfl

/-! The operations of Machine/Phys. -/

theorem touchCmp_wf {s : State} (h : s.mem.wf = true) (d part desc off : Nat) (w : Bool) : (touchCmp s d part desc off w).mem.wf = true :=
  Memory.wf_of_bytes (touchCmp_bytes s d part desc off w) h

/-! The operations of Machine/Records. -/

theorem flushWaits_wf {s : State} (h : s.mem.wf = true) : (flushWaits s).mem.wf = true := foldl_wf (fun _ _ g => iodWrite_wf _ _ g) _ h
theorem postEvent_wf {s : State} (h : s.mem.wf = true) (k lo hi : ℕ) : (postEvent s k lo hi).mem.wf = true := h
theorem ringPut_wf {s : State} (h : s.mem.wf = true) (r : Ring) (bs : List Byte) : (ringPut s r bs).1.mem.wf = true := by
  grind [ringPut, iodWrite_wf]
theorem partRing_wf {s : State} (h : s.mem.wf = true) (p m : ℕ) (bs : List Byte) : (partRing s p m bs).1.mem.wf = true := by
  grind [partRing, State.modPart_mem, ringPut_wf]
theorem hostEvent_wf {s : State} (h : s.mem.wf = true) (lo hi : ℕ) : (hostEvent s lo hi).mem.wf = true := by
  grind [hostEvent, State.modIod_mem, ringPut_wf]
theorem partEvent_wf {s : State} (h : s.mem.wf = true) (p lo hi : ℕ) : (partEvent s p lo hi).mem.wf = true := by
  grind [partEvent, postEvent_wf, partRing_wf]
theorem faultRecord_wf {s : State} (h : s.mem.wf = true) (f : FltInfo) : (faultRecord s f).1.mem.wf = true := by
  grind [faultRecord, State.modPart_mem, ringPut_wf]
theorem partFault_wf {s : State} (h : s.mem.wf = true) (p : ℕ) (c : Cause) (tval src place : ℕ) : (partFault s p c tval src place).mem.wf = true := by
  grind [partFault, faultRecord_wf]
theorem dutyTimeout_wf {s : State} (h : s.mem.wf = true) (p : ℕ) (d : Duty) : (dutyTimeout s p d).mem.wf = true := by
  grind [dutyTimeout, partEvent_wf]
theorem sendDuty_wf {s : State} (h : s.mem.wf = true) (p : ℕ) (d : Duty) (w1 w2 : ℕ) (tail : List Byte) : (sendDuty s p d w1 w2 tail).1.mem.wf = true := by
  grind [sendDuty, partRing_wf, dutyTimeout_wf, State.modPart_mem]
theorem dropDuty_wf {s : State} (h : s.mem.wf = true) (p tag : ℕ) : (dropDuty s p tag).mem.wf = true := h

/-! The operations of Machine/Trans. -/

theorem keepEntry_wf {s : State} (h : s.mem.wf = true) (d : ℕ) (x : WalkEnt) : (keepEntry s d x).mem.wf = true := h
theorem walkFrom_wf (d part va : Nat) (acc : Acc) (n : Nat) : ∀ {s : State} (t : Nat), s.mem.wf = true → (walkFrom d part va acc n t s).2.mem.wf = true := by
  induction n with
  | zero => intro s t h; exact h
  | succ n ih => intro s t h; grind [walkFrom, physRead_wf, keepEntry_wf]
theorem findLeaf_wf {s : State} (h : s.mem.wf = true) (d p va : ℕ) (acc : Acc) (begun : optParam (Option HwWalk) none) : (findLeaf s d p va acc begun).2.mem.wf = true := by
  unfold findLeaf
  grind [walkFrom_wf]
theorem hostLeaf_wf {s : State} (h : s.mem.wf = true) (va e : ℕ) (ok : ℕ → Bool) : (hostLeaf s va e ok).state.mem.wf = true := by
  grind [hostLeaf, Mr.state]
theorem sendWalk_wf {s : State} (h : s.mem.wf = true) (p : ℕ) (y : Duty) : (sendWalk s p y).1.mem.wf = true := by
  grind [sendWalk, sendDuty_wf]
theorem startWalk_wf {s : State} (h : s.mem.wf = true) (d p : ℕ) (y : Duty) : (startWalk s d p y).mem.wf = true := by
  grind [startWalk, State.modDie_mem, sendWalk_wf]
theorem promoteWalks_wf (d n : Nat) : ∀ {s : State}, s.mem.wf = true → (promoteWalks d n s).mem.wf = true := by
  induction n with
  | zero => intro s h; exact h
  | succ n ih => intro s h; grind [promoteWalks, startWalk_wf, State.modDie_mem]
theorem askHost_wf {s : State} (h : s.mem.wf = true) (k va : ℕ) (acc : Acc) (probe : Bool) : (askHost s k va acc probe).2.mem.wf = true := by
  grind [askHost, dropDuty_wf, State.modDie_mem, sendWalk_wf]
theorem askWalk_wf {s : State} (h : s.mem.wf = true) (k va : ℕ) (acc : Acc) (probe : Bool) : (askWalk s k va acc probe).2.mem.wf = true := by
  grind [askWalk, promoteWalks_wf, askHost_wf]
theorem dieWalk_wf {s : State} (h : s.mem.wf = true) (k va : ℕ) (acc : Acc) (probe : Bool) : (dieWalk s k va acc probe).2.mem.wf = true := by
  grind [dieWalk, State.modDie_mem, findLeaf_wf]
theorem hwLeaf_wf {s : State} (h : s.mem.wf = true) (k va : ℕ) (acc : Acc) (ok : ℕ → Bool) : (hwLeaf s k va acc ok).state.mem.wf = true := by
  grind [hwLeaf, physWrite_wf, dieWalk_wf, Mr.state]
theorem hostWalk_wf {s : State} (h : s.mem.wf = true) (k va : ℕ) (acc : Acc) (ok : ℕ → Bool) : (hostWalk s k va acc ok).state.mem.wf = true := by
  grind [hostWalk, askWalk_wf, hwLeaf_wf, hostLeaf_wf, Mr.state]
theorem probePage_wf {s : State} (h : s.mem.wf = true) (k va : ℕ) : (probePage s k va).state.mem.wf = true := by
  grind [probePage, askWalk_wf, dieWalk_wf, hostLeaf_wf, Mr.state]
theorem walk_wf {s : State} (h : s.mem.wf = true) (k va : ℕ) (acc : Acc) (user : Bool) : (walk s k va acc user).state.mem.wf = true :=
  Mr.andThen_wf (hostWalk_wf h k va acc _) fun _ _ g => g
theorem translate_wf {s : State} (h : s.mem.wf = true) (k va : ℕ) (acc : Acc) (user : Bool) : (translate s k va acc user).state.mem.wf = true := by
  grind [translate, walk_wf, Mr.state]
theorem agentRead_wf {s : State} (h : s.mem.wf = true) (k pa n : ℕ) : (agentRead s k pa n).2.mem.wf = true := by
  grind [agentRead, iodRead_wf, physRead_wf]
theorem agentWrite_wf {s : State} (h : s.mem.wf = true) (k pa : ℕ) (bs : List Byte) : (agentWrite s k pa bs).mem.wf = true := by
  grind [agentWrite, iodWrite_wf, physWrite_wf]
theorem cmpCheck_wf {s : State} (h : s.mem.wf = true) (k desc off va : ℕ) : (cmpCheck s k desc off va).state.mem.wf = true := by
  have arrives : (arriveRead s.mem k desc (off / 128)).wf = true := by
    unfold arriveRead
    split <;> exact h
  unfold cmpCheck
  dsimp only
  split
  · exact h
  · split
    · exact h
    · split
      · exact arrives
      · split
        · exact h
        · split <;> exact h
theorem crossTo_wf {s : State} (h : s.mem.wf = true) (d va pa : ℕ) : (crossTo s d va pa).state.mem.wf = true := by
  grind [crossTo, Mr.state]
theorem performStores_wf {s : State} (h : s.mem.wf = true) (p : Late → Bool) : (performStores s p).mem.wf = true := by
  unfold performStores; split <;> exact h
theorem performNext_wf {s : State} (h : s.mem.wf = true) (k : ℕ) : (performNext k s).mem.wf = true := h
theorem settleCore_wf {s : State} (h : s.mem.wf = true) (k : ℕ) : (settleCore s k).mem.wf = true := by
  grind [settleCore, performStores_wf]
theorem passStores_wf {s : State} (h : s.mem.wf = true) (k : Nat) : (passStores s k).mem.wf = true := by
  unfold passStores; split <;> exact h
theorem locWay_wf {s : State} (h : s.mem.wf = true) (k va : ℕ) (l : Loc) (write : Bool) : (locWay s k va l write).state.mem.wf = true := by
  grind [locWay, crossTo_wf, Mr.state]
theorem locNewest_wf {s : State} (h : s.mem.wf = true) (k va : ℕ) (l : Loc) (n : ℕ) : (locNewest s k va l n).state.mem.wf = true := by
  cases l with
  | plain pa => exact Mr.andThen_wf (locWay_wf h k va _ false) fun _ t g => agentRead_wf g k pa n
  | comp desc off =>
    refine Mr.andThen_wf (locWay_wf h k va _ false) fun _ t g => Mr.andThen_wf (cmpCheck_wf g k desc off va) fun _ u g => ?_
    rw [Mr.state]
    exact touchCmp_wf g _ _ _ _ _
theorem locFetch_wf {s : State} (h : s.mem.wf = true) (k va : ℕ) (l : Loc) (n : ℕ) (own : Bool) : (locFetch s k va l n own).state.mem.wf = true :=
  Mr.andThen_wf (locNewest_wf (performStores_wf h _) k va l n) fun _ _ g => g
theorem locRead_wf {s : State} (h : s.mem.wf = true) (k va : ℕ) (l : Loc) (n : ℕ) (own : Bool) : (locRead s k va l n own).state.mem.wf = true :=
  Mr.andThen_wf (locFetch_wf h k va l n own) fun _ t g => by split <;> exact g
theorem locPut_wf {s : State} (h : s.mem.wf = true) (k va : ℕ) (l : Loc) (bs : List Byte) : (locPut s k va l bs).state.mem.wf = true := by
  cases l with
  | plain pa => exact Mr.andThen_wf (locWay_wf h k va _ true) fun _ t g => agentWrite_wf g k pa bs
  | comp desc off =>
    refine Mr.andThen_wf (locWay_wf h k va _ true) fun _ t g => Mr.andThen_wf (cmpCheck_wf g k desc off va) fun _ u g => ?_
    exact cmpSet_wf _ _ _ _ _ (touchCmp_wf g _ _ _ _ _)
theorem locWrite_wf {s : State} (h : s.mem.wf = true) (k va : ℕ) (l : Loc) (bs : List Byte) : (locWrite s k va l bs).state.mem.wf = true := by
  grind [locWrite, performStores_wf, locPut_wf, Mr.state]
theorem locStore_wf {s : State} (h : s.mem.wf = true) (k va : ℕ) (l : Loc) (bs : List Byte) (rel : Bool) : (locStore s k va l bs rel).state.mem.wf = true := by
  unfold locStore
  dsimp only
  refine Mr.andThen_wf (locPut_wf (performStores_wf ?_ _) k va l bs) fun _ t g => g
  split
  exacts [settleCore_wf h k, h]
theorem reach_wf {s : State} (h : s.mem.wf = true) (k va : ℕ) (acc : Acc) (user : Bool) : (reach s k va acc user).state.mem.wf = true := by
  grind [reach, translate_wf, Mr.state]
theorem vread_wf {s : State} (h : s.mem.wf = true) (k va n : ℕ) (acc : Acc) (user : Bool) (own : Bool) : (vread s k va n acc user own).state.mem.wf = true :=
  Mr.andThen_wf (reach_wf h k va acc user) fun l _ g => locRead_wf g k va l n own
theorem vwrite_wf {s : State} (h : s.mem.wf = true) (k va : ℕ) (bs : List Byte) (user : Bool) : (vwrite s k va bs user).state.mem.wf = true :=
  Mr.andThen_wf (reach_wf h k va .write user) fun l _ g => locWrite_wf g k va l bs
theorem vstore_wf {s : State} (h : s.mem.wf = true) (k va : ℕ) (bs : List Byte) (user rel : Bool) : (vstore s k va bs user rel).state.mem.wf = true :=
  Mr.andThen_wf (reach_wf h k va .write user) fun l _ g => locStore_wf g k va l bs rel
theorem vamo_wf {s : State} (h : s.mem.wf = true) (k va n : ℕ) (user : Bool) (f : ℕ → Option ℕ) : (vamo s k va n user f).state.mem.wf = true :=
  Mr.andThen_wf (reach_wf h k va .amo user) fun l _ g => Mr.andThen_wf (locRead_wf g k va l n true) fun _ _ g =>
    Mr.andThen_wf (locWrite_wf g k va l _) fun _ _ g => g
theorem vreadMany_wf (k : Nat) (acc : Acc) (user : Bool) (step n : Nat) : ∀ {s : State} (va : Nat), s.mem.wf = true → (vreadMany k acc user step n va s).state.mem.wf = true := by
  induction n with
  | zero => intro s va h; exact h
  | succ n ih => intro s va h; exact Mr.andThen_wf (vread_wf h _ _ _ _ _ _) fun _ t g => Mr.andThen_wf (ih _ g) fun _ u g => g

/-! The operations of Machine/PlyOps. -/

theorem returnSlots_wf {s : State} (h : s.mem.wf = true) (q n : ℕ) : (returnSlots s q n).mem.wf = true := by
  grind [returnSlots, State.modQueue_mem]
theorem releaseElems_wf {s : State} (h : s.mem.wf = true) (k q : ℕ) : (releaseElems s k q).mem.wf = true := foldl_wf (fun _ _ g => returnSlots_wf g _ _) _ h
theorem releaseParked_wf {s : State} (h : s.mem.wf = true) (k : ℕ) : (releaseParked s k).mem.wf = true := h
theorem fillPly_wf {s : State} (h : s.mem.wf = true) (k q : ℕ) (g : Ply) : (fillPly s k q g).mem.wf = true := h
theorem freePly_wf {s : State} (h : s.mem.wf = true) (k q : ℕ) : (freePly s k q).mem.wf = true := by
  grind [freePly, State.modCore_mem, releaseElems_wf]
theorem undrain_wf {s : State} (h : s.mem.wf = true) (k q : ℕ) : (undrain s k q).mem.wf = true := h
theorem discardStaged_wf {s : State} (h : s.mem.wf = true) (k n : ℕ) : (discardStaged s k n).mem.wf = true := by
  grind [discardStaged, freePly_wf, undrain_wf, State.modCtx_mem]
theorem stopContext_wf {s : State} (h : s.mem.wf = true) (k n : ℕ) : (stopContext s k n).mem.wf = true := by
  grind [stopContext, returnSlots_wf, State.modCtx_mem]
theorem takeStop_wf {s : State} (h : s.mem.wf = true) (k n : ℕ) : (takeStop s k n).mem.wf = true := by
  grind [takeStop, stopContext_wf]

/-! The operations of Machine/Ops. -/

theorem doubleTrap_wf {s : State} (h : s.mem.wf = true) (k n : ℕ) (t : TrapArg) : (doubleTrap s k n t).mem.wf = true := by
  grind [doubleTrap, faultRecord_wf]
theorem enterTrap_wf {s : State} (h : s.mem.wf = true) (k n : ℕ) (t : TrapArg) : (enterTrap s k n t).mem.wf = true := by
  grind [enterTrap, discardStaged_wf, stopContext_wf, doubleTrap_wf, State.modCtx_mem]
theorem takePending_wf {s : State} (h : s.mem.wf = true) (k n : ℕ) : (takePending s k n).mem.wf = true := by
  grind [takePending, enterTrap_wf, State.modCtx_mem]
theorem retireTo_wf {s : State} (h : s.mem.wf = true) (pc : Word) : outWf (retireTo s pc) = true := h
theorem retire_wf {s : State} (h : s.mem.wf = true) : outWf (retire s) = true := h
theorem retireWith_wf {s : State} (h : s.mem.wf = true) (d : Reg) (v : Word) : outWf (retireWith s d v) = true := h
theorem trapDone_wf {s : State} (h : s.mem.wf = true) (code : ℕ) (val : Word) (done : Option ℕ) : outWf (trapDone s code val done) = true := by
  grind [trapDone, enterTrap_wf, State.modMe_mem, outWf]
theorem trap_wf {s : State} (h : s.mem.wf = true) (code : ℕ) (val : Word) : outWf (trap s code val) = true := by
  grind [trap, trapDone_wf, outWf]
theorem waitFor_wf {s : State} (h : s.mem.wf = true) (a : Await) : outWf (waitFor s a) = true := h
theorem stay_wf {s : State} (h : s.mem.wf = true) : (State.stay s).mem.wf = true := h
theorem Mr.seq_wf {α : Type} {r : Mr α} {f : α → State → Out} (h : r.state.mem.wf = true) (each : ∀ v t, t.mem.wf = true → outWf (f v t) = true) : outWf (r.seq f) = true := by
  cases r with
  | ok v t => exact each v t h
  | fault c v t => exact trap_wf h _ _
  | wait t => exact stay_wf h
theorem freeBytes_wf {s : State} (h : s.mem.wf = true) (n : ℕ) : (freeBytes s n).2.mem.wf = true := h

/-! The operations of Machine/SeqMem. -/

theorem ordered_wf {o : Out} (h : outWf o = true) (c : Scope) (r : Ord) : outWf (ordered o c r) = true := h
theorem load_wf {s : State} (h : s.mem.wf = true) (ea : Word) (sz : Sz) (d : Reg) : outWf (load s ea sz d) = true := by
  unfold load
  split
  exacts [trap_wf h _ _, Mr.seq_wf (vread_wf h _ _ _ _ _ _) fun _ t g => retireWith_wf (passStores_wf g _) _ _]
theorem store_wf {s : State} (h : s.mem.wf = true) (ea : Word) (sz : Sz) (v : Word) (rel : Bool) : outWf (store s ea sz v rel) = true := by
  unfold store
  split
  exacts [trap_wf h _ _, Mr.seq_wf (vstore_wf h _ _ _ _ _) fun _ t g => retire_wf g]
theorem localAt_wf {s : State} (h : s.mem.wf = true) (ea : Word) (n : Nat) {f : Nat → Out} (goes : outWf (f ea.toNat) = true) : outWf (localAt s ea n f) = true := by
  unfold localAt
  repeat' split
  exacts [trap_wf h _ _, trap_wf h _ _, trap_wf h _ _, goes]
theorem setLocal_wf {s : State} (h : s.mem.wf = true) (a n v : ℕ) : (setLocal s a n v).mem.wf = true := h
theorem atomic_wf {s : State} (h : s.mem.wf = true) (ea : Word) (sz : Sz) (d : Reg) (f : Sz → ℕ → Option ℕ) : outWf (atomic s ea sz d f) = true := by
  grind [atomic, settleCore_wf, retireWith_wf, vamo_wf, trap_wf, Mr.seq_wf, Mr.state, outWf]
theorem atomicLoc_wf {s : State} (h : s.mem.wf = true) (ea : Word) (sz : Sz) (d : Reg) (f : Sz → ℕ → Option ℕ) : outWf (atomicLoc s ea sz d f) = true := by
  grind [atomicLoc, localAt_wf, retireWith_wf, setLocal_wf, outWf]
theorem spillUnit_wf {s : State} (h : s.mem.wf = true) (r a : ℕ) : (spillUnit s r a).state.mem.wf = true := by
  grind [spillUnit, vstore_wf, Mr.state]
theorem fillUnit_wf {s : State} (h : s.mem.wf = true) (r a : ℕ) : (fillUnit s r a).state.mem.wf = true :=
  Mr.andThen_wf (vread_wf h _ _ _ _ _ _) fun _ _ g => passStores_wf g _
theorem units_wf (ea f : Nat) {unit : State → Nat → Nat → Mr Unit} (each : ∀ t i a, t.mem.wf = true → (unit t i a).state.mem.wf = true) (n : Nat) :
    ∀ {s : State} (k : Nat), s.mem.wf = true → outWf (units ea f unit n k s) = true := by
  induction n with
  | zero => intro s k h; exact retire_wf h
  | succ n ih =>
    intro s k h
    have did := each s (f + k) (ea + 8 * k) h
    unfold units
    split
    next e => rw [e] at did; exact ih _ did
    next e => rw [e] at did; exact trapDone_wf did _ _ _
    next e => rw [e] at did; exact stay_wf did
theorem saveRun_wf {s : State} (h : s.mem.wf = true) (ea : Word) (first last : Reg) (rel : Bool) {unit : State → Nat → Nat → Mr Unit}
    (each : ∀ t i a, t.mem.wf = true → (unit t i a).state.mem.wf = true) : outWf (saveRun s ea first last rel unit) = true := by
  unfold saveRun
  dsimp only
  split
  · exact trapDone_wf h _ _ _
  · refine units_wf _ _ each _ _ ?_
    split
    exacts [settleCore_wf h _, h]
theorem execFenceF_wf {s : State} (h : s.mem.wf = true) : outWf (execFenceF s) = true := by
  grind [execFenceF, State.modMe_mem, stay_wf, retire_wf, outWf]

/-! The operations of Machine/Dictionary. -/

theorem dictUnits_wf (ea n : Nat) : ∀ {s : State} (k : Nat), s.mem.wf = true → outWf (dictUnits ea n k s) = true := by
  induction n with
  | zero => intro s k h; exact h
  | succ n ih =>
    intro s k h
    have did := vread_wf h s.actor.core (ea + 16 * k) 16 .read s.user true
    unfold dictUnits
    split
    next e => rw [e] at did; exact trapDone_wf (s := State.modMe _ _) did _ _ _
    next e => rw [e] at did; exact stay_wf (s := State.modMe _ _) did
    next e =>
      rw [e] at did
      dsimp only
      split
      · exact trapDone_wf (s := State.modMe _ _) (passStores_wf did _) _ _ _
      · exact ih (s := State.modMe _ _) _ (passStores_wf did _)
theorem execDictLd_wf {s : State} (h : s.mem.wf = true) (d base : Reg) (off : BitVec 22) : outWf (execDictLd d base off s) = true := by
  grind [execDictLd, dictUnits_wf, trapDone_wf, State.modMe_mem, outWf]
theorem execDictCommit_wf {s : State} (h : s.mem.wf = true) : outWf (execDictCommit s) = true := by
  grind [execDictCommit, State.modMe_mem, trap_wf, retire_wf, outWf]
theorem execDictRd_wf {s : State} (h : s.mem.wf = true) (d a : Reg) (stg hx : Bool) : outWf (execDictRd d a stg hx s) = true := h

/-! The operations of Machine/Fabric. -/

theorem State.modChan_mem (s : State) (k : ℕ) (c : ℕ) (f : Chan → Chan) : (State.modChan s k c f).mem = s.mem := rfl
theorem State.modElem_mem (s : State) (k : ℕ) (q : ℕ) (e : ℕ) (f : EPly → EPly) : (State.modElem s k q e f).mem = s.mem := rfl
theorem State.modReqs_mem (s : State) (k : ℕ) (e : ℕ) (f : List Req → List Req) : (State.modReqs s k e f).mem = s.mem := rfl
theorem sendChan_wf {s : State} (h : s.mem.wf = true) (k e ch prod : ℕ) (t : Token) : optWf (sendChan s k e ch prod t) = true := by
  grind [sendChan, State.modFab_mem, optWf]
theorem sendRemote_wf {s : State} (h : s.mem.wf = true) (b : FarBind) (t : Token) : optWf (sendRemote s b t) = true := by
  grind [sendRemote, sendChan_wf, optWf]
theorem sendTo_wf {s : State} (h : s.mem.wf = true) (k q : ℕ) (t : Token) (cmd : Option EngCmd) (d : Endpt) : optWf (sendTo s k q t cmd d) = true := by
  unfold sendTo
  grind [State.modFab_mem, sendChan_wf, sendRemote_wf, optWf]
theorem sendDest_wf {s : State} (h : s.mem.wf = true) (k q : ℕ) (t : Token) (cmd : Option EngCmd) (d : Endpt) : optWf (sendDest s k q t cmd d) = true := by
  unfold sendDest
  split
  · split
    · exact optWf_bind (sendTo_wf h _ _ _ _ _) fun t g => sendTo_wf g _ _ _ _ _
    · exact sendTo_wf h _ _ _ _ _
  · exact sendTo_wf h _ _ _ _ _
theorem sendFrom_wf {s : State} (h : s.mem.wf = true) (k q : ℕ) (x : Endpt) (t : Token) (cmd : Option EngCmd) : optWf (sendFrom s k q x t cmd) = true := by
  unfold sendFrom
  split
  · exact h
  · exact foldlM_wf (fun t d g => sendDest_wf g _ _ _ _ _) _ h
theorem emitMask_wf {s : State} (h : s.mem.wf = true) (k q e mask : ℕ) (t : Token) (cmd : Option EngCmd) : optWf (emitMask s k q e mask t cmd) = true :=
  foldlM_wf (fun _ _ g => sendFrom_wf g _ _ _ _ _) _ h
theorem grantSlot_wf (s : State) (k q e ch : Nat) (t : Token) {u : State} (h : u.mem.wf = true) : (grantSlot s k q e ch t u).mem.wf = true := by
  unfold grantSlot
  split <;> exact h
theorem popHead_wf {s : State} (h : s.mem.wf = true) (k q e ch : ℕ) : (popHead s k q e ch).mem.wf = true := by
  grind [popHead, State.modChan_mem, grantSlot_wf, State.modElem_mem]
theorem popMask_wf {s : State} (h : s.mem.wf = true) (k q e mask : ℕ) : (popMask s k q e mask).mem.wf = true := foldl_wf (fun _ _ g => popHead_wf g _ _ _ _) _ h
theorem State.modEply_mem (s : State) (f : EPly → EPly) : (State.modEply s f).mem = s.mem := rfl
theorem placeAll_wf {s s1 : State} (h : s.mem.wf = true) (h1 : s1.mem.wf = true) (pops : Nat) (outs : List (Nat × Token × Option EngCmd)) :
    outWf (placeAll s s1 pops outs) = true := by
  have placed := foldlM_wf (f := fun u (x : Nat × Token × Option EngCmd) => emitMask u s.actor.core s.actor.ply s.actor.elem x.1 x.2.1 x.2.2)
    (fun t x g => emitMask_wf g _ _ _ _ _ _) outs (popMask_wf h1 s.actor.core s.actor.ply s.actor.elem pops)
  unfold placeAll
  dsimp only
  split
  next u e => rw [e] at placed; exact placed
  next => exact h
theorem endBranch_wf {s : State} (h : s.mem.wf = true) : outWf (endBranch s) = true := placeAll_wf h h _ _
theorem fireTag_wf {s s1 : State} (h : s.mem.wf = true) (h1 : s1.mem.wf = true) (d : EDst) (l : List ESrc) (v : Word) (tag : Nat) (upd : Bool → EPly → EPly) :
    outWf (fireTag s s1 d l v tag upd) = true := placeAll_wf (s1 := s1.modEply _) h h1 _ _
theorem fire_wf {s : State} (h : s.mem.wf = true) (d : EDst) (l : List ESrc) (v : Word) : outWf (fire s d l v) = true := by
  unfold fire
  split
  exacts [endBranch_wf h, fireTag_wf h h _ _ _ _ _]
theorem fireP_wf {s : State} (h : s.mem.wf = true) (d : EDst) (l : List ESrc) (v : Word) (p : Pred) (b : Bool) : outWf (fireP s d l v p b) = true := by
  unfold fireP
  split
  exacts [endBranch_wf h, fireTag_wf h h _ _ _ _ _]
theorem fireDraw_wf {s : State} (h : s.mem.wf = true) (d : EDst) (l : List ESrc) {f : State → Word × State} (draw : (f s).2.mem.wf = true) :
    outWf (fireDraw s d l f) = true := by unfold fireDraw; split; exacts [endBranch_wf h, fireTag_wf h draw _ _ _ _ _]

/-! The operations of Machine/Faults. -/

theorem faultEvent_wf {s : State} (h : s.mem.wf = true) (k n q cause seq rcb : ℕ) : (faultEvent s k n q cause seq rcb).mem.wf = true := h
theorem raiseFault_wf {s : State} (h : s.mem.wf = true) (r : Raise) : (raiseFault s r).mem.wf = true := by
  grind [raiseFault, faultRecord_wf, discardStaged_wf, faultEvent_wf, State.modCtx_mem, State.modQueue_mem, State.modPart_mem, State.modElem_mem]
theorem fabricFault_wf {s : State} (h : s.mem.wf = true) (k q src unit node : ℕ) (elem : Option ℕ) (c : Cause) (tval detail : ℕ) : (fabricFault s k q src unit node elem c tval detail).mem.wf = true := by
  grind [fabricFault, raiseFault_wf]
theorem dropFaults_wf {s : State} (h : s.mem.wf = true) (k n : ℕ) : (dropFaults s k n).mem.wf = true := h
theorem storeState_wf {s : State} (h : s.mem.wf = true) (k : ℕ) (rcb : Word) (v : ℕ) (user : Bool) : (storeState s k rcb v user).state.mem.wf = true := by
  grind [storeState, vwrite_wf, Mr.state]
theorem regionDone_wf {s : State} (h : s.mem.wf = true) (k n q : ℕ) (faulted : Bool) (cause : ℕ) (rcb : Word) : (regionDone s k n q faulted cause rcb).mem.wf = true := h
theorem dropSlice_wf {s : State} (h : s.mem.wf = true) (d id : ℕ) : (dropSlice s d id).mem.wf = true := h
theorem freeServer_wf {s : State} (h : s.mem.wf = true) (k n : ℕ) : (freeServer s k n).mem.wf = true := by
  grind [freeServer, freePly_wf, dropFaults_wf, State.modCtx_mem]
theorem closeRegion_wf {s : State} (h : s.mem.wf = true) (k n : ℕ) (faulted : Bool) (cause : ℕ) : (closeRegion s k n faulted cause).mem.wf = true := by
  grind [closeRegion, freeServer_wf, regionDone_wf, State.modCtx_mem, dropSlice_wf]
theorem endFaulted_wf {s : State} (h : s.mem.wf = true) (k n cause : ℕ) : outWf (endFaulted s k n cause) = true := by
  grind [endFaulted, discardStaged_wf, closeRegion_wf, storeState_wf, Mr.state, outWf]
theorem State.modFar_mem (s : State) (k : ℕ) (q : ℕ) (n : ℕ) (f : Far → Far) : (State.modFar s k q n f).mem = s.mem := rfl
theorem farEnd_wf {s : State} (h : s.mem.wf = true) (k q n : ℕ) : (farEnd s k q n).mem.wf = true := by
  grind [farEnd, State.modFar_mem, sendTo_wf, optWf]
theorem sendTail_wf {s : State} (h : s.mem.wf = true) (k q n : ℕ) (t : Token) : optWf (sendTail s k q n t) = true :=
  optWf_map (sendTo_wf (s := s.modFar k q n _) h k q t none (.far n)) fun _ g => g
theorem emptyGroup_wf {s : State} (h : s.mem.wf = true) (k q : ℕ) (g : List ℕ) : (emptyGroup s k q g).mem.wf = true := h
theorem engineDone_wf {s : State} (h : s.mem.wf = true) (k n : ℕ) (c : EngCmd) : (engineDone s k n c).mem.wf = true := h
theorem report_wf {s : State} (h : s.mem.wf = true) (k n : ℕ) (c : EngCmd) : (report s k n c).mem.wf = true := by
  grind [report, State.modEngine_mem, engineDone_wf]
theorem dropHeld_wf {s : State} (h : s.mem.wf = true) (k q n : ℕ) : (dropHeld s k q n).mem.wf = true := foldl_wf (fun _ _ g => report_wf g _ _ _) _ h
theorem containGroup_wf {s : State} (h : s.mem.wf = true) (k q : ℕ) (g : List ℕ) : (containGroup s k q g).mem.wf = true := by
  unfold containGroup
  dsimp only
  refine foldl_wf (fun t n g => dropHeld_wf g _ _ _) _ (foldl_wf (fun t n g => by exact g) _ (foldl_wf (fun t n g => ?_) _ ?_))
  · split
    · split
      exacts [farEnd_wf g _ _ _, g]
    · exact g
  · exact foldl_wf (fun t e g => by exact g) _ (emptyGroup_wf (foldl_wf (fun t e g => returnSlots_wf g _ _) _ h) _ _ _)
theorem redSlots_wf {s : State} (h : s.mem.wf = true) (k q e : ℕ) : (redSlots s k q e).mem.wf = true := foldl_wf (fun t j g => by exact g) _ h
theorem rollbackGroup_wf {s : State} (h : s.mem.wf = true) (k q : ℕ) (g : List ℕ) (n : ℕ) : (rollbackGroup s k q g n).mem.wf = true := by
  unfold rollbackGroup
  exact foldl_wf (fun t m g => by exact g) _ (foldl_wf (fun t n g => by exact g) _ (foldl_wf (fun t e g => redSlots_wf g k q e) _ (emptyGroup_wf h k q g)))
theorem State.modSlice_mem (s : State) (d : ℕ) (id : ℕ) (f : Slice → Slice) : (State.modSlice s d id f).mem = s.mem := rfl
theorem setFault_wf {s : State} (h : s.mem.wf = true) (f : FaultRef) (g : Option FaultRef) : (setFault s f g).mem.wf = true := h
theorem restartUnit_wf {s : State} (h : s.mem.wf = true) (f : FaultRef) : (restartUnit s f).mem.wf = true := by
  grind [restartUnit, State.modReqs_mem, State.modFab_mem, State.modEngine_mem, State.modSlice_mem, State.modCtx_mem, State.modStream_mem]

/-! The operations of Machine/ElemInt. -/

theorem fire2_wf {s : State} (h : s.mem.wf = true) (d : EDst) (a b : ESrc) (t : Ty) (f : ℤ → ℤ → ℤ) : outWf (fire2 s d a b t f) = true := by
  grind [fire2, fire_wf, outWf]
theorem fireCmp_wf {s : State} (h : s.mem.wf = true) (d : EDst) (a b : ESrc) (t : Ty) (p : Pred) (f : ℤ → ℤ → Bool) : outWf (fireCmp s d a b t p f) = true := by
  grind [fireCmp, fireP_wf, outWf]

/-! The operations of Machine/Float. -/

theorem takeDraws_wf {s : State} (h : s.mem.wf = true) (rm : Rm) (n : ℕ) : (takeDraws s rm n).2.mem.wf = true := by
  grind [takeDraws, State.setSeed_mem]

/-! The operations of Machine/ElemFloat. -/

theorem fireF_wf {s : State} (h : s.mem.wf = true) (d : EDst) (l : List ESrc) (t : Ty) (rm : Rm) (f : Rm → ℕ → Num) : outWf (fireF s d l t rm f) = true := by
  grind [fireF, fireDraw_wf, takeDraws_wf, outWf]
theorem fireFcmp_wf {s : State} (h : s.mem.wf = true) (d : EDst) (a b : ESrc) (t : Ty) (p : Pred) (un : Bool) (f : ℤ → ℤ → Bool) : outWf (fireFcmp s d a b t p un f) = true := by
  grind [fireFcmp, fireP_wf, outWf]

/-! The operations of Machine/Loader. -/

theorem fetchImage_wf {s : State} (h : s.mem.wf = true) (k : ℕ) (addr : Word) (user : Bool) : (fetchImage s k addr user).state.mem.wf = true := by
  unfold fetchImage
  dsimp only
  split
  · exact h
  · split
    · exact h
    · refine Mr.andThen_wf (vread_wf h _ _ _ _ _ _) fun hd t g => ?_
      split
      · exact g
      · exact Mr.andThen_wf (vreadMany_wf _ _ _ _ _ _ g) fun _ u g => g
theorem loadImage_wf {s : State} (h : s.mem.wf = true) (k n : ℕ) (addr : Word) (user : Bool) : (loadImage s k n addr user).state.mem.wf = true :=
  Mr.andThen_wf (fetchImage_wf h k addr user) fun bs t g => by dsimp only; split <;> exact g

/-! The operations of Machine/Queues. -/

theorem pushToken_wf {s : State} (h : s.mem.wf = true) (k q : ℕ) (g : Option Deadline) (t : Wide) : (pushToken s k q g t).mem.wf = true := h
theorem reserveSlots_wf {s : State} (h : s.mem.wf = true) (q n : ℕ) : (reserveSlots s q n).mem.wf = true := h
theorem grantRsv_wf {s : State} (h : s.mem.wf = true) (rv : Rsv) (amp : Bool) (q n : ℕ) : ∀ x, (grantRsv s rv amp q n) = some x → x.2.mem.wf = true := by
  intro x hx
  unfold grantRsv at hx
  grind [reserveSlots_wf]
theorem landPush_wf {s : State} (h : s.mem.wf = true) (k : ℕ) (x : Push) : optWf (landPush s k x) = true := by
  unfold landPush
  dsimp only
  split
  · split
    · exact fabricFault_wf (returnSlots_wf h _ _) _ _ _ _ _ _ _ _ _
    · exact pushToken_wf h _ _ _ _
  · exact returnSlots_wf h _ _
  · split
    · exact fabricFault_wf h _ _ _ _ _ _ _ _ _
    · refine emitMask_wf ?_ _ _ _ _ _ _
      rw [State.modElem_mem]
      split
      next rv u e => exact grantRsv_wf h _ _ _ _ _ e
      next => exact h
theorem landPushes_wf (k e : Nat) (l : List Push) : ∀ {s : State} (held : List Nat), s.mem.wf = true → (landPushes k e held l s).2.mem.wf = true := by
  induction l with
  | nil => intro s held h; exact h
  | cons x l ih =>
    intro s held h
    have landed := landPush_wf h k x
    unfold landPushes
    dsimp only
    split
    · exact ih _ h
    · split
      next t e => rw [e] at landed; exact ih _ landed
      next => exact ih _ h
theorem flushPushes_wf {s : State} (h : s.mem.wf = true) (k e : ℕ) : (flushPushes s k e).mem.wf = true := by
  grind [flushPushes, State.modFab_mem, landPushes_wf]

/-! The operations of Machine/Select. -/

theorem sendMarker_wf {s : State} (h : s.mem.wf = true) (k q : ℕ) (d : Endpt) : (sendMarker s k q d).mem.wf = true := h
theorem latchPly_wf {s : State} (h : s.mem.wf = true) (k n q : ℕ) (commit : Option Word) : (latchPly s k n q commit).mem.wf = true := by
  unfold latchPly
  dsimp only
  split
  exacts [h, foldl_wf (fun t d g => sendMarker_wf g _ _ _) _ h]
theorem parkMessage_wf {s : State} (h : s.mem.wf = true) (k : ℕ) (m : PortMsg) : (parkMessage s k m).mem.wf = true := by
  grind [parkMessage, State.modPort_mem, partFault_wf]
theorem dropMessage_wf {s : State} (h : s.mem.wf = true) (k n : ℕ) : (dropMessage s k n).mem.wf = true := h
theorem commitPly_wf {s : State} (h : s.mem.wf = true) (k n q : ℕ) : (commitPly s k n q).mem.wf = true := by
  grind [commitPly, freePly_wf, State.modPly_mem, State.modFab_mem, releaseParked_wf, State.modCtx_mem]
theorem rcbPath_wf (k : Nat) (user : Bool) (n : Nat) : ∀ {s : State} (a : Nat), s.mem.wf = true → (rcbPath k user n a s).state.mem.wf = true := by
  induction n with
  | zero => intro s a h; exact h
  | succ n ih =>
    intro s a h
    unfold rcbPath
    split
    · exact h
    · refine Mr.andThen_wf (vreadMany_wf _ _ _ _ _ _ h) fun b t g => ?_
      split
      exacts [g, Mr.andThen_wf (ih _ g) fun _ u g => g]
theorem readBlocks_wf {s : State} (h : s.mem.wf = true) (k : ℕ) (user : Bool) (b : List Byte) : (readBlocks s k user b).state.mem.wf = true := by
  unfold readBlocks
  dsimp only
  split
  · exact h
  · refine Mr.andThen_wf (vreadMany_wf _ _ _ _ _ _ h) fun bs t g => ?_
    split <;> exact g
theorem openRegion_wf {s : State} (h : s.mem.wf = true) (k n : ℕ) (rcb : Word) (user : Bool) : (openRegion s k n rcb user).state.mem.wf = true := by
  unfold openRegion
  split
  · exact h
  · split
    · exact h
    · refine Mr.andThen_wf (rcbPath_wf _ _ _ _ h) fun l t g => ?_
      dsimp only
      split
      · exact g
      · refine Mr.andThen_wf ?_ fun blocks u g => Mr.andThen_wf (storeState_wf g _ _ _ _) fun _ v g => g
        split
        exacts [readBlocks_wf g _ _ _, g]

/-! The operations of Machine/EvPower. -/

theorem meterCount_wf {s : State} (h : s.mem.wf = true) (k : ℕ) : (meterCount s k).mem.wf = true := h
theorem execEdgeMeterWindow_wf {s : State} (h : s.mem.wf = true) (core : ℕ) : outWf (execEdgeMeterWindow core s) = true := by
  grind [execEdgeMeterWindow, State.modCore_mem, outWf]
theorem State.modPower_mem (s : State) (f : Power → Power) : (State.modPower s f).mem = s.mem := rfl
theorem setPoints_wf {s : State} (h : s.mem.wf = true) : (setPoints s).mem.wf = true := foldl_wf (fun t x g => by exact g) _ h
theorem setDegrade_wf {s : State} (h : s.mem.wf = true) (b : Bool) : (setDegrade s b).mem.wf = true := foldl_wf (fun t d g => by exact g) _ h
theorem slowPlains_wf {s : State} (h : s.mem.wf = true) : (slowPlains s).mem.wf = true := by
  grind [slowPlains, setPoints_wf, State.modPower_mem]
theorem powerStep_wf {s : State} (h : s.mem.wf = true) : (powerStep s).mem.wf = true := by
  grind [powerStep, slowPlains_wf, setDegrade_wf, State.modPower_mem]
theorem powerUndo_wf {s : State} (h : s.mem.wf = true) : (powerUndo s).mem.wf = true := by
  grind [powerUndo, setDegrade_wf, setPoints_wf, State.modPower_mem]
theorem execPowerSample_wf {s : State} (h : s.mem.wf = true) (meas : ℕ) : outWf (execPowerSample meas s) = true := by
  grind [execPowerSample, powerUndo_wf, powerStep_wf, State.modPower_mem, outWf]
theorem execPlainClockResume_wf {s : State} (h : s.mem.wf = true) (die cluster : ℕ) : outWf (execPlainClockResume die cluster s) = true := by
  grind [execPlainClockResume, State.modDie_mem, outWf]
theorem powerMessage_wf {s : State} (h : s.mem.wf = true) (m : Wide) : optWf (powerMessage s m) = true := by
  grind [powerMessage, State.modPower_mem, optWf]
theorem powerArrival_wf {s : State} (h : s.mem.wf = true) (m : Wide) : (powerArrival s m).mem.wf = true := optWf_getD (powerMessage_wf h m) (dropMessage_wf h _ _)
theorem execPowerGrant_wf {s : State} (h : s.mem.wf = true) (msg : BitVec 128) : outWf (execPowerGrant msg s) = true := by
  grind [execPowerGrant, powerArrival_wf, outWf]
theorem execPowerLend_wf {s : State} (h : s.mem.wf = true) (msg : BitVec 128) : outWf (execPowerLend msg s) = true := by
  grind [execPowerLend, powerArrival_wf, outWf]
theorem execGrantLeaseEnd_wf {s : State} (h : s.mem.wf = true) : outWf (execGrantLeaseEnd s) = true := by
  grind [execGrantLeaseEnd, State.modPower_mem, outWf]
theorem execLendLeaseEnd_wf {s : State} (h : s.mem.wf = true) (n : ℕ) : outWf (execLendLeaseEnd n s) = true := by
  grind [execLendLeaseEnd, State.modPower_mem, outWf]
theorem execLentReturn_wf {s : State} (h : s.mem.wf = true) (n : ℕ) : outWf (execLentReturn n s) = true := by
  grind [execLentReturn, State.modPower_mem, outWf]
theorem execSendLend_wf {s : State} (h : s.mem.wf = true) (_pkg watts lease : ℕ) : outWf (execSendLend _pkg watts lease s) = true := by
  grind [execSendLend, State.modPower_mem, outWf]
theorem State.modLink_mem (s : State) (n : ℕ) (f : Link → Link) : (State.modLink s n f).mem = s.mem := rfl
theorem execFlitCrcFail_wf {s : State} (h : s.mem.wf = true) (link : ℕ) : outWf (execFlitCrcFail link s) = true := h
theorem execLinkRetrained_wf {s : State} (h : s.mem.wf = true) (link : ℕ) : outWf (execLinkRetrained link s) = true := by
  grind [execLinkRetrained, State.modLink_mem, flushWaits_wf, outWf]
theorem passFlit_wf {s : State} (h : s.mem.wf = true) (link : ℕ) : (passFlit link s).mem.wf = true := by
  grind [passFlit, State.modLink_mem, flushWaits_wf]
theorem recordAll_wf {s : State} (h : s.mem.wf = true) (ps : List ℕ) (c : Cause) : (recordAll s ps c).mem.wf = true :=
  foldl_wf (fun _ _ g => partFault_wf g _ _ _ _ _) _ h
theorem execLinkDown_wf {s : State} (h : s.mem.wf = true) (link : ℕ) : outWf (execLinkDown link s) = true := by
  grind [execLinkDown, State.modLink_mem, flushWaits_wf, recordAll_wf, outWf]
theorem execHostLinkDown_wf {s : State} (h : s.mem.wf = true) : outWf (execHostLinkDown s) = true := by
  grind [execHostLinkDown, State.modIod_mem, recordAll_wf, outWf]
theorem execIdeIntegrity_wf {s : State} (h : s.mem.wf = true) : outWf (execIdeIntegrity s) = true := by
  grind [execIdeIntegrity, State.modIod_mem, recordAll_wf, outWf]
theorem execThermalTrip_wf {s : State} (h : s.mem.wf = true) : outWf (execThermalTrip s) = true := foldl_wf (fun t x g => by exact g) _ h

/-! The operations of Machine/SeqSys. -/

theorem clearPending_wf {s : State} (h : s.mem.wf = true) : (clearPending s).mem.wf = true := by
  grind [clearPending, State.modMe_mem, State.modIod_mem]
theorem execHalt_wf {s : State} (h : s.mem.wf = true) : outWf (execHalt s) = true := by
  grind [execHalt, stopContext_wf, State.modMe_mem, clearPending_wf, trap_wf, outWf]
theorem execBrk_wf {s : State} (h : s.mem.wf = true) (code : BitVec 16) : outWf (execBrk code s) = true := by
  grind [execBrk, stopContext_wf, State.modMe_mem, trap_wf, outWf]
theorem execEret_wf {s : State} (h : s.mem.wf = true) : outWf (execEret s) = true := by
  grind [execEret, takePending_wf, State.modMe_mem, trap_wf, outWf]
theorem ctrlWrite_wf {s : State} (h : s.mem.wf = true) (idx : ℕ) (v : Word) : (ctrlWrite s idx v).mem.wf = true := by
  unfold ctrlWrite
  grind [State.modMe_mem, State.setSeed_mem]
theorem execCrr_wf {s : State} (h : s.mem.wf = true) (d : Reg) (idx : BitVec 12) : outWf (execCrr d idx s) = true := by
  grind [execCrr, retireWith_wf, trap_wf, outWf]
theorem execCrw_wf {s : State} (h : s.mem.wf = true) (idx : BitVec 12) (a : Reg) : outWf (execCrw idx a s) = true := by
  grind [execCrw, takePending_wf, State.modMe_mem, trap_wf, ctrlWrite_wf, outWf]
theorem popEvent_wf {s : State} (h : s.mem.wf = true) (d a : Reg) (r : Wide) (rest : List Wide) : outWf (popEvent s d a r rest) = true := h
theorem execEvpop_wf {s : State} (h : s.mem.wf = true) (d a : Reg) : outWf (execEvpop d a s) = true := by
  grind [execEvpop, popEvent_wf, State.setReg_mem, retire_wf, outWf]
theorem execEvwait_wf {s : State} (h : s.mem.wf = true) (d a : Reg) : outWf (execEvwait d a s) = true := by
  grind [execEvwait, popEvent_wf, waitFor_wf, outWf]

/-! The operations of Machine/Matrix. -/

theorem State.modMxCtx_mem (s : State) (k : ℕ) (n : ℕ) (f : MxCtx → MxCtx) : (State.modMxCtx s k n f).mem = s.mem := rfl
theorem enterMatrix_wf {s : State} (h : s.mem.wf = true) (i : Instr) (bad : Option Word) (a b : Word) (rm : Rm) : outWf (enterMatrix s i bad a b rm) = true := by
  unfold enterMatrix
  grind [State.modMx_mem, State.modMe_mem, trap_wf, retire_wf, outWf]
theorem execMxWait_wf {s : State} (h : s.mem.wf = true) (n : BitVec 5) : outWf (execMxWait n s) = true := by
  grind [execMxWait, State.modMe_mem, waitFor_wf, trap_wf, retire_wf, outWf]

/-! The operations of Machine/Buffers. -/

theorem bufPut_wf {s : State} (h : s.mem.wf = true) (k sp off : ℕ) (bs : List Byte) : (bufPut s k sp off bs).mem.wf = true := h
theorem keepOlds_wf {s : State} (h : s.mem.wf = true) (k sp off n w : ℕ) : (keepOlds s k sp off n w).mem.wf = true := by unfold keepOlds; split <;> exact h
theorem dropOlds_wf {s : State} (h : s.mem.wf = true) (k w : ℕ) : (dropOlds s k w).mem.wf = true := h
theorem seenOnce_wf {s : State} (h : s.mem.wf = true) (k : ℕ) : (seenOnce s k).mem.wf = true := by
  grind [seenOnce]

/-! The operations of Machine/Streams. -/

theorem armPort_wf {s : State} (h : s.mem.wf = true) (ind : Bool) (a : Reg) (port : ℕ) : outWf (armPort ind a port s) = true := by
  grind [armPort, trap_wf, State.modStream_mem, retire_wf, outWf]
theorem oweStores_wf {s : State} (h : s.mem.wf = true) (k : ℕ) (rel : Bool) (id : ℕ) : (oweStores s k rel id).mem.wf = true := h
theorem execStrGo_wf {s : State} (h : s.mem.wf = true) (a : Reg) (port : Fin 16) : outWf (execStrGo a port s) = true := by
  grind [execStrGo, oweStores_wf, State.modCore_mem, trap_wf, State.modStream_mem, retire_wf, outWf]
theorem execStrBar_wf {s : State} (h : s.mem.wf = true) (mask : BitVec 16) : outWf (execStrBar mask s) = true := retire_wf (foldl_wf (fun t n g => by exact g) _ h)
theorem execStrWait_wf {s : State} (h : s.mem.wf = true) (d : Reg) (mask : BitVec 16) : outWf (execStrWait d mask s) = true := by
  unfold execStrWait
  dsimp only
  split
  exacts [retireWith_wf (foldl_wf (fun t n g => by exact g) _ h) _ _, waitFor_wf h _]
theorem pageJoins_wf {s : State} (h : s.mem.wf = true) (k e base va i : ℕ) : (pageJoins s k e base va i).state.mem.wf = true :=
  Mr.andThen_wf (probePage_wf h k _) fun r t g => by split <;> exact g
theorem runPages_wf (k e base va n : Nat) : ∀ {s : State} (i : Nat), s.mem.wf = true → (runPages k e base va n i s).2.mem.wf = true := by
  induction n with
  | zero => intro s i h; exact h
  | succ n ih => intro s i h; grind [runPages, pageJoins_wf, Mr.state]
theorem windowFrom_wf {s : State} (h : s.mem.wf = true) (k port slot : ℕ) (b : WinBuild) (va n : ℕ) : (windowFrom s k port slot b va n).state.mem.wf = true := by
  grind [windowFrom, runPages_wf, State.modStream_mem, Mr.state]
theorem windowWalk_wf {s : State} (h : s.mem.wf = true) (k port slot va n : ℕ) (acc : Acc) (ok : ℕ → Bool) : (windowWalk s k port slot va n acc ok).state.mem.wf = true := by
  unfold windowWalk
  split
  · exact Mr.andThen_wf (windowFrom_wf h _ _ _ _ _ _) fun _ t g => g
  · refine Mr.andThen_wf (hostWalk_wf h _ _ _ _) fun r t g => ?_
    split
    exacts [Mr.andThen_wf (windowFrom_wf g _ _ _ _ _ _) fun _ t g => g, g]
theorem execWinSet_wf {s : State} (h : s.mem.wf = true) (d a b : Reg) (entry : Fin 4) (port : Fin 16) : outWf (execWinSet d a b entry port s) = true := by
  grind [execWinSet, windowWalk_wf, retireWith_wf, trap_wf, Mr.seq_wf, State.modStream_mem, Mr.state, outWf]
theorem execWinClr_wf {s : State} (h : s.mem.wf = true) (all : Bool) (entry : Fin 4) (port : Fin 16) : outWf (execWinClr all entry port s) = true := by
  grind [execWinClr, trap_wf, State.modStream_mem, retire_wf, outWf]
theorem streamReach_wf {s : State} (h : s.mem.wf = true) (k port va last : ℕ) (write : Bool) : (streamReach s k port va last write).state.mem.wf = true := by
  unfold streamReach
  dsimp only
  split
  · exact h
  · split
    · exact h
    · refine Mr.andThen_wf (windowWalk_wf h _ _ _ _ _ _ _) fun r t g => ?_
      split <;> exact g

/-! The operations of Machine/Issue. -/

theorem fetchHalf_wf {s : State} (h : s.mem.wf = true) (k : ℕ) (c : Ctx) (a : Word) : (fetchHalf s k c a).state.mem.wf = true :=
  Mr.andThen_wf (vread_wf h _ _ _ _ _ _) fun _ _ g => g
theorem prefetch_wf {s : State} (h : s.mem.wf = true) (k n a : ℕ) : (prefetch k n a s).mem.wf = true := by
  grind [prefetch, fetchHalf_wf, State.modCtx_mem, Mr.state]
theorem fetchRest_wf (k : Nat) (c : Ctx) (n : Nat) : ∀ {s : State} (a : Word) (v : Nat), s.mem.wf = true → (fetchRest k c n a v s).state.mem.wf = true := by
  induction n with
  | zero => intro s a v h; exact h
  | succ n ih => intro s a v h; exact Mr.andThen_wf (fetchHalf_wf h k c a) fun _ t g => ih _ _ g
theorem peek_wf {s : State} (h : s.mem.wf = true) (k n : ℕ) : (peek s k n).2.mem.wf = true := by
  grind [peek, fetchHalf_wf, fetchRest_wf, Mr.state]
theorem settle_wf {s : State} (h : s.mem.wf = true) (k n : ℕ) : (settle s k n).mem.wf = true := by
  grind [settle, takeStop_wf, takePending_wf, State.setCtx_mem]
theorem tryIssue_wf {s : State} (h : s.mem.wf = true) (k n : ℕ) : (tryIssue k n s).2.mem.wf = true := by
  grind [tryIssue, peek_wf]
theorem firstIssue_wf (k : Nat) (ns : List Nat) : ∀ {s : State}, s.mem.wf = true → (firstIssue k ns s).2.mem.wf = true := by
  induction ns with
  | nil => intro s h; exact h
  | cons n ns ih => intro s h; grind [firstIssue, tryIssue_wf]
theorem issuePick_wf {s : State} (h : s.mem.wf = true) (k : ℕ) : pickWf (issuePick k s) = true := by
  have found := firstIssue_wf k (searchOrder (s.core k).last) (foldl_wf (fun t n g => settle_wf g k n) (List.range 4) h)
  unfold issuePick
  generalize firstIssue k (searchOrder (s.core k).last) ((List.range 4).foldl (fun t n => settle t k n) s) = r at found
  grind [pickWf, outWf, retire_wf, State.modCore_mem]
theorem resumePick_wf {s : State} (h : s.mem.wf = true) (k n : ℕ) : pickWf (resumePick k n s) = true := by grind [resumePick, pickWf, outWf]
theorem firePick_wf {s : State} (h : s.mem.wf = true) (k e : ℕ) : pickWf (firePick k e s) = true := by grind [firePick, pickWf, outWf]
theorem policyPick_wf {s : State} (h : s.mem.wf = true) (d c n : ℕ) : pickWf (policyPick d c n s) = true := by grind [policyPick, pickWf, outWf]
theorem before_wf {s : State} (h : s.mem.wf = true) (l : List Instr) : (State.before s l).mem.wf = true := h
theorem tick_wf {s : State} (h : s.mem.wf = true) (c : Clock) : (tick c s).mem.wf = true := by
  unfold tick
  grind [State.modDie_mem, before_wf, State.modIod_mem]
theorem execIllegalParcel_wf {s : State} (h : s.mem.wf = true) (cause : Cause) (fetch : Bool) (psz : Fin 4) (tval : Word) : outWf (execIllegalParcel cause fetch psz tval s) = true := by
  grind [execIllegalParcel, enterTrap_wf, State.modMe_mem, outWf]

/-! The operations of Machine/Policy. -/

theorem State.modDec_mem (s : State) (d : ℕ) (c : ℕ) (n : ℕ) (f : Decision → Decision) : (State.modDec s d c n f).mem = s.mem := rfl
theorem policyStep_wf {s : State} (h : s.mem.wf = true) (t : ℕ) (f : Decision → Decision) : outWf (policyStep s t f) = true := by
  grind [policyStep, State.modDec_mem, outWf]
theorem policySet_wf {s : State} (h : s.mem.wf = true) (d : PReg) (f : Decision → Word) : outWf (policySet s d f) = true := by
  grind [policySet, policyStep_wf, outWf]
theorem maskKeep_wf {s : State} (h : s.mem.wf = true) (r : PReg) (f : BitVec 5) (c : Word → Word → Bool) : outWf (maskKeep s r f c) = true := policyStep_wf h _ _
theorem policyJump_wf {s : State} (h : s.mem.wf = true) (o : ℕ) (c : Decision → Bool) : outWf (policyJump s o c) = true := by
  grind [policyJump, policyStep_wf, outWf]
theorem policyVerdict_wf {s : State} (h : s.mem.wf = true) (code : ℕ) (f : Decision → ℕ) : outWf (policyVerdict s code f) = true := by
  grind [policyVerdict, policyStep_wf, outWf]

/-! The operations of Machine/SeqFabric. -/

theorem execCfgLd_wf {s : State} (h : s.mem.wf = true) (d a : Reg) (auto : Bool) (ply : Fin 4) : outWf (execCfgLd d a auto ply s) = true := by
  grind [execCfgLd, freePly_wf, State.modPly_mem, fillPly_wf, settleCore_wf, loadImage_wf, stay_wf, retireWith_wf, trap_wf, Mr.state, outWf]
theorem execCfgCommit_wf {s : State} (h : s.mem.wf = true) (ply : Fin 4) : outWf (execCfgCommit ply s) = true := by
  grind [execCfgCommit, latchPly_wf, trap_wf, outWf]
theorem execCfgDrop_wf {s : State} (h : s.mem.wf = true) (ply : Fin 4) : outWf (execCfgDrop ply s) = true := by
  grind [execCfgDrop, freePly_wf, discardStaged_wf, trap_wf, retire_wf, outWf]
theorem execCfgDropImg_wf {s : State} (h : s.mem.wf = true) (a : Reg) : outWf (execCfgDropImg a s) = true := h
theorem execRgnWait_wf {s : State} (h : s.mem.wf = true) (d : Reg) : outWf (execRgnWait d s) = true := by
  grind [execRgnWait, waitFor_wf, retireWith_wf, trap_wf, outWf]
theorem unbindRegion_wf {s : State} (h : s.mem.wf = true) (k n : ℕ) : (unbindRegion s k n).mem.wf = true := h
theorem execRgnClose_wf {s : State} (h : s.mem.wf = true) : outWf (execRgnClose s) = true := by
  grind [execRgnClose, trap_wf, unbindRegion_wf, retire_wf, outWf]
theorem freeWhere_wf {s : State} (h : s.mem.wf = true) (k n : ℕ) (f : Ply → Bool) : (freeWhere s k n f).mem.wf = true :=
  foldl_wf (fun t q g => by split; exacts [freePly_wf g k q, g]) _ h
theorem freeLoads_wf {s : State} (h : s.mem.wf = true) (k n : ℕ) : (freeLoads s k n).mem.wf = true := freeWhere_wf (discardStaged_wf h k n) k n _
theorem freeStaged_wf {s : State} (h : s.mem.wf = true) (k n : ℕ) : (freeStaged s k n).mem.wf = true := freeWhere_wf (discardStaged_wf h k n) k n _
theorem abortRegion_wf {s : State} (h : s.mem.wf = true) (k n : ℕ) (g : Region) : (abortRegion s k n g).mem.wf = true := by
  grind [abortRegion, freePly_wf, freeLoads_wf, regionDone_wf, unbindRegion_wf, dropSlice_wf]
theorem execRgnCloseAbort_wf {s : State} (h : s.mem.wf = true) : outWf (execRgnCloseAbort s) = true := by
  grind [execRgnCloseAbort, abortRegion_wf, trap_wf, Mr.seq_wf, storeState_wf, unbindRegion_wf, retire_wf, Mr.state, outWf]
theorem execPortBindHnd_wf {s : State} (h : s.mem.wf = true) (a b : Reg) : outWf (execPortBindHnd a b s) = true := by
  grind [execPortBindHnd, State.modPort_mem, releaseParked_wf, trap_wf, retire_wf, outWf]
theorem execPortBindFar_wf {s : State} (h : s.mem.wf = true) (a b : Reg) (ply : Fin 4) : outWf (execPortBindFar a b ply s) = true := by
  grind [execPortBindFar, State.modPly_mem, trap_wf, retire_wf, outWf]
theorem execPortUnbindFar_wf {s : State} (h : s.mem.wf = true) (b : Reg) (ply : Fin 4) : outWf (execPortUnbindFar b ply s) = true := by
  grind [execPortUnbindFar, State.modPly_mem, trap_wf, retire_wf, outWf]
theorem execPermitK_wf {s : State} (h : s.mem.wf = true) (a : Reg) (kn : BitVec 4) : outWf (execPermitK a kn s) = true := by
  grind [execPermitK, trap_wf, retire_wf, State.modElem_mem, outWf]
theorem acrossTo_wf {s : State} (h : s.mem.wf = true) (q : Nat) {go : Out} (goes : outWf go = true) : outWf (acrossTo s q go) = true := by
  unfold acrossTo
  split
  exacts [goes, stay_wf h, trap_wf h _ _]
theorem execQrsv_wf {s : State} (h : s.mem.wf = true) (d a : Reg) (n : BitVec 5) : outWf (execQrsv d a n s) = true := by
  grind [execQrsv, acrossTo_wf, reserveSlots_wf, State.modMe_mem, retireWith_wf, trap_wf, outWf]
theorem execQpush_wf {s : State} (h : s.mem.wf = true) (a b c : Reg) : outWf (execQpush a b c s) = true := by
  grind [execQpush, acrossTo_wf, settleCore_wf, State.modMe_mem, trap_wf, pushToken_wf, retire_wf, outWf]

/-! The operations of Machine/PolicyLoad. -/

theorem readPolicy_wf {s : State} (h : s.mem.wf = true) (k a : ℕ) (user : Bool) : (readPolicy s k a user).state.mem.wf = true := by
  unfold readPolicy
  split
  · exact h
  · refine Mr.andThen_wf (vreadMany_wf _ _ _ _ _ _ h) fun hd t g => ?_
    split
    · exact g
    · refine Mr.andThen_wf (vreadMany_wf _ _ _ _ _ _ g) fun bs u g => ?_
      dsimp only
      split <;> exact g
theorem State.modPolicy_mem (s : State) (p : ℕ) (f : Policy → Policy) : (State.modPolicy s p f).mem = s.mem := rfl
theorem execPolicyLd_wf {s : State} (h : s.mem.wf = true) (a : Reg) : outWf (execPolicyLd a s) = true := by
  grind [execPolicyLd, settleCore_wf, readPolicy_wf, trap_wf, Mr.seq_wf, retire_wf, State.modPolicy_mem, Mr.state, outWf]
theorem execPolicySwap_wf {s : State} (h : s.mem.wf = true) (d : Reg) : outWf (execPolicySwap d s) = true := by
  grind [execPolicySwap, retireWith_wf, trap_wf, State.modPolicy_mem, outWf]
theorem execSwapTokenArrival_wf {s : State} (h : s.mem.wf = true) (part die : ℕ) : outWf (execSwapTokenArrival part die s) = true := by
  grind [execSwapTokenArrival, State.modPolicy_mem, outWf]
theorem execSwapDieAck_wf {s : State} (h : s.mem.wf = true) (part die : ℕ) : outWf (execSwapDieAck part die s) = true := by
  grind [execSwapDieAck, State.modPolicy_mem, outWf]
theorem execSwapComplete_wf {s : State} (h : s.mem.wf = true) (part : ℕ) : outWf (execSwapComplete part s) = true := by
  grind [execSwapComplete, partEvent_wf, State.modPolicy_mem, outWf]

/-! The operations of Machine/ElemFlow. -/

theorem execTagi_wf {s : State} (h : s.mem.wf = true) (d : EDst) (a : ESrc) (add : Bool) (n : BitVec 4) : outWf (execTagi d a add n s) = true := by
  grind [execTagi, endBranch_wf, fireTag_wf, outWf]
theorem execSteer_wf {s : State} (h : s.mem.wf = true) (d : EDst) (a : ESrc) (o : SteerOpts) : outWf (execSteer d a o s) = true := by
  grind [execSteer, State.modEply_mem, endBranch_wf, placeAll_wf, outWf]
theorem execMerge_wf {s : State} (h : s.mem.wf = true) (d : EDst) (di ti fi : Fin 4) : outWf (execMerge d di ti fi s) = true := by
  grind [execMerge, State.modEply_mem, placeAll_wf, outWf]
theorem modMergeu_wf {s : State} (h : s.mem.wf = true) (f : MergeU → MergeU) : (modMergeu s f).mem.wf = true := h
theorem execMergeu_wf {s : State} (h : s.mem.wf = true) (d : EDst) (tagb taga : BitVec 4) (ai bi : Fin 4) : outWf (execMergeu d tagb taga ai bi s) = true := by
  grind [execMergeu, State.modEply_mem, placeAll_wf, modMergeu_wf, outWf]
theorem execGate_wf {s : State} (h : s.mem.wf = true) (d : EDst) (a : ESrc) (cmask : BitVec 4) : outWf (execGate d a cmask s) = true := by
  grind [execGate, State.modEply_mem, placeAll_wf, outWf]
theorem execPermit_wf {s : State} (h : s.mem.wf = true) (d : EDst) (ci di : Fin 4) : outWf (execPermit d ci di s) = true := by
  grind [execPermit, State.modEply_mem, placeAll_wf, outWf]
theorem execEos_wf {s : State} (h : s.mem.wf = true) (d : EDst) (a : ESrc) (xv : Bool) : outWf (execEos d a xv s) = true := by
  grind [execEos, State.modEply_mem, placeAll_wf, outWf]
theorem sinkReport_wf {s : State} (h : s.mem.wf = true) (k q : ℕ) (err : Bool) : (sinkReport s k q err).mem.wf = true := by
  grind [sinkReport, raiseFault_wf, State.modCtx_mem]
theorem execSink_wf {s : State} (h : s.mem.wf = true) (d : EDst) (a : ESrc) (keep : Bool) (n : BitVec 8) : outWf (execSink d a keep n s) = true := by
  grind [execSink, State.modEply_mem, sinkReport_wf, placeAll_wf, outWf]
theorem saveCut_wf {s : State} (h : s.mem.wf = true) (k q e n : ℕ) : (saveCut s k q e n).mem.wf = true := foldl_wf (fun t x g => by exact g) _ h
theorem execMark_wf {s : State} (h : s.mem.wf = true) (a : ESrc) : outWf (execMark a s) = true := by
  grind [execMark, popMask_wf, emitMask_wf, saveCut_wf, optWf, outWf]
theorem placeMarks_wf {s : State} (h : s.mem.wf = true) (k q e : ℕ) : (placeMarks s k q e).mem.wf = true :=
  foldl_wf (fun t j g => by grind [sendFrom_wf, optWf, State.modElem_mem]) _ h
theorem execSnapshotSave_wf {s : State} (h : s.mem.wf = true) (core ply elem : ℕ) : outWf (execSnapshotSave core ply elem s) = true := by
  have put : (if (s.ply core ply).frozen then s else placeMarks s core ply elem).mem.wf = true := by
    split
    exacts [h, placeMarks_wf h _ _ _]
  unfold execSnapshotSave
  dsimp only
  generalize (if (s.ply core ply).frozen then s else placeMarks s core ply elem) = t at put ⊢
  split
  · exact put
  · split
    · exact put
    · refine placeMarks_wf ?_ _ _ _
      rw [State.modElem_mem]
      exact foldl_wf (fun t j g => by exact g) _ (saveCut_wf put _ _ _ _)
theorem redDeliver_wf {s : State} (h : s.mem.wf = true) (k q g : ℕ) (t : Token) : (redDeliver s k q g t).mem.wf = true := foldl_wf (fun t x g => by exact g) _ h
theorem fireRed_wf {s : State} (h : s.mem.wf = true) (a : ESrc) (ri : Fin 4) (g : Fin 8) (f : List Word → Word) : outWf (fireRed s a ri g f) = true := by
  grind [fireRed, State.modPly_mem, popMask_wf, State.modEply_mem, State.modChan_mem, redDeliver_wf, outWf]
theorem execSend_wf {s : State} (h : s.mem.wf = true) (a b : ESrc) : outWf (execSend a b s) = true := by
  grind [execSend, placeAll_wf, outWf]
theorem fireFault_wf {s : State} (h : s.mem.wf = true) (c : Cause) (tval : ℕ) : outWf (fireFault s c tval) = true := by
  grind [fireFault, popMask_wf, fabricFault_wf, outWf]
theorem fireAcross_wf {s : State} (h : s.mem.wf = true) (q : Nat) {go : Out} (goes : outWf go = true) : outWf (fireAcross s q go) = true := by
  unfold fireAcross
  split
  exacts [goes, h, fireFault_wf h _ _]
theorem queueOp_wf {s : State} (h : s.mem.wf = true) (q : ℕ) (op : QueueOp) : (State.queueOp s q op).mem.wf = true := h
theorem releaseRsv_wf {s : State} (h : s.mem.wf = true) : (releaseRsv s).mem.wf = true := by
  grind [releaseRsv, queueOp_wf, returnSlots_wf]
theorem fireGrant_wf {s s1 : State} (h : s.mem.wf = true) (h1 : s1.mem.wf = true) (d : EDst) (a : ESrc) (amp : Bool) (q n : Nat) :
    outWf (fireGrant s s1 d a amp q n) = true := by
  unfold fireGrant
  split
  · exact placeAll_wf h (queueOp_wf h1 _ _) _ _
  · split
    next rv s2 e => exact fireTag_wf h (grantRsv_wf h1 _ _ _ _ _ e) _ _ _ _ _
    next => exact fireTag_wf h h1 _ _ _ _ _
theorem execRsv_wf {s : State} (h : s.mem.wf = true) (d : EDst) (a : ESrc) (n : BitVec 5) : outWf (execRsv d a n s) = true := by
  grind [execRsv, fireAcross_wf, fireFault_wf, fireGrant_wf, outWf]
theorem execAmplify_wf {s : State} (h : s.mem.wf = true) (d : EDst) (a : ESrc) (m : BitVec 9) : outWf (execAmplify d a m s) = true := by
  grind [execAmplify, fireAcross_wf, fireFault_wf, State.modEply_mem, releaseRsv_wf, fireGrant_wf, outWf]
theorem sendPush_wf {s : State} (h : s.mem.wf = true) (t : Wide) : (sendPush s t).mem.wf = true := by
  grind [sendPush, flushPushes_wf, State.modFab_mem]
theorem execEnq_wf {s : State} (h : s.mem.wf = true) (d : EDst) (a b : ESrc) : outWf (execEnq d a b s) = true := by
  grind [execEnq, fireFault_wf, State.modEply_mem, sendPush_wf, fabricFault_wf, releaseRsv_wf, placeAll_wf, fireTag_wf, outWf]

/-! The operations of Machine/ElemMem. -/

theorem fireReq_wf {s : State} (h : s.mem.wf = true) (kind : ReqKind) (d : EDst) (l : List ESrc) (ea opnd : Word) : outWf (fireReq s kind d l ea opnd) = true := by
  grind [fireReq, State.modReqs_mem, popMask_wf, State.modFab_mem, endBranch_wf, outWf]
theorem Perf.of_wf {α : Type} (y : Req) {r : Mr α} (h : r.state.mem.wf = true) (f : α → Word) : (Perf.of y r f).state.mem.wf = true := by cases r <;> exact h
theorem xlateRun_wf (k : Nat) (wr : Bool) (n : Nat) : ∀ {s : State} (y : Req), s.mem.wf = true → (xlateRun k wr n y s).state.mem.wf = true := by
  induction n with
  | zero => intro s y h; exact h
  | succ n ih =>
    intro s y h
    have came := reach_wf h k ((y.ea.toNat / 65536 + y.npg) * 65536) (if wr then .amo else .read) true
    unfold xlateRun
    dsimp only
    split
    next e => rw [e] at came; exact came
    next e => rw [e] at came; exact came
    next e => rw [e] at came; exact ih _ came
theorem performReq_wf {s : State} (h : s.mem.wf = true) (k : ℕ) (y : Req) : (performReq s k y).state.mem.wf = true := by
  unfold performReq
  dsimp only
  split
  · split
    exacts [h, Perf.of_wf _ (vread_wf h _ _ _ _ _ _) _]
  · split
    exacts [h, Perf.of_wf _ (vwrite_wf h _ _ _ _) _]
  · split
    exacts [h, Perf.of_wf _ (vamo_wf h _ _ _ _ _) _]
  · exact xlateRun_wf _ _ _ _ h
  · exact h
theorem raiseReq_wf {s : State} (h : s.mem.wf = true) (k : ℕ) (y : Req) (c : Cause) (tval : ℕ) (parked : Bool) : (raiseReq s k y c tval parked).mem.wf = true := by
  grind [raiseReq, raiseFault_wf]
theorem failReq_wf {s : State} (h : s.mem.wf = true) (k : Nat) (y : Req) (code tval : Nat) {put : Option Req → State → State}
    (puts : ∀ o t, t.mem.wf = true → (put o t).mem.wf = true) : (failReq s k y code tval put).mem.wf = true := by
  unfold failReq
  split
  · exact raiseReq_wf (puts _ _ h) _ _ _ _ _
  · split
    · split
      · exact raiseReq_wf (s := State.modFab _ _ _) (puts _ _ h) _ _ _ _ _
      · exact raiseReq_wf (puts _ _ h) _ _ _ _ _
    · exact raiseReq_wf (puts _ _ h) _ _ _ _ _
theorem respond_wf {s : State} (h : s.mem.wf = true) (k : ℕ) (y : Req) : optWf (respond s k y) = true := by
  grind [respond, emitMask_wf, State.modElem_mem, optWf]
theorem performOne_wf {s : State} (h : s.mem.wf = true) (k : Nat) (y : Req) {put : Option Req → State → State}
    (puts : ∀ o t, t.mem.wf = true → (put o t).mem.wf = true) : (performOne s k y put).mem.wf = true := by
  have did := performReq_wf h k y
  unfold performOne
  split
  next e => rw [e] at did; exact puts _ _ did
  next e => rw [e] at did; exact failReq_wf did _ _ _ _ puts
  next e => rw [e] at did; exact puts _ _ did
theorem putReq_wf {s : State} (h : s.mem.wf = true) (k e i : ℕ) (y : Option Req) : (putReq k e i y s).mem.wf = true := h
theorem performFirst_wf (k e : Nat) (l : List (Req × Nat)) : ∀ {s : State}, s.mem.wf = true → (performFirst k e l s).mem.wf = true := by
  induction l with
  | nil => intro s h; exact h
  | cons x l ih =>
    intro s h
    have did := performReq_wf h k x.1
    unfold performFirst
    split
    next e => rw [e] at did; exact ih did
    next => exact performOne_wf h _ _ fun o t g => g
theorem putParked_wf {s : State} (h : s.mem.wf = true) (k i : ℕ) (y : Option Req) : (putParked k i y s).mem.wf = true := h
theorem respondHead_wf {s : State} (h : s.mem.wf = true) (k e : ℕ) : (respondHead s k e).mem.wf = true := by
  grind [respondHead, State.modReqs_mem, respond_wf, optWf]
theorem respondParked_wf {s : State} (h : s.mem.wf = true) (k no : ℕ) : (respondParked s k no).mem.wf = true := by
  grind [respondParked, respond_wf, putParked_wf, optWf]
theorem serveParked_wf {s : State} (h : s.mem.wf = true) (k no : ℕ) : (serveParked s k no).mem.wf = true := by
  grind [serveParked, performOne_wf, respondParked_wf, putParked_wf]
theorem serveAllParked_wf {s : State} (h : s.mem.wf = true) (k e : ℕ) : (serveAllParked s k e).mem.wf = true := foldl_wf (fun _ _ g => serveParked_wf g _ _) _ h
theorem execRequestResponse_wf {s : State} (h : s.mem.wf = true) (core elem : ℕ) : outWf (execRequestResponse core elem s) = true :=
  flushPushes_wf (respondHead_wf (performFirst_wf _ _ _ (serveAllParked_wf h _ _)) _ _) _ _
theorem execOcclSlotAdd_wf {s : State} (h : s.mem.wf = true) (core elem n : ℕ) : outWf (execOcclSlotAdd core elem n s) = true := by
  grind [execOcclSlotAdd, flushPushes_wf, failReq_wf, State.modDie_mem, putReq_wf, outWf]

/-! The operations of Machine/Tile. -/

theorem State.modTile_mem (s : State) (k : ℕ) (f : Tile → Tile) : (State.modTile s k f).mem = s.mem := rfl
theorem tileFault_wf {s : State} (h : s.mem.wf = true) (k : ℕ) (r : TileReq) (c : Cause) : (tileFault s k r c).mem.wf = true := by
  grind [tileFault, raiseFault_wf]
theorem tsPut_wf {s : State} (h : s.mem.wf = true) (k off : ℕ) (bs : List Byte) : (tsPut s k off bs).mem.wf = true := h
theorem blendInto_wf {s : State} (h : s.mem.wf = true) (k : ℕ) (r : TileReq) : (blendInto s k r).mem.wf = true := h
theorem tileAdvance_wf {s : State} (h : s.mem.wf = true) (k slot : ℕ) : (tileAdvance s k slot).mem.wf = true := h
theorem tileApplyOne_wf {s : State} (h : s.mem.wf = true) (k : ℕ) (r : TileReq) : (tileApplyOne s k r).mem.wf = true := by
  grind [tileApplyOne, tileFault_wf, blendInto_wf, State.modTile_mem]
theorem tileTake_wf {s : State} (h : s.mem.wf = true) (k slot : ℕ) : ∀ x, (tileTake s k slot) = some x → x.2.mem.wf = true := by
  intro x hx
  unfold tileTake at hx
  grind [State.modTile_mem]
theorem tileRun_wf (k slot n : Nat) : ∀ {s : State}, s.mem.wf = true → (tileRun k slot n s).mem.wf = true := by
  induction n with
  | zero => intro s h; exact h
  | succ n ih =>
    intro s h
    unfold tileRun
    split
    · exact ih (tileAdvance_wf h k slot)
    · split
      next r t e => exact ih (tileApplyOne_wf (tileTake_wf h k slot _ e) k r)
      next => exact h
theorem tileApply_wf {s : State} (h : s.mem.wf = true) (k : ℕ) (r : TileReq) : (tileApply s k r).mem.wf = true := by
  grind [tileApply, tileRun_wf, tileApplyOne_wf]
theorem tileArrive_wf {s : State} (h : s.mem.wf = true) (k : ℕ) (r : TileReq) : (tileArrive s k r).mem.wf = true := by
  unfold tileArrive
  repeat' split
  exacts [tileFault_wf h k r _, tileFault_wf h k r _, h, tileApply_wf h k r]
theorem foldl_tileArrive_wf (k : Nat) (l : List TileReq) : ∀ {s : State}, s.mem.wf = true → (l.foldl (fun s r => tileArrive s k r) s).mem.wf = true := by
  induction l with
  | nil => intro s h; exact h
  | cons r l ih => intro s h; rw [List.foldl_cons]; exact ih (tileArrive_wf h k r)
theorem headerWritten_wf {s : State} (h : s.mem.wf = true) (k slot : ℕ) : (headerWritten s k slot).mem.wf = true :=
  foldl_tileArrive_wf k _ (s := s.modTile k _) h
theorem tsWrite_wf {s : State} (h : s.mem.wf = true) (k off : ℕ) (bs : List Byte) : (tsWrite s k off bs).mem.wf = true :=
  foldl_wf (fun _ i g => headerWritten_wf g k i) _ (tsPut_wf h k off bs)
theorem atTs_wf {s : State} (h : s.mem.wf = true) (off : Nat) {f : Out} (goes : outWf f = true) : outWf (atTs s off f) = true := by
  unfold atTs
  repeat' split
  exacts [endBranch_wf h, fireFault_wf h _ _, fireFault_wf h _ _, fireFault_wf h _ _, goes]
theorem execVbmin_wf {s : State} (h : s.mem.wf = true) (d : EDst) (a b : ESrc) : outWf (execVbmin d a b s) = true := by
  grind [execVbmin, atTs_wf, fireTag_wf, tsWrite_wf, outWf]
theorem execTsBlend_wf {s : State} (h : s.mem.wf = true) (a b : ESrc) (mode : BlendMode) : outWf (execTsBlend a b mode s) = true := by
  grind [execTsBlend, fireFault_wf, endBranch_wf, fireTag_wf, tileArrive_wf, outWf]
theorem execTsDone_wf {s : State} (h : s.mem.wf = true) (a b : ESrc) : outWf (execTsDone a b s) = true := by
  grind [execTsDone, fireFault_wf, endBranch_wf, fireTag_wf, tileArrive_wf, outWf]

/-! The operations of Machine/Engine. -/

theorem fireEngine_wf {s : State} (h : s.mem.wf = true) (kind : EngKind) (a b c : Word) : outWf (fireEngine s kind a b c) = true := by
  grind [fireEngine, placeAll_wf, outWf]
theorem acceptCmd_wf {s : State} (h : s.mem.wf = true) (k e : ℕ) (c : EngCmd) : (acceptCmd s k e c).mem.wf = true := h
theorem execEngineCommandAccept_wf {s : State} (h : s.mem.wf = true) (core n : ℕ) : outWf (execEngineCommandAccept core n s) = true := by
  grind [execEngineCommandAccept, State.modFab_mem, acceptCmd_wf, outWf]
theorem engByte_wf {s : State} (h : s.mem.wf = true) (k n a : ℕ) : (engByte k n a s).state.mem.wf = true := by
  unfold engByte
  split
  · split
    exacts [Mr.andThen_wf (vread_wf h _ _ _ _ _ _) fun _ t g => g, h]
  · dsimp only
    repeat' split
    all_goals exact h
theorem engBytes_wf (k n m : Nat) : ∀ {s : State} (a : Nat), s.mem.wf = true → (engBytes k n m a s).state.mem.wf = true := by
  induction m with
  | zero => intro s a h; exact h
  | succ m ih => intro s a h; exact Mr.andThen_wf (engByte_wf h _ _ _) fun _ t g => Mr.andThen_wf (ih _ g) fun _ u g => g
theorem wroteMore_wf {s : State} (h : s.mem.wf = true) (k n m : ℕ) : (wroteMore s k n m).mem.wf = true := h
theorem engStore_wf {s : State} (h : s.mem.wf = true) (k n : ℕ) (win : Option ℕ) (bs : List Byte) (a : ℕ) : (engStore k n win bs a s).state.mem.wf = true := by
  unfold engStore
  grind [State.modCore_mem, keepOlds_wf, bufPut_wf, vwrite_wf, tsWrite_wf, Mr.state]
theorem engPut_wf {s : State} (h : s.mem.wf = true) (k n : ℕ) (win : Option ℕ) (bs : List Byte) (a : ℕ) : (engPut k n win bs a s).state.mem.wf = true :=
  Mr.andThen_wf (engStore_wf h _ _ _ _ _) fun _ _ g => wroteMore_wf g _ _ _
theorem engWrite_wf (k n : Nat) (win : Option Nat) (m : Nat) : ∀ {s : State} (bs : List Byte) (a : Nat), s.mem.wf = true → (engWrite k n win m bs a s).state.mem.wf = true := by
  induction m with
  | zero => intro s bs a h; exact h
  | succ m ih =>
    intro s bs a h
    unfold engWrite
    split
    exacts [h, Mr.andThen_wf (engPut_wf h _ _ _ _ _) fun _ t g => ih _ _ g]
theorem beginCmd_wf {s : State} (h : s.mem.wf = true) (k n i : ℕ) (c : EngCmd) : (beginCmd s k n i c).mem.wf = true := h
theorem failCmd_wf {s : State} (h : s.mem.wf = true) (k n : ℕ) (c : EngCmd) (code : Cause) (tval : ℕ) : (failCmd s k n c code tval).mem.wf = true := by
  grind [failCmd, report_wf, raiseFault_wf, State.modEngine_mem]
theorem groupEntry_wf {s : State} (h : s.mem.wf = true) (p g : ℕ) : (groupEntry s p g).2.mem.wf = true := by
  grind [groupEntry, iodRead_wf]
theorem execEngineCommandBegin_wf {s : State} (h : s.mem.wf = true) (core eng : ℕ) : outWf (execEngineCommandBegin core eng s) = true := by
  grind [execEngineCommandBegin, beginCmd_wf, groupEntry_wf, failCmd_wf, outWf]
theorem engUnits_wf {unit : Nat → State → Mr Unit} (each : ∀ i t, t.mem.wf = true → (unit i t).state.mem.wf = true) (n : Nat) :
    ∀ {s : State} (c : EngCmd), s.mem.wf = true → (engUnits unit n c s).state.mem.wf = true := by
  induction n with
  | zero => intro s c h; exact h
  | succ n ih =>
    intro s c h
    have did := each c.prog s h
    unfold engUnits
    split
    next e => rw [e] at did; exact ih _ did
    next e => rw [e] at did; exact did
    next e => rw [e] at did; exact did
theorem cpyUnit_wf {s : State} (h : s.mem.wf = true) (k n : ℕ) (win : Option ℕ) (c : EngCmd) (i : ℕ) : (cpyUnit k n win c i s).state.mem.wf = true :=
  Mr.andThen_wf (engBytes_wf _ _ _ _ h) fun _ _ g => engPut_wf g _ _ _ _ _
theorem fillUnit8_wf {s : State} (h : s.mem.wf = true) (k n : ℕ) (win : Option ℕ) (c : EngCmd) (i : ℕ) : (fillUnit8 k n win c i s).state.mem.wf = true := by
  grind [fillUnit8, engPut_wf, Mr.state]
theorem gathIndex_wf {s : State} (h : s.mem.wf = true) (k n : ℕ) (c : EngCmd) (o : EngOpts) (i : ℕ) : (gathIndex k n c o i s).state.mem.wf = true :=
  Mr.andThen_wf (engBytes_wf _ _ _ _ h) fun _ _ g => g
theorem gathUnit_wf {s : State} (h : s.mem.wf = true) (k n : ℕ) (win : Option ℕ) (c : EngCmd) (o : EngOpts) (scat : Bool) (i : ℕ) : (gathUnit k n win c o scat i s).state.mem.wf = true := by
  unfold gathUnit
  refine Mr.andThen_wf (gathIndex_wf h _ _ _ _ _) fun x t g => ?_
  have moved (e src dst : Nat) : ((engBytes k n e src t).andThen fun bs u => engWrite k n win 9 bs dst u).state.mem.wf = true :=
    Mr.andThen_wf (engBytes_wf _ _ _ _ g) fun bs u g => engWrite_wf _ _ _ _ _ _ g
  dsimp only
  generalize (if scat = true then _ else _ : Nat × Nat) = ends
  split
  all_goals
    split
    exacts [g, moved _ _ _]
theorem xfmUnit_wf {s : State} (h : s.mem.wf = true) (k n : ℕ) (win : Option ℕ) (c : EngCmd) (rm : Rm) (ts td : Ty) (i : ℕ) : (xfmUnit k n win c rm ts td i s).state.mem.wf = true :=
  Mr.andThen_wf (engBytes_wf _ _ _ _ h) fun _ _ g => engWrite_wf _ _ _ _ _ _ g
theorem collUnit_wf {s : State} (h : s.mem.wf = true) (k n : ℕ) (win : Option ℕ) (c : EngCmd) (i : ℕ) : (collUnit k n win c i s).state.mem.wf = true := by
  grind [collUnit, engPut_wf, Mr.state]
theorem engRun_wf {s : State} (h : s.mem.wf = true) (k n : ℕ) (c : EngCmd) : (engRun k n c s).state.mem.wf = true := by
  grind [engRun, gathUnit_wf, engUnits_wf, State.modCore_mem, xfmUnit_wf, fillUnit8_wf, collUnit_wf, cpyUnit_wf, Mr.state, EngRes.state]
theorem flushTokens_wf {s : State} (h : s.mem.wf = true) (k n : ℕ) : (flushTokens s k n).mem.wf = true := by
  grind [flushTokens, State.modEngine_mem, sendFrom_wf, optWf]
theorem failInOrder_wf {s : State} (h : s.mem.wf = true) (l : List (ℕ × ℕ × EngCmd × Cause × ℕ)) : (failInOrder s l).mem.wf = true :=
  foldl_wf (fun _ _ g => failCmd_wf g _ _ _ _ _) _ h
theorem failAll_wf {s : State} (h : s.mem.wf = true) (k n : ℕ) (c : EngCmd) (x t : ℕ) : (failAll s k n c x t).mem.wf = true := by
  grind [failAll, failInOrder_wf]
theorem completeCmd_wf {s : State} (h : s.mem.wf = true) (k n : ℕ) (c : EngCmd) : (completeCmd s k n c).mem.wf = true := by
  grind [completeCmd, report_wf, dropOlds_wf, State.modEngine_mem, flushTokens_wf]
theorem execEngineCommandComplete_wf {s : State} (h : s.mem.wf = true) (core eng : ℕ) : outWf (execEngineCommandComplete core eng s) = true := by
  grind [execEngineCommandComplete, engRun_wf, State.modEngine_mem, flushTokens_wf, failAll_wf, completeCmd_wf, outWf, EngRes.state]
theorem publishHeaders_wf {s : State} (h : s.mem.wf = true) (k : ℕ) (w : Shadow) : (publishHeaders s k w).mem.wf = true := by
  unfold publishHeaders
  split
  exacts [foldl_wf (fun t i g => headerWritten_wf g _ _) _ h, h]
theorem execPubFlip_wf {s : State} (h : s.mem.wf = true) (core eng : ℕ) : outWf (execPubFlip core eng s) = true := by
  grind [execPubFlip, State.modCore_mem, State.modEngine_mem, publishHeaders_wf, outWf]
theorem peersSay_wf {s : State} (h : s.mem.wf = true) (far : Bool) : (peersSay far s).2.2.mem.wf = true := by
  grind [peersSay, freeBytes_wf]
def collReadState : List (List Byte) × State ⊕ Option (Nat × Nat × Nat) × State → State
  | .inl x => x.2
  | .inr x => x.2
theorem collRead_wf (len : Nat) (l : List (Option (Nat × EngCmd))) : ∀ {s : State}, s.mem.wf = true → (collReadState (collRead len l s)).mem.wf = true := by
  induction l with
  | nil => intro s h; exact h
  | cons x l ih =>
    intro s h
    cases x with
    | none => grind [collRead, collReadState, freeBytes_wf]
    | some x =>
      obtain ⟨k, c⟩ := x
      have did := engBytes_wf k 1 (bits c.c 0 32) c.b.toNat h
      grind [collRead, collReadState, Mr.state]
theorem collBegin_wf {s : State} (h : s.mem.wf = true) (l : List (ℕ × EngCmd)) (res : List Byte) (pf : Option ℕ) : (collBegin s l res pf).mem.wf = true :=
  foldl_wf (fun t x g => by exact g) _ h
theorem collFail_wf {s : State} (h : s.mem.wf = true) (l : List (ℕ × EngCmd)) (own : Option (ℕ × Cause × ℕ)) (rest : Cause) : (collFail s l own rest).mem.wf = true := by
  grind [collFail, collBegin_wf, failInOrder_wf]
theorem collStart_wf {s1 : State} (h : s1.mem.wf = true) (ms : List Nat) (l : List (Nat × EngCmd)) (c : EngCmd) (pf : Option Nat) : (collStart s1 ms l c pf).mem.wf = true := by
  have read := collRead_wf (bits c.c 0 32) (collMembers ms l) h
  unfold collStart
  split
  · exact collFail_wf h _ _ _
  · split
    next e => rw [e] at read; exact read
    next e => rw [e] at read; exact collFail_wf read _ _ _
    next e => rw [e] at read; exact collBegin_wf read _ _ _
theorem execCollectiveBegin_wf {s : State} (h : s.mem.wf = true) (part group : ℕ) : outWf (execCollectiveBegin part group s) = true := by
  have read := groupEntry_wf h part group
  have said (far : Bool) := peersSay_wf read far
  unfold execCollectiveBegin
  dsimp only
  split
  · exact h
  · split
    · exact h
    · split
      · exact h
      · split
        · exact collFail_wf read _ _ _
        · split
          · exact h
          · split
            · exact collFail_wf read _ _ _
            · split
              · exact collFail_wf read _ _ _
              · split
                · exact h
                · split
                  exacts [collFail_wf (said _) _ _ _, collStart_wf (said _) _ _ _ _]

/-! The operations of Machine/EvStream. -/

theorem streamFault_wf {s : State} (h : s.mem.wf = true) (k n : ℕ) (r : SRun) (code tval : ℕ) : (streamFault s k n r code tval).mem.wf = true := by
  grind [streamFault, fabricFault_wf, State.modStream_mem]
theorem Mr.stream_wf {α : Type} {x : Mr α} {f : α → State → Out} (h : x.state.mem.wf = true) (each : ∀ v t, t.mem.wf = true → outWf (f v t) = true) (k n : Nat) (r : SRun) :
    outWf (x.stream k n r f) = true := by
  cases x with
  | ok v t => exact each v t h
  | fault c v t => exact streamFault_wf h _ _ _ _ _
  | wait t => exact h
theorem streamSend_wf {s : State} (h : s.mem.wf = true) (k n q : ℕ) (t : Token) : optWf (streamSend s k n q t) = true := by
  unfold streamSend
  split
  exacts [optWf_map (sendFrom_wf h k q (.stream n) t none) fun u g => meterCount_wf g k, rfl]
theorem setRun_wf {s : State} (h : s.mem.wf = true) (k n : ℕ) (r : SRun) : (setRun s k n r).mem.wf = true := h
theorem setErr_wf {s : State} (h : s.mem.wf = true) (k n : ℕ) (x : Bool) : (setErr s k n x).mem.wf = true := h
theorem popStream_wf {s : State} (h : s.mem.wf = true) (k n q : ℕ) : (popStream s k n q).mem.wf = true := h
theorem endEarly_wf {s : State} (h : s.mem.wf = true) (k n : ℕ) (r : SRun) (t : Token) : (endEarly s k n r t).mem.wf = true := h
theorem sendElem_wf {s s0 : State} (h : s.mem.wf = true) (h0 : s0.mem.wf = true) (k n : Nat) (r : SRun) (bs : List Byte) (bad : Bool) (tval : Nat) :
    outWf (sendElem s s0 k n r bs bad tval) = true := by
  unfold sendElem
  dsimp only
  split
  · exact h0
  next u e =>
    have sent := streamSend_wf h k n r.cmd.ply (if bad then { ply := r.cmd.ply, e := true, x := true } else { data := streamData r.cmd.desc bs, ply := r.cmd.ply })
    rw [e] at sent
    split
    exacts [fabricFault_wf (setErr_wf (setRun_wf sent _ _ _) _ _ _) _ _ _ _ _ _ _ _ _, setRun_wf sent _ _ _]
theorem readElem_wf {s : State} (h : s.mem.wf = true) (k n : ℕ) (r : SRun) : outWf (readElem s k n r) = true := by
  grind [readElem, sendElem_wf, State.modStream_mem, streamFault_wf, outWf]
theorem writeOpen_wf {s : State} (h : s.mem.wf = true) (k va : ℕ) (l : Loc) : (writeOpen s k va l).state.mem.wf = true := by
  cases l with
  | plain pa => exact h
  | comp d o => exact Mr.andThen_wf (cmpCheck_wf h k d o va) fun _ t g => g
theorem markFull_wf {s : State} (h : s.mem.wf = true) (k off n : ℕ) : (markFull s k off n).mem.wf = true := foldl_wf (fun t i g => by exact g) _ h
theorem streamBuf_wf {s : State} (h : s.mem.wf = true) (k n : ℕ) (d : SDesc) (off : ℕ) (bs : List Byte) : (streamBuf s k n d off bs).mem.wf = true := by
  grind [streamBuf, keepOlds_wf, bufPut_wf, markFull_wf]
theorem reachPieces_wf (k n : Nat) (write : Bool) (l : List (Nat × Nat)) : ∀ {s : State}, s.mem.wf = true → (reachPieces k n write l s).state.mem.wf = true := by
  induction l with
  | nil => intro s h; exact h
  | cons x l ih =>
    intro s h
    refine Mr.andThen_wf (streamReach_wf h _ _ _ _ _) fun loc t g => Mr.andThen_wf ?_ fun _ u g => Mr.andThen_wf (ih g) fun _ v g => g
    split
    exacts [writeOpen_wf g _ _ _, g]
theorem reachOnce_wf {s : State} (h : s.mem.wf = true) (k n : Nat) {f : State → Mr (List (Nat × Loc × Nat))} (goes : (f s).state.mem.wf = true) :
    (reachOnce s k n f).state.mem.wf = true := by
  unfold reachOnce
  split
  exacts [h, Mr.andThen_wf goes fun _ t g => g]
theorem writeElem_wf {s : State} (h : s.mem.wf = true) (k n : Nat) (r : SRun) : outWf (writeElem s k n r) = true := by
  have take {t : State} (g : t.mem.wf = true) {f : List Byte → Option State} (each : ∀ bs, optWf (f bs) = true) :
    outWf (match ((t.core k).stream n).given r.cmd.ply with
    | [] => .next t
    | x :: _ => if x.e then .next (endEarly t k n r x) else match f (bytesLE x.data.toNat r.cmd.desc.esz) with
      | some s => .next (setRun (popStream s k n r.cmd.ply) k n r.past)
      | none => .next t) = true := by
    split
    · exact g
    next x _ _ =>
      split
      · exact endEarly_wf g _ _ _ _
      · have wrote := each (bytesLE x.data.toNat r.cmd.desc.esz)
        split
        next e => rw [e] at wrote; exact setRun_wf (popStream_wf wrote _ _ _) _ _ _
        next => exact g
  unfold writeElem
  dsimp only
  split
  · refine Mr.stream_wf (reachOnce_wf h _ _ ?_) (fun ls t g => ?_) _ _ _
    · refine Mr.andThen_wf (streamReach_wf h _ _ _ _ _) fun l t g => Mr.andThen_wf (writeOpen_wf g _ _ _) fun _ u g => ?_
      exact g
    · refine take (f := fun bs => (ls.head?.bind fun x => intoWindow ((t.core k).stream n) (vaOf (r.cmd.desc.elem r.e)) x.2.1 bs).map fun p => t.modStream k n fun _ => p) g fun bs => ?_
      cases ls.head?.bind fun x => intoWindow ((t.core k).stream n) (vaOf (r.cmd.desc.elem r.e)) x.2.1 bs with
      | none => rfl
      | some p => exact g
  · split
    · refine take (f := fun bs => some (streamBuf s k n r.cmd.desc _ bs)) h fun bs => streamBuf_wf h _ _ _ _ _
    · exact streamFault_wf h _ _ _ _ _
theorem fetchPieces_wf (k : Nat) (l : List (Nat × Loc × Nat)) : ∀ {s : State}, s.mem.wf = true → (fetchPieces k l s).state.mem.wf = true := by
  induction l with
  | nil => intro s h; exact h
  | cons x l ih => intro s h; exact Mr.andThen_wf (locFetch_wf h _ _ _ _ _) fun _ t g => Mr.andThen_wf (ih g) fun _ u g => g
theorem storePieces_wf (k : Nat) (l : List (Nat × Loc × Nat)) : ∀ {s : State} (bs : List Byte), s.mem.wf = true → (storePieces k l bs s).state.mem.wf = true := by
  induction l with
  | nil => intro s bs h; exact h
  | cons x l ih => intro s bs h; exact Mr.andThen_wf (locWrite_wf h _ _ _ _) fun _ t g => ih _ g
theorem indirectElem_wf {s : State} (h : s.mem.wf = true) (k n : ℕ) (r : SRun) : outWf (indirectElem s k n r) = true := by
  grind [indirectElem, storePieces_wf, endEarly_wf, reachOnce_wf, popStream_wf, setRun_wf, reachPieces_wf, fetchPieces_wf, sendElem_wf, streamBuf_wf, streamFault_wf, Mr.stream_wf, Mr.state, outWf]
theorem eosElem_wf {s : State} (h : s.mem.wf = true) (k n : ℕ) (r : SRun) : outWf (eosElem s k n r) = true := by
  grind [eosElem, setErr_wf, popStream_wf, setRun_wf, streamSend_wf, optWf, outWf]
theorem takeCommand_wf {s : State} (h : s.mem.wf = true) (k n : ℕ) : outWf (takeCommand s k n) = true := by
  unfold takeCommand
  dsimp only
  split
  · exact h
  · split
    exacts [h, dropOlds_wf (performStores_wf h _) k n]
theorem streamStep_wf {s : State} (h : s.mem.wf = true) (core port : ℕ) : outWf (streamStep core port s) = true := by
  grind [streamStep, indirectElem_wf, takeCommand_wf, readElem_wf, eosElem_wf, writeElem_wf, outWf]
theorem streamEnd_wf {s : State} (h : s.mem.wf = true) (core port : ℕ) : outWf (streamEnd core port s) = true := by
  grind [streamEnd, dropOlds_wf, streamSend_wf, State.modStream_mem, optWf, outWf]
theorem inTurn_wf {s : State} (h : s.mem.wf = true) (core port : Nat) {o : Out} (goes : outWf o = true) : outWf (inTurn core port s o) = true := by
  unfold inTurn
  split
  exacts [h, goes]
theorem execWindowFill_wf {s : State} (h : s.mem.wf = true) (core port : ℕ) : outWf (execWindowFill core port s) = true := by
  unfold execWindowFill
  extract_lets p
  split
  · exact h
  next r _ =>
    have filled (va last : Nat) (f : Loc → List Byte → State → WLine) : ((streamReach s core port va last false).andThen fun l s =>
        (locFetch s core va l.line 128 false).andThen fun bs s => Mr.ok (f l bs s) s).state.mem.wf = true :=
      Mr.andThen_wf (streamReach_wf h _ _ _ _ _) fun l t g => Mr.andThen_wf (locFetch_wf g _ _ _ _ _) fun bs u g => g
    extract_lets d total lines f va x
    have did : x.state.mem.wf = true := filled _ _ _
    clear_value x
    split
    · exact h
    · cases x with
      | ok l t => exact did
      | wait t => exact did
      | fault c v t => dsimp only; split; exacts [streamFault_wf did _ _ _ _ _, did]
theorem writeRuns_wf (k va : Nat) (loc : Loc) (l : List (Nat × List Byte)) : ∀ {s : State}, s.mem.wf = true → (writeRuns k va loc l s).state.mem.wf = true := by
  induction l with
  | nil => intro s h; exact h
  | cons x l ih => intro s h; exact Mr.andThen_wf (locWrite_wf h _ _ _ _) fun _ t g => ih g
theorem execStreamLineWriteback_wf {s : State} (h : s.mem.wf = true) (core port : ℕ) : outWf (execStreamLineWriteback core port s) = true := by
  grind [execStreamLineWriteback, writeRuns_wf, State.modStream_mem, streamFault_wf, Mr.state, outWf]

/-! The operations of Machine/Messages. -/

theorem putMessage_wf {s : State} (h : s.mem.wf = true) (k q : ℕ) (m : Wide) (rest : List Wide) : (putMessage s k q m rest).mem.wf = true := h
theorem sendMessage_wf {s : State} (h : s.mem.wf = true) (k q e : ℕ) (m : Wide) : (sendMessage s k q e m).mem.wf = true := by
  grind [sendMessage, State.modPort_mem, putMessage_wf, dropMessage_wf]
theorem portMessage_wf {s : State} (h : s.mem.wf = true) (k : ℕ) (m : Wide) (slice : Option ℕ) : (portMessage s k m slice).mem.wf = true := by
  grind [portMessage, State.modPort_mem, parkMessage_wf, dropMessage_wf]
theorem loseMessage_wf {s : State} (h : s.mem.wf = true) (x : Msg) : (loseMessage s x).mem.wf = true := by
  grind [loseMessage, fabricFault_wf, partFault_wf]
theorem execMessageArrival_wf {s : State} (h : s.mem.wf = true) (n : ℕ) : outWf (execMessageArrival n s) = true := by
  unfold execMessageArrival
  split
  · exact h
  next x _ =>
    have lost : (loseMessage { s with net := s.net.eraseIdx n } x).mem.wf = true := loseMessage_wf (s := { s with net := s.net.eraseIdx n }) h x
    have dropped (k : Nat) : (dropMessage { s with net := s.net.eraseIdx n } x.src k).mem.wf = true := dropMessage_wf (s := { s with net := s.net.eraseIdx n }) h x.src k
    split
    · exact h
    · dsimp only
      split
      · split
        exacts [foldl_wf (fun t m g => portMessage_wf g _ _ _) _ h, h, lost]
      · split
        · exact h
        · split
          exacts [lost, foldl_wf (fun t m g => partRing_wf g _ _ _) _ h]
      · split
        · exact h
        · split
          · exact lost
          · split
            · exact dropped _
            · split
              exacts [h, h, lost]
      · exact dropped _
theorem portPut_wf {s : State} (h : s.mem.wf = true) (k e ch : ℕ) (t : Token) : optWf (portPut s k e ch t) = true := by
  grind [portPut, State.modFab_mem, meterCount_wf, optWf]
theorem execHandlerDelivery_wf {s : State} (h : s.mem.wf = true) (core : ℕ) : outWf (execHandlerDelivery core s) = true := by
  unfold execHandlerDelivery
  dsimp only
  split
  · split
    exacts [h, optWf_getD (portPut_wf (s := s.modPort _ _) h _ _ _ _) h]
  · exact h
  · split
    · exact h
    next m rest _ =>
      have put (e ch : Nat) (t : Token) := portPut_wf (s := s.modPort core fun p => { p with inbox := rest }) h core e ch t
      split
      · exact parkMessage_wf (s := s.modPort _ _) h _ _
      · split
        · exact h
        · have did := put (handlerTarget (m.entry.getD 0)).2.1 (handlerTarget (m.entry.getD 0)).2.2 (handlerTokens (m.entry.getD 0) m.msg).1
          split
          next => exact h
          next e => rw [e] at did; exact did
theorem remoteRead_wf (core n : Nat) {r : Mr (List Byte)} (read : r.state.mem.wf = true) (decode : List Byte → Option EngCmd) (drop : State → State)
    (taken : ∀ t, t.mem.wf = true → (drop t).mem.wf = true) :
    outWf (match r with
      | .wait s => .next s
      | .fault _ _ s => .next (dropMessage (drop s) core 1)
      | .ok bs s =>
        match decode bs with
        | none => .next (dropMessage (drop s) core 1)
        | some c => .next (acceptCmd (drop s) core n c)) = true := by
  cases r with
  | wait t => exact read
  | fault c v t => exact dropMessage_wf (taken t read) _ _
  | ok bs t =>
    dsimp only
    split
    exacts [dropMessage_wf (taken t read) _ _, acceptCmd_wf (taken t read) _ _ _]
theorem execRemoteEngineCommand_wf {s : State} (h : s.mem.wf = true) (core : Nat) : outWf (execRemoteEngineCommand core s) = true := by
  unfold execRemoteEngineCommand
  split
  · exact h
  next m rest _ =>
    extract_lets n drop
    split
    · exact h
    · exact remoteRead_wf core n (vreadMany_wf core .read true 1 32 (msgCont m.msg) h) (remoteCmd core n) drop fun t g => by
        rw [State.modPort_mem]
        exact g

/-! The operations of Machine/EvFabric. -/

theorem loaderLost_wf {s : State} (h : s.mem.wf = true) (k q : ℕ) : (loaderLost s k q).mem.wf = true := by
  grind [loaderLost, raiseFault_wf]
theorem arriveChan_wf {s : State} (h : s.mem.wf = true) (k e ch : ℕ) (t : Token) : (arriveChan s k e ch t).mem.wf = true := by
  grind [arriveChan, State.modChan_mem, loaderLost_wf]
theorem arriveStream_wf {s : State} (h : s.mem.wf = true) (k n : ℕ) (t : Token) : (arriveStream s k n t).mem.wf = true := by
  grind [arriveStream, State.modStream_mem]
theorem arriveSend_wf {s : State} (h : s.mem.wf = true) (k : ℕ) (f : Flight) : (arriveSend s k f).mem.wf = true := by
  grind [arriveSend, State.modPort_mem, sendMessage_wf]
theorem execTokenArrival_wf {s : State} (h : s.mem.wf = true) (core n : ℕ) : outWf (execTokenArrival core n s) = true := by
  grind [execTokenArrival, State.modPly_mem, State.modFab_mem, arriveSend_wf, arriveChan_wf, arriveStream_wf, outWf]
theorem execCreditReturn_wf {s : State} (h : s.mem.wf = true) (core chan n : ℕ) : outWf (execCreditReturn core chan n s) = true := by
  grind [execCreditReturn, State.modChan_mem, outWf]
theorem execSlotGrantTimeout_wf {s : State} (h : s.mem.wf = true) (core chan n : ℕ) : outWf (execSlotGrantTimeout core chan n s) = true := by
  grind [execSlotGrantTimeout, State.modChan_mem, outWf]
theorem execPassForward_wf {s : State} (h : s.mem.wf = true) (core ply far stage : ℕ) : outWf (execPassForward core ply far stage s) = true := by
  unfold execPassForward
  split
  · exact h
  · split
    · split
      · show (if _ then _ else s).mem.wf = true
        split
        exacts [optWf_getD (sendTail_wf h _ _ _ _) h, h]
      · exact h
    · dsimp only
      split
      · split <;> exact h
      · split
        exacts [h, optWf_getD (sendRemote_wf (s := s.modPly _ _ _) h _ _) h]
theorem execFiringSquash_wf {s : State} (h : s.mem.wf = true) (_core _elem : ℕ) : outWf (execFiringSquash _core _elem s) = true := h
theorem selectionFault_wf {s : State} (h : s.mem.wf = true) (k n : ℕ) : (selectionFault s k n).mem.wf = true := by
  grind [selectionFault, raiseFault_wf]
theorem execSelectionPortToken_wf {s : State} (h : s.mem.wf = true) (core : ℕ) : outWf (execSelectionPortToken core s) = true := by
  grind [execSelectionPortToken, State.modFab_mem, selectionFault_wf, State.modCtx_mem, outWf]
theorem putMarkers_wf {s : State} (h : s.mem.wf = true) (k q : ℕ) (x : Endpt) : optWf (putMarkers s k q x) = true := by
  unfold putMarkers
  split
  · exact h
  · exact foldlM_wf (fun t d g => sendTo_wf g _ _ _ _ _) _ h
theorem forwardElem_wf {s : State} (h : s.mem.wf = true) (k q e : ℕ) : optWf (forwardElem s k q e) = true := by
  unfold forwardElem
  dsimp only
  split
  · exact foldlM_wf (fun t j g => putMarkers_wf g _ _ _) _ (foldl_wf (fun t j g => by exact g) _ h)
  · rfl
theorem forwardStream_wf {s : State} (h : s.mem.wf = true) (k q n : ℕ) : optWf (forwardStream s k q n) = true := by
  grind [forwardStream, putMarkers_wf, State.modStream_mem, optWf]
theorem forwardEngine_wf {s : State} (h : s.mem.wf = true) (k q n : ℕ) : optWf (forwardEngine s k q n) = true := by
  grind [forwardEngine, putMarkers_wf, optWf]
theorem execDrainMarkerForward_wf {s : State} (h : s.mem.wf = true) (core ply elem : ℕ) : outWf (execDrainMarkerForward core ply elem s) = true := by
  grind [execDrainMarkerForward, State.modPly_mem, forwardEngine_wf, forwardStream_wf, forwardElem_wf, optWf, outWf]
theorem execPlyCommit_wf {s : State} (h : s.mem.wf = true) (core ctx : ℕ) : outWf (execPlyCommit core ctx s) = true := by
  grind [execPlyCommit, commitPly_wf, State.modCtx_mem, outWf]
theorem execBlockChoice_wf {s : State} (h : s.mem.wf = true) (core ctx : ℕ) : outWf (execBlockChoice core ctx s) = true := by
  grind [execBlockChoice, State.modPly_mem, State.modCtx_mem, outWf]
theorem execStrandDelivery_wf {s : State} (h : s.mem.wf = true) (core ctx : ℕ) : outWf (execStrandDelivery core ctx s) = true := by
  unfold execStrandDelivery
  dsimp only
  split
  · split
    · split
      · exact h
      · split
        · exact h
        · split
          · exact optWf_getD (portPut_wf (s := s.modQueue _ _) h _ _ _ _) h
          · exact portMessage_wf (s := s.modQueue _ _) h _ _ _
    · exact h
  · exact h
theorem finishRegion_wf {s : State} (h : s.mem.wf = true) (k n : ℕ) (g : Region) : outWf (finishRegion s k n g) = true := by
  grind [finishRegion, endFaulted_wf, vwrite_wf, State.modCtx_mem, closeRegion_wf, storeState_wf, Mr.state, outWf]
theorem execRegionComplete_wf {s : State} (h : s.mem.wf = true) (core ctx : ℕ) : outWf (execRegionComplete core ctx s) = true := by
  grind [execRegionComplete, finishRegion_wf, endFaulted_wf, outWf]
theorem recordLoad_wf {s : State} (h : s.mem.wf = true) (k n q code tval : ℕ) (queue : Option ℕ) : (recordLoad s k n q code tval queue).mem.wf = true := by
  grind [recordLoad, faultRecord_wf, faultEvent_wf]

/-! The operations of Machine/EvMatrix. -/

theorem setOp_wf {s : State} (h : s.mem.wf = true) (k : ℕ) (x : MxOp) : (setOp s k x).mem.wf = true := h
theorem failOp_wf {s : State} (h : s.mem.wf = true) (k : ℕ) (x : MxOp) (c : Cause) (row : ℕ) : (failOp s k x c row).mem.wf = true := h
theorem stopAt_wf {s : State} (h : s.mem.wf = true) (k : ℕ) (x : MxOp) (c : Cause) (row : ℕ) : (stopAt s k x c row).mem.wf = true := by
  grind [stopAt, setOp_wf, failOp_wf]
theorem loseGang_wf {s : State} (h : s.mem.wf = true) (c : ℕ) : (loseGang s c).mem.wf = true := by
  grind [loseGang, stopAt_wf, setOp_wf]
theorem dissolveGang_wf {s : State} (h : s.mem.wf = true) (k : ℕ) : (dissolveGang s k).mem.wf = true := by
  unfold dissolveGang
  split
  · exact h
  · refine foldl_wf (fun t x g => ?_) _ h
    obtain ⟨c, _, col⟩ := x
    grind [State.modMx_mem, loseGang_wf]
theorem mxFault_wf {s : State} (h : s.mem.wf = true) (k : ℕ) (x : MxOp) (c : Cause) (row : ℕ) : outWf (mxFault s k x c row) = true := by
  grind [mxFault, stopAt_wf, dissolveGang_wf, State.modMx_mem, outWf]
theorem finishOp_wf {s : State} (h : s.mem.wf = true) (k : ℕ) (x : MxOp) : (finishOp s k x).mem.wf = true := h
theorem setSlice_wf {s : State} (h : s.mem.wf = true) (k i : ℕ) (f : MxSlice → MxSlice) : (setSlice s k i f).mem.wf = true := h
theorem execMxLdbExecute_wf {s : State} (h : s.mem.wf = true) (core : ℕ) : outWf (execMxLdbExecute core s) = true := by
  unfold execMxLdbExecute
  split
  · exact h
  · split
    · dsimp only
      split
      · exact h
      next x _ _ _ _ sl bt _ _ =>
        have begun : (if x.begun then s else setSlice s core sl.val fun y => { y with valid := false, aen := false, ben := false }).mem.wf = true := by
          split
          exacts [h, setSlice_wf h _ _ _]
        split
        · exact mxFault_wf begun _ _ _ _
        · split
          · exact mxFault_wf begun _ _ _ _
          · split
            · exact mxFault_wf begun _ _ _ _
            · refine setOp_wf (seenOnce_wf ?_ _) _ _
              split
              exacts [setSlice_wf (setSlice_wf begun _ _ _) _ _ _, setSlice_wf begun _ _ _]
    · exact h
theorem execMxScaleExecute_wf {s : State} (h : s.mem.wf = true) (core : ℕ) : outWf (execMxScaleExecute core s) = true := by
  grind [execMxScaleExecute, setOp_wf, mxFault_wf, seenOnce_wf, setSlice_wf, outWf]
theorem setRow_wf {s : State} (h : s.mem.wf = true) (k bank row : ℕ) (vs : List ℕ) : (setRow s k bank row vs).mem.wf = true := h
theorem beginMm_wf {s : State} (h : s.mem.wf = true) (k : ℕ) (x : MxOp) (o : MmOpts) (zero redundant : Bool) : (beginMm s k x o zero redundant).1.mem.wf = true := by
  grind [beginMm, State.modMx_mem, State.modCtx_mem]
theorem takeFull_wf {s : State} (h : s.mem.wf = true) (k : ℕ) (x : MxOp) (o : MmOpts) (j : ℕ) : (takeFull s k x o j).mem.wf = true := by
  grind [takeFull, State.modMx_mem]
theorem fireRow_wf {s : State} (h : s.mem.wf = true) (k : Nat) (x : MxOp) (o : MmOpts) : outWf (fireRow s k x o) = true := by
  have at_ := setOp_wf h k x
  have read {t : State} (g : t.mem.wf = true) {go : State → MxRow → State} (each : ∀ u r, u.mem.wf = true → (go u r).mem.wf = true) :
    outWf (match readRow (if o.pres then settleOlds t k (abRow x x.row) else t) k x o x.row with
    | .error c => mxFault t k x c x.row
    | .ok r => .next (go (takeFull (seenOnce (if o.pres then settleOlds t k (abRow x x.row) else t) k) k x o x.row) r)) = true := by
    split
    · exact mxFault_wf g _ _ _ _
    · refine each _ _ (takeFull_wf (seenOnce_wf ?_ _) _ _ _ _)
      split <;> exact g
  unfold fireRow
  dsimp only
  split
  · exact at_
  · split
    · split
      · exact mxFault_wf at_ _ _ _ _
      next g _ =>
        split
        · refine read (go := fun u r => (gangRow u k g).foldl (fun s c => s.modMx c fun m => { m with coming := m.coming ++ [r] }) (setOp u k { x with row := x.row + 1 })) at_ fun u r g => foldl_wf (fun t c g => by exact g) _ g
        · split
          · exact at_
          · split <;> exact at_
    · refine read (go := fun u r => setOp u k { x with row := x.row + 1, fired := x.fired ++ [r] }) at_ fun u r g => by exact g
theorem failSettled_wf {s : State} (h : s.mem.wf = true) (k : ℕ) (x : MxOp) : outWf (failSettled s k x) = true := by
  grind [failSettled, failOp_wf, outWf]
theorem execMmRowFire_wf {s : State} (h : s.mem.wf = true) (core : ℕ) : outWf (execMmRowFire core s) = true := by
  grind [execMmRowFire, fireRow_wf, beginMm_wf, setOp_wf, mxFault_wf, failSettled_wf, outWf]
theorem execGangRowArrival_wf {s : State} (h : s.mem.wf = true) (core : ℕ) : outWf (execGangRowArrival core s) = true := by
  grind [execGangRowArrival, setOp_wf, State.modMx_mem, outWf]
theorem execAccumulatorRowWrite_wf {s : State} (h : s.mem.wf = true) (core : ℕ) : outWf (execAccumulatorRowWrite core s) = true := by
  grind [execAccumulatorRowWrite, State.modMxCtx_mem, setOp_wf, mxFault_wf, setRow_wf, State.modMx_mem, outWf]
theorem execMxDrainExecute_wf {s : State} (h : s.mem.wf = true) (core : ℕ) : outWf (execMxDrainExecute core s) = true := by
  grind [execMxDrainExecute, setOp_wf, mxFault_wf, setRow_wf, bufPut_wf, markFull_wf, State.setSeed_mem, outWf]
theorem writeMasks_wf (k : Nat) (x : MxOp) (g : Nat) (l : List Nat) : ∀ {s : State} (m : Nat), s.mem.wf = true → outWf (writeMasks s k x g m l) = true := by
  induction l with
  | nil => intro s m h; exact h
  | cons v l ih =>
    intro s m h
    unfold writeMasks
    dsimp only
    split
    exacts [mxFault_wf h _ _ _ _, ih _ (bufPut_wf h _ _ _ _)]
theorem execMxEdgeExecute_wf {s : State} (h : s.mem.wf = true) (core : ℕ) : outWf (execMxEdgeExecute core s) = true := by
  grind [execMxEdgeExecute, writeMasks_wf, setOp_wf, mxFault_wf, seenOnce_wf, outWf]
theorem gangDone_wf {s : State} (h : s.mem.wf = true) (k : ℕ) : (gangDone s k).mem.wf = true := by
  grind [gangDone, setOp_wf]
theorem execGangFormed_wf {s : State} (h : s.mem.wf = true) (core : ℕ) : outWf (execGangFormed core s) = true := by
  unfold execGangFormed
  split
  · exact h
  · split
    · split
      · exact h
      · split
        · exact mxFault_wf h _ _ _ _
        · rw [outWf]
          split
          exacts [foldl_wf (fun t m g => gangDone_wf g _) _ h, h]
    · exact h
theorem leaveGang_wf {s : State} (h : s.mem.wf = true) (k : ℕ) : (leaveGang s k).mem.wf = true := by
  grind [leaveGang, State.modDie_mem, State.modMx_mem]
theorem execMatrixOpComplete_wf {s : State} (h : s.mem.wf = true) (core : ℕ) : outWf (execMatrixOpComplete core s) = true := by
  have modMxCtx_wf (n : Nat) (f : MxCtx → MxCtx) : (s.modMxCtx core n f).mem.wf = true := by rw [State.modMxCtx_mem]; exact h
  unfold execMatrixOpComplete
  extract_lets m
  split
  · exact h
  next x _ _ =>
    extract_lets fin
    have done (b : Bool) (t : State) (g : t.mem.wf = true) : outWf (fin b t) = true := by
      show outWf (if b then .next (finishOp t core x) else .next s) = true
      split
      · exact finishOp_wf g core x
      · exact h
    clear_value fin
    cases x.act with
    | mxSamp => exact done _ _ (modMxCtx_wf _ _)
    | mxThr => exact done _ _ (modMxCtx_wf _ _)
    | mxGangLeave => exact done _ _ (leaveGang_wf h _)
    | _ => exact done _ _ h

/-! The operations of Machine/SaveImage. -/

theorem writeImage_wf {s : State} (h : s.mem.wf = true) (k base : ℕ) (l : List Piece) : (writeImage s k base l).mem.wf = true :=
  foldl_wf (fun t p g => by split; exacts [g, agentWrite_wf g _ _ _]) _ (agentWrite_wf h _ _ _)
theorem imageBytes_wf {s : State} (h : s.mem.wf = true) (k base : ℕ) : (imageBytes s k base).2.mem.wf = true := by
  grind [imageBytes, agentRead_wf]
theorem restoreRsv_wf {s : State} (h : s.mem.wf = true) (k n : ℕ) (b : List Byte) : (restoreRsv s k n b).mem.wf = true := by
  grind [restoreRsv, reserveSlots_wf, State.modCtx_mem]
theorem restoreElemRsv_wf {s : State} (h : s.mem.wf = true) (k q : ℕ) : (restoreElemRsv s k q).mem.wf = true := by
  refine foldl_wf (fun t x g => ?_) _ h
  dsimp only
  split
  · exact g
  · split
    exacts [reserveSlots_wf g _ _, g]
theorem restoreToks_wf {s : State} (h : s.mem.wf = true) (k q : ℕ) (b : List Byte) : (restoreToks s k q b).mem.wf = true := by
  unfold restoreToks
  refine foldl_wf (fun t x g => ?_) _ (foldl_wf (fun t x g => ?_) _ h)
  · dsimp only
    split <;> exact g
  · exact g
theorem addReq_wf {s : State} (h : s.mem.wf = true) (k : ℕ) (parked : Bool) (y : Req) : (addReq s k parked y).mem.wf = true := h
theorem restoreReqs_wf {s : State} (h : s.mem.wf = true) (k q : ℕ) (b : List Byte) (kept : List Req) : (restoreReqs s k q b kept).mem.wf = true := by
  have add {t : State} (g : t.mem.wf = true) (parked : Bool) (o : Option Req) : (match o with | some y => addReq t k parked y | none => t).mem.wf = true := by
    split
    exacts [addReq_wf g _ _ _, g]
  refine foldl_wf (fun t i g => ?_) _ (foldl_wf (fun t e g => ?_) _ h)
  · dsimp only
    split
    exacts [g, add g true _]
  · dsimp only
    split
    exacts [add g false _, g]
theorem restoreUnits_wf {s : State} (h : s.mem.wf = true) (k n : ℕ) (q : Option ℕ) (b : List Byte) : (restoreUnits s k n q b).mem.wf = true := by
  unfold restoreUnits
  dsimp only
  split
  · exact h
  · refine foldl_wf (fun t e g => foldl_wf (fun t c g => acceptCmd_wf g _ _ _) _ g) _ (foldl_wf (fun t i g => ?_) _ h)
    split <;> exact g
theorem restoreReds_wf {s : State} (h : s.mem.wf = true) (k q : ℕ) (kept : Option Ply) : (restoreReds s k q kept).mem.wf = true :=
  foldl_wf (fun t x g => foldl_wf (fun t y g => by exact g) _ g) _ h
theorem restoreCtx_wf {s : State} (h : s.mem.wf = true) (k n : ℕ) (q : Option (ℕ × Ply)) (b : List Byte) (kept : List Req) (old : Option Ply) : (restoreCtx s k n q b kept old).mem.wf = true := by
  have rsv := restoreRsv_wf (s := s.setCtx k n { (ctxOf b) with ext := (s.ctx k n).ext }) h k n b
  unfold restoreCtx
  dsimp only
  split
  · exact restoreUnits_wf rsv _ _ _ _
  next q p =>
    refine restoreUnits_wf (restoreReqs_wf (restoreReds_wf (restoreToks_wf (restoreElemRsv_wf ?_ k q) k q b) k q old) k q b kept) k n (some q) b
    rw [State.modCtx_mem]
    exact fillPly_wf rsv k q _
theorem restorePortToks_wf {s : State} (h : s.mem.wf = true) (k q : ℕ) (l : List (Endpt × Token)) : (restorePortToks s k q l).mem.wf = true := by
  refine foldl_wf (fun t x g => ?_) _ h
  dsimp only
  split <;> exact g
theorem leaveCore_wf {s : State} (h : s.mem.wf = true) (k n : ℕ) : (leaveCore s k n).mem.wf = true := by
  unfold leaveCore
  dsimp only
  rw [State.modCtx_mem]
  refine stopContext_wf ?_ k n
  have freed := freeStaged_wf (s := s.modMx k fun m => { m with queue := m.queue.filter fun y => decide (y.ctx ≠ n) }) h k n
  split
  exacts [freePly_wf freed _ _, freed]
theorem freezeCtx_wf {s : State} (h : s.mem.wf = true) (k n : ℕ) : (freezeCtx s k n).mem.wf = true := by
  have freed := freeStaged_wf h k n
  unfold freezeCtx
  dsimp only
  split
  · rw [State.modPly_mem]; exact freed
  · exact freed
theorem saveSlice_wf {s : State} (h : s.mem.wf = true) (k n slot id : ℕ) (x : Slice) (g : Region) (resume : Bool) : (saveSlice s k n slot id x g resume).mem.wf = true := by
  unfold saveSlice
  dsimp only
  refine leaveCore_wf (dropSlice_wf ?_ _ _) _ _
  rw [State.modPart_mem]
  exact dropFaults_wf (writeImage_wf h _ _ _) _ _
theorem resumeUnits_wf {s : State} (h : s.mem.wf = true) (k q : ℕ) (l : List FaultRef) : (resumeUnits s k q l).mem.wf = true := h
theorem wakeFault_wf {s : State} (h : s.mem.wf = true) (k n q : ℕ) (f : FaultRef) : (wakeFault s k n q f).mem.wf = true := by
  grind [wakeFault, restartUnit_wf, State.modPart_mem]
theorem wakePly_wf {s : State} (h : s.mem.wf = true) (k n q : ℕ) (l : List FaultRef) : (wakePly s k n q l).mem.wf = true :=
  foldl_wf (fun _ _ g => wakeFault_wf g _ _ _ _) _ (resumeUnits_wf h _ _ _)
theorem reholdCmd_wf {s : State} (h : s.mem.wf = true) (k q i : ℕ) (c : EngCmd) : (reholdCmd s k q i c).mem.wf = true := h
theorem restoreBeside_wf {s : State} (h : s.mem.wf = true) (k n : ℕ) (q : Option ℕ) (y : Beside) (resume : Bool) : (restoreBeside s k n q y resume).mem.wf = true := by
  unfold restoreBeside
  dsimp only
  split
  · exact h
  · split
    · exact foldl_wf (fun t x g => by exact g) _ (restorePortToks_wf (s := s.modMx _ _) h _ _ _)
    · exact foldl_wf (fun t x g => reholdCmd_wf g _ _ _ _) _ (foldl_wf (fun t x g => by exact g) _ (restorePortToks_wf (s := s.modMx _ _) h _ _ _))
theorem freeSlotOf_wf {s : State} (h : s.mem.wf = true) (part slot : ℕ) : (freeSlotOf s part slot).mem.wf = true := h
theorem restoreSlice_wf {s : State} (h : s.mem.wf = true) (k n q : ℕ) (p : Ply) (b : List Byte) (y : Suspended) : (restoreSlice s k n q p b y).mem.wf = true := by
  grind [restoreSlice, wakePly_wf, freeSlotOf_wf, restoreBeside_wf, releaseParked_wf, restoreCtx_wf, State.modCtx_mem]

/-! The operations of Machine/Sched. -/

theorem queueBudgets_wf (d c : Nat) (l : List Nat) : ∀ {s : State}, s.mem.wf = true → (queueBudgets d c l s).state.mem.wf = true := by
  induction l with
  | nil => intro s h; exact h
  | cons q l ih =>
    intro s h
    have path := rcbPath_wf (d * 128 + c * 16) false 8 (s.queue q).rcbt.toNat h
    unfold queueBudgets
    dsimp only
    split
    · exact Mr.andThen_wf (ih h) fun _ u g => g
    · split
      · exact Mr.andThen_wf (ih h) fun _ u g => g
      · split
        · exact Mr.andThen_wf (ih h) fun _ u g => g
        · split
          next e => rw [e] at path; exact path
          next e => rw [e] at path; exact Mr.andThen_wf (ih path) fun _ u g => g
          next e => rw [e] at path; exact Mr.andThen_wf (ih path) fun _ u g => g
theorem pushDecision_wf {s : State} (h : s.mem.wf = true) (d c : ℕ) (x : Decision) : (pushDecision s d c x).mem.wf = true := h
theorem startDecision_wf {s : State} (h : s.mem.wf = true) (d c : ℕ) (x : Decision) (qs : List ℕ) : (startDecision s d c x qs).mem.wf = true := by
  grind [startDecision, dropDuty_wf, sendDuty_wf, pushDecision_wf]
theorem execDispatchDecisionStart_wf {s : State} (h : s.mem.wf = true) (die cluster : ℕ) : outWf (execDispatchDecisionStart die cluster s) = true := by
  grind [execDispatchDecisionStart, startDecision_wf, queueBudgets_wf, Mr.state, outWf]
theorem startPreempt_wf {s : State} (h : s.mem.wf = true) (d c q : ℕ) (budg : Word) (region : Option (ℕ × ℕ)) : (startPreempt s d c q budg region).mem.wf = true := by
  unfold startPreempt
  grind [startDecision_wf]
theorem State.modDisp_mem (s : State) (d : ℕ) (c : ℕ) (f : Disp → Disp) : (State.modDisp s d c f).mem = s.mem := rfl
theorem noteEligible_wf (s : State) {t : State} (h : t.mem.wf = true) : (noteEligible s t).mem.wf = true := h
theorem settleOut_wf (s : State) {o : Out} (h : outWf o = true) : outWf (settleOut s o) = true := by
  cases o with
  | next t =>
    unfold settleOut
    dsimp only
    split
    exacts [rfl, noteEligible_wf s h]
  | fault c => rfl
  | refused c => rfl
theorem startYield_wf {s : State} (h : s.mem.wf = true) (d c k n q : ℕ) : (startYield s d c k n q).state.mem.wf = true :=
  Mr.andThen_wf (queueBudgets_wf d c [q] h) fun _ _ g => startPreempt_wf g _ _ _ _ _
theorem execYieldDecision_wf {s : State} (h : s.mem.wf = true) (d c : ℕ) (y : ℕ × ℕ × ℕ) (rest : List (ℕ × ℕ × ℕ)) : outWf (execYieldDecision s d c y rest) = true := by
  grind [execYieldDecision, startYield_wf, State.modDisp_mem, Mr.state, outWf]
theorem execPreemptionDecisionStart_wf {s : State} (h : s.mem.wf = true) (die cluster queue : ℕ) : outWf (execPreemptionDecisionStart die cluster queue s) = true := by
  grind [execPreemptionDecisionStart, startPreempt_wf, execYieldDecision_wf, queueBudgets_wf, State.modDisp_mem, Mr.state, outWf]
theorem policyOverrun_wf {s : State} (h : s.mem.wf = true) (d c : ℕ) (x : Decision) (reason : ℕ) : (policyOverrun s d c x reason).mem.wf = true := by
  grind [policyOverrun, partEvent_wf, State.modPolicy_mem]
theorem execPolicyBudgetExpiry_wf {s : State} (h : s.mem.wf = true) (die cluster dec : ℕ) : outWf (execPolicyBudgetExpiry die cluster dec s) = true := by
  grind [execPolicyBudgetExpiry, State.modDec_mem, policyOverrun_wf, outWf]

/-! The operations of Machine/Slices. -/

theorem execLaunchToken_wf {s : State} (h : s.mem.wf = true) (die queue : ℕ) : outWf (execLaunchToken die queue s) = true := by
  unfold execLaunchToken
  dsimp only
  split
  · exact h
  · split
    · exact h
    · split
      exacts [h, foldl_wf (fun t x g => by exact g) _ h]
theorem plyFirst_wf {s : State} (h : s.mem.wf = true) (k q : ℕ) : (plyFirst s k q).mem.wf = true := h
theorem plyLast_wf {s : State} (h : s.mem.wf = true) (k q : ℕ) : (plyLast s k q).mem.wf = true := h
theorem addSlice_wf {s : State} (h : s.mem.wf = true) (x : Slice) : (addSlice s x).mem.wf = true := h
theorem unwarm_wf {s : State} (h : s.mem.wf = true) (k n : ℕ) : (unwarm s k n).mem.wf = true := h
theorem enwarm_wf {s : State} (h : s.mem.wf = true) (k n : ℕ) : (enwarm s k n).mem.wf = true := h
theorem takeStolen_wf {s : State} (h : s.mem.wf = true) (d q : ℕ) : (takeStolen s d q).2.mem.wf = true := by
  grind [takeStolen, State.modQueue_mem]
theorem giveUp_wf {s : State} (h : s.mem.wf = true) (d i : ℕ) (x : Slice) : (giveUp s d i x).mem.wf = true := by
  grind [giveUp, State.modDie_mem, State.modQueue_mem, dropSlice_wf]
theorem warmSlice_wf {s : State} (h : s.mem.wf = true) (k n q : ℕ) : (warmSlice s k n q).mem.wf = true := by
  grind [warmSlice, unwarm_wf, State.modCtx_mem, addSlice_wf, takeStolen_wf, plyFirst_wf]
theorem loadSlice_wf {s : State} (h : s.mem.wf = true) (k n p q : ℕ) (restore stage : Option ℕ) : (loadSlice s k n p q restore stage).mem.wf = true := by
  grind [loadSlice, State.modPly_mem, addSlice_wf, takeStolen_wf, plyFirst_wf]
theorem messageSlice_wf {s : State} (h : s.mem.wf = true) (k n q : ℕ) : (messageSlice s k n q).mem.wf = true := by
  grind [messageSlice, addSlice_wf, takeStolen_wf]
theorem closeWarm_wf {s : State} (h : s.mem.wf = true) (k n : ℕ) : (closeWarm s k n).state.mem.wf = true := by
  grind [closeWarm, unwarm_wf, abortRegion_wf, storeState_wf, Mr.state]
theorem pickQueue_wf {s : State} (h : s.mem.wf = true) (d c q : ℕ) : pickedWf (pickQueue s d c q) = true := by
  unfold pickQueue
  dsimp only
  split
  · split
    exacts [loadSlice_wf h _ _ _ _ _ _, rfl]
  · split
    · split
      exacts [messageSlice_wf h _ _ _, rfl]
    · split
      · exact warmSlice_wf h _ _ _
      · split
        · exact loadSlice_wf h _ _ _ _ _ _
        · split
          · rfl
          next k n _ =>
            have closed := closeWarm_wf h k n
            split
            next e => rw [e] at closed; exact closed
            next => rfl
            next e =>
              rw [e] at closed
              split
              exacts [loadSlice_wf closed _ _ _ _ _ _, closed]
theorem failSlice_wf {s : State} (h : s.mem.wf = true) (d id k n p : ℕ) (rcb : Word) (q code tval : ℕ) : (failSlice s d id k n p rcb q code tval).mem.wf = true := by
  grind [failSlice, freePly_wf, raiseFault_wf, State.modSlice_mem]
theorem slotImage_wf {s : State} (h : s.mem.wf = true) (k slot : Nat) (ply : Bool) : (slotImage s k slot ply).2.mem.wf = true := imageBytes_wf h _ _
theorem failSlot_wf {s : State} (h : s.mem.wf = true) (d id k p slot queue cause : ℕ) : (failSlot s d id k p slot queue cause).mem.wf = true := by
  grind [failSlot, freePly_wf, freeSlotOf_wf, giveUp_wf, partFault_wf, State.modQueue_mem]
theorem joinStage_wf {s : State} (h : s.mem.wf = true) (d : ℕ) (x : Slice) : (joinStage s d x).mem.wf = true := by
  grind [joinStage, State.modDie_mem]
theorem openSlice_wf {s : State} (h : s.mem.wf = true) (d id k n p : ℕ) (x : Slice) : outWf (openSlice s d id k n p x) = true := by
  grind [openSlice, openRegion_wf, joinStage_wf, State.modSlice_mem, State.modCtx_mem, failSlice_wf, Mr.state, outWf]
theorem endSliceLoad_wf {s : State} (h : s.mem.wf = true) (d id k n p : ℕ) (x : Slice) : outWf (endSliceLoad s d id k n p x) = true := by
  grind [endSliceLoad, fillPly_wf, openSlice_wf, releaseParked_wf, loadImage_wf, State.modCtx_mem, failSlice_wf, Mr.state, outWf]
theorem endRestore_wf {s : State} (h : s.mem.wf = true) (d id k n p slot : Nat) (x : Slice) : outWf (endRestore s d id k n p slot x) = true := by
  unfold endRestore
  dsimp only
  split
  · exact h
  · exact failSlot_wf h _ _ _ _ _ _ _
  · exact failSlot_wf h _ _ _ _ _ _ _
  next y _ _ =>
    have read := slotImage_wf h k slot (!y.slice.loading)
    split
    next e => rw [e] at read; exact failSlot_wf read _ _ _ _ _ _ _
    next t e =>
      rw [e] at read
      split
      · refine endSliceLoad_wf ?_ _ _ _ _ _ _
        rw [State.modSlice_mem]
        exact freeSlotOf_wf (restoreBeside_wf (restoreCtx_wf read _ _ _ _ _ _) _ _ _ _ _) _ _
      next b _ =>
        have image := loadImage_wf (s := t.modCtx k n fun c => { c with dict := (ctxOf b).dict }) read k n (w64 (fld b 0x10 8)) false
        split
        next e => rw [e] at image; exact image
        next e => rw [e] at image; exact failSlot_wf image _ _ _ _ _ _ _
        next e =>
          rw [e] at image
          split
          exacts [failSlot_wf image _ _ _ _ _ _ _, restoreSlice_wf image _ _ _ _ _ _]
theorem endStrandLoad_wf {s : State} (h : s.mem.wf = true) (k p : ℕ) (y : Ply) (blk : ℕ) : outWf (endStrandLoad s k p y blk) = true := by
  grind [endStrandLoad, freePly_wf, latchPly_wf, recordLoad_wf, fillPly_wf, endFaulted_wf, loadImage_wf, Mr.state, outWf]
theorem endLoad_wf {s : State} (h : s.mem.wf = true) (core ply : ℕ) : outWf (endLoad core ply s) = true := by
  grind [endLoad, freePly_wf, endRestore_wf, endSliceLoad_wf, openSlice_wf, endStrandLoad_wf, outWf]
theorem sliceToken_wf {s : State} (h : s.mem.wf = true) (id : ℕ) (x : Slice) (t : Wide) : optWf (sliceToken s id x t) = true := by
  grind [sliceToken, portPut_wf, portMessage_wf, optWf]
theorem execSliceTokenDelivery_wf {s : State} (h : s.mem.wf = true) (die slice : ℕ) : outWf (execSliceTokenDelivery die slice s) = true := by
  unfold execSliceTokenDelivery
  grind [sliceToken_wf, State.modSlice_mem, State.modQueue_mem, optWf, outWf]
theorem releaseStage_wf {s : State} (h : s.mem.wf = true) (d i k n q : ℕ) : outWf (releaseStage s d i k n q) = true := by
  grind [releaseStage, finishRegion_wf, State.modDie_mem, endFaulted_wf, outWf]
theorem execSliceEnd_wf {s : State} (h : s.mem.wf = true) (die slice : ℕ) : outWf (execSliceEnd die slice s) = true := by
  grind [execSliceEnd, releaseStage_wf, endFaulted_wf, State.modCtx_mem, giveUp_wf, enwarm_wf, dropSlice_wf, outWf]
theorem raiseBudget_wf {s : State} (h : s.mem.wf = true) (k n q b : ℕ) : (raiseBudget s k n q b).mem.wf = true := by
  grind [raiseBudget, raiseFault_wf]
theorem execBudgetExhaustion_wf {s : State} (h : s.mem.wf = true) (core ctx : ℕ) : outWf (execBudgetExhaustion core ctx s) = true := by
  grind [execBudgetExhaustion, State.modSlice_mem, raiseBudget_wf, State.modCtx_mem, outWf]
theorem execPlacementSample_wf {s : State} (h : s.mem.wf = true) (die stage : ℕ) : outWf (execPlacementSample die stage s) = true := by
  have modDie_wf (t : State) (f : Die → Die) (g : t.mem.wf = true) : (t.modDie die f).mem.wf = true := by rw [State.modDie_mem]; exact g
  unfold execPlacementSample
  split
  · exact h
  next st _ =>
    extract_lets now q depth t put p grown
    split
    · exact h
    · split
      · extract_lets _
        rw [outWf, State.modDie_mem, State.modPly_mem]
        exact loadSlice_wf (modDie_wf s _ h) _ _ _ _ _ _
      · split
        · split
          · split
            · split
              · split
                · exact modDie_wf s _ h
                · extract_lets _ _
                  refine foldl_wf (fun t d g => sendMarker_wf g _ _ _) _ ?_
                  rw [State.modPly_mem, State.modSlice_mem]
                  exact modDie_wf s _ h
              · exact modDie_wf s _ h
            · exact modDie_wf s _ h
          · exact modDie_wf s _ h
        · exact modDie_wf s _ h

/-! The operations of Machine/FaultDec. -/

theorem execFaultDecisionStart_wf {s : State} (h : s.mem.wf = true) (core ctx : ℕ) : outWf (execFaultDecisionStart core ctx s) = true := by
  grind [execFaultDecisionStart, dropDuty_wf, sendDuty_wf, setFault_wf, pushDecision_wf, outWf]
theorem rewriteRecord_wf {s : State} (h : s.mem.wf = true) (f : FaultRef) (code : ℕ) (await : Bool) : (rewriteRecord s f code await).mem.wf = true := by
  grind [rewriteRecord, iodWrite_wf]
theorem unblock_wf {s : State} (h : s.mem.wf = true) (f : FaultRef) : (unblock s f).mem.wf = true := by
  grind [unblock, State.modQueue_mem]
theorem countFault_wf {s : State} (h : s.mem.wf = true) (f : FaultRef) : (countFault s f).mem.wf = true := h
theorem actFault_wf {s : State} (h : s.mem.wf = true) (f : FaultRef) (code op : ℕ) : (actFault s f code op).mem.wf = true := by
  unfold actFault
  grind [restartUnit_wf, rewriteRecord_wf, unblock_wf, giveUp_wf, countFault_wf, setFault_wf]
theorem commitFault_wf {s : State} (h : s.mem.wf = true) (d c : ℕ) (x : Decision) (v : ℕ × ℕ) : (commitFault s d c x v).mem.wf = true := by
  grind [commitFault, actFault_wf, policyOverrun_wf]
theorem execFltreply_wf {s : State} (h : s.mem.wf = true) (part : ℕ) (v : Word) : outWf (execFltreply part v s) = true := by
  grind [execFltreply, actFault_wf, rewriteRecord_wf, setFault_wf, State.modPart_mem, outWf]
theorem execFltptrWrite_wf {s : State} (h : s.mem.wf = true) (part : ℕ) (v : Word) : outWf (execFltptrWrite part v s) = true := by
  grind [execFltptrWrite, State.modPart_mem, outWf]
theorem execContainment_wf {s : State} (h : s.mem.wf = true) (core ctx : ℕ) : outWf (execContainment core ctx s) = true := by
  grind [execContainment, containGroup_wf, endFaulted_wf, State.modCtx_mem, State.modPart_mem, outWf]
theorem execRollback_wf {s : State} (h : s.mem.wf = true) (core ctx : ℕ) : outWf (execRollback core ctx s) = true := by
  grind [execRollback, rollbackGroup_wf, setFault_wf, State.modPart_mem, outWf]
theorem dropWaiting_wf {s : State} (h : s.mem.wf = true) (f : FaultRef) : (dropWaiting s f).mem.wf = true := by
  grind [dropWaiting, State.modEngine_mem, dropHeld_wf]
theorem execRegionMigration_wf {s : State} (h : s.mem.wf = true) (core ctx : ℕ) : outWf (execRegionMigration core ctx s) = true := by
  grind [execRegionMigration, unwarm_wf, freezeCtx_wf, saveSlice_wf, unblock_wf, loadSlice_wf, dropWaiting_wf, setFault_wf, State.modPart_mem, outWf]

/-! The operations of Machine/Commit. -/

theorem startOn_wf {s : State} (h : s.mem.wf = true) (k n q : ℕ) : (startOn s k n q).mem.wf = true := by
  grind [startOn, messageSlice_wf, loadSlice_wf]
theorem startByPly_wf {s : State} (h : s.mem.wf = true) (k q : ℕ) (x : ℕ × Bool) : (startByPly s k q x).mem.wf = true := by
  grind [startByPly, startOn_wf, warmSlice_wf]
theorem endVictim_wf {s : State} (h : s.mem.wf = true) (d i : ℕ) (x : Slice) : (endVictim s d i x).mem.wf = true := by
  grind [endVictim, plyLast_wf, State.modCtx_mem, giveUp_wf, enwarm_wf]
theorem dropLoad_wf {s : State} (h : s.mem.wf = true) (x : Slice) : (dropLoad s x).mem.wf = true := by
  grind [dropLoad, freePly_wf]
theorem beginSwitch_wf {s : State} (h : s.mem.wf = true) (d i slot q : ℕ) (x : Slice) : (beginSwitch s d i slot q x).mem.wf = true := by
  unfold beginSwitch
  dsimp only
  rw [State.modPart_mem, State.modSlice_mem, State.modCtx_mem]
  refine freezeCtx_wf ?_ _ _
  split
  exacts [dropLoad_wf h _, h]
theorem preemptSlice_wf {s : State} (h : s.mem.wf = true) (d i q : ℕ) : (preemptSlice s d i q).mem.wf = true := by
  grind [preemptSlice, startByPly_wf, giveUp_wf, beginSwitch_wf, startOn_wf, endVictim_wf, dropLoad_wf]
theorem commitPreempt_wf {s : State} (h : s.mem.wf = true) (d c : ℕ) (x : Decision) (i : ℕ) : (commitPreempt s d c x i).mem.wf = true := by
  grind [commitPreempt, plyLast_wf, preemptSlice_wf]
theorem ageQueues_wf {s : State} (h : s.mem.wf = true) (d c : ℕ) (x : Decision) (picked : Option ℕ) : (ageQueues s d c x picked).mem.wf = true :=
  foldl_wf (fun t q g => by exact g) _ h
theorem commitDispatch_wf {s : State} (h : s.mem.wf = true) (d c : ℕ) (x : Decision) (v : ℕ × ℕ) : pickedWf (commitDispatch s d c x v) = true := by
  grind [commitDispatch, ageQueues_wf, pickQueue_wf, pickedWf]
theorem execDecisionCommit_wf {s : State} (h : s.mem.wf = true) (die cluster dec : ℕ) : outWf (execDecisionCommit die cluster dec s) = true := by
  grind [execDecisionCommit, commitFault_wf, commitDispatch_wf, commitPreempt_wf, State.modDisp_mem, policyOverrun_wf, outWf, pickedWf]
theorem noteYield_wf {s : State} (h : s.mem.wf = true) (d c k n turn : ℕ) : (noteYield s d c k n turn).mem.wf = true := h
theorem execYield_wf {s : State} (h : s.mem.wf = true) : outWf (execYield s) = true := by
  grind [execYield, startYield_wf, State.modDie_mem, State.modMe_mem, retire_wf, noteYield_wf, Mr.state, outWf]

/-! The operations of Machine/EvCore. -/

theorem ignoreCmd_wf {s : State} (h : s.mem.wf = true) (k : ℕ) : (ignoreCmd s k).mem.wf = true := h
theorem startCtx_wf {s : State} (h : s.mem.wf = true) (k n : ℕ) (v : Word) : (startCtx s k n v).mem.wf = true := by
  grind [startCtx, ignoreCmd_wf, State.modCtx_mem]
theorem stopCmd_wf {s : State} (h : s.mem.wf = true) (k n : ℕ) : (stopCmd s k n).mem.wf = true := by
  grind [stopCmd, stopContext_wf, State.modCtx_mem]
theorem trapCmd_wf {s : State} (h : s.mem.wf = true) (k n : ℕ) (v : Word) : (trapCmd s k n v).mem.wf = true := by
  grind [trapCmd, ignoreCmd_wf, takePending_wf, State.modCtx_mem]
theorem execCtxStart_wf {s : State} (h : s.mem.wf = true) (core : ℕ) (v : Word) : outWf (execCtxStart core v s) = true := by
  grind [execCtxStart, startCtx_wf, outWf]
theorem execCtxStop_wf {s : State} (h : s.mem.wf = true) (core : ℕ) (v : Word) : outWf (execCtxStop core v s) = true := by
  grind [execCtxStop, stopCmd_wf, outWf]
theorem execCtxTrap_wf {s : State} (h : s.mem.wf = true) (core : ℕ) (v : Word) : outWf (execCtxTrap core v s) = true := by
  grind [execCtxTrap, trapCmd_wf, outWf]
theorem execDsCtxStart_wf {s : State} (h : s.mem.wf = true) (v : Word) : outWf (execDsCtxStart v s) = true := by
  grind [execDsCtxStart, ignoreCmd_wf, startCtx_wf, outWf]
theorem execDsCtxStop_wf {s : State} (h : s.mem.wf = true) (v : Word) : outWf (execDsCtxStop v s) = true := by
  grind [execDsCtxStop, ignoreCmd_wf, stopCmd_wf, outWf]
theorem execDsCtxTrap_wf {s : State} (h : s.mem.wf = true) (v : Word) : outWf (execDsCtxTrap v s) = true := by
  grind [execDsCtxTrap, ignoreCmd_wf, trapCmd_wf, outWf]
theorem giveUpOn_wf {s : State} (h : s.mem.wf = true) (k n : ℕ) : (giveUpOn s k n).mem.wf = true := by
  grind [giveUpOn, giveUp_wf]
theorem evictCtx_wf {s : State} (h : s.mem.wf = true) (k n : ℕ) : (evictCtx s k n).mem.wf = true :=
  leaveCore_wf (unwarm_wf (dropFaults_wf (giveUpOn_wf (freezeCtx_wf h k n) k n) k n) k n) k n
theorem evictCore_wf {s : State} (h : s.mem.wf = true) (k : ℕ) : (evictCore s k).mem.wf = true :=
  foldl_wf (fun _ q g => freePly_wf g k q) _ (foldl_wf (fun _ n g => evictCtx_wf g k n) _ (dissolveGang_wf h k))
theorem execCoreReset_wf {s : State} (h : s.mem.wf = true) (core : ℕ) : outWf (execCoreReset core s) = true := by
  grind [execCoreReset, settleCore_wf, State.setCore_mem, evictCore_wf, outWf]
theorem execBoot_wf {s : State} (h : s.mem.wf = true) : outWf (execBoot s) = true := by
  grind [execBoot, outWf]
theorem thawCtx_wf {s : State} (h : s.mem.wf = true) (k n : ℕ) : (thawCtx s k n).mem.wf = true := by
  grind [thawCtx, State.modPly_mem, releaseParked_wf]
theorem quitSwitch_wf {s : State} (h : s.mem.wf = true) (k n : ℕ) (w : SwitchTo) : (quitSwitch s k n w).mem.wf = true := by
  grind [quitSwitch, thawCtx_wf, State.modCtx_mem, giveUp_wf, State.modPart_mem]
theorem endSwitch_wf {s : State} (h : s.mem.wf = true) (k n : ℕ) (w : SwitchTo) : (endSwitch s k n w).mem.wf = true := by
  grind [endSwitch, saveSlice_wf, settleCore_wf, quitSwitch_wf, startOn_wf]
theorem endCsw_wf {s : State} (h : s.mem.wf = true) (k : ℕ) (fail : Option ℕ) : (endCsw s k fail).mem.wf = true := h
theorem sleepFaults_wf {s : State} (h : s.mem.wf = true) (k n : ℕ) : (sleepFaults s k n).mem.wf = true := h
theorem keepBeside_wf {s : State} (h : s.mem.wf = true) (k n base : ℕ) : (keepBeside s k n base).mem.wf = true := by
  grind [keepBeside, imageBytes_wf, State.modDie_mem]
theorem endSave_wf {s : State} (h : s.mem.wf = true) (k : ℕ) (v : Word) : (endSave s k v).mem.wf = true := by
  have fail (e : Nat) : (endCsw ((List.range 4).foldl (fun s n => thawCtx s k n) s) k (some e)).mem.wf = true := endCsw_wf (foldl_wf (fun t n g => thawCtx_wf g _ _) _ h) _ _
  unfold endSave
  dsimp only
  split
  · exact fail _
  · split
    · exact fail _
    · refine endCsw_wf (foldl_wf (fun t n g => evictCtx_wf (sleepFaults_wf g _ _) _ _) _ (foldl_wf (fun t n g => keepBeside_wf g _ _ _) _ (foldl_wf (fun t x g => agentWrite_wf g _ _ _) _ (writeImage_wf (foldl_wf (fun t n g => writeImage_wf g _ _ _) _ (settleCore_wf h k)) _ _ _)))) _ _
theorem execContextSwitchComplete_wf {s : State} (h : s.mem.wf = true) (core ctx : ℕ) : outWf (execContextSwitchComplete core ctx s) = true := by
  grind [execContextSwitchComplete, fabricFault_wf, endSwitch_wf, endSave_wf, quitSwitch_wf, outWf]
theorem beginCsw_wf {s : State} (h : s.mem.wf = true) (k : ℕ) (v : Word) : (beginCsw s k v).mem.wf = true := h
theorem loseOwnGang_wf {s : State} (h : s.mem.wf = true) (k : ℕ) : (loseOwnGang s k).mem.wf = true := by
  grind [loseOwnGang, loseGang_wf, dissolveGang_wf, State.modMx_mem]
theorem execCoreSave_wf {s : State} (h : s.mem.wf = true) (core : ℕ) (v : Word) : outWf (execCoreSave core v s) = true := by
  unfold execCoreSave
  split
  · exact h
  · exact foldl_wf (fun t n g => freezeCtx_wf g _ _) _ (loseOwnGang_wf (beginCsw_wf h _ _) _)
theorem loadFor_wf {s : State} (h : s.mem.wf = true) (k n : ℕ) (b : List Byte) : (loadFor s k n b).state.mem.wf = true := by
  unfold loadFor
  split
  · exact Mr.andThen_wf (loadImage_wf (s := s.modCtx _ _ _) h _ _ _ _) fun _ t g => g
  · exact h
theorem regionFor_wf {s : State} (h : s.mem.wf = true) (k : ℕ) (b : List Byte) : (regionFor s k b).state.mem.wf = true := by
  unfold regionFor
  split
  · refine Mr.andThen_wf (rcbPath_wf _ _ _ _ h) fun l t g => ?_
    dsimp only
    split
    · exact g
    · refine Mr.andThen_wf ?_ fun blocks u g => g
      split
      exacts [readBlocks_wf g _ _ _, g]
  · exact h
theorem loadAll_wf (k base m : Nat) : ∀ {s : State} (n : Nat), s.mem.wf = true → (loadAll k base m n s).state.mem.wf = true := by
  induction m with
  | zero => intro s n h; exact h
  | succ m ih =>
    intro s n h
    have read := imageBytes_wf h k (base + 0x10000 * n)
    unfold loadAll
    dsimp only
    split
    · exact read
    · refine Mr.andThen_wf (loadFor_wf read _ _ _) fun q t g => ?_
      split
      · exact g
      · exact Mr.andThen_wf (regionFor_wf g _ _) fun _ u g => Mr.andThen_wf (ih _ g) fun _ v g => g
theorem bufFrom_wf {s : State} (h : s.mem.wf = true) (k base bufs i off size : Nat) : (bufFrom s k base bufs i off size).2.mem.wf = true := by
  unfold bufFrom
  split
  exacts [agentRead_wf h _ _ _, h]
theorem refillCtx_wf {s : State} (h : s.mem.wf = true) (k n : ℕ) (b : List Byte) (q : Option (ℕ × Ply)) (g : Option Region) : (refillCtx s k n b q g).mem.wf = true := by
  unfold refillCtx
  dsimp only
  rw [State.modCtx_mem]
  cases keptFor s k n b with
  | none => exact restoreCtx_wf h _ _ _ _ _ _
  | some y => exact restoreBeside_wf (restoreCtx_wf h _ _ _ _ _ _) _ _ _ _ _
theorem failRestore_wf {s : State} (h : s.mem.wf = true) (s0 : State) (k e : Nat) : (failRestore s s0 k e).mem.wf = true :=
  endCsw_wf (partFault_wf (s := s.setCore _ _) h _ _ _ _ _) _ _
theorem wakeCore_wf {s : State} (h : s.mem.wf = true) (k : ℕ) (l : List (ℕ × List Byte × Option (ℕ × Ply) × Option Region)) : (wakeCore s k l).mem.wf = true :=
  foldl_wf (fun t x g => by dsimp only; split; exacts [wakePly_wf g _ _ _ _, g]) _ h
theorem tryRestore_wf {s0 : State} (h : s0.mem.wf = true) (k : Nat) : outWf (tryRestore s0 k) = true := by
  have read := agentRead_wf h k (cswBase s0 k + 0x40000) coreSize
  have loaded := loadAll_wf k (cswBase s0 k) 4 0 read
  unfold tryRestore
  dsimp only
  split
  · exact h
  · split
    · exact failRestore_wf h _ _ _
    · split
      · exact h
      · split
        · exact failRestore_wf read _ _ _
        · split
          · exact failRestore_wf read _ _ _
          · split
            next e => rw [e] at loaded; exact loaded
            next e => rw [e] at loaded; exact failRestore_wf loaded _ _ _
            next l t e =>
              rw [e] at loaded
              refine endCsw_wf (releaseParked_wf (wakeCore_wf ?_ _ _) _) _ _
              rw [State.modCore_mem]
              exact bufFrom_wf (bufFrom_wf (bufFrom_wf (bufFrom_wf (bufFrom_wf (foldl_wf (fun t x g => refillCtx_wf g _ _ _ _ _) _ loaded) _ _ _ _ _ _) _ _ _ _ _ _) _ _ _ _ _ _) _ _ _ _ _ _) _ _ _ _ _ _
theorem execCoreRestore_wf {s : State} (h : s.mem.wf = true) (core : ℕ) (v : Word) : outWf (execCoreRestore core v s) = true := by
  grind [execCoreRestore, beginCsw_wf, tryRestore_wf, outWf]
theorem execEndOfALoad_wf {s : State} (h : s.mem.wf = true) (core ply : ℕ) : outWf (execEndOfALoad core ply s) = true := by
  grind [execEndOfALoad, tryRestore_wf, endLoad_wf, outWf]

/-! The operations of Machine/EvMem. -/

theorem execPageWalk_wf {s : State} (h : s.mem.wf = true) (core : ℕ) (va : Word) (acc : Acc) (user : Bool) : outWf (execPageWalk core va acc user s) = true := by
  grind [execPageWalk, walk_wf, Mr.state, outWf]
theorem modAwaiting_wf {s : State} (h : s.mem.wf = true) (p : ℕ) (d : Duty) (f : Decision → Decision) : (modAwaiting s p d f).mem.wf = true := h
theorem modLine_wf {s : State} (h : s.mem.wf = true) (p tag : ℕ) (f : CmpLine → CmpLine) : (modLine s p tag f).mem.wf = true := h
theorem expireDuty_wf {s : State} (h : s.mem.wf = true) (p : ℕ) (d : Duty) : (expireDuty s p d).mem.wf = true := by
  grind [expireDuty, modLine_wf, dropDuty_wf, promoteWalks_wf, dutyTimeout_wf, modAwaiting_wf, State.modPart_mem]
theorem execDutyWaitExpiry_wf {s : State} (h : s.mem.wf = true) (part tag : ℕ) : outWf (execDutyWaitExpiry part tag s) = true := by
  grind [execDutyWaitExpiry, expireDuty_wf, outWf]
theorem State.setPool_mem (s : State) (d : ℕ) (t : ℕ) (x : Pool) : (State.setPool s d t x).mem = s.mem := rfl
theorem chunkLow_wf {s : State} (h : s.mem.wf = true) (d t : ℕ) : (chunkLow s d t).mem.wf = true := by
  grind [chunkLow, hostEvent_wf]
theorem takeFree_wf {s : State} (h : s.mem.wf = true) (d t : ℕ) : ∀ x, (takeFree s d t) = some x → x.2.mem.wf = true := by
  intro x hx
  unfold takeFree at hx
  grind [chunkLow_wf, State.setPool_mem]
theorem takeChunks_wf (d t n : Nat) : ∀ {s : State}, s.mem.wf = true → (takeChunks d t n s).2.mem.wf = true := by
  induction n with
  | zero => intro s h; exact h
  | succ n ih =>
    intro s h
    unfold takeChunks
    dsimp only
    split
    next f u e => exact ih (takeFree_wf h d t _ e)
    next =>
      split
      · exact h
      · exact ih (s := s.setPool _ _ _) h
theorem giveChunk_wf {s : State} (h : s.mem.wf = true) (d t f : ℕ) : (giveChunk s d t f).mem.wf = true := h
theorem discardLine_wf {s : State} (h : s.mem.wf = true) (l : CmpLine) : (discardLine s l).mem.wf = true :=
  partFault_wf (s := s.modMem fun m => dropLine m l) (dropLine_wf l h) _ _ _ _ _
theorem execCompressedWriteback_wf {s : State} (h : s.mem.wf = true) (n : ℕ) : outWf (execCompressedWriteback n s) = true := by
  unfold execCompressedWriteback
  split
  · exact h
  · split
    · exact h
    · split
      · exact h
      · split
        · exact discardLine_wf h _
        · split
          · exact storeBlock_wf _ h
          next l _ _ _ _ _ =>
            have locked : (setCmpState (serveReads s.mem l) l.desc true false).wf = true := setCmpState_wf _ _ _ h
            have sent := sendDuty_wf (s := s.modMem fun m => setCmpState (serveReads m l) l.desc true false) locked
            dsimp only
            split
            · split
              exacts [dropDuty_wf (sent _ _ _ _ _) _ _, sent _ _ _ _ _]
            · exact locked
theorem layoutPage_wf {s : State} (h : s.mem.wf = true) (l : CmpLine) : (layoutPage s l).mem.wf = true := by
  unfold layoutPage
  dsimp only
  split
  · exact discardLine_wf (setCmpState_wf _ _ _ h) l
  · exact dropLine_wf _ (setCmpState_wf _ _ _ (writeLayout_wf _ _ _ _ (foldl_wf (fun t f g => giveChunk_wf g _ _ f) _ (takeChunks_wf _ _ _ h))))
theorem execPageRelayout_wf {s : State} (h : s.mem.wf = true) (n : ℕ) : outWf (execPageRelayout n s) = true := by
  grind [execPageRelayout, layoutPage_wf, outWf]
theorem releasePage_wf {s : State} (h : s.mem.wf = true) (p tag : ℕ) : (releasePage s p tag).mem.wf = true := by
  unfold releasePage
  dsimp only
  split
  · exact h
  · split
    · exact storeBlock_wf _ (setCmpState_wf _ _ _ h)
    · exact setCmpState_wf _ _ _ h
theorem execDutyReply_wf {s : State} (h : s.mem.wf = true) (part : ℕ) (v : Word) : outWf (execDutyReply part v s) = true := by
  grind [execDutyReply, dropDuty_wf, promoteWalks_wf, expireDuty_wf, modAwaiting_wf, releasePage_wf, State.modPart_mem, outWf]
theorem invalidate_wf {s : State} (h : s.mem.wf = true) (p : ℕ) (r : ℕ × ℕ) : (invalidate s p r).mem.wf = true :=
  foldl_wf (fun t d g => by exact g) _ (foldl_wf (fun t k g => by exact g) _ h)
theorem noteWalks_wf {s : State} (h : s.mem.wf = true) (p : ℕ) : (noteWalks s p).mem.wf = true := foldl_wf (fun t d g => by exact g) _ h
theorem execTinv_wf {s : State} (h : s.mem.wf = true) (part : ℕ) (v : Word) : outWf (execTinv part v s) = true := by
  grind [execTinv, noteWalks_wf, invalidate_wf, State.modPart_mem, outWf]
theorem execTinvComplete_wf {s : State} (h : s.mem.wf = true) (part : ℕ) : outWf (execTinvComplete part s) = true := by
  unfold execTinvComplete
  dsimp only
  split
  · exact h
  next v walks rest _ =>
    have ended := invalidate_wf (performStores_wf (foldl_wf (f := fun s d => s.modDie d fun y => endWalks y part (tinvRange v)) (fun t d g => by exact g) (List.range 4) h) fun _ => true) part (tinvRange v)
    have taken : ((invalidate (performStores ((List.range 4).foldl (fun s d => s.modDie d fun y => endWalks y part (tinvRange v)) s) fun _ => true) part (tinvRange v)).modPart part
        fun x => { dropAnswers x walks (tinvRange v) with tinvs := rest }).mem.wf = true := by
      rw [State.modPart_mem]; exact ended
    split
    · exact h
    · cases rest with
      | nil => exact taken
      | cons w rest => exact invalidate_wf taken _ _
theorem hostSees_wf {s : State} (h : s.mem.wf = true) (pa : ℕ) : (hostSees s pa).mem.wf = true := by
  grind [hostSees, performStores_wf]
theorem execSnpdata_wf {s : State} (h : s.mem.wf = true) (die pa : ℕ) : outWf (execSnpdata die pa s) = true := by
  unfold execSnpdata
  dsimp only
  split
  exacts [Memory.wf_of_bytes (Memory.setL2_bytes _ _ _ _) (hostSees_wf h pa), h]
theorem execSnpinv_wf {s : State} (h : s.mem.wf = true) (die pa : ℕ) : outWf (execSnpinv die pa s) = true := by
  unfold execSnpinv
  split
  exacts [Memory.wf_of_bytes (Memory.setL2_bytes _ _ _ _) (hostSees_wf h pa), h]
theorem execSnpcur_wf {s : State} (h : s.mem.wf = true) (die pa : ℕ) : outWf (execSnpcur die pa s) = true := by
  grind [execSnpcur, hostSees_wf, outWf]
theorem hostTakes_wf {s : State} (h : s.mem.wf = true) (pa : Nat) (own : Bool) : (hostTakes s pa own).mem.wf = true := Memory.wf_of_bytes (hostTakes_bytes s pa own) h
theorem hostStore_wf {s : State} (h : s.mem.wf = true) (pa : ℕ) (v : Word) : (hostStore pa v s).mem.wf = true := by
  unfold hostStore
  split
  · exact Memory.wf_set _ _ (hostSees_wf h pa)
  · exact h
theorem execHostReadDeviceMemory_wf {s : State} (h : s.mem.wf = true) (pa : ℕ) (own : Bool) : outWf (execHostReadDeviceMemory pa own s) = true := by
  grind [execHostReadDeviceMemory, hostTakes_wf, outWf]
theorem execHostWriteDeviceMemory_wf {s : State} (h : s.mem.wf = true) (pa : ℕ) (v : Word) : outWf (execHostWriteDeviceMemory pa v s) = true := by
  unfold execHostWriteDeviceMemory
  split
  exacts [Memory.wf_set _ _ (hostTakes_wf h pa true), h]
theorem copyFrame_wf {s : State} (h : s.mem.wf = true) (src dst : ℕ) : (copyFrame s src dst).mem.wf = true := foldl_wf (fun _ _ g => iodPut_wf _ _ (iodRead_wf _ _ g)) _ h
theorem migOn_wf {s : State} (h : s.mem.wf = true) (die : ℕ) (g : Migration) : (migOn s die g).mem.wf = true := h
theorem migOver_wf {s : State} (h : s.mem.wf = true) (die n : ℕ) : (migOver s die n).mem.wf = true := h
theorem migCopy_wf {s : State} (h : s.mem.wf = true) (die : ℕ) (g : Migration) : (migCopy s die g).mem.wf = true := by
  grind [migCopy, migOver_wf, migOn_wf, copyFrame_wf]
theorem migTranslate_wf {s : State} (h : s.mem.wf = true) (die : ℕ) (g : Migration) : (migTranslate s die g).mem.wf = true := by
  grind [migTranslate, migCopy_wf, migOver_wf, migOn_wf, findLeaf_wf]
theorem execMigcmd_wf {s : State} (h : s.mem.wf = true) (die : ℕ) (v : Word) : outWf (execMigcmd die v s) = true := by
  grind [execMigcmd, migTranslate_wf, outWf]
theorem migCommit_wf {s : State} (h : s.mem.wf = true) (die : ℕ) (g : Migration) : (migCommit s die g).mem.wf = true := by
  grind [migCommit, performStores_wf, migOver_wf, invalidate_wf, State.modPart_mem, iodPut_wf]
theorem execMigrationCommit_wf {s : State} (h : s.mem.wf = true) (die : ℕ) : outWf (execMigrationCommit die s) = true := by
  grind [execMigrationCommit, migCommit_wf, migCopy_wf, migTranslate_wf, outWf]
theorem State.modRegs_mem (s : State) (d : ℕ) (f : DieRegs → DieRegs) : (State.modRegs s d f).mem = s.mem := rfl
theorem execOccclr_wf {s : State} (h : s.mem.wf = true) (die : ℕ) (v : Word) : outWf (execOccclr die v s) = true := by
  grind [execOccclr, State.modRegs_mem, outWf]
theorem execOccclrStep_wf {s : State} (h : s.mem.wf = true) (die : ℕ) : outWf (execOccclrStep die s) = true := by
  grind [execOccclrStep, State.modRegs_mem, outWf]
theorem execOccownWrite_wf {s : State} (h : s.mem.wf = true) (die g : ℕ) (v : Word) : outWf (execOccownWrite die g v s) = true := by
  grind [execOccownWrite, State.modRegs_mem, outWf]
theorem execOcccntWrite_wf {s : State} (h : s.mem.wf = true) (die slot : ℕ) (v : Word) : outWf (execOcccntWrite die slot v s) = true := by
  grind [execOcccntWrite, State.modRegs_mem, outWf]
theorem execChunkpush_wf {s : State} (h : s.mem.wf = true) (die tile : ℕ) (v : Word) : outWf (execChunkpush die tile v s) = true := by
  grind [execChunkpush, giveChunk_wf, outWf]
theorem execChunkpop_wf {s : State} (h : s.mem.wf = true) (die tile : ℕ) : outWf (execChunkpop die tile s) = true := by
  have took := takeFree_wf h die tile
  unfold execChunkpop
  split
  · split
    next e => exact took _ e
    next => exact h
  · exact h

/-! The operations of Machine/EvHost. -/

theorem dropWrite_wf {s : State} (h : s.mem.wf = true) (q : ℕ) : (dropWrite s q).mem.wf = true := h
theorem execIngressToken_wf {s : State} (h : s.mem.wf = true) (die queue : ℕ) (tok : BitVec 128) (whole : Bool) : outWf (execIngressToken die queue tok whole s) = true := by
  grind [execIngressToken, State.modQueue_mem, dropWrite_wf, outWf]
theorem execCredreq_wf {s : State} (h : s.mem.wf = true) (die queue : ℕ) (v : Word) : outWf (execCredreq die queue v s) = true := by
  grind [execCredreq, State.modQueue_mem, dropWrite_wf, outWf]
theorem execCreditRelease_wf {s : State} (h : s.mem.wf = true) (die queue : ℕ) (v : Word) : outWf (execCreditRelease die queue v s) = true := by
  grind [execCreditRelease, State.modQueue_mem, dropWrite_wf, outWf]
theorem execDropsClear_wf {s : State} (h : s.mem.wf = true) (die queue : ℕ) : outWf (execDropsClear die queue s) = true := by
  grind [execDropsClear, State.modQueue_mem, dropWrite_wf, outWf]
theorem writeDlnext_wf {s : State} (h : s.mem.wf = true) (q : ℕ) (v : Word) : (writeDlnext s q v).mem.wf = true := by
  grind [writeDlnext, State.modQueue_mem, dropWrite_wf]
theorem execTokdropClear_wf {s : State} (h : s.mem.wf = true) (core : ℕ) : outWf (execTokdropClear core s) = true := by
  grind [execTokdropClear, State.modPort_mem, outWf]
theorem setRegst_wf {s : State} (h : s.mem.wf = true) (d : ℕ) (ok : Bool) : (setRegst s d ok).mem.wf = true := h
theorem execRegcmdQueue_wf {s : State} (h : s.mem.wf = true) (die num : ℕ) : outWf (execRegcmdQueue die num s) = true := by
  grind [execRegcmdQueue, setRegst_wf, State.modQueue_mem, outWf]
theorem execRegcmdStage_wf {s : State} (h : s.mem.wf = true) (die num : ℕ) : outWf (execRegcmdStage die num s) = true := by
  grind [execRegcmdStage, setRegst_wf, State.modDie_mem, outWf]
theorem changeOwner_wf {s : State} (h : s.mem.wf = true) (k p : ℕ) : (changeOwner s k p).mem.wf = true := by
  unfold changeOwner
  dsimp only
  rw [State.modCore_mem]
  refine foldl_wf (fun t n g => returnSlots_wf g _ _) _ (foldl_wf (fun t q g => freePly_wf g k q) _ (foldl_wf (fun t n g => ?_) _ (dissolveGang_wf (settleCore_wf h k) k)))
  exact unwarm_wf (dropFaults_wf (giveUpOn_wf g k n) k n) k n
theorem execPartitionSetup_wf {s : State} (h : s.mem.wf = true) (part : ℕ) (v : Word) : outWf (execPartitionSetup part v s) = true := by
  unfold execPartitionSetup
  dsimp only
  split
  · exact h
  · split
    · exact h
    · rw [outWf, State.modPart_mem]
      exact foldl_wf (fun t k g => changeOwner_wf g _ _) _ (foldl_wf (fun t k g => changeOwner_wf g _ _) _ h)
theorem resetDs_wf {s : State} (h : s.mem.wf = true) : (resetDs s).mem.wf = true := h
theorem releaseClusters_wf {s : State} (h : s.mem.wf = true) (part mask : ℕ) : (releaseClusters s part mask).mem.wf = true := by
  have freed := foldl_wf (fun t j g => changeOwner_wf g j 0) ((maskCores mask).filter fun k => decide (s.partOf k = part)) h
  unfold releaseClusters
  split
  · dsimp only
    rw [State.modPart_mem]
    split
    · exact resetDs_wf freed
    · exact freed
  · exact h
theorem execPartitionEnd_wf {s : State} (h : s.mem.wf = true) (part : ℕ) : outWf (execPartitionEnd part s) = true := by
  unfold execPartitionEnd
  dsimp only
  split
  · exact h
  · exact releaseClusters_wf (s := State.modPart _ _ _) (foldl_wf (fun t x g => stopCmd_wf g _ _) _ h) _ _
theorem endPartition_wf {s : State} (h : s.mem.wf = true) (k : ℕ) : (endPartition s k).mem.wf = true := by
  unfold endPartition
  dsimp only
  split
  · exact releaseClusters_wf (foldl_wf (fun t x g => takeStop_wf g _ _) _ h) _ _
  · exact h
theorem execDspartWrite_wf {s : State} (h : s.mem.wf = true) (v : Word) : outWf (execDspartWrite v s) = true := by
  grind [execDspartWrite, State.modIod_mem, resetDs_wf, outWf]
theorem enableHead_wf {s : State} (h : s.mem.wf = true) (hx : ℕ) (v : Word) : (enableHead s hx v).mem.wf = true := foldl_wf (fun t d g => by exact g) _ h
theorem execHeadEnable_wf {s : State} (h : s.mem.wf = true) (head : ℕ) (v : Word) : outWf (execHeadEnable head v s) = true := by
  grind [execHeadEnable, enableHead_wf, State.modHead_mem, outWf]
theorem execHeadDisable_wf {s : State} (h : s.mem.wf = true) (head : ℕ) (v : Word) : outWf (execHeadDisable head v s) = true := by
  grind [execHeadDisable, State.modHead_mem, outWf]
theorem State.modSec_mem (s : State) (f : Security → Security) : (State.modSec s f).mem = s.mem := rfl
theorem execAttcmd_wf {s : State} (h : s.mem.wf = true) (v : Word) : outWf (execAttcmd v s) = true := by
  grind [execAttcmd, State.modSec_mem, outWf]
theorem execAttstDone_wf {s : State} (h : s.mem.wf = true) : outWf (execAttstDone s) = true := by
  grind [execAttstDone, State.modSec_mem, freeBytes_wf, iodWrite_wf, outWf]
theorem execSvncommit_wf {s : State} (h : s.mem.wf = true) (v : Word) : outWf (execSvncommit v s) = true := by
  grind [execSvncommit, State.modSec_mem, outWf]
theorem writeCore_wf {s : State} (h : s.mem.wf = true) (k o : ℕ) (v : Word) : (writeCore s k o v).mem.wf = true := by
  unfold writeCore
  grind [State.modCore_mem]
theorem writePort_wf {s : State} (h : s.mem.wf = true) (q o : ℕ) (v : Word) : (writePort s q o v).mem.wf = true := by
  unfold writePort
  grind [writeDlnext_wf, dropWrite_wf]
theorem writeDie_wf {s : State} (h : s.mem.wf = true) (d o : ℕ) (v : Word) : (writeDie s d o v).mem.wf = true := by
  grind [writeDie, setRegst_wf, State.modRegs_mem, writeCore_wf, writePort_wf, State.setPool_mem]
theorem writeIod_wf {s : State} (h : s.mem.wf = true) (o : ℕ) (v : Word) : (writeIod s o v).mem.wf = true := by
  unfold writeIod
  split
  · dsimp only
    split
    · exact h
    · split <;> exact h
  · split
    · exact setPoints_wf (s := s.modDie _ _) h
    · repeat' split
      all_goals exact h

/-! The operations of Machine/Display. -/

theorem setBand_wf {s : State} (h : s.mem.wf = true) (hx : ℕ) (x : Band) : (setBand s hx x).mem.wf = true := h
theorem commitFallback_wf {s : State} (h : s.mem.wf = true) (hx : ℕ) (x : Band) (level : ℕ) : (commitFallback s hx x level).mem.wf = true := h
theorem commitNetwork_wf {s : State} (h : s.mem.wf = true) (hx f b : ℕ) : (commitNetwork s hx f b).mem.wf = true := h
theorem mrMap_wf {α β : Type} {f : State → α → Mr (β × Bool)} (each : ∀ t a, t.mem.wf = true → (f t a).state.mem.wf = true) (l : List α) :
    ∀ {s : State}, s.mem.wf = true → (mrMap f l s).state.mem.wf = true := by
  induction l with
  | nil => intro s h; exact h
  | cons a l ih => intro s h; exact Mr.andThen_wf (each s a h) fun _ t g => Mr.andThen_wf (ih g) fun _ u g => g
theorem softly_wf {α : Type} (w : DsWho) (v : α) {r : Mr α} (h : r.state.mem.wf = true) : (softly w v r).state.mem.wf = true := by rw [softly_state]; exact h
theorem dsRead_wf {s : State} (h : s.mem.wf = true) (w : DsWho) (n va : ℕ) : (dsRead w n s va).state.mem.wf = true :=
  softly_wf _ _ (by split; exacts [h, Mr.andThen_wf (vread_wf h _ _ _ _ _ _) fun _ t g => g])
theorem dsWrite_wf {s : State} (h : s.mem.wf = true) (w : DsWho) (n : ℕ) (x : ℕ × ℕ) : (dsWrite w n s x).state.mem.wf = true :=
  softly_wf _ _ (by split; exacts [h, vwrite_wf h _ _ _ _])
theorem warpPx_wf {s : State} (h : s.mem.wf = true) (w : DsWho) (i : Img) (uv : ℤ × ℤ) : (warpPx w i s uv).state.mem.wf = true :=
  Mr.andThen_wf (mrMap_wf (fun _ a g => dsRead_wf g w 8 a) _ h) fun _ _ g => g
theorem levelPx_wf {s : State} (h : s.mem.wf = true) (w : DsWho) (hx : Head) (x : Frame) (prev : Option Frame) (lv : ℕ) (p : ℕ × ℕ) : (levelPx w hx x prev lv s p).state.mem.wf = true := by
  unfold levelPx
  split
  · exact Mr.andThen_wf (dsRead_wf h _ _ _) fun v t g => Mr.andThen_wf (warpPx_wf g _ _ _) fun r u g => g
  · exact warpPx_wf h _ _ _
theorem writeLevel_wf {s : State} (h : s.mem.wf = true) (w : DsWho) (hx : Head) (x : Frame) (lv b dest : ℕ) : (writeLevel w hx x lv b dest s).state.mem.wf = true :=
  Mr.andThen_wf (mrMap_wf (fun _ a g => levelPx_wf g w _ x _ lv a) _ h) fun _ _ g =>
    Mr.andThen_wf (mrMap_wf (fun _ a g => dsWrite_wf g w 8 a) _ g) fun _ _ g => g
theorem copyLine_wf {s : State} (h : s.mem.wf = true) (hd f b j : Nat) : (copyLine s hd f b j).mem.wf = true := by
  have write (x : List (Nat × Nat)) {t : State} (g : t.mem.wf = true) := mrMap_wf (fun t a g => dsWrite_wf g { soft := true } 8 a) x g
  have read (x : List Nat) := mrMap_wf (fun t a g => dsRead_wf g { soft := true } 8 a) x h
  have put (x : List (Nat × Nat)) (bad : Bool) {t : State} (g : t.mem.wf = true) :
      (match mrMap (dsWrite { soft := true } 8) x t with
      | .ok r u => (u, bad || r.2)
      | .fault _ _ u => (u, true)
      | .wait u => (u, true)).1.mem.wf = true := by
    have w := write x g
    split
    all_goals next e => rw [e] at w; exact w
  have flag (r : State × Bool) (g : r.1.mem.wf = true) : (match r.2, (s.iod.head hd).band f b with
    | true, some z => setBand r.1 hd { z with flags := z.flags % 32 + 32 }
    | _, _ => r.1).mem.wf = true := by
    split
    exacts [setBand_wf g _ _, g]
  unfold copyLine
  dsimp only
  split
  · exact h
  · refine flag _ ?_
    split
    · exact put _ _ h
    · split
      · exact h
      · have came := read (List.map (fun i => (outImg (s.iod.head hd) ‹Frame›).at_ i (16 * b + j)) (List.range (s.iod.head hd).hact))
        split
        next e => rw [e] at came; exact put _ _ came
        next e => rw [e] at came; exact came
        next e => rw [e] at came; exact put _ _ came
theorem levelThree_wf {s : State} (h : s.mem.wf = true) (hx : ℕ) (x : Band) : (levelThree s hx x).mem.wf = true :=
  foldl_wf (fun _ _ g => copyLine_wf g _ _ _ _) _ (commitFallback_wf h _ _ _)
theorem startFallback_wf {s : State} (h : s.mem.wf = true) (hx f b lv : ℕ) (forced late : Bool) : (startFallback s hx f b lv forced late).mem.wf = true := by
  grind [startFallback, setBand_wf, levelThree_wf, State.modIod_mem]
theorem scanOut_wf {s : State} (h : s.mem.wf = true) (hx : ℕ) : (scanOut s hx).mem.wf = true := by
  grind [scanOut, dsRead_wf, mrMap_wf, State.modHead_mem, Mr.state]
theorem dsCheck_wf {s : State} (h : s.mem.wf = true) (hd : Nat) {f : State → Out} (goes : outWf (f s) = true) : outWf (dsCheck s hd f) = true := by
  unfold dsCheck
  split
  · exact trap_wf (s := s.modIod _) h _ _
  · split
    exacts [goes, trap_wf h _ _]
theorem bandCheck_wf {s : State} (h : s.mem.wf = true) (hd : Nat) (v : Word) {f : State → Out} (goes : outWf (f s) = true) : outWf (bandCheck s hd v f) = true := by
  unfold bandCheck
  split
  exacts [trap_wf h _ _, goes]
theorem pushDs_wf {s : State} (h : s.mem.wf = true) (i : Instr) (a b : Word) : outWf (pushDs s i a b) = true := by
  grind [pushDs, State.modIod_mem, retire_wf, outWf]
theorem queueBand_wf {s : State} (h : s.mem.wf = true) (hx : ℕ) (i : Instr) (a b : Word) : outWf (queueBand s hx i a b) = true := by
  grind [queueBand, bandCheck_wf, pushDs_wf, dsCheck_wf, trap_wf, outWf]
theorem emitBand_wf {s : State} (h : s.mem.wf = true) (d : Reg) (hx f b : ℕ) : outWf (emitBand s d hx f b) = true := by
  grind [emitBand, commitNetwork_wf, State.modIod_mem, stay_wf, retireWith_wf, outWf]
theorem execDsEmit_wf {s : State} (h : s.mem.wf = true) (d a : Reg) (head : Fin 4) : outWf (execDsEmit d a head s) = true := by
  grind [execDsEmit, bandCheck_wf, emitBand_wf, dsCheck_wf, trap_wf, outWf]

/-! The operations of Machine/EvDisplay. -/

theorem execLineBeacon_wf {s : State} (h : s.mem.wf = true) (die head : ℕ) : outWf (execLineBeacon die head s) = true := by
  grind [execLineBeacon, State.modDie_mem, outWf]
theorem abandonLate_wf {s : State} (h : s.mem.wf = true) (hx : ℕ) : (abandonLate s hx).mem.wf = true := foldl_wf (fun _ _ g => levelThree_wf g _ _) _ h
theorem execLineStart_wf {s : State} (h : s.mem.wf = true) (head : ℕ) : outWf (execLineStart head s) = true := by
  unfold execLineStart
  split
  · exact h
  · dsimp only
    refine scanOut_wf (foldl_wf (fun t x g => copyLine_wf g _ _ _ _) _ (foldl_wf (fun t x g => startFallback_wf g _ _ _ _ _ _) _ ?_)) _
    rw [State.modHead_mem]
    refine abandonLate_wf ?_ head
    rw [State.modHead_mem]
    exact h
theorem execFallbackLevelFinish_wf {s : State} (h : s.mem.wf = true) (head band : ℕ) : outWf (execFallbackLevelFinish head band s) = true := by
  grind [execFallbackLevelFinish, commitFallback_wf, writeLevel_wf, Mr.state, outWf]
theorem dsPop_wf {s : State} (h : s.mem.wf = true) : (dsPop s).mem.wf = true := h
theorem dsStep_wf {s : State} (h : s.mem.wf = true) : (dsStep s).mem.wf = true := h
theorem dsFail_wf {s : State} (h : s.mem.wf = true) (c : Cause) (v : ℕ) : (dsFail s c v).mem.wf = true := h
theorem Mr.ds_wf {α : Type} {r : Mr α} {f : α → State → Out} (h : r.state.mem.wf = true) (each : ∀ v t, t.mem.wf = true → outWf (f v t) = true) : outWf (r.ds f) = true := by
  cases r with
  | ok v t => exact each v t h
  | fault c v t => exact dsFail_wf h _ _
  | wait t => exact h
theorem readRect_wf {s : State} (h : s.mem.wf = true) (w : DsWho) (i : Img) (x0 x1 y0 y1 : ℕ) : (readRect w i x0 x1 y0 y1 s).state.mem.wf = true :=
  Mr.andThen_wf (mrMap_wf (fun _ a g => dsRead_wf g w 8 a) _ h) fun _ _ g => g
theorem blockVector_wf {s : State} (h : s.mem.wf = true) (w : DsWho) (x : Frame) (prev : Option Frame) (j i : ℕ) : (blockVector w x prev j s i).state.mem.wf = true := by
  unfold blockVector
  split
  · exact h
  · exact Mr.andThen_wf (readRect_wf h _ _ _ _ _ _) fun _ t g => Mr.andThen_wf (readRect_wf g _ _ _ _ _ _) fun _ u g => g
theorem coverRows_wf {s : State} (h : s.mem.wf = true) (hx f : ℕ) (l : List ℕ) : (coverRows s hx f l).mem.wf = true := h
theorem execDsMeRun_wf {s : State} (h : s.mem.wf = true) : outWf (execDsMeRun s) = true := by
  unfold execDsMeRun
  split
  · exact h
  · split
    · dsimp only
      split
      · exact dsPop_wf h
      · split
        · exact dsPop_wf h
        · split
          · exact dsFail_wf h _ _
          · refine Mr.ds_wf (mrMap_wf (fun t a g => blockVector_wf g _ _ _ _ a) _ h) fun r t g => Mr.ds_wf (mrMap_wf (fun t a g => dsWrite_wf g _ _ a) _ g) fun _ u g => ?_
            split
            exacts [dsPop_wf (coverRows_wf g _ _ _), dsStep_wf g]
    · exact h
theorem execDsWarpRun_wf {s : State} (h : s.mem.wf = true) : outWf (execDsWarpRun s) = true := by
  unfold execDsWarpRun
  grind [Mr.ds_wf, dsFail_wf, writeLevel_wf, dsPop_wf, Mr.state, outWf]
theorem dsBytes_wf {s : State} (h : s.mem.wf = true) (w : DsWho) (a n : ℕ) : (dsBytes w a n s).state.mem.wf = true := by
  grind [dsBytes, dsRead_wf, mrMap_wf, Mr.state]
theorem runValue_wf {s : State} (h : s.mem.wf = true) (w : DsWho) (g : NetLayer) (dest p n : ℕ) : (runValue w g dest p n s).state.mem.wf = true := by
  refine Mr.andThen_wf (dsBytes_wf h _ _ _) fun ins t g => Mr.andThen_wf (mrMap_wf (fun t a g => dsRead_wf g w 1 a) _ g) fun ws u g =>
    Mr.andThen_wf (dsRead_wf g _ _ _) fun bias v g => Mr.andThen_wf (dsWrite_wf g _ _ _) fun _ x g => ?_
  dsimp only [Mr.state]
  split <;> exact g
theorem runLayer_wf (w : DsWho) (g : NetLayer) (dest n : Nat) : ∀ {s : State} (i : Nat), s.mem.wf = true → (runLayer w g dest n i s).state.mem.wf = true := by
  induction n with
  | zero => intro s i h; exact h
  | succ n ih => intro s i h; exact Mr.andThen_wf (runValue_wf h _ _ _ _ _) fun _ t g => ih _ g
theorem execDsNetRun_wf {s : State} (h : s.mem.wf = true) : outWf (execDsNetRun s) = true := by
  unfold execDsNetRun
  split
  · exact h
  · split
    · dsimp only
      split
      · exact dsPop_wf h
      · split
        · exact dsPop_wf h
        · split
          · exact dsFail_wf h _ _
          · refine Mr.ds_wf (dsBytes_wf h _ _ _) fun hd t g => ?_
            split
            · exact dsFail_wf g _ _
            · split
              · exact dsFail_wf g _ _
              · refine Mr.ds_wf (dsBytes_wf g _ _ _) fun r u g => ?_
                split
                · exact dsFail_wf g _ _
                · split
                  · exact g
                  · refine Mr.ds_wf (runLayer_wf _ _ _ _ _ g) fun _ v g => ?_
                    rw [outWf]
                    split
                    exacts [dsPop_wf g, dsStep_wf g]
    · exact h
theorem execEmitCommit_wf {s : State} (h : s.mem.wf = true) : outWf (execEmitCommit s) = true := by
  grind [execEmitCommit, commitNetwork_wf, outWf]

/-! The operations of Machine/HostWrite. -/

theorem ctxCommand_wf {s : State} (h : s.mem.wf = true) (k : ℕ) (v : Word) : outWf (ctxCommand k v s) = true := by
  grind [ctxCommand, execCtxTrap_wf, execCtxStop_wf, execCtxStart_wf, outWf]
theorem dsCommand_wf {s : State} (h : s.mem.wf = true) (v : Word) : outWf (dsCommand v s) = true := by
  grind [dsCommand, execDsCtxStop_wf, ignoreCmd_wf, execDsCtxStart_wf, execDsCtxTrap_wf, outWf]
theorem cswCommand_wf {s : State} (h : s.mem.wf = true) (k : ℕ) (v : Word) : outWf (cswCommand k v s) = true := by
  grind [cswCommand, execCoreSave_wf, execCoreRestore_wf, outWf]
theorem regCommand_wf {s : State} (h : s.mem.wf = true) (d : ℕ) (v : Word) : outWf (regCommand d v s) = true := by
  grind [regCommand, setRegst_wf, execRegcmdStage_wf, execRegcmdQueue_wf, outWf]
theorem headCommand_wf {s : State} (h : s.mem.wf = true) (hx : ℕ) (v : Word) : outWf (headCommand hx v s) = true := by
  grind [headCommand, execHeadDisable_wf, execHeadEnable_wf, outWf]
theorem fieldsAt_wf {s : State} (h : s.mem.wf = true) (off : ℕ) (v : Word) : (fieldsAt s off v).mem.wf = true := by
  grind [fieldsAt, writeDie_wf, State.modPart_mem, writeIod_wf]

/-! The operations of Machine/SeqAlu. -/

theorem binary_wf {s : State} (h : s.mem.wf = true) (d a b : Reg) (f : Word → Word → Word) : outWf (binary s d a b f) = true := h

/-! The operations of Machine/SeqFlow. -/

theorem execBr_wf {s : State} (h : s.mem.wf = true) (cc : Cond) (a b : Reg) (off : BitVec 32) : outWf (execBr cc a b off s) = true := by
  grind [execBr, retireTo_wf, retire_wf, outWf]
theorem execLoop_wf {s : State} (h : s.mem.wf = true) (a : Reg) (off : BitVec 32) : outWf (execLoop a off s) = true := by
  grind [execLoop, State.setReg_mem, retireTo_wf, retire_wf, outWf]

/-! The operations of Machine/SeqPred. -/

theorem compare_wf {s : State} (h : s.mem.wf = true) (d c : Pred) (b : Bool) : outWf (compare s d c b) = true := h

/-! The operations of Machine/Turns. -/

theorem peerMessage_wf {s : State} (h : s.mem.wf = true) (port : ℕ) (m : Wide) : (peerMessage port m s).mem.wf = true := by
  grind [peerMessage, portMessage_wf, powerArrival_wf, dropMessage_wf]

/-- Whatever a turn brings, it is executed in a canonical memory. -/
theorem pick_wf {s : State} (h : s.mem.wf = true) (t : Turn) : pickWf (pick t s) = true := by
  unfold pick
  split
  · exact h
  · cases t with
    | issue k =>
      dsimp only
      split
      · exact h
      · split
        exacts [endPartition_wf h k, issuePick_wf h k]
    | fire k e =>
      dsimp only
      split
      exacts [h, firePick_wf h k e]
    | policy d c n =>
      dsimp only
      split
      exacts [h, policyPick_wf h d c n]
    | ev i =>
      dsimp only
      split <;> exact h
    | clock c => exact tick_wf h c
    | resume k n =>
      dsimp only
      split
      exacts [h, resumePick_wf h k n]
    | evict d line => exact Memory.wf_of_bytes (Memory.evict_bytes s.mem d line) h
    | memError pa => exact h
    | bufError k a => exact h
    | passFlit n => exact passFlit_wf h n
    | perform k => exact performNext_wf h k
    | prefetch k n a =>
      have fetched := prefetch_wf h k n a
      show (if coreStands s k then s else prefetch k n a s).mem.wf = true
      split
      exacts [h, fetched]
    | junction => exact slowPlains_wf h
    | hostStore pa v => exact hostStore_wf h pa v
    | peer port m => exact peerMessage_wf h port m
    | arrayError k => exact h
theorem nextTurn_wf {s : State} (h : s.mem.wf = true) : (nextTurn s).2.mem.wf = true := by
  grind [nextTurn]

/-- What a register write that is a command comes to has a canonical memory. -/
def optOutWf : Option Out → Bool
  | some o => outWf o
  | none => true
theorem partCommand_wf {s : State} (h : s.mem.wf = true) (p o : Nat) (v : Word) : optOutWf (partCommand p o v s) = true := by
  unfold partCommand
  split
  · exact execTinv_wf h p v
  · exact execFltptrWrite_wf h p v
  · exact execFltreply_wf h p v
  · exact execDutyReply_wf h p v
  · rw [optOutWf]
    split
    exacts [execPartitionSetup_wf h p v, execPartitionEnd_wf h p]
  · rfl
theorem coreCommand_wf {s : State} (h : s.mem.wf = true) (k o : Nat) (v : Word) : optOutWf (coreCommand k o v s) = true := by
  unfold coreCommand
  split
  exacts [ctxCommand_wf h k v, execTokdropClear_wf h k, cswCommand_wf h k v, rfl]
theorem portCommand_wf {s : State} (h : s.mem.wf = true) (d q o : Nat) (v : Word) : optOutWf (portCommand d q o v s) = true := by
  unfold portCommand
  split
  exacts [execCredreq_wf h d q v, execDropsClear_wf h d q, execCreditRelease_wf h d q v, rfl]
theorem dieCommand_wf {s : State} (h : s.mem.wf = true) (d o : Nat) (v : Word) : optOutWf (dieCommand d o v s) = true := by
  grind [dieCommand, optOutWf, portCommand_wf, regCommand_wf, execOccownWrite_wf, execOccclr_wf, execOcccntWrite_wf, execMigcmd_wf, execChunkpush_wf, coreCommand_wf]
theorem iodCommand_wf {s : State} (h : s.mem.wf = true) (o : Nat) (v : Word) : optOutWf (iodCommand o v s) = true := by
  grind [iodCommand, optOutWf, dsCommand_wf, execDspartWrite_wf, headCommand_wf, execAttcmd_wf, execSvncommit_wf]
theorem commandAt_wf {s : State} (h : s.mem.wf = true) (off : Nat) (v : Word) : optOutWf (commandAt off v s) = true := by
  unfold commandAt
  split
  · exact iodCommand_wf h off v
  · split
    · exact dieCommand_wf h _ _ v
    · split
      exacts [partCommand_wf h _ _ v, rfl]
theorem execRegisterWrite_wf {s : State} (h : s.mem.wf = true) (off : Nat) (v : Word) : outWf (execRegisterWrite off v s) = true := by
  have did := commandAt_wf h off v
  unfold execRegisterWrite
  split
  · exact h
  · cases e : commandAt off v s with
    | none => exact fieldsAt_wf h _ _
    | some o => rw [e] at did; exact did
theorem execCvt_wf {s : State} (h : s.mem.wf = true) (d : EDst) (a : ESrc) (ts td : Ty) (off : BitVec 4) (rm : Rm) : outWf (execCvt d a ts td off rm s) = true := by
  refine fireDraw_wf h _ _ ?_
  have drawn (n : Nat) : (if cvtRounds ts td then takeDraws s (s.mode rm) n else ([], s)).2.mem.wf = true := by
    split
    exacts [takeDraws_wf h _ _, h]
  dsimp only
  split
  exacts [drawn ts.lanes, drawn td.lanes]
theorem execCrsub_wf {s : State} (h : s.mem.wf = true) (d : EDst) (a b : ESrc) (lane : Bool) (rm : Rm) : outWf (execCrsub d a b lane rm s) = true :=
  fireDraw_wf h _ _ (takeDraws_wf h (s.mode rm) 1)
theorem execDot_wf {s : State} (h : s.mem.wf = true) (d : EDst) (a b c : ESrc) (t : Ty) (rm : Rm) : outWf (execDot d a b c t rm s) = true := by
  refine fireDraw_wf h _ _ ?_
  dsimp only
  split
  exacts [takeDraws_wf h (s.mode rm) 1, h]
theorem execTsLd_wf {s : State} (h : s.mem.wf = true) (d : EDst) (a : ESrc) (off : BitVec 18) : outWf (execTsLd d a off s) = true :=
  atTs_wf h _ (fireTag_wf h h _ _ _ _ _)
theorem execTsSt_wf {s : State} (h : s.mem.wf = true) (a b : ESrc) (off : BitVec 18) : outWf (execTsSt a b off s) = true :=
  atTs_wf h _ (fireTag_wf h (tsWrite_wf h _ _ _) _ _ _ _ _)
theorem execDsBand_wf {s : State} (h : s.mem.wf = true) (d a : Reg) (head : Fin 4) : outWf (execDsBand d a head s) = true := by
  refine dsCheck_wf h _ ?_
  dsimp only
  split
  · exact trap_wf h _ _
  · split
    · exact trap_wf h _ _
    · split
      · exact trap_wf h _ _
      · split
        · exact trap_wf h _ _
        · refine retireWith_wf ?_ _ _
          rw [State.modHead_mem]
          exact h
theorem execDsFall_wf {s : State} (h : s.mem.wf = true) (d a : Reg) (lv head : Fin 4) : outWf (execDsFall d a lv head s) = true := by
  refine dsCheck_wf h _ (bandCheck_wf h _ _ ?_)
  dsimp only
  split
  · exact trap_wf h _ _
  · refine retireWith_wf ?_ _ _
    split
    exacts [h, startFallback_wf h _ _ _ _ _ _]
theorem execDsLine_wf {s : State} (h : s.mem.wf = true) (d : Reg) (head : Fin 4) : outWf (execDsLine d head s) = true := dsCheck_wf h _ (retireWith_wf h _ _)
theorem execDsLineWait_wf {s : State} (h : s.mem.wf = true) (d a : Reg) (head : Fin 4) : outWf (execDsLineWait d a head s) = true := by
  refine dsCheck_wf h _ ?_
  split
  exacts [retireWith_wf h _ _, waitFor_wf h _]
theorem execLdLoc_wf {s : State} (h : s.mem.wf = true) (d base index : Reg) (sz : Sz) (off : BitVec 22) : outWf (execLdLoc d base index sz off s) = true :=
  localAt_wf h _ _ (retireWith_wf h _ _)
theorem execStLoc_wf {s : State} (h : s.mem.wf = true) (d base index : Reg) (sz : Sz) (off : BitVec 22) : outWf (execStLoc d base index sz off s) = true :=
  localAt_wf h _ _ (retire_wf (by exact h))
theorem execSpill_wf {s : State} (h : s.mem.wf = true) (first last base : Reg) (sc : Scope) (ord : Ord) (off : BitVec 22) : outWf (execSpill first last base sc ord off s) = true :=
  saveRun_wf h _ _ _ _ fun _ _ _ g => spillUnit_wf g _ _
theorem execFill_wf {s : State} (h : s.mem.wf = true) (first last base : Reg) (sc : Scope) (ord : Ord) (off : BitVec 22) : outWf (execFill first last base sc ord off s) = true :=
  saveRun_wf h _ _ _ _ fun _ _ _ g => fillUnit_wf g _ _
theorem execRgnOpen_wf {s : State} (h : s.mem.wf = true) (a : Reg) : outWf (execRgnOpen a s) = true :=
  Mr.seq_wf (openRegion_wf h _ _ _ _) fun _ _ g => retire_wf g
theorem execStreamElement_wf {s : State} (h : s.mem.wf = true) (core port : Nat) : outWf (execStreamElement core port s) = true := inTurn_wf h _ _ (streamStep_wf h _ _)
theorem execStreamCommandComplete_wf {s : State} (h : s.mem.wf = true) (core port : Nat) : outWf (execStreamCommandComplete core port s) = true :=
  inTurn_wf h _ _ (streamEnd_wf h _ _)
theorem execDsMe_wf {s : State} (h : s.mem.wf = true) (a b : Reg) (head : Fin 4) : outWf (execDsMe a b head s) = true := by
  refine dsCheck_wf h _ ?_
  split
  exacts [pushDs_wf h _ _ _, trap_wf h _ _]
theorem execFence_wf {s : State} (h : s.mem.wf = true) (sc : Scope) (ord : Ord) : outWf (execFence sc ord s) = true := by
  refine retire_wf ?_
  split
  exacts [settleCore_wf h _, h]

/-- Every instruction and event keeps the canonical form. -/
theorem exec_wf {s : State} (h : s.mem.wf = true) (i : Instr) : outWf (exec i s) = true := by
  cases i with
  | vadd | vsub | vadds | vsubs | vmul | vmulh | vmin | vmax =>
    dsimp only [exec]
    exact fire2_wf h ..
  | vmad | vabs | vneg | vand | vor | vxor | vandn | vnot | vshl | vshr | vsra | vpopc | vclz | vsel | vperm | vpack | vunpk | fmin | fmax | fabs
  | fneg | fclass | mov | const =>
    dsimp only [exec]
    exact fire_wf h ..
  | vcmpEq | vcmpNe | vcmpLt | vcmpLe | vcmpGt | vcmpGe =>
    dsimp only [exec]
    exact fireCmp_wf h ..
  | fadd | fsub | fmul | ffma | fdiv | fsqrt | frcp | frsq | fexp2 | flog2 =>
    dsimp only [exec]
    exact fireF_wf h ..
  | fcmpEq | fcmpNe | fcmpLt | fcmpLe | fcmpGt | fcmpGe | fcmpUn =>
    dsimp only [exec]
    exact fireFcmp_wf h ..
  | cvt => exact execCvt_wf h ..
  | crsub => exact execCrsub_wf h ..
  | dot => exact execDot_wf h ..
  | tagi => exact execTagi_wf h ..
  | steer => exact execSteer_wf h ..
  | merge => exact execMerge_wf h ..
  | mergeu => exact execMergeu_wf h ..
  | gate => exact execGate_wf h ..
  | permit => exact execPermit_wf h ..
  | eos => exact execEos_wf h ..
  | sink => exact execSink_wf h ..
  | mark => exact execMark_wf h ..
  | redMin | redMax | redSum =>
    dsimp only [exec]
    exact fireRed_wf h ..
  | send => exact execSend_wf h ..
  | rsv => exact execRsv_wf h ..
  | enq => exact execEnq_wf h ..
  | amplify => exact execAmplify_wf h ..
  | ldq | stq | amoqAdd | amoqAnd | amoqOr | amoqXor | amoqMin | amoqMax | amoqMinu | amoqMaxu | amoqSwap =>
    dsimp only [exec]
    exact ordered_wf (fireReq_wf h ..) _ _
  | xlate | occl =>
    dsimp only [exec]
    exact fireReq_wf h ..
  | vbmin => exact execVbmin_wf h ..
  | tsLd => exact execTsLd_wf h ..
  | tsSt => exact execTsSt_wf h ..
  | tsBlend => exact execTsBlend_wf h ..
  | tsDone => exact execTsDone_wf h ..
  | cpy | gath | scat | fillb | coll | pub | pubDef | pubDrop | xfm =>
    dsimp only [exec]
    exact fireEngine_wf h ..
  | imm | kld | env | cand | subj | copy | addiv | addv | subv | andv | orv | minv | maxv | shlv | shrv | mcnt =>
    dsimp only [exec]
    exact policySet_wf h ..
  | mall | scanMin | scanMax =>
    dsimp only [exec]
    exact policyStep_wf h ..
  | mkeepEq | mkeepNe | mkeepLt | mkeepGe =>
    dsimp only [exec]
    exact maskKeep_wf h ..
  | jeq | jne | jlt | jge | jfw =>
    dsimp only [exec]
    exact policyJump_wf h ..
  | pick | idle | preempt | keep | restart | kill | host | migrate =>
    dsimp only [exec]
    exact policyVerdict_wf h ..
  | mxLdb | mxScale | mxThr | mxSamp | mm | mmz | mmr | mxDrain | mxGang | mxGangLeave | mxEdge =>
    dsimp only [exec]
    exact enterMatrix_wf h ..
  | mxWait => exact execMxWait_wf h ..
  | dsBand => exact execDsBand_wf h ..
  | dsFall => exact execDsFall_wf h ..
  | dsLine => exact execDsLine_wf h ..
  | dsLineWait => exact execDsLineWait_wf h ..
  | dsMe => exact execDsMe_wf h ..
  | dsWarp | dsNet =>
    dsimp only [exec]
    exact queueBand_wf h ..
  | dsEmit => exact execDsEmit_wf h ..
  | add | sub | mul | mulh | mulhu | div | divu | rem | remu | and | or | xor | andn | orn | shl | shr | sra | rol | ror | min | max | minu | maxu =>
    dsimp only [exec]
    exact binary_wf h ..
  | clz | ctz | popc | brev | sel | bfx | bfxu | bfi | addi | andi | ori | xori | shli | shri | srai | movi | movhi | cyc | dictGen | dictGenId
  | cfgQPly | cfgQImg | cfgQRsv =>
    dsimp only [exec]
    exact retireWith_wf (by exact h) ..
  | cmpEq | cmpNe | cmpLt | cmpGe | cmpLtu | cmpGeu =>
    dsimp only [exec]
    exact compare_wf (by exact h) ..
  | cmpiEq | cmpiNe | cmpiLt | cmpiGe | cmpiLtu | cmpiGeu | pset | pand | por | pxor | pnot | nop | portUnbindHnd =>
    dsimp only [exec]
    exact retire_wf (by exact h) ..
  | br => exact execBr_wf h ..
  | jmp | jal | jalr =>
    dsimp only [exec]
    exact retireTo_wf (by exact h) ..
  | loop => exact execLoop_wf h ..
  | ld =>
    dsimp only [exec]
    exact load_wf h ..
  | ldLoc => exact execLdLoc_wf h ..
  | st =>
    dsimp only [exec]
    exact store_wf h ..
  | stLoc => exact execStLoc_wf h ..
  | amoAdd | amoAnd | amoOr | amoXor | amoMin | amoMax | amoMinu | amoMaxu | amoSwap | cas =>
    dsimp only [exec]
    exact atomic_wf h ..
  | amoLocAdd | amoLocAnd | amoLocOr | amoLocXor | amoLocMin | amoLocMax | amoLocMinu | amoLocMaxu | amoLocSwap | casLoc =>
    dsimp only [exec]
    exact atomicLoc_wf h ..
  | spill => exact execSpill_wf h ..
  | fill => exact execFill_wf h ..
  | fence => exact execFence_wf h ..
  | fenceF => exact execFenceF_wf h ..
  | yield => exact execYield_wf h ..
  | halt => exact execHalt_wf h ..
  | brk => exact execBrk_wf h ..
  | trap =>
    dsimp only [exec]
    exact trap_wf (by exact h) ..
  | eret => exact execEret_wf h ..
  | crr => exact execCrr_wf h ..
  | crw => exact execCrw_wf h ..
  | evpop => exact execEvpop_wf h ..
  | evwait => exact execEvwait_wf h ..
  | dictLd => exact execDictLd_wf h ..
  | dictCommit => exact execDictCommit_wf h ..
  | dictRd => exact execDictRd_wf h ..
  | cfgLd => exact execCfgLd_wf h ..
  | cfgCommit => exact execCfgCommit_wf h ..
  | cfgDrop => exact execCfgDrop_wf h ..
  | cfgDropImg => exact execCfgDropImg_wf h ..
  | rgnOpen => exact execRgnOpen_wf h ..
  | rgnWait => exact execRgnWait_wf h ..
  | rgnClose => exact execRgnClose_wf h ..
  | rgnCloseAbort => exact execRgnCloseAbort_wf h ..
  | portBindHnd => exact execPortBindHnd_wf h ..
  | portBindFar => exact execPortBindFar_wf h ..
  | portUnbindFar => exact execPortUnbindFar_wf h ..
  | permitK => exact execPermitK_wf h ..
  | qrsv => exact execQrsv_wf h ..
  | qpush => exact execQpush_wf h ..
  | policyLd => exact execPolicyLd_wf h ..
  | policySwap => exact execPolicySwap_wf h ..
  | strAff | strInd =>
    dsimp only [exec]
    exact armPort_wf h ..
  | strGo => exact execStrGo_wf h ..
  | strBar => exact execStrBar_wf h ..
  | strWait => exact execStrWait_wf h ..
  | winSet => exact execWinSet_wf h ..
  | winClr => exact execWinClr_wf h ..
  | coreReset => exact execCoreReset_wf h ..
  | boot => exact execBoot_wf h ..
  | ctxStart => exact execCtxStart_wf h ..
  | ctxStop => exact execCtxStop_wf h ..
  | ctxTrap => exact execCtxTrap_wf h ..
  | dsCtxStart => exact execDsCtxStart_wf h ..
  | dsCtxStop => exact execDsCtxStop_wf h ..
  | dsCtxTrap => exact execDsCtxTrap_wf h ..
  | tokenArrival => exact execTokenArrival_wf h ..
  | creditReturn => exact execCreditReturn_wf h ..
  | slotGrantTimeout => exact execSlotGrantTimeout_wf h ..
  | passForward => exact execPassForward_wf h ..
  | firingSquash =>
    dsimp only [exec]
    exact execFiringSquash_wf h ..
  | messageArrival => exact execMessageArrival_wf h ..
  | handlerDelivery => exact execHandlerDelivery_wf h ..
  | remoteEngineCommand => exact execRemoteEngineCommand_wf h ..
  | selectionPortToken => exact execSelectionPortToken_wf h ..
  | drainMarkerForward => exact execDrainMarkerForward_wf h ..
  | plyCommit => exact execPlyCommit_wf h ..
  | regionComplete => exact execRegionComplete_wf h ..
  | blockChoice => exact execBlockChoice_wf h ..
  | strandDelivery => exact execStrandDelivery_wf h ..
  | placementSample => exact execPlacementSample_wf h ..
  | launchToken => exact execLaunchToken_wf h ..
  | dispatchDecisionStart => exact execDispatchDecisionStart_wf h ..
  | preemptionDecisionStart => exact execPreemptionDecisionStart_wf h ..
  | faultDecisionStart => exact execFaultDecisionStart_wf h ..
  | policyBudgetExpiry => exact execPolicyBudgetExpiry_wf h ..
  | decisionCommit => exact execDecisionCommit_wf h ..
  | sliceTokenDelivery => exact execSliceTokenDelivery_wf h ..
  | sliceEnd => exact execSliceEnd_wf h ..
  | budgetExhaustion => exact execBudgetExhaustion_wf h ..
  | swapTokenArrival => exact execSwapTokenArrival_wf h ..
  | swapDieAck => exact execSwapDieAck_wf h ..
  | swapComplete => exact execSwapComplete_wf h ..
  | lineBeacon => exact execLineBeacon_wf h ..
  | lineStart => exact execLineStart_wf h ..
  | fallbackLevelFinish => exact execFallbackLevelFinish_wf h ..
  | dsMeRun => exact execDsMeRun_wf h ..
  | dsWarpRun => exact execDsWarpRun_wf h ..
  | dsNetRun => exact execDsNetRun_wf h ..
  | emitCommit => exact execEmitCommit_wf h ..
  | pageWalk => exact execPageWalk_wf h ..
  | dutyWaitExpiry => exact execDutyWaitExpiry_wf h ..
  | dutyReply => exact execDutyReply_wf h ..
  | streamElement => exact execStreamElement_wf h ..
  | windowFill => exact execWindowFill_wf h ..
  | streamLineWriteback => exact execStreamLineWriteback_wf h ..
  | streamCommandComplete => exact execStreamCommandComplete_wf h ..
  | requestResponse => exact execRequestResponse_wf h ..
  | occlSlotAdd => exact execOcclSlotAdd_wf h ..
  | compressedWriteback => exact execCompressedWriteback_wf h ..
  | pageRelayout => exact execPageRelayout_wf h ..
  | snpdata => exact execSnpdata_wf h ..
  | snpinv => exact execSnpinv_wf h ..
  | snpcur => exact execSnpcur_wf h ..
  | hostReadDeviceMemory => exact execHostReadDeviceMemory_wf h ..
  | hostWriteDeviceMemory => exact execHostWriteDeviceMemory_wf h ..
  | migcmd => exact execMigcmd_wf h ..
  | migrationCommit => exact execMigrationCommit_wf h ..
  | tinv => exact execTinv_wf h ..
  | tinvComplete => exact execTinvComplete_wf h ..
  | occclr => exact execOccclr_wf h ..
  | occclrStep => exact execOccclrStep_wf h ..
  | occownWrite => exact execOccownWrite_wf h ..
  | occcntWrite => exact execOcccntWrite_wf h ..
  | chunkpush => exact execChunkpush_wf h ..
  | chunkpop => exact execChunkpop_wf h ..
  | mxLdbExecute => exact execMxLdbExecute_wf h ..
  | mxScaleExecute => exact execMxScaleExecute_wf h ..
  | mmRowFire => exact execMmRowFire_wf h ..
  | accumulatorRowWrite => exact execAccumulatorRowWrite_wf h ..
  | mxDrainExecute => exact execMxDrainExecute_wf h ..
  | mxEdgeExecute => exact execMxEdgeExecute_wf h ..
  | gangFormed => exact execGangFormed_wf h ..
  | gangRowArrival => exact execGangRowArrival_wf h ..
  | matrixOpComplete => exact execMatrixOpComplete_wf h ..
  | engineCommandAccept => exact execEngineCommandAccept_wf h ..
  | engineCommandBegin => exact execEngineCommandBegin_wf h ..
  | engineCommandComplete => exact execEngineCommandComplete_wf h ..
  | collectiveBegin => exact execCollectiveBegin_wf h ..
  | pubFlip => exact execPubFlip_wf h ..
  | snapshotSave => exact execSnapshotSave_wf h ..
  | containment => exact execContainment_wf h ..
  | rollback => exact execRollback_wf h ..
  | regionMigration => exact execRegionMigration_wf h ..
  | fltreply => exact execFltreply_wf h ..
  | fltptrWrite => exact execFltptrWrite_wf h ..
  | contextSwitchComplete => exact execContextSwitchComplete_wf h ..
  | coreSave => exact execCoreSave_wf h ..
  | coreRestore => exact execCoreRestore_wf h ..
  | ingressToken => exact execIngressToken_wf h ..
  | credreq => exact execCredreq_wf h ..
  | creditRelease => exact execCreditRelease_wf h ..
  | dropsClear => exact execDropsClear_wf h ..
  | tokdropClear => exact execTokdropClear_wf h ..
  | regcmdQueue => exact execRegcmdQueue_wf h ..
  | regcmdStage => exact execRegcmdStage_wf h ..
  | partitionSetup => exact execPartitionSetup_wf h ..
  | partitionEnd => exact execPartitionEnd_wf h ..
  | dspartWrite => exact execDspartWrite_wf h ..
  | headEnable => exact execHeadEnable_wf h ..
  | headDisable => exact execHeadDisable_wf h ..
  | attcmd => exact execAttcmd_wf h ..
  | svncommit => exact execSvncommit_wf h ..
  | registerWrite => exact execRegisterWrite_wf h ..
  | edgeMeterWindow => exact execEdgeMeterWindow_wf h ..
  | powerSample => exact execPowerSample_wf h ..
  | plainClockResume => exact execPlainClockResume_wf h ..
  | powerGrant => exact execPowerGrant_wf h ..
  | powerLend => exact execPowerLend_wf h ..
  | grantLeaseEnd => exact execGrantLeaseEnd_wf h ..
  | lendLeaseEnd => exact execLendLeaseEnd_wf h ..
  | lentReturn => exact execLentReturn_wf h ..
  | flitCrcFail => exact execFlitCrcFail_wf h ..
  | linkDown => exact execLinkDown_wf h ..
  | hostLinkDown => exact execHostLinkDown_wf h ..
  | ideIntegrity => exact execIdeIntegrity_wf h ..
  | thermalTrip => exact execThermalTrip_wf h ..
  | illegalParcel => exact execIllegalParcel_wf h ..
  | endOfALoad => exact execEndOfALoad_wf h ..
  | linkRetrained => exact execLinkRetrained_wf h ..
  | attstDone => exact execAttstDone_wf h ..
  | sendLend =>
    dsimp only [exec]
    exact execSendLend_wf h ..

/-- Every step keeps the canonical form. -/
theorem step_wf {s : State} (h : s.mem.wf = true) : outWf (step s) = true := by
  have picked := pick_wf (nextTurn_wf h) (nextTurn s).1
  unfold step
  split
  next i t e =>
    rw [e] at picked
    exact settleOut_wf s (exec_wf picked i)
  next o e =>
    rw [e] at picked
    exact settleOut_wf s picked

end Sys2Proof.Machine

namespace Sys2Proof.Claims
open Sys2Proof Sys2Proof.Machine

/-- Settles O8: no byte is listed after reset. -/
theorem memoryCanonicalAtReset : Obligations.MemoryCanonicalAtReset := by
  unfold Obligations.MemoryCanonicalAtReset
  rfl

/-- Settles O9: every turn and every instruction keeps the canonical form (`step_wf`). -/
theorem memoryCanonicalKept : Obligations.MemoryCanonicalKept := by
  intro s t h e
  have kept := step_wf h
  rw [e] at kept
  exact kept
end Sys2Proof.Claims
end

section
/-! SUPPORT. What a record leaves of the I/O die, the points of the clocks, and the settling of the statement on power and links (23 R405 to R415; 24 R427, R431). -/
namespace Sys2Proof.Machine

/-! Writes by the I/O die. -/

/-- Nothing of the I/O die but the writes that wait on it differs. -/
def sameIod (s t : State) : Prop := ∃ w, t.iod = { s.iod with waits := w }

theorem sameIod_rfl (s : State) : sameIod s s := ⟨s.iod.waits, rfl⟩

theorem sameIod_trans {s t u : State} (h : sameIod s t) (g : sameIod t u) : sameIod s u := by
  obtain ⟨_, ht⟩ := h
  obtain ⟨w, hu⟩ := g
  exact ⟨w, by rw [hu, ht]⟩

theorem sameIod_foldl {α : Type} {f : State → α → State} (each : ∀ t a, sameIod t (f t a)) (l : List α) (s : State) : sameIod s (l.foldl f s) :=
  foldl_keeps l (fun t a h => sameIod_trans h (each t a)) s (sameIod_rfl s)

theorem iodWrite_sameIod (s : State) (pa : Nat) (bs : List Byte) : sameIod s (iodWrite s pa bs) := by
  unfold iodWrite
  split
  · exact ⟨s.iod.waits, (iodPut_frame s pa bs).2.2⟩
  · exact ⟨_, rfl⟩
  · exact sameIod_rfl s

theorem flushWaits_sameIod (s : State) : sameIod s (flushWaits s) :=
  sameIod_trans ⟨[], rfl⟩ (sameIod_foldl (fun t x => iodWrite_sameIod t x.1 x.2) s.iod.waits (s.modIod fun i => { i with waits := [] }))

theorem ringPut_sameIod (s : State) (r : Ring) (bs : List Byte) : sameIod s (ringPut s r bs).1 := by
  unfold ringPut
  split
  exacts [iodWrite_sameIod s _ bs, sameIod_rfl s]

theorem faultRecord_sameIod (s : State) (f : FltInfo) : sameIod s (faultRecord s f).1 := ringPut_sameIod s _ _

theorem recordAll_sameIod (s : State) (ps : List Nat) (c : Cause) : sameIod s (recordAll s ps c) := sameIod_foldl (fun t _ => faultRecord_sameIod t _) ps s

theorem recordAll_linkDown (s : State) (ps : List Nat) (c : Cause) : (recordAll s ps c).iod.linkDown = s.iod.linkDown := by
  obtain ⟨w, same⟩ := recordAll_sameIod s ps c
  rw [same]

/-! Links and clocks. -/

theorem State.modLink_link (s : State) (n : Nat) (f : Link → Link) : Tab.look {} (s.modLink n f).iod.links n = f (Tab.look {} s.iod.links n) := by
  show Tab.look {} (Tab.mod {} s.iod.links n f) n = _
  rw [Tab.look_mod, if_pos rfl]

theorem flushWaits_links (s : State) : (flushWaits s).iod.links = s.iod.links := by
  obtain ⟨w, same⟩ := flushWaits_sameIod s
  rw [same]

theorem recordAll_links (s : State) (ps : List Nat) (c : Cause) : (recordAll s ps c).iod.links = s.iod.links := by
  obtain ⟨w, same⟩ := recordAll_sameIod s ps c
  rw [same]

/-- s with f applied to a plain. -/
def State.modPlain (s : State) (d c : Nat) (f : Plain → Plain) : State := s.modDie d fun x => { x with plains := Tab.mod {} x.plains c f }

theorem State.plain_modPlain (s : State) (d c : Nat) (f : Plain → Plain) (e b : Nat) :
    (s.modPlain d c f).plain e b = if e = d ∧ b = c then f (s.plain d c) else s.plain e b := by
  unfold State.plain State.modPlain
  rw [State.die_modDie]
  by_cases die : e = d
  · subst die
    simp only [if_true, true_and, Tab.look_mod]
  · simp [die]

theorem foldl_stop_stopped {l : List (Nat × Nat)} {x : Nat × Nat} (mem : x ∈ l) (s : State) :
    ((l.foldl (fun s x => s.modPlain x.1 x.2 fun p => { p with stopped := true }) s).plain x.1 x.2).stopped = true := by
  induction l generalizing s with
  | nil => exact absurd mem List.not_mem_nil
  | cons y l ih =>
    rcases List.mem_cons.1 mem with rfl | mem
    · refine foldl_keeps (p := fun t : State => (t.plain x.1 x.2).stopped = true) l (fun t z kept => ?_) _ ?_
      · rw [State.plain_modPlain]
        split
        exacts [rfl, kept]
      · rw [State.plain_modPlain, if_pos ⟨rfl, rfl⟩]
    · exact ih mem _

theorem mem_allPlains {d c : Nat} (die : d < 4) (cluster : c < 5) : (d, c) ∈ allPlains := by
  simp [allPlains, die, cluster]

theorem execThermalTrip_stops (s : State) : ∃ t, exec .thermalTrip s = .next t ∧ t.iod.thermal = true ∧ ∀ d < 4, ∀ c < 5, (t.plain d c).stopped = true :=
  ⟨_, rfl, foldl_keeps (p := fun t : State => t.iod.thermal = true) allPlains (fun _ _ kept => kept) _ rfl,
    fun _ die _ cluster => foldl_stop_stopped (mem_allPlains die cluster) _⟩

/-! The power coordinator. -/

section
variable {s : State} {m : Nat} (low : m < 65536)
include low

theorem powerSample_steady (inside : m ≤ powerBudget s.iod.power) (near : 9 * powerBudget s.iod.power < 10 * m) :
    exec (.powerSample m) s = .next (s.modPower fun p => { p with meas := m, above := 0, under := 0 }) := by
  show execPowerSample m s = _
  simp [execPowerSample, Nat.mod_eq_of_lt low, State.modPower, State.modIod, Nat.not_lt.2 inside, Nat.not_le.2 near]

theorem powerSample_above (excess : powerBudget s.iod.power < m) (few : s.iod.power.above < 2) :
    exec (.powerSample m) s = .next (s.modPower fun p => { p with meas := m, above := p.above + 1, under := 0 }) := by
  show execPowerSample m s = _
  have far : ¬ 10 * m ≤ 9 * powerBudget s.iod.power := by omega
  have notYet : ¬ 3 ≤ s.iod.power.above + 1 := by omega
  simp [execPowerSample, Nat.mod_eq_of_lt low, State.modPower, State.modIod, excess, far, notYet]

theorem powerSample_limits (excess : powerBudget s.iod.power < m) (third : 2 ≤ s.iod.power.above) (none : s.iod.power.limit = 0) :
    exec (.powerSample m) s = .next (s.modPower fun p => { p with meas := m, above := p.above + 1, under := 0, limit := 64 }) := by
  show execPowerSample m s = _
  have far : ¬ 10 * m ≤ 9 * powerBudget s.iod.power := by omega
  simp [execPowerSample, Nat.mod_eq_of_lt low, State.modPower, State.modIod, excess, far, third, none, powerStep]
end

theorem powerGrant_grants {s : State} {msg : BitVec 128} (kind : msgKind msg = 6) (grants : msgIndex msg = 0) (lease : powerLease msg ≠ 0)
    (enabled : s.iod.power.pwrcfg.getLsbD 0 = true) :
    exec (.powerGrant msg) s = .next (s.modPower fun p => { p with grant := some (powerWatts msg, s.iod.dlc + 700000 * powerLease msg) }) := by
  show execPowerGrant msg s = _
  have on : powerGranten s.iod.power = true := enabled
  simp [execPowerGrant, kind, grants, powerArrival, powerMessage, on, lease, dlcMs]

theorem powerLend_lends {s : State} {msg : BitVec 128} (kind : msgKind msg = 6) (lends : msgIndex msg = 1) (lease : powerLease msg ≠ 0)
    (enabled : s.iod.power.pwrcfg.getLsbD 0 = true) :
    exec (.powerLend msg) s =
      .next (s.modPower fun p => { p with borr := p.borr + powerWatts msg, borrows := p.borrows ++ [(powerWatts msg, s.iod.dlc + 700000 * powerLease msg)] }) := by
  show execPowerLend msg s = _
  have on : powerGranten s.iod.power = true := enabled
  simp [execPowerLend, kind, lends, powerArrival, powerMessage, on, lease, dlcMs]

theorem leaseOver_eq_true {s : State} {v : Nat × Nat} (due : v.2 ≤ s.iod.dlc) : leaseOver s v = true := decide_eq_true due

theorem edgeMeterWindow_begins {s : State} {k : Nat} (new : s.cyc k / 256 ≠ (s.core k).regs.edgeWin) :
    exec (.edgeMeterWindow k) s =
      .next (s.modCore k fun c => { c with regs := { c.regs with edgeWin := s.cyc k / 256, edgeCount := 0, edgeLimit := edgeCur s k } }) :=
  (if_neg new : execEdgeMeterWindow k s = _)

end Sys2Proof.Machine

namespace Sys2Proof.Claims
open Sys2Proof Sys2Proof.Machine

/-- Settles O60: one lemma for each event; what a record or a write that waits leaves of the I/O die is `sameIod`. -/
theorem powerAndLinkEvents : Obligations.PowerAndLinkEvents := by
  intro s k n m lease msg
  refine ⟨?edge, ⟨?steady, ?above, ?limits⟩, ?resume, powerGrant_grants, powerLend_lends, ?grantEnd, ?lendEnd, ?lentEnd, ?lend, ?link, ?host, execThermalTrip_stops s⟩
  case edge =>
    intro new
    refine ⟨_, edgeMeterWindow_begins new, ?_⟩
    rw [State.core_modCore, if_pos rfl]
    exact ⟨rfl, rfl, fun rate limit => by simp [edgeCur, lowerLimit, rate, limit], fun limit => by simp [edgeCur, lowerLimit, limit, eq_comm]⟩
  case steady => exact fun low inside near => ⟨_, powerSample_steady low inside near, rfl, rfl⟩
  case above => exact fun low excess few _ => ⟨_, powerSample_above low excess few, rfl, rfl⟩
  case limits => exact fun low excess third none => ⟨_, powerSample_limits low excess third none, rfl, rfl⟩
  case resume =>
    intro cool
    refine ⟨s.modPlain n m fun p => { p with stopped := false }, (if_neg (by simp [cool]) : execPlainClockResume n m s = _), ?_⟩
    rw [State.plain_modPlain, if_pos ⟨rfl, rfl⟩]
    exact ⟨rfl, rfl⟩
  case grantEnd =>
    intro v granted due
    show execGrantLeaseEnd s = _
    rw [execGrantLeaseEnd, granted, Option.any_some, leaseOver_eq_true due, if_pos rfl]
  case lendEnd =>
    intro v borrowed due
    show execLendLeaseEnd n s = _
    simp only [execLendLeaseEnd, borrowed, leaseOver_eq_true due, if_true]
  case lentEnd =>
    intro v lent due
    show execLentReturn n s = _
    simp only [execLentReturn, lent, leaseOver_eq_true due, if_true]
  case lend =>
    intro enabled least most watts
    exact ⟨fun room => (if_pos ⟨enabled, least, most, watts, room⟩ : execSendLend n m lease s = _),
      fun short => (if_neg fun h => Nat.not_le.2 short h.2.2.2.2 : execSendLend n m lease s = _)⟩
  case link =>
    intro l up
    have look : Tab.look {} s.iod.links n = l := rfl
    refine ⟨fun idle => ⟨fun few => ⟨_, rfl, ?_⟩, fun many => ⟨_, rfl, ?_⟩⟩, fun busy => ⟨⟨_, rfl, ?_⟩, ⟨_, if_pos busy, ?_⟩⟩⟩
    · rw [State.modLink_link, look]
      simp [up, idle, few]
    · rw [State.modLink_link, look]
      simp [up, idle, Nat.not_lt.2 many]
    · rw [flushWaits_links, State.modLink_link, look, if_pos busy]
    · rw [recordAll_links, flushWaits_links, State.modLink_link]
  case host =>
    intro up
    have live : ¬ s.iod.linkDown = true := by simp [up]
    exact ⟨⟨_, (if_neg live : execHostLinkDown s = _), recordAll_linkDown _ _ _⟩, ⟨_, (if_neg live : execIdeIntegrity s = _), recordAll_linkDown _ _ _⟩⟩

end Sys2Proof.Claims
end

section
/-! SUPPORT. What popping the inputs of a firing leaves alone, what an element's request and engine command do, and the settling of the statement on them (12 R278 to R283; 17 R322 to R326). -/
namespace Sys2Proof.Machine
open Claims

/-! The fabric of a core after a change. -/

theorem State.core_modFab (s : State) (k : Nat) (f : Fabric → Fabric) (j : Nat) : (s.modFab k f).core j = if j = k then (s.core k).modFab f else s.core j :=
  State.core_modCore s k _ j

theorem State.fab_modFab (s : State) (k : Nat) (f : Fabric → Fabric) (j : Nat) : ((s.modFab k f).core j).fab = if j = k then f (s.core k).fab else (s.core j).fab := by
  rw [State.core_modFab]
  split <;> rfl

theorem Fabric.ply_modPly (b : Fabric) (q : Nat) (f : Ply → Ply) (p : Nat) : (b.modPly q f).ply p = if p = q then f (b.ply q) else b.ply p := by
  simp [Fabric.ply, Fabric.modPly]

theorem Ply.elem_modElem (p : Ply) (e : Nat) (f : EPly → EPly) (j : Nat) : (p.modElem e f).elem j = if j = e then f (p.elem e) else p.elem j := by
  simp [Ply.elem, Ply.modElem]

theorem State.reqsOf_modReqs (s : State) (k e : Nat) (f : List Req → List Req) : ((s.modReqs k e f).core k).fab.reqsOf e = f ((s.core k).fab.reqsOf e) := by
  rw [State.modReqs, State.fab_modFab, if_pos rfl, Fabric.reqsOf, Tab.look_set, if_pos rfl]

/-! Popping the inputs of a firing. -/

/-- What popping an input leaves: the actor, memory, the requests and their number, and the d registers. -/
def poppedOnly (s t : State) : Prop :=
  t.actor = s.actor ∧ t.mem = s.mem ∧ (∀ k, (t.core k).fab.reqs = (s.core k).fab.reqs ∧ (t.core k).fab.reqNo = (s.core k).fab.reqNo) ∧
  ∀ k q e, ((t.ply k q).elem e).d = ((s.ply k q).elem e).d

theorem poppedOnly_rfl (s : State) : poppedOnly s s := ⟨rfl, rfl, fun _ => ⟨rfl, rfl⟩, fun _ _ _ => rfl⟩

theorem poppedOnly_trans {s t u : State} (h : poppedOnly s t) (g : poppedOnly t u) : poppedOnly s u := by
  obtain ⟨actor, mem, reqs, regs⟩ := h
  obtain ⟨actor', mem', reqs', regs'⟩ := g
  exact ⟨actor'.trans actor, mem'.trans mem, fun k => ⟨(reqs' k).1.trans (reqs k).1, (reqs' k).2.trans (reqs k).2⟩, fun k q e => (regs' k q e).trans (regs k q e)⟩

theorem modChan_poppedOnly (s : State) (k c : Nat) (f : Chan → Chan) : poppedOnly s (s.modChan k c f) := by
  refine ⟨rfl, rfl, fun j => ?_, fun j q e => ?_⟩
  · rw [State.modChan, State.fab_modFab]
    split
    next same => subst same; exact ⟨rfl, rfl⟩
    next => exact ⟨rfl, rfl⟩
  · rw [State.ply, State.modChan, State.fab_modFab]
    split
    next same => subst same; rfl
    next => rfl

theorem modElem_poppedOnly {f : EPly → EPly} (keeps : ∀ x, (f x).d = x.d) (s : State) (k q e : Nat) : poppedOnly s (s.modElem k q e f) := by
  refine ⟨rfl, rfl, fun j => ?_, fun j p i => ?_⟩
  · rw [State.modElem, State.modPly, State.fab_modFab]
    split
    next same => subst same; exact ⟨rfl, rfl⟩
    next => exact ⟨rfl, rfl⟩
  · rw [State.ply, State.modElem, State.modPly, State.fab_modFab]
    split
    next same =>
      subst same
      rw [Fabric.ply_modPly]
      split
      next same =>
        subst same
        rw [Ply.elem_modElem]
        split
        next same => subst same; exact keeps _
        next => rfl
      next => rfl
    next => rfl

theorem grantSlot_poppedOnly {s u : State} (h : poppedOnly s u) (v : State) (k q e ch : Nat) (t : Token) : poppedOnly s (grantSlot v k q e ch t u) := by
  unfold grantSlot
  split
  exacts [poppedOnly_trans h (modChan_poppedOnly _ _ _ _), h]

theorem popHead_poppedOnly (s : State) (k q e ch : Nat) : poppedOnly s (popHead s k q e ch) := by
  unfold popHead
  split
  · exact poppedOnly_rfl s
  · refine grantSlot_poppedOnly (poppedOnly_trans (modChan_poppedOnly s _ _ _) (modElem_poppedOnly ?_ _ _ _ _)) _ _ _ _ _ _
    exact fun _ => rfl

theorem popMask_poppedOnly (s : State) (k q e mask : Nat) : poppedOnly s (popMask s k q e mask) :=
  foldl_keeps _ (fun t j h => poppedOnly_trans h (popHead_poppedOnly t k q e j)) s (poppedOnly_rfl s)

/-! Requests. -/

theorem eaOf_eq_w (x : Word) (o : BitVec 22) : eaOf x o = w (x.toNat + o.toInt) := add_w x o.toInt

theorem eaIndexed_eq_w (x y : Word) (o : BitVec 22) : eaIndexed x y o = w (x.toNat + y.toNat + o.toInt) := by
  rw [eaIndexed, show o.signExtend 64 = w o.toInt from rfl, add_w, add_eq_w]
  refine BitVec.eq_of_toNat_eq ?_
  simp only [w, BitVec.toNat_ofInt]
  omega

theorem exec_request {s : State} {i : Instr} {kind : ReqKind} {d : EDst} {l : List ESrc} {ea v : Word} (req : requestOf s i = some (kind, d, l, ea, v)) :
    exec i s = fireReq s kind d l ea v := by
  unfold requestOf at req
  split at req
  case h_1 | h_2 =>
    cases req
    rw [← eaIndexed_eq_w]
    rfl
  case h_3 | h_4 | h_5 | h_6 | h_7 | h_8 | h_9 | h_10 | h_11 =>
    cases req
    rw [← eaOf_eq_w]
    rfl
  case h_12 | h_13 =>
    cases req
    rfl
  case h_14 => cases req

/-- A request that a firing with data heads makes. -/
def requestMade (s : State) (kind : ReqKind) (d : EDst) (l : List ESrc) (ea v : Word) : Req :=
  { ply := s.actor.ply, rule := s.actor.rule, word := s.actionWord, kind := kind, dst := d, ea := ea, opnd := v, tag := s.tg
    ray := s.descends l, parkable := s.heads.any (·.ray), elem := s.actor.elem, no := (s.core s.actor.core).fab.reqNo }

theorem fireReq_data {s : State} (data : s.endFiring = false) (kind : ReqKind) (d : EDst) (l : List ESrc) (ea v : Word) :
    fireReq s kind d l ea v = .next (((popMask s s.actor.core s.actor.ply s.actor.elem (trigPop s.trig)).modFab s.actor.core fun b =>
      { b with reqNo := b.reqNo + 1 }).modReqs s.actor.core s.actor.elem fun y => y ++ [requestMade s kind d l ea v]) := by
  unfold fireReq
  exact if_neg (by simp [data])

/-- A change of a core's fabric that keeps its plies keeps every element. -/
theorem State.ply_modFab_of_plies {f : Fabric → Fabric} (keeps : ∀ b, (f b).plies = b.plies) (s : State) (k j q : Nat) : (s.modFab k f).ply j q = s.ply j q := by
  rw [State.ply, State.fab_modFab]
  split
  next same =>
    subst same
    rw [Fabric.ply, keeps]
    rfl
  next => rfl

theorem State.eply_modFab_of_plies {f : Fabric → Fabric} (keeps : ∀ b, (f b).plies = b.plies) (s : State) (k : Nat) : (s.modFab k f).eply = s.eply := by
  show ((s.modFab k f).ply s.actor.core s.actor.ply).elem s.actor.elem = _
  rw [State.ply_modFab_of_plies keeps]
  rfl

theorem poppedOnly_eply_d {s t : State} (popped : poppedOnly s t) : t.eply.d = s.eply.d := by
  obtain ⟨actor, -, -, regs⟩ := popped
  rw [State.eply, actor, regs]
  rfl

/-! Engine commands. -/

theorem exec_engine {s : State} {i : Instr} {kind : EngKind} {a b c : Word} (cmd : engineOf s i = some (kind, a, b, c)) : exec i s = fireEngine s kind a b c := by
  unfold engineOf at cmd
  split at cmd
  case h_10 => cases cmd
  all_goals
    cases cmd
    rfl

theorem fireEngine_data {s t : State} (data : ∀ h ∈ s.heads, h.e = false) (kind : EngKind) (a b c : Word)
    (room : emitMask (popMask s s.actor.core s.actor.ply s.actor.elem (trigPop s.trig)) s.actor.core s.actor.ply s.actor.elem (trigEmit s.trig) { ply := s.actor.ply }
      (some { word := s.actionWord, kind := kind, a := a, b := b, c := c, core := s.actor.core, ply := s.actor.ply, elem := s.actor.elem, rule := s.actor.rule
              before := (s.core s.actor.core).fab.reqNo }) = some t) :
    fireEngine s kind a b c = .next t := by
  have noEnd : s.heads.any (·.e) = false := by simpa using data
  simp only [fireEngine, noEnd, Bool.false_eq_true, if_false, placeAll, List.foldlM_cons, List.foldlM_nil, room]
  rfl

end Sys2Proof.Machine

namespace Sys2Proof.Claims
open Sys2Proof Sys2Proof.Machine

/-- Settles O42: the request is `requestMade`, behind the requests that popping leaves (`popMask_poppedOnly`); a command's tokens leave by `fireEngine_data`. -/
theorem elementRequests : Obligations.ElementRequests := by
  intro s t i
  refine ⟨fun kind d l ea v req data => ?_, fun kind a b c cmd data room => (exec_engine cmd).trans (fireEngine_data data kind a b c room)⟩
  obtain ⟨-, mem, reqs, -⟩ := popMask_poppedOnly s s.actor.core s.actor.ply s.actor.elem (trigPop s.trig)
  refine ⟨_, requestMade s kind d l ea v, (exec_request req).trans (fireReq_data data kind d l ea v), ?_, rfl, rfl, rfl, rfl, rfl, rfl, rfl, rfl, rfl, mem, fun r => ?_⟩
  · rw [State.reqsOf_modReqs, State.fab_modFab, if_pos rfl]
    exact congrArg (Tab.look [] · s.actor.elem ++ _) (reqs _).1
  · refine congrArg (Tab.look 0 · r) ?_
    refine (congrArg EPly.d ((State.eply_modFab_of_plies ?_ _ _).trans (State.eply_modFab_of_plies ?_ _ _))).trans (poppedOnly_eply_d (popMask_poppedOnly s _ _ _ _))
    · exact fun _ => rfl
    · exact fun _ => rfl

end Sys2Proof.Claims
end

section
/-! SUPPORT. A firing that ends through its outputs, the bytes of an address of the tile store, and the settling of the statement on them (12 R284 to R287). -/
namespace Sys2Proof.Machine
open Claims

/-! Firings. -/

theorem fireTag_placed {s s1 t : State} {d : EDst} {l : List ESrc} {v : Word} {tag : Nat}
    (room : placed s (s1.modEply fun x => x.setD d v (s.descends l)) (trigEmit s.trig) (dataToken s l v tag) = some t) :
    fireTag s s1 d l v tag (fun _ x => x) = .next t := by
  unfold placed dataToken at room
  simp only [fireTag, placeAll, List.foldlM_cons, List.foldlM_nil, room]
  rfl

/-- A firing that writes no register. -/
theorem fireTag_placed_null {s s1 t : State} {l : List ESrc} {v : Word} {tag : Nat}
    (room : placed s (s1.modEply id) (trigEmit s.trig) (dataToken s l v tag) = some t) : fireTag s s1 .null l v tag (fun _ x => x) = .next t :=
  fireTag_placed room

/-! Addresses of the tile store. -/

theorem tsAddr_eq (x : Word) (o : BitVec 18) : tsAddr x o = x.toNat % 2 ^ 18 + o.toNat := by rw [tsAddr, bits_low]

section
variable {s : State} {off : Nat} (data : s.endFiring = false) (f : Out)
include data

theorem atTs_open (aligned : off % 8 = 0) (inside : off < 0x40000) (mapped : (mapBuf (s.core s.actor.core) 4 off).isSome = true) : atTs s off f = f := by
  simp [atTs, data, aligned, Nat.not_le.2 inside, Option.isSome_iff_ne_none.1 mapped]

theorem atTs_misaligned (ragged : off % 8 ≠ 0) : atTs s off f = fireFault s .misaligned (tagged 4 off) := by
  simp [atTs, data, ragged]

theorem atTs_beyond (aligned : off % 8 = 0) (outside : 0x40000 ≤ off) : atTs s off f = fireFault s .bufferBounds (tagged 4 off) := by
  simp [atTs, data, aligned, outside]
end

/-- The smaller of two words by their unsigned values. -/
theorem toNat_smaller (a b : Word) : (if a.toNat < b.toNat then a else b).toNat = min a.toNat b.toNat := by
  split <;> omega

end Sys2Proof.Machine

namespace Sys2Proof.Claims
open Sys2Proof Sys2Proof.Machine

/-- Settles O43: the checks of `atTs`, then a firing that ends through its outputs. -/
theorem tileActions : Obligations.TileActions := by
  intro s t d a b o m data
  have at_ : tsAddr (s.src a) o = (s.src a).toNat % 2 ^ 18 + o.toNat := tsAddr_eq _ _
  have bt : tsAddr (s.src b) 0 = (s.src b).toNat % 2 ^ 18 := tsAddr_eq _ _
  have word (x : Nat) : w (ofBytesLE (bufRead s s.actor.core 4 x 8)) = tsWord s x := w_natCast _
  simp only [← at_, ← bt, word]
  refine ⟨fun aligned inside mapped => ⟨fun room => ?ld, fun room => ?st⟩, fun ragged => ⟨atTs_misaligned data _ ragged, atTs_misaligned data _ ragged⟩,
    fun aligned outside => ⟨atTs_beyond data _ aligned outside, atTs_beyond data _ aligned outside⟩, fun aligned mapped room => ?vbmin, fun slot => ⟨fun room => ?blend, fun count room => ?done⟩⟩
  case ld => exact (atTs_open data _ aligned inside mapped).trans (fireTag_placed room)
  case st => exact (atTs_open data _ aligned inside mapped).trans (fireTag_placed_null room)
  case vbmin =>
    have inside : tsAddr (s.src b) 0 < 0x40000 := by rw [bt]; exact Nat.mod_lt _ (by decide)
    refine (atTs_open data _ aligned inside mapped).trans (fireTag_placed ?_)
    rw [toNat_smaller]
    exact room
  case blend =>
    show execTsBlend a b m s = _
    have fits : ¬ 55 < (s.tileReq false m (s.src a) (s.src b)).slot := by
      rw [TileReq.slot, bits_eq_div]
      exact Nat.not_lt.2 slot
    simp only [execTsBlend, data, Bool.false_eq_true, if_false, fits]
    exact fireTag_placed_null room
  case done =>
    show execTsDone a b s = _
    have fits : ¬ 55 < (s.tileReq true .rep (s.src a) (s.src b)).slot := by
      rw [TileReq.slot, bits_eq_div]
      exact Nat.not_lt.2 slot
    have few : ¬ 256 < bits (s.src b) 0 9 := by
      rw [bits_low]
      exact Nat.not_lt.2 count
    simp only [execTsDone, data, Bool.false_eq_true, if_false, fits, few]
    exact fireTag_placed_null room

end Sys2Proof.Claims
end

section
/-! SUPPORT. The checks of the display instructions, what each does on a head that passes them, and the settling of the statement on them (19 R361 to R368). -/
namespace Sys2Proof.Machine
open Claims

/-! The checks. -/

section
variable {s : State} {h : Nat} (idle : s.iod.dsFault = none) (f : State → Out)
include idle

theorem dsCheck_enabled (on : bit (s.iod.head h).hctl 0 = true) : dsCheck s h f = f s := by
  rw [dsCheck, idle]
  exact if_pos on

theorem dsCheck_disabled (off : bit (s.iod.head h).hctl 0 = false) : dsCheck s h f = .next (trapped s 0x64 (w h)) := by
  rw [dsCheck, idle, w_natCast]
  exact if_neg (by rw [headOn, off]; exact Bool.false_ne_true)
end

theorem bandCheck_named {s : State} {h : Nat} {v : Word} (named : bandNamed s h v) (f : State → Out) : bandCheck s h v f = f s := by
  obtain ⟨high, middle, below⟩ := named
  rw [bandCheck, bits_eq_div, bits_eq_div, bits_low]
  refine if_neg ?_
  have small : v.toNat / 2 ^ 48 % 2 ^ 16 = 0 := by rw [high]; rfl
  simp only [small, middle, ne_eq, not_true_eq_false, false_or, Nat.not_le]
  exact below

theorem bits_frame (v : Word) : bits v 16 32 = v.toNat / 2 ^ 16 % 2 ^ 32 := bits_eq_div v 16 32

/-! Operations that are queued. -/

/-- A display instruction that queues an operation queues it under its checks. -/
theorem exec_queues {s : State} {i : Instr} {h : Fin 4} {a v : Word} {x : Frame} (idle : s.iod.dsFault = none) (on : bit (s.iod.head h.val).hctl 0 = true)
    (op : displayOperands s i = some (h, a, v)) (named : bandNamed s h.val a) (held : (s.iod.head h.val).holds (a.toNat / 2 ^ 16 % 2 ^ 32) = some x) (own : x.taken = false) :
    exec i s = pushDs s i a v := by
  have band (j : Instr) : queueBand s h.val j a v = pushDs s j a v := by
    rw [queueBand, dsCheck_enabled idle _ on, bandCheck_named named, bits_frame, held]
    rfl
  unfold displayOperands at op
  split at op
  case h_1 =>
    cases op
    show execDsMe _ _ _ s = _
    rw [execDsMe, dsCheck_enabled idle _ on, bits_frame, held, Option.any_some, own]
    rfl
  case h_2 =>
    cases op
    exact band _
  case h_3 =>
    cases op
    exact band _
  case h_4 => cases op

theorem pushDs_room {s : State} {i : Instr} {a b : Word} (room : s.iod.dsq.length < 8) :
    pushDs s i a b = .next (retired (s.modIod fun x => { x with dsq := x.dsq ++ [{ act := i, a := a, b := b, user := s.user }] })) :=
  if_neg (Nat.not_le.2 room)

/-! DS.FALL and DS.EMIT. -/

section
variable {s : State} {h : Fin 4} {a : Reg} {x : Frame} (idle : s.iod.dsFault = none) (on : bit (s.iod.head h.val).hctl 0 = true) (named : bandNamed s h.val (s.reg a))
  (held : (s.iod.head h.val).holds ((s.reg a).toNat / 2 ^ 16 % 2 ^ 32) = some x) (d : Reg)
include idle on named held

theorem dsFall_writes (lv : Fin 4) : exec (.dsFall d a lv h) s =
    let t := if lv.val = 0 then s else startFallback s h.val ((s.reg a).toNat / 2 ^ 16 % 2 ^ 32) ((s.reg a).toNat % 2 ^ 9) lv.val true false
    .next (wrote t d ((t.iod.head h.val).status ((s.reg a).toNat % 2 ^ 9))) := by
  show execDsFall d a lv h s = _
  rw [execDsFall, dsCheck_enabled idle _ on, bandCheck_named named]
  dsimp only
  rw [bits_frame, bits_low, held]
  rfl

theorem dsEmit_committed (done : (s.iod.head h.val).committed ((s.reg a).toNat / 2 ^ 16 % 2 ^ 32) ((s.reg a).toNat % 2 ^ 9) = true) :
    exec (.dsEmit d a h) s = .next (wrote (s.modIod fun i => { i with emit := none }) d ((s.iod.head h.val).status ((s.reg a).toNat % 2 ^ 9))) := by
  have emits : emitBand s d h.val ((s.reg a).toNat / 2 ^ 16 % 2 ^ 32) ((s.reg a).toNat % 2 ^ 9) =
      .next (wrote (s.modIod fun i => { i with emit := none }) d ((s.iod.head h.val).status ((s.reg a).toNat % 2 ^ 9))) := if_pos done
  show execDsEmit d a h s = _
  rw [execDsEmit, bits_frame, bits_low]
  split
  · exact emits
  · rw [dsCheck_enabled idle _ on, bandCheck_named named, held]
    exact emits
end

end Sys2Proof.Machine

namespace Sys2Proof.Claims
open Sys2Proof Sys2Proof.Machine

/-- Settles O34: each instruction past its checks (`dsCheck_enabled`, `bandCheck_named`), or the trap of a disabled head. -/
theorem displayInstructions : Obligations.DisplayInstructions := by
  intro s d a h lv up y f b
  refine ⟨fun idle on => ⟨?line, fun reached => ?reached, fun before => ?before, fun x aligned sound isFrame opened => ?band,
    fun x named held => ⟨dsFall_writes idle on named held d 0, fun level => ?fall, fun done => ⟨_, dsEmit_committed idle on named held d done, rfl, rfl, rfl⟩, fun i v op own room => ?queue⟩⟩,
    fun idle off i which => ?disabled⟩
  case line =>
    show execDsLine d h s = _
    rw [execDsLine, dsCheck_enabled idle _ on, w_natCast]
    rfl
  case reached =>
    show execDsLineWait d a h s = _
    rw [execDsLineWait, dsCheck_enabled idle _ on, if_pos reached, w_natCast]
    rfl
  case before =>
    have waits : execDsLineWait d a h s = waitFor s (.line h.val (s.reg a).toNat) := by
      rw [execDsLineWait, dsCheck_enabled idle _ on, if_neg (Nat.not_le.2 before)]
    refine ⟨_, waits, ?_⟩
    rw [State.me_modMe]
    exact ⟨rfl, rfl, rfl⟩
  case band =>
    have address : bits (s.reg a) 0 14 = (s.reg a).toNat % 2 ^ 14 := bits_low _ _
    have multiple : (s.reg a).toNat % 2 ^ 14 % 64 = 0 := by omega
    have good : ((List.range 64).any fun i => Tab.look false (s.core s.actor.core).bad ((s.reg a).toNat % 2 ^ 14 + i)) = false := by
      simpa [List.any_eq_false] using sound
    have own : ¬ x.f ≠ (s.iod.head h.val).openFrame := not_not.2 opened
    refine ⟨s.modHead h.val fun z => { z with frames := z.frames.filter (fun z => decide (z.f ≠ x.f)) ++ [x] }, ?_, ?_, rfl, rfl⟩
    · show execDsBand d a h s = _
      change frameOf (s.iod.head h.val) _ = _ at isFrame
      rw [execDsBand, dsCheck_enabled idle _ on]
      simp only [address, multiple, ne_eq, not_true_eq_false, if_false, good, Bool.false_eq_true, isFrame, own, wI_eq_w]
      rfl
    · rw [head_modHead]
      exact List.mem_append_right _ (List.mem_singleton.2 rfl)
  case fall =>
    refine (dsFall_writes idle on named held d lv).trans ?_
    have forced : ¬ lv.val = 0 := fun zero => level (Fin.ext zero)
    dsimp only
    rw [if_neg forced]
  case queue =>
    refine ⟨_, _, (exec_queues idle on op named held own).trans (pushDs_room room), rfl, rfl, rfl, rfl, ?_⟩
    exact congrArg Ctx.pc (State.me_modMe _ _)
  case disabled =>
    rcases which with rfl | rfl | rfl | rfl | rfl | rfl | rfl | ⟨rfl, none⟩
    · exact (dsCheck_disabled idle _ off : execDsLine d h s = _)
    · exact (dsCheck_disabled idle _ off : execDsLineWait d a h s = _)
    · exact (dsCheck_disabled idle _ off : execDsBand d a h s = _)
    · exact (dsCheck_disabled idle _ off : execDsFall d a lv h s = _)
    · exact (dsCheck_disabled idle _ off : execDsMe a d h s = _)
    · exact (dsCheck_disabled idle _ off : queueBand s h.val (.dsNet a d h) (s.reg a) (s.reg d) = _)
    · exact (dsCheck_disabled idle _ off : queueBand s h.val (.dsWarp a d up h) (s.reg a) (s.reg d) = _)
    · have fresh : ¬ (s.iod.emit = some { pc := s.actor.pc, head := h.val, f := bits (s.reg a) 16 32, b := bits (s.reg a) 0 9 } ∧ s.iod.dsFault.isNone = true) := by simp [none]
      exact (if_neg fresh : execDsEmit d a h s = _).trans (dsCheck_disabled idle _ off)

end Sys2Proof.Claims
end

section
/-! SUPPORT. The stream ports of a core after a change, the masks of STR.BAR and STR.WAIT, the windows that a walk gives, and the settling of the statement on the stream instructions (11 R256; 12 R273 to R277). -/
namespace Sys2Proof.Machine
open Claims

/-! Ports after a change. -/

theorem State.stream_modStream (s : State) (k n : Nat) (f : SPort → SPort) (j m : Nat) :
    ((s.modStream k n f).core j).stream m = if j = k ∧ m = n then f ((s.core k).stream n) else (s.core j).stream m := by
  rw [State.modStream, State.core_modCore]
  by_cases core : j = k
  · subst core
    simp [CoreSt.stream]
  · simp [core]

theorem retired_pc (s : State) : (retired s).me.pc = s.nextPc := congrArg Ctx.pc (State.me_modMe _ _)

theorem retired_stream (s : State) (k m : Nat) : ((retired s).core k).stream m = (s.core k).stream m := by
  show ((s.setCtx s.actor.core s.actor.ctx _).core k).stream m = _
  rw [State.core_setCtx]
  split
  next same => subst same; rfl
  next => rfl

theorem stream_modCore_of_streams {f : CoreSt → CoreSt} (keeps : ∀ c, (f c).streams = c.streams) (s : State) (k j m : Nat) :
    ((s.modCore k f).core j).stream m = (s.core j).stream m := by
  rw [State.core_modCore]
  split
  next same =>
    subst same
    rw [CoreSt.stream, keeps]
    rfl
  next => rfl

/-- One change for each of some ports of a core. -/
def modStreams (s : State) (k : Nat) (l : List Nat) (f : SPort → SPort) : State := l.foldl (fun s n => s.modStream k n f) s

theorem modStreams_actor (s : State) (k : Nat) (l : List Nat) (f : SPort → SPort) : (modStreams s k l f).actor = s.actor :=
  foldl_keeps (f := fun t n => t.modStream k n f) (p := fun t : State => t.actor = s.actor) l (fun _ _ h => h) s rfl

theorem modStreams_stream {l : List Nat} (once : l.Nodup) (s : State) (k : Nat) (f : SPort → SPort) (m : Nat) :
    ((modStreams s k l f).core k).stream m = if m ∈ l then f ((s.core k).stream m) else (s.core k).stream m := by
  induction l generalizing s with
  | nil => simp [modStreams]
  | cons n l ih =>
    obtain ⟨fresh, once⟩ := List.nodup_cons.1 once
    rw [modStreams, List.foldl_cons, ← modStreams, ih once, State.stream_modStream]
    by_cases this : m = n
    · subst this
      simp [fresh]
    · simp [this]

theorem retired_modStreams_pc (s : State) (k : Nat) (l : List Nat) (f : SPort → SPort) : (retired (modStreams s k l f)).me.pc = s.nextPc := by
  rw [retired_pc, State.nextPc, State.nextAddr, modStreams_actor]
  rfl

/-! Masks. -/

theorem mem_maskBits {n : Nat} (mask : BitVec n) {m : Nat} (small : m < n) : m ∈ maskBits n mask.toNat ↔ mask.getLsbD m = true := by
  simp [maskBits, BitVec.getLsbD, small]

theorem maskBits_sorted (n m : Nat) : (maskBits n m).Pairwise (· < ·) := List.pairwise_lt_range.filter _

theorem maskBits_nodup (n m : Nat) : (maskBits n m).Nodup := (maskBits_sorted n m).imp Nat.ne_of_lt

/-- The sum of the powers of two of a rising list has the list's bits. -/
theorem testBit_sum_two_pow {l : List Nat} (rises : l.Pairwise (· < ·)) (m : Nat) : (l.map (2 ^ ·)).sum.testBit m = true ↔ m ∈ l := by
  rw [← Nat.mem_bitIndices, Nat.bitIndices_sum_map_two_pow rises.sortedLT]

/-! Windows. -/

theorem Mr.andThen_ok {α β : Type} {r : Mr α} {f : α → State → Mr β} {b : β} {u : State} (h : r.andThen f = .ok b u) : ∃ a t, r = .ok a t ∧ f a t = .ok b u := by
  cases r with
  | ok a t => exact ⟨a, t, rfl, h⟩
  | fault c v t => cases h
  | wait t => cases h

theorem windowFrom_vbase {s u : State} {k port slot va n : Nat} {b : WinBuild} {x : Win} (h : windowFrom s k port slot b va n = .ok x u) : x.vbase = va / 65536 := by
  unfold windowFrom at h
  dsimp only at h
  split at h
  · cases h
  · cases h
    rfl

theorem windowWalk_vbase {s u : State} {k port slot va n : Nat} {acc : Acc} {ok : Nat → Bool} {x : Win} {l : Nat × Nat}
    (h : windowWalk s k port slot va n acc ok = .ok (some x, l) u) : x.vbase = va / 65536 := by
  unfold windowWalk at h
  split at h
  · obtain ⟨y, t, built, done⟩ := Mr.andThen_ok h
    cases done
    exact windowFrom_vbase built
  · obtain ⟨r, t, -, next⟩ := Mr.andThen_ok h
    split at next
    · obtain ⟨y, v, built, done⟩ := Mr.andThen_ok next
      cases done
      exact windowFrom_vbase built
    · cases next

/-! Arming a port. -/

section
variable {s : State} {ind : Bool} {a : Reg} {port : Nat}

theorem armPort_misaligned (ragged : (s.reg a).toNat % 2 ^ 14 % 64 ≠ 0) : armPort ind a port s = .next (trapped s 0x24 (w ((s.reg a).toNat % 2 ^ 14 : Nat))) := by
  rw [armPort, bits_low, w_natCast]
  exact if_pos ragged

variable (aligned : (s.reg a).toNat % 2 ^ 14 % 64 = 0)
include aligned

theorem armPort_unowned (none : portPly s s.actor.core s.actor.ctx port = none) : armPort ind a port s = .next (trapped s 0x37 (w port)) := by
  rw [armPort, bits_low, w_natCast]
  simp only [aligned, ne_eq, not_true_eq_false, if_false, none]
  rfl

theorem armPort_arms {q : Nat} (owned : portPly s s.actor.core s.actor.ctx port = some q)
    (sound : ∀ j < 64, Tab.look false (s.core s.actor.core).bad ((s.reg a).toNat % 2 ^ 14 + j) = false)
    (fed : (ind = true ∨ fld (localBytes (s.core s.actor.core) ((s.reg a).toNat % 2 ^ 14) 64) 0x31 1 = 1) → ((s.ply s.actor.core q).feeder (.stream port)).isSome = true)
    (routed : ¬(ind = true ∨ fld (localBytes (s.core s.actor.core) ((s.reg a).toNat % 2 ^ 14) 64) 0x31 1 = 1) → ((s.ply s.actor.core q).routeOf (.stream port)).isSome = true)
    (wellFormed : descOk ind (localBytes (s.core s.actor.core) ((s.reg a).toNat % 2 ^ 14) 64) = true)
    (based : baseOk (descOf ind (localBytes (s.core s.actor.core) ((s.reg a).toNat % 2 ^ 14) 64)) = true) :
    armPort ind a port s =
      .next (retired (s.modStream s.actor.core port fun p => { p with armed := some (descOf ind (localBytes (s.core s.actor.core) ((s.reg a).toNat % 2 ^ 14) 64), q) })) := by
  have good : ((List.range 64).any fun i => Tab.look false (s.core s.actor.core).bad ((s.reg a).toNat % 2 ^ 14 + i)) = false := by
    simpa [List.any_eq_false] using sound
  have fits : (if ind = true ∨ fld (localBytes (s.core s.actor.core) ((s.reg a).toNat % 2 ^ 14) 64) 0x31 1 = 1 then ((s.ply s.actor.core q).feeder (.stream port)).isSome
      else ((s.ply s.actor.core q).routeOf (.stream port)).isSome) = true := by
    split
    next h => exact fed h
    next h => exact routed h
  rw [armPort, bits_low]
  simp only [aligned, ne_eq, not_true_eq_false, if_false, owned, good, Bool.false_eq_true, fits, wellFormed, based, Bool.not_true]
  rfl
end

/-! Queueing a command, and one that waits for commands before it. -/

theorem strGo_queues {s : State} {a : Reg} {port : Fin 16} {x : SDesc} {q : Nat} (free : goFault s s.actor.core s.actor.ctx port.val (s.reg a) = none)
    (armed : ((s.core s.actor.core).stream port.val).armed = some (x, q)) (room : ((s.core s.actor.core).stream port.val).queue.length < 4) :
    ∃ t c, exec (.strGo a port) s = .next t ∧ ((t.core s.actor.core).stream port.val).queue = ((s.core s.actor.core).stream port.val).queue ++ [c] ∧
      c.desc = { x with base := goBase x (s.reg a) } ∧ c.ply = q ∧ c.after = ((s.core s.actor.core).stream port.val).bar ∧ t.me.pc = s.nextPc := by
  have full : ¬ 4 ≤ ((s.core s.actor.core).stream port.val).queue.length := Nat.not_le.2 room
  show ∃ t c, execStrGo a port s = .next t ∧ _
  unfold execStrGo
  simp only [free, armed, full, if_false]
  refine ⟨_, { desc := { x with base := goBase x (s.reg a) }, ply := q, id := (s.core s.actor.core).nextCmd, after := ((s.core s.actor.core).stream port.val).bar },
    retire_eq _, ?_, rfl, rfl, rfl, retired_pc _⟩
  rw [retired_stream, stream_modCore_of_streams, State.stream_modStream, if_pos ⟨rfl, rfl⟩]
  · rfl
  · exact fun _ => rfl

/-- What STR.BAR does to a port of its mask (12 R275): the commands open on the mask's ports stand before those queued later. -/
def barOn (s : State) (k : Nat) (mask : BitVec 16) (p : SPort) : SPort :=
  { p with bar := p.bar.filter ((List.range 16).flatMap fun n => ((s.core k).stream n).ids).contains ++ (maskBits 16 mask.toNat).flatMap fun n => ((s.core k).stream n).ids }

theorem strBar_bars (s : State) (mask : BitVec 16) :
    exec (.strBar mask) s = .next (retired (modStreams s s.actor.core (maskBits 16 mask.toNat) (barOn s s.actor.core mask))) := rfl

theorem strBar_stream (s : State) (k : Nat) (mask : BitVec 16) (m : Nat) : ((retired (modStreams s k (maskBits 16 mask.toNat) (barOn s k mask))).core k).stream m =
    if m ∈ maskBits 16 mask.toNat then barOn s k mask ((s.core k).stream m) else (s.core k).stream m :=
  (retired_stream _ _ _).trans (modStreams_stream (maskBits_nodup _ _) _ _ _ _)

/-! The error bits of ports. -/

/-- The error bits of a mask's ports, bit by port (12 R276). -/
def errorBits (s : State) (k : Nat) (mask : BitVec 16) : Word :=
  w64 (((maskBits 16 mask.toNat).filter fun n => ((s.core k).stream n).err).map fun n => 2 ^ n).sum

theorem errorBits_getLsbD (s : State) (k : Nat) (mask : BitVec 16) {m : Nat} (small : m < 16) :
    (errorBits s k mask).getLsbD m = (mask.getLsbD m && ((s.core k).stream m).err) := by
  rw [Bool.eq_iff_iff, errorBits, w64, BitVec.getLsbD_ofNat, Bool.and_eq_true, Bool.and_eq_true, testBit_sum_two_pow ((maskBits_sorted _ _).filter _), List.mem_filter,
    mem_maskBits mask small, decide_eq_true_eq, and_iff_right (by omega)]

theorem idle_mask {s : State} {k : Nat} {mask : BitVec 16} :
    (maskBits 16 mask.toNat).all (streamIdle s k) = true ↔ ∀ m < 16, mask.getLsbD m = true → streamIdle s k m = true := by
  simp only [List.all_eq_true]
  constructor
  · exact fun idle m small inMask => idle m ((mem_maskBits mask small).2 inMask)
  · intro idle m mem
    have small : m < 16 := List.mem_range.1 (List.mem_of_mem_filter mem)
    exact idle m small ((mem_maskBits mask small).1 mem)

theorem strWait_answers {s : State} {d : Reg} {mask : BitVec 16} (idle : (maskBits 16 mask.toNat).all (streamIdle s s.actor.core) = true) :
    exec (.strWait d mask) s =
      .next (wrote (modStreams s s.actor.core (maskBits 16 mask.toNat) fun p => { p with err := false }) d (errorBits s s.actor.core mask)) :=
  (if_pos idle : execStrWait d mask s = _)

theorem strWait_waits {s : State} {d : Reg} {mask : BitVec 16} (busy : ¬ (maskBits 16 mask.toNat).all (streamIdle s s.actor.core) = true) :
    exec (.strWait d mask) s = waitFor s (.streams mask) := (if_neg busy : execStrWait d mask s = _)

/-! Setting and clearing windows. -/

section
variable {s : State} {a b d : Reg} {e : Fin 4} {port : Fin 16}

theorem winSet_unowned (none : portPly s s.actor.core s.actor.ctx port.val = none) : exec (.winSet d a b e port) s = .next (trapped s 0x37 (w port.val)) := by
  rw [w_natCast]
  exact (if_pos (by rw [none]; rfl) : execWinSet d a b e port s = _)

theorem winClr_unowned (all : Bool) (none : portPly s s.actor.core s.actor.ctx port.val = none) : exec (.winClr all e port) s = .next (trapped s 0x37 (w port.val)) := by
  rw [w_natCast]
  exact (if_pos (by rw [none]; rfl) : execWinClr all e port s = _)

variable {q : Nat} (owned : portPly s s.actor.core s.actor.ctx port.val = some q)
include owned

theorem winClr_owned (all : Bool) : exec (.winClr all e port) s =
    .next (retired (s.modStream s.actor.core port.val fun p => { p with wins := if all then [] else Tab.drop p.wins e.val })) :=
  (if_neg (by rw [owned]; exact Bool.false_ne_true) : execWinClr all e port s = _)

theorem winSet_empty (zero : s.reg b = 0) : exec (.winSet d a b e port) s = .next (wrote s d 0) := by
  show execWinSet d a b e port s = _
  simp only [execWinSet, owned, Option.isNone_some, Bool.false_eq_true, if_false, zero, if_true]
  rfl

theorem winSet_sets {x : Win} {l : Nat × Nat} {u : State} (nonempty : s.reg b ≠ 0) (low : (s.reg a).toNat < 2 ^ 55)
    (walk : windowWalk s s.actor.core port.val 1 (s.reg a).toNat (winPages (s.reg a) (s.reg b)) .read (fun e => e.testBit 6) = .ok (some x, l) u) :
    exec (.winSet d a b e port) s = .next (wrote (u.modStream s.actor.core port.val fun p => p.setWin e.val x) d (w64 x.npg)) := by
  show execWinSet d a b e port s = _
  simp only [execWinSet, owned, Option.isNone_some, Bool.false_eq_true, if_false, nonempty, Nat.not_le.2 low, walk]
  rfl
end

theorem takeCommand_behind {s : State} {k m : Nat} {c : SCmd} {rest : List SCmd} (queue : ((s.core k).stream m).queue = c :: rest)
    (behind : ∃ y ∈ c.after, ∃ j < 16, y ∈ ((s.core k).stream j).ids) : takeCommand s k m = .next s := by
  obtain ⟨y, after, j, small, isOpen⟩ := behind
  have waits : c.after.any ((List.range 16).flatMap fun n => ((s.core k).stream n).ids).contains = true := by
    simp only [List.any_eq_true, List.contains_iff_mem, List.mem_flatMap, List.mem_range]
    exact ⟨y, after, j, small, isOpen⟩
  unfold takeCommand
  simp only [queue, waits, or_true, if_true]

theorem streamElement_behind {s : State} {k m : Nat} {c : SCmd} {rest : List SCmd} (idle : ((s.core k).stream m).run = none)
    (queue : ((s.core k).stream m).queue = c :: rest) (behind : ∃ y ∈ c.after, ∃ j < 16, y ∈ ((s.core k).stream j).ids) : execStreamElement k m s = .next s := by
  have stands : streamStep k m s = .next s := by
    unfold streamStep
    simp only [idle]
    exact takeCommand_behind queue behind
  rw [execStreamElement, stands, inTurn]
  exact ite_self _

end Sys2Proof.Machine

namespace Sys2Proof.Claims
open Sys2Proof Sys2Proof.Machine

/-- Settles O32: arming by the checks of `armPort`, the masks by `modStreams_stream`, the windows by `windowWalk_vbase`. -/
theorem streamInstructions : Obligations.StreamInstructions := by
  intro s d a b port e mask ind k ea bs i
  have arms : exec i s = armPort ind a port.val s := by
    cases ind <;> rfl
  rw [arms]
  refine ⟨armPort_misaligned, armPort_unowned, fun q aligned owned sound fed routed wellFormed based => ⟨_, armPort_arms aligned owned sound fed routed wellFormed based, ?armed⟩,
    fun x q free armed room => ?go, ?bar, fun m c rest idle queue behind => streamElement_behind idle queue behind, fun idle => ?answers, fun busy => ?waits,
    fun q owned => ⟨fun zero => ?winEmpty, fun x l u nonempty low walk => ?winSet, ?winAll, ?winOne⟩, fun none => ⟨?noSet, ?noAll, ?noOne⟩⟩
  case armed =>
    rw [retired_stream, State.stream_modStream, if_pos ⟨rfl, rfl⟩]
    exact ⟨rfl, rfl, retired_pc _⟩
  case go => exact strGo_queues free armed room
  case bar =>
    refine ⟨_, strBar_bars s mask, fun m => ?_, retired_modStreams_pc s k _ _, fun m small => ⟨fun inMask j small' inMask' y isOpen => ?_, fun outside => ?_⟩⟩
    · rw [strBar_stream]
      split <;> rfl
    · rw [strBar_stream, if_pos ((mem_maskBits mask small).2 inMask)]
      exact List.mem_append_right _ (List.mem_flatMap.2 ⟨j, (mem_maskBits mask small').2 inMask', isOpen⟩)
    · rw [strBar_stream, if_neg fun mem => by simp [(mem_maskBits mask small).1 mem] at outside]
  case answers =>
    refine ⟨_, _, strWait_answers (idle_mask.2 idle), fun m small => errorBits_getLsbD s k mask small, fun m small inMask => ?_⟩
    rw [modStreams_stream (maskBits_nodup _ _), if_pos ((mem_maskBits mask small).2 inMask)]
  case waits =>
    obtain ⟨m, small, inMask, works⟩ := busy
    refine ⟨_, strWait_waits fun idle => ?_, ?_⟩
    · exact Bool.false_ne_true (works.symm.trans (idle_mask.1 idle m small inMask))
    · rw [State.me_modMe]
      exact ⟨rfl, rfl, rfl⟩
  case winEmpty => exact winSet_empty owned zero
  case winSet =>
    refine ⟨_, { x with used := ((u.core s.actor.core).stream port.val).stamp }, (winSet_sets owned nonempty low walk).trans (by rw [w_natCast]), ?_, (windowWalk_vbase walk : x.vbase = _), rfl, rfl⟩
    rw [State.stream_modStream, if_pos ⟨rfl, rfl⟩]
    exact (Tab.find_set _ _ _ _).trans (if_pos rfl)
  case winAll =>
    refine ⟨_, winClr_owned owned true, ?_, retired_pc _⟩
    rw [retired_stream, State.stream_modStream, if_pos ⟨rfl, rfl⟩]
    rfl
  case winOne =>
    refine ⟨_, winClr_owned owned false, ?_, retired_pc _⟩
    rw [retired_stream, State.stream_modStream, if_pos ⟨rfl, rfl⟩]
    exact (Tab.find_drop _ _ _).trans (if_pos rfl)
  case noSet => exact winSet_unowned none
  case noAll => exact winClr_unowned true none
  case noOne => exact winClr_unowned false none

end Sys2Proof.Claims
end

section
/-! SUPPORT. A request that leaves its element with the ply of a staged configuration, and the settling of the statement on compression and occlusion counters (11 R263; 18 R345, R346). -/
namespace Sys2Proof.Machine
open Claims

/-! Core 0 has an OCCL of ply 1 at element 9 that may be performed, and a push of ply 0 at the same element that waits. No way leads to the push's queue, on die 1, so that once the addition is done the push is lost with a fault of the context of ply 0; the fault discards the context's staged configuration, which is ply 1, and with it the request (05 R121; 13 R303; 23 R405). -/

/-- The OCCL: 1 is added to slot 0 of die 0. -/
def stagedOccl : Req := { ply := 1, kind := .occl, opnd := 1, elem := 9 }

/-- The state in which the addition takes place. -/
def stagedState : State :=
  let s : State := { iod := { links := [(0, { down := true }), (1, { down := true }), (2, { down := true }), (3, { down := true })] } }
  let s := s.modFab 0 fun f => { f with reqs := [(9, [stagedOccl])], pushes := [{ elem := 9, queue := 4096 }] }
  let s := s.modCtx 0 0 fun c => { c with latch := some { ply := 1, commit := none } }
  s.modRegs 0 fun r => { r with owners := [(0, 0x1000)] }

theorem stagedOccl_waits : ((stagedState.core 0).fab.reqsOf 9)[0]? = some stagedOccl := by decide +kernel

theorem stagedOccl_may : reqMay stagedState 0 stagedOccl = true := by decide +kernel

theorem stagedOccl_owned : (stagedState.die 0).ownsOcc (stagedState.partOf 0) 0 = true := by decide +kernel

/-- Once the slot is added to, the element has no request. -/
theorem stagedOccl_leaves : ∃ t, exec (.occlSlotAdd 0 9 0) stagedState = .next t ∧ ((t.core 0).fab.reqsOf 9)[0]? = none := by
  have runs : (match execOcclSlotAdd 0 9 0 stagedState with
      | .next t => ((t.core 0).fab.reqsOf 9)[0]?.isNone
      | _ => false) = true := by decide +kernel
  show ∃ t, execOcclSlotAdd 0 9 0 stagedState = .next t ∧ _
  split at runs
  next t e => exact ⟨t, e, Option.isNone_iff_eq_none.1 runs⟩
  next => cases runs

end Sys2Proof.Machine

namespace Sys2Proof.Claims
open Sys2Proof Sys2Proof.Machine

/-- Refutes O51: where the landing of a push behind an OCCL faults, and the fault discards the staged ply that the OCCL is of, the request does not stand as done at its element. -/
theorem not_compressionAndOcclusionEvents : ¬ Obligations.CompressionAndOcclusionEvents := by
  unfold Obligations.CompressionAndOcclusionEvents
  intro h
  obtain ⟨-, -, occl, -⟩ := h stagedState 0 0 0 9 0 0
  obtain ⟨t, run, -, stands, -⟩ := occl stagedOccl stagedOccl_waits rfl stagedOccl_may stagedOccl_owned
  obtain ⟨u, run', gone⟩ := stagedOccl_leaves
  cases Host.Outcome.next.inj (run.symm.trans run')
  exact nomatch stands.symm.trans gone

end Sys2Proof.Claims
end

section
/-! SUPPORT. What a stream port does in its turn, the head request of an element, and the settling of the statement on them (11 R256, R257; 12 R267 to R281; 13 R303). -/
namespace Sys2Proof.Machine
open Claims

/-! Turns of a stream port. -/

theorem inTurn_first {s : State} {k n : Nat} (first : meterBehind s k n = false) (o : Out) : inTurn k n s o = o := by
  rw [inTurn, first, Bool.and_false]
  rfl

/-- A step that counts no token of the port's core need not be the port's turn. -/
theorem inTurn_silent {s t : State} {k : Nat} (n : Nat) (silent : (t.core k).regs.edgeCount = (s.core k).regs.edgeCount) : inTurn k n s (.next t) = .next t := by
  have none : injects s k (.next t) = false := decide_eq_false (not_not.2 silent)
  rw [inTurn, none, Bool.false_and]
  rfl

/-- A change of the ports of a core that keeps its control registers. -/
theorem regs_modStream (s : State) (k n : Nat) (f : SPort → SPort) (j : Nat) : ((s.modStream k n f).core j).regs = (s.core j).regs := by
  rw [State.modStream, State.core_modCore]
  split
  next same => subst same; rfl
  next => rfl

theorem regs_dropOlds (s : State) (k w j : Nat) : ((dropOlds s k w).core j).regs = (s.core j).regs := by
  rw [dropOlds, State.core_modCore]
  split
  next same => subst same; rfl
  next => rfl

theorem core_performStores (s : State) (p : Late → Bool) (k : Nat) : (performStores s p).core k = s.core k := by
  unfold performStores
  split <;> rfl

/-! Taking up a command. -/

theorem foldl_addCut_run (l : List CutRec) (id : Nat) (p : SPort) :
    (l.foldl (fun p x => addCut p { x with cmd := id }) p).run = p.run ∧ (l.foldl (fun p x => addCut p { x with cmd := id }) p).queue = p.queue :=
  foldl_keeps (f := fun p x => addCut p { x with cmd := id }) (p := fun q : SPort => q.run = p.run ∧ q.queue = p.queue) l (fun _ _ same => same) p ⟨rfl, rfl⟩

section
variable {s : State} {k n : Nat}

/-- The port n of core k once it has taken up command c. -/
def tookUp (c : SCmd) (rest : List SCmd) (p : SPort) : SPort :=
  p.due.reverse.foldl (fun p x => addCut p { x with cmd := c.id }) { p with queue := rest, run := some { cmd := c }, lines := [], due := [], reached := none, builds := Tab.drop p.builds 0 }

theorem streamElement_takes {c : SCmd} {rest : List SCmd} (idle : ((s.core k).stream n).run = none) (queue : ((s.core k).stream n).queue = c :: rest)
    (active : (s.ply k c.ply).st = .active) (runs : (s.ply k c.ply).frozen = false) (stays : (s.ply k c.ply).draining = false) (free : c.after = []) :
    exec (.streamElement k n) s = .next ((dropOlds (performStores s fun x => decide (x.core = k) && x.owed.contains c.id) k n).modStream k n (tookUp c rest)) := by
  have takes : streamStep k n s = .next ((dropOlds (performStores s fun x => decide (x.core = k) && x.owed.contains c.id) k n).modStream k n (tookUp c rest)) := by
    unfold streamStep takeCommand
    simp only [idle, queue, active, runs, stays, free, List.any_nil, ne_eq, not_true_eq_false, Bool.false_eq_true, false_and, or_self, if_false]
    rfl
  show inTurn k n s (streamStep k n s) = _
  rw [takes]
  refine inTurn_silent n ?_
  rw [regs_modStream, regs_dropOlds, core_performStores]

/-! Elements of a command that runs. -/

variable {r : SRun} (run : ((s.core k).stream n).run = some r) (sound : ((s.core k).stream n).faulted = false) (runs : (s.ply k r.cmd.ply).frozen = false)
  (first : meterBehind s k n = false) (going : r.eosDue = false) (more : r.last = false) (affine : r.cmd.desc.ind = false)
include run sound runs first going more affine

theorem streamElement_moves : exec (.streamElement k n) s = if r.cmd.desc.write then writeElem s k n r else readElem s k n r := by
  show inTurn k n s (streamStep k n s) = _
  rw [inTurn_first first]
  unfold streamStep
  simp only [run, sound, runs, going, more, affine, Bool.false_eq_true, false_and, or_self, if_false]

variable {off : Nat} (buffer : r.cmd.desc.space ≠ 0) (low : 0 ≤ r.cmd.desc.elem r.e) (high : r.cmd.desc.elem r.e < 2 ^ 60)
include buffer low high

theorem streamElement_reads {sp : Nat} {u : State} (read : r.cmd.desc.write = false)
    (span : bufSpan (s.core k) (streamSpaces false) (tagged r.cmd.desc.space (truncI (r.cmd.desc.elem r.e) 60)) r.cmd.desc.esz = (0, sp, off))
    (good : bufBad s k sp off r.cmd.desc.esz = false)
    (sent : streamSend s k n r.cmd.ply { data := streamData r.cmd.desc (bufRead s k sp off r.cmd.desc.esz), ply := r.cmd.ply } = some u) :
    exec (.streamElement k n) s = .next (u.modStream k n fun p => { p with run := some r.past }) := by
  rw [streamElement_moves run sound runs first going more affine, read]
  simp only [Bool.false_eq_true, if_false, readElem, buffer, streamSpan, low, high, and_self, if_true, span, sendElem, good, sent]
  rfl

theorem streamElement_writes {x : Token} {rest : List Token} (write : r.cmd.desc.write = true)
    (span : bufSpan (s.core k) (streamSpaces true) (tagged r.cmd.desc.space (truncI (r.cmd.desc.elem r.e) 60)) r.cmd.desc.esz = (0, r.cmd.desc.space, off))
    (given : ((s.core k).stream n).given r.cmd.ply = x :: rest) (data : x.e = false) :
    exec (.streamElement k n) s =
      .next (setRun (popStream (streamBuf s k n r.cmd.desc off (bytesLE x.data.toNat r.cmd.desc.esz)) k n r.cmd.ply) k n r.past) := by
  rw [streamElement_moves run sound runs first going more affine, write]
  simp only [if_true, writeElem, buffer, if_false, streamSpan, low, high, and_self, span, given, data, Bool.false_eq_true]
end

/-! Buffers after a write. -/

theorem CoreSt.buf_setBuf (c : CoreSt) (sp : Nat) (b : Tab Byte) : (c.setBuf sp b).buf sp = b := by
  match sp with
  | 0 | 1 | 2 | 3 | _ + 4 => rfl

/-- The bytes that a write leaves in a buffer. -/
def bufWritten (c : CoreSt) (sp off : Nat) (bs : List Byte) : Tab Byte :=
  (bufPieces off bs.length).foldl (fun t (o, m) => putBytes t (mapped c sp o) ((bs.drop (o - off)).take m)) (c.buf sp)

theorem bufPut_buf (s : State) (k sp off : Nat) (bs : List Byte) : ((bufPut s k sp off bs).core k).buf sp = bufWritten (s.core k) sp off bs := by
  rw [bufPut, State.core_modCore, if_pos rfl, CoreSt.buf_setBuf]
  rfl

/-- Old bytes that are kept change no buffer and no window. -/
theorem keepOlds_bufWritten (s : State) (k a b c d sp off : Nat) (bs : List Byte) : bufWritten ((keepOlds s k a b c d).core k) sp off bs = bufWritten (s.core k) sp off bs := by
  unfold keepOlds
  split
  · rfl
  · rw [State.core_modCore, if_pos rfl]
    rfl

theorem buf_modStream (s : State) (k n : Nat) (f : SPort → SPort) (sp : Nat) : ((s.modStream k n f).core k).buf sp = (s.core k).buf sp := by
  rw [State.modStream, State.core_modCore, if_pos rfl]
  rfl

theorem buf_modMx (s : State) (k : Nat) (f : Matrix → Matrix) (sp : Nat) : ((s.modMx k f).core k).buf sp = (s.core k).buf sp := by
  rw [State.modMx, State.core_modCore, if_pos rfl]
  rfl

theorem markFull_buf (s : State) (k off n sp : Nat) : ((markFull s k off n).core k).buf sp = (s.core k).buf sp :=
  foldl_keeps (p := fun t : State => (t.core k).buf sp = (s.core k).buf sp) _ (fun t _ same => (buf_modMx t k _ sp).trans same) s rfl

theorem streamBuf_buf (s : State) (k n : Nat) (d : SDesc) (off : Nat) (bs : List Byte) :
    ((streamBuf s k n d off bs).core k).buf d.space = ((bufPut s k d.space off bs).core k).buf d.space := by
  have put : ((bufPut (keepOlds s k d.space off bs.length n) k d.space off bs).core k).buf d.space = ((bufPut s k d.space off bs).core k).buf d.space := by
    rw [bufPut_buf, bufPut_buf, keepOlds_bufWritten]
  unfold streamBuf
  dsimp only
  split
  exacts [(markFull_buf _ _ _ _ _).trans put, put]

theorem markFull_mem (s : State) (k off n : Nat) : (markFull s k off n).mem = s.mem :=
  foldl_keeps (f := fun s i => s.modMx k fun m => { m with full := Tab.put false m.full ((off + i) / 256) true }) (p := fun t : State => t.mem = s.mem) _ (fun _ _ same => same) s rfl

theorem streamBuf_mem (s : State) (k n : Nat) (d : SDesc) (off : Nat) (bs : List Byte) : (streamBuf s k n d off bs).mem = s.mem := by
  have put : (bufPut (keepOlds s k d.space off bs.length n) k d.space off bs).mem = s.mem := by
    show (keepOlds s k d.space off bs.length n).mem = s.mem
    unfold keepOlds
    split <;> rfl
  unfold streamBuf
  dsimp only
  split
  exacts [(markFull_mem _ _ _ _).trans put, put]

/-- The write that a stream port makes of a token leaves its buffer as the write at once does, its command past the element, and memory alone. -/
theorem streamWritten_fields (s : State) (k n q off : Nat) (d : SDesc) (bs : List Byte) (r : SRun) :
    let t := setRun (popStream (streamBuf s k n d off bs) k n q) k n r
    ((t.core k).stream n).run = some r ∧ (t.core k).buf d.space = ((bufPut s k d.space off bs).core k).buf d.space ∧ t.mem = s.mem :=
  ⟨by rw [setRun, State.stream_modStream, if_pos ⟨rfl, rfl⟩],
    (buf_modStream _ _ _ _ _).trans ((buf_modStream _ _ _ _ _).trans (streamBuf_buf s k n d off bs)),
    streamBuf_mem s k n d off bs⟩

/-! Lines of a stream port. -/

/-- The line that a port fills for its command r with the bytes it read at l. -/
def filledLine (r : SRun) (l : Loc) (bs : List Byte) (s : State) : WLine :=
  { lineOf (vaOf (r.cmd.desc.elem r.e)) l with
    bytes := putBytes [] 0 bs
    bad := (List.range 128).filter fun i => match l.line with
      | .plain pa => physBad s (pa + i) 1
      | .comp d o => cmpBad s.mem d (o + i)
    upto := r.cmd.desc.afterLine (r.cmd.desc.elem r.e / 128) (r.cmd.desc.n1 * r.cmd.desc.n2 + 1) r.e }

theorem windowFill_first {s u u' : State} {k n : Nat} {r : SRun} {l : Loc} {bs : List Byte} (run : ((s.core k).stream n).run = some r) (sound : ((s.core k).stream n).faulted = false)
    (runs : (s.ply k r.cmd.ply).frozen = false) (more : r.last = false) (affine : r.cmd.desc.ind = false) (read : r.cmd.desc.write = false) (memory : r.cmd.desc.space = 0)
    (left : r.e < r.cmd.desc.n0 * r.cmd.desc.n1 * r.cmd.desc.n2) (empty : ((s.core k).stream n).lines = [])
    (reach : streamReach s k n (vaOf (r.cmd.desc.elem r.e)) (vaOf r.cmd.desc.span.2) false = .ok l u) (fetch : locFetch u k (vaOf (r.cmd.desc.elem r.e)) l.line 128 false = .ok bs u') :
    exec (.windowFill k n) s = .next (u'.modStream k n fun p => { p with lines := [filledLine r l bs u'] }) := by
  have none_there : ∀ va, ((s.core k).stream n).lineAt va = [] := fun va => by rw [SPort.lineAt, empty, List.dropWhile_nil]
  show execWindowFill k n s = .next _
  unfold execWindowFill
  simp only [run, sound, runs, more, affine, read, memory, none_there, ite_self, List.getLast?_nil, Option.map_none, Option.getD_none, Nat.not_le.2 left, List.length_nil,
    windowLines, Bool.false_eq_true, ne_eq, not_true_eq_false, or_self, Nat.reduceLeDiff, if_false, reach, fetch, Mr.andThen, List.nil_append]
  rfl

theorem streamLineWriteback_written {s u : State} {k n : Nat} {r : SRun} {l : WLine} {rest : List WLine} (run : ((s.core k).stream n).run = some r)
    (lines : ((s.core k).stream n).lines = l :: rest) (free : l.stuck = false) (write : r.cmd.desc.write = true) (stored : writeRuns k l.va l.loc (byteRuns l.bytes) s = .ok () u) :
    exec (.streamLineWriteback k n) s = .next (u.modStream k n fun p => { p with lines := rest }) := by
  show execStreamLineWriteback k n s = _
  unfold execStreamLineWriteback
  simp only [run, lines, write, free, Bool.not_true, Bool.false_eq_true, or_self, if_false, stored]

theorem streamCommandComplete_done {s : State} {k n : Nat} {r : SRun} (run : ((s.core k).stream n).run = some r) (last : r.last = true) (sent : r.eosDue = false)
    (sound : ((s.core k).stream n).faulted = false) (write : r.cmd.desc.write = true → ((s.core k).stream n).lines = [] ∧ r.cmd.desc.ctok = false) :
    exec (.streamCommandComplete k n) s = .next ((dropOlds s k n).modStream k n fun p => { p with run := none, lines := [], past := some (r.cmd.id, r.sent) }) := by
  have ends : streamEnd k n s = .next ((dropOlds s k n).modStream k n fun p => { p with run := none, lines := [], past := some (r.cmd.id, r.sent) }) := by
    have gone : ¬(r.cmd.desc.write = true ∧ (!((s.core k).stream n).lines.isEmpty) = true) := fun ⟨w, l⟩ => by simp [(write w).1] at l
    have silent : ¬(r.cmd.desc.write = true ∧ r.cmd.desc.ctok = true) := fun ⟨w, c⟩ => by simp [(write w).2] at c
    unfold streamEnd
    simp only [run, last, sent, sound, gone, silent, Bool.not_true, Bool.false_eq_true, or_self, if_false]
  show inTurn k n s (streamEnd k n s) = _
  rw [ends]
  refine inTurn_silent n ?_
  rw [regs_modStream, regs_dropOlds]

/-! The head request of an element. -/

section
variable {s : State} {k e : Nat} {y : Req} {ys : List Req}

theorem serveAllParked_held (held : ∀ z ∈ (s.core k).fab.park, z.elem = e → z.st = .held) : serveAllParked s k e = s := by
  have none : ((s.core k).fab.park.filter fun y => decide (y.elem = e) && decide (y.st ≠ .held)) = [] :=
    List.filter_eq_nil_iff.2 fun z there => by
      simp only [Bool.and_eq_true, decide_eq_true_eq, not_and, not_not]
      exact held z there
  rw [serveAllParked, none]
  rfl

theorem mayReqs_head (reqs : (s.core k).fab.reqsOf e = y :: ys) (may : reqMay s k y = true) (kind : y.kind ≠ .occl) : ∃ l, mayReqs s k e = (y, 0) :: l := by
  rw [mayReqs, reqs, List.zipIdx_cons, List.filter_cons_of_pos (by simp [may, kind])]
  exact ⟨_, rfl⟩

theorem performFirst_done {u : State} {v : Word} {i : Nat} {l : List (Req × Nat)} (done : performReq s k y = .done v u) :
    performFirst k e ((y, i) :: l) s = putReq k e i (some { y with st := .done v }) u := by
  simp only [performFirst, done, performOne]

theorem reqsOf_putReq_head {u : State} (z : Req) (reqs : (u.core k).fab.reqsOf e = y :: ys) : ((putReq k e 0 (some z) u).core k).fab.reqsOf e = z :: ys := by
  rw [putReq, State.reqsOf_modReqs, reqs]
  rfl

theorem requestResponse_done {u w : State} {v : Word} (held : ∀ z ∈ (s.core k).fab.park, z.elem = e → z.st = .held) (reqs : (s.core k).fab.reqsOf e = y :: ys)
    (may : reqMay s k y = true) (kind : y.kind ≠ .occl) (done : performReq s k y = .done v u) (stays : (u.core k).fab.reqsOf e = y :: ys)
    (emitted : respond (putReq k e 0 (some { y with st := .done v }) u) k { y with st := .done v } = some w) :
    exec (.requestResponse k e) s = .next (flushPushes (w.modReqs k e fun _ => ys) k e) := by
  obtain ⟨l, head⟩ := mayReqs_head reqs may kind
  have answered : respondHead (putReq k e 0 (some { y with st := .done v }) u) k e = w.modReqs k e fun _ => ys := by
    rw [respondHead, reqsOf_putReq_head _ stays]
    dsimp only
    rw [emitted]
  show execRequestResponse k e s = _
  unfold execRequestResponse
  dsimp only
  rw [serveAllParked_held held, head, performFirst_done done, answered]
end

end Sys2Proof.Machine

namespace Sys2Proof.Claims
open Sys2Proof Sys2Proof.Machine

/-- Settles O57: no step asks for more than its clause gives it, and what it sends, keeps or drops on the way touches neither the command that runs nor memory. -/
theorem streamAndRequestEvents : Obligations.StreamAndRequestEvents := by
  intro s k n e p
  refine ⟨?takes, ?elements, ?writeback, ?complete, ?response⟩
  case takes =>
    intro c rest idle queue active runs stays free
    refine ⟨_, streamElement_takes idle queue active runs stays free, ?_, ?_, rfl⟩
    · rw [State.stream_modStream, if_pos ⟨rfl, rfl⟩]
      exact (foldl_addCut_run _ _ _).1
    · rw [State.stream_modStream, if_pos ⟨rfl, rfl⟩]
      exact (foldl_addCut_run _ _ _).2
  case elements =>
    intro r run sound runs first going more d a
    refine ⟨?reads, ?writes, ?fills⟩
    case reads =>
      intro sp off u affine read buffer low high span good sent
      exact streamElement_reads run sound runs first going more affine buffer low high read span good sent
    case writes =>
      intro off x rest affine write buffer low high span given data
      exact ⟨_, streamElement_writes run sound runs first going more affine buffer low high write span given data, streamWritten_fields s k n _ off d _ _⟩
    case fills =>
      intro l u bs u' va affine read memory left empty reach fetch
      exact ⟨_, filledLine r l bs u', windowFill_first run sound runs more affine read memory left empty reach fetch, by rw [State.stream_modStream, if_pos ⟨rfl, rfl⟩], rfl, rfl⟩
  case writeback => exact fun r l rest u run lines free write stored => streamLineWriteback_written run lines free write stored
  case complete => exact fun r run last sent sound write => streamCommandComplete_done run last sent sound write
  case response => exact fun y ys v u w held reqs may kind done stays emitted => requestResponse_done held reqs may kind done stays emitted

end Sys2Proof.Claims
end

section
/-! SUPPORT. A publish that sends a parked request of the tile unit back, which faults, and the settling of the statement on the engines (12 R286, R288; 17 R334; 21 R374, R375). -/
namespace Sys2Proof.Machine
open Claims

/-! The window 0 of core 0 lies over headers of the tile store, and its engine 0 has begun a publish of it. The header of slot 0 now has NEXT behind the sequence number of a request that is parked there, so that the request arrives anew too late: it faults with TILE_SEQ, and the fault ring of the partition has room for the record, which goes to memory. -/

/-- The publish of window 0. -/
def headerPublish : PubOpts := { w := 0, sc := default, ev := false, ct := false, tag := 0 }

/-- The parked request: slot 0, SEQ one less than the NEXT of the new header, modulo 2^32. -/
def lateTileReq : TileReq := { done := true, a := 0xFFFFFFFF00000000, b := 0, mode := .rep, elem := 0, ply := 0, rule := 0, word := 0 }

/-- The state in which the publish inverts FLIP. -/
def publishState : State :=
  let s : State := State.modPart {} 0 fun p => { p with fltring := { ring := 0x10000018 } }
  let s := s.modTile 0 fun t => { t with park := [lateTileReq] }
  let s := s.modCore 0 fun c => { c with shadows := [(0, { valid := true, space := 4, base := 0x38000, alt := 0, len := 256 })] }
  s.modEngine 0 0 fun e => { e with cur := some { kind := .pub headerPublish } }

theorem publishState_cur : ((publishState.core 0).engine 0).cur = some { kind := .pub headerPublish } := by decide +kernel

/-- The record of the fault that the publish leads to is in memory. -/
theorem publishState_writes : ∃ t, exec (.pubFlip 0 0) publishState = .next t ∧ t.mem.bytes.isEmpty = false := by
  have runs : (match execPubFlip 0 0 publishState with
      | .next t => !t.mem.bytes.isEmpty
      | _ => false) = true := by decide +kernel
  show ∃ t, execPubFlip 0 0 publishState = .next t ∧ _
  split at runs
  next t e => exact ⟨t, e, by simpa using runs⟩
  next => cases runs

end Sys2Proof.Machine

namespace Sys2Proof.Claims
open Sys2Proof Sys2Proof.Machine

/-- Refutes O58: a publish over the headers of the tile store lets parked requests arrive anew, and the record of one that then faults is written to memory. -/
theorem not_engineEvents : ¬ Obligations.EngineEvents := by
  unfold Obligations.EngineEvents
  intro h
  obtain ⟨-, -, -, flips, -⟩ := h publishState 0 0
  obtain ⟨t, run, -, -, same⟩ := flips _ headerPublish publishState_cur rfl rfl
  obtain ⟨u, run', written⟩ := publishState_writes
  cases Host.Outcome.next.inj (run.symm.trans run')
  rw [same] at written
  exact nomatch written

end Sys2Proof.Claims
end

section
/-! SUPPORT. What popping its inputs leaves of a firing, what a fault's record, event and rewriting leave, groups that are contained, a region that leaves its core, and the settling of the statement on fault decisions (21 R374 to R390). -/
namespace Sys2Proof.Machine
open Claims

/-! The record of a fault of a firing. -/

/-- Only the fabrics of cores differ, and of their plies neither the contexts nor the snapshots. -/
structure FabricOnly (s t : State) : Prop where
  parts : t.parts = s.parts
  dies : t.dies = s.dies
  iod : t.iod = s.iod
  mem : t.mem = s.mem
  core : ∀ k, t.core k = { s.core k with fab := (t.core k).fab }
  ply : ∀ k q, (t.ply k q).ctx = (s.ply k q).ctx ∧ (t.ply k q).snaps = (s.ply k q).snaps

theorem FabricOnly.refl (s : State) : FabricOnly s s := ⟨rfl, rfl, rfl, rfl, fun _ => rfl, fun _ _ => ⟨rfl, rfl⟩⟩

theorem FabricOnly.trans {s t u : State} (h : FabricOnly s t) (g : FabricOnly t u) : FabricOnly s u where
  parts := g.parts.trans h.parts
  dies := g.dies.trans h.dies
  iod := g.iod.trans h.iod
  mem := g.mem.trans h.mem
  core k := by rw [g.core k, h.core k]
  ply k q := ⟨(g.ply k q).1.trans (h.ply k q).1, (g.ply k q).2.trans (h.ply k q).2⟩

theorem modFab_fabricOnly {f : Fabric → Fabric} (keeps : ∀ b q, ((f b).ply q).ctx = (b.ply q).ctx ∧ ((f b).ply q).snaps = (b.ply q).snaps) (s : State) (k : Nat) :
    FabricOnly s (s.modFab k f) where
  parts := rfl
  dies := rfl
  iod := rfl
  mem := rfl
  core j := by
    rw [State.modFab, State.core_modCore]
    split
    next same => subst same; exact rfl
    next => exact rfl
  ply j q := by
    rw [State.ply, State.fab_modFab]
    split
    next same => subst same; exact keeps _ q
    next => exact ⟨rfl, rfl⟩

theorem modChan_fabricOnly (s : State) (k c : Nat) (f : Chan → Chan) : FabricOnly s (s.modChan k c f) :=
  modFab_fabricOnly (f := fun b => b.modChan c f) (fun _ _ => ⟨rfl, rfl⟩) s k

theorem modElem_fabricOnly (s : State) (k q e : Nat) (f : EPly → EPly) : FabricOnly s (s.modElem k q e f) := by
  refine modFab_fabricOnly (fun b p => ?_) s k
  rw [Fabric.ply_modPly]
  split
  next same => subst same; exact ⟨rfl, rfl⟩
  next => exact ⟨rfl, rfl⟩

theorem popHead_fabricOnly (s : State) (k q e ch : Nat) : FabricOnly s (popHead s k q e ch) := by
  have popped : ∀ f g, FabricOnly s ((s.modChan k (chanKey e ch) f).modElem k q e g) := fun f g => (modChan_fabricOnly s _ _ f).trans (modElem_fabricOnly _ _ _ _ g)
  unfold popHead
  split
  · exact .refl s
  · unfold grantSlot
    split
    exacts [(popped _ _).trans (modChan_fabricOnly _ _ _ _), popped _ _]

theorem popMask_fabricOnly (s : State) (k q e mask : Nat) : FabricOnly s (popMask s k q e mask) :=
  foldl_keeps _ (fun t j h => h.trans (popHead_fabricOnly t k q e j)) s (.refl s)

/-- Whether a write crosses the links is for the I/O die to say. -/
theorem reaching_of_iod {s t : State} (same : t.iod = s.iod) (d pa : Nat) : reaching t d pa = reaching s d pa := by
  have flows : linkFlows t = linkFlows s := funext fun n => by rw [linkFlows, linkFlows, same]
  have up : linkUp t = linkUp s := funext fun n => by rw [linkUp, linkUp, same]
  have path : ∀ a b, pathTaken t a b = pathTaken s a b := fun a b => by rw [pathTaken, pathTaken, up]
  rw [reaching, reaching, crossing, crossing, path, flows, same]

/-- The record of a fault of an element that has neither a slice nor a cut. -/
def elementInfo (s : State) (r : Raise) (e : Nat) : FltInfo :=
  { part := s.partOf r.core, src := 1, ctx := r.ctx, ply := r.ply % 4, nflt := ((s.ctx r.core r.ctx).region.map (·.nflt)).getD 0, unit := r.unit, cls := 2, cause := r.cause
    tval := r.tval % 2 ^ 64, place := coordOf r.core e, rcb := ((s.ctx r.core r.ctx).region.map (·.rcb.toNat)).getD 0, detail := r.detail, dlc := (s.die (dieOf r.core)).dlc }

/-- What a fault changes once its record and its event stand is neither memory, nor an event queue, nor a fault ring. -/
def raisedAfter (v t : State) : Prop := t.mem = v.mem ∧ (∀ k, (t.core k).evq = (v.core k).evq) ∧ ∀ p, (t.part p).fltring = (v.part p).fltring

theorem raisedAfter_listed (v : State) (k q e p : Nat) (f : EPly → EPly) (g : Part → List FaultRef) :
    raisedAfter v ((v.modElem k q e f).modPart p fun x => { x with faults := g x }) := by
  obtain ⟨parts, -, -, -, core, -⟩ := modElem_fabricOnly v k q e f
  refine ⟨rfl, fun j => ?_, fun j => ?_⟩
  · show ((v.modElem k q e f).core j).evq = _
    rw [core j]
  · rw [State.part_modPart, State.part, parts]
    split
    next same => subst same; rfl
    next => rfl

theorem raiseFault_element {s : State} {r : Raise} {e : Nat} (staged : (s.ctx r.core r.ctx).latch = none) (free : sliceOn s r.core r.ctx = none)
    (uncut : (s.ply r.core r.ply).snaps = []) (cls : r.cls = 2) (src : r.src = 1) (elem : r.elem = some e) (here : r.parked = false ∧ r.queue = none ∧ r.rcb = none) :
    raisedAfter (faultEvent (faultRecord s (elementInfo s r e)).1 r.core r.ctx r.ply r.cause (faultRecord s (elementInfo s r e)).2.1 (elementInfo s r e).rcb) (raiseFault s r) := by
  obtain ⟨parked, queue, rcb⟩ := here
  unfold raiseFault
  rw [discardStaged_none staged]
  extract_lets u c rg sl q rc i
  have cut : (c.fab.ply r.ply).snaps.isEmpty = true := List.isEmpty_iff.2 uncut
  have noSlice : sl = none := free
  have noQueue : q = none := by
    show (match r.queue with | some x => some x | none => sl.map fun x => x.2.queue) = none
    rw [queue, noSlice]
    rfl
  have sameRcb : rc = (elementInfo s r e).rcb := by
    show r.rcb.getD _ = _
    rw [rcb]
    rfl
  have info : i = elementInfo s r e := by
    simp only [i, cls, src, elem, parked, cut, noQueue, sameRcb, if_true]
    rfl
  clear_value i rc q
  subst info sameRcb noQueue
  simp only [cls, src, and_self, if_true, Nat.reduceEqDiff, false_and, if_false]
  exact raisedAfter_listed _ _ _ _ _ _ _

theorem Memory.length_get (m : Memory) (pa n : Nat) : (m.get pa n).length = n := by simp [Memory.get_eq_map]

theorem Memory.get_append (m : Memory) (pa a b : Nat) : m.get pa (a + b) = m.get pa a ++ m.get (pa + a) b := by
  simp [Memory.get_eq_map, List.range_add, Nat.add_assoc]

/-- Doublewords that stand in memory one after the other, each by its address. -/
theorem val_dword {m : Memory} (ds : List Nat) : ∀ {x : Nat}, m.get x (8 * ds.length) = ds.flatMap (bytesLE · 8) → ∀ {i : Nat} (h : i < ds.length), m.val (x + 8 * i) 8 = ds[i] % 2 ^ 64 := by
  induction ds with
  | nil => exact fun _ _ h => absurd h (Nat.not_lt_zero _)
  | cons v ds ih =>
    intro x stands i h
    rw [List.length_cons, Nat.mul_add, Nat.add_comm, Nat.mul_one, Memory.get_append, List.flatMap_cons] at stands
    obtain ⟨first, rest⟩ := List.append_inj stands (by rw [Memory.length_get, bytesLE_length])
    match i with
    | 0 => exact (congrArg ofBytesLE first).trans (ofBytesLE_bytesLE 8 v)
    | i + 1 =>
      rw [Nat.mul_add, Nat.add_comm (8 * i), ← Nat.add_assoc]
      exact ih rest (Nat.lt_of_succ_lt_succ h)

/-- The doublewords of a record of an element (21 R374). -/
def elementDwords (i : FltInfo) (seq : Nat) : List Nat := [fltWord0 i seq 0, i.tval, i.place, i.rcb, i.detail, i.dlc, 0, 0]

theorem fltBytes_element (s : State) (r : Raise) (e seq : Nat) : fltBytes (elementInfo s r e) seq = (elementDwords (elementInfo s r e) seq).flatMap (bytesLE · 8) := by
  simp only [fltBytes, elementDwords, List.flatMap_cons, List.flatMap_nil, List.append_assoc, List.append_nil]
  rfl

theorem faultRecord_written {s : State} {i : FltInfo} {r : Ring} (ring : (s.part i.part).fltring = r) (room : r.room = true) (way : reaching s 4 (r.base + 64 * (r.head % r.size)) = .clear)
    (plain : rangeReserved (r.base + 64 * (r.head % r.size)) 64 = false) :
    (faultRecord s i).2.1 = r.head ∧ ((faultRecord s i).1.part i.part).fltring = r.advance ∧ (faultRecord s i).1.cores = s.cores ∧
      (faultRecord s i).1.mem.get (r.base + 64 * (r.head % r.size)) 64 = fltBytes i r.head := by
  have size : (fltBytes i r.head).length = 64 := by simp only [fltBytes, List.length_append, bytesLE_length]
  have put : ringPut s r (fltBytes i r.head) = (iodWrite s (r.base + 64 * (r.head % r.size)) (fltBytes i r.head), r.advance, true) := by
    rw [ringPut, size, if_pos ⟨room, by rw [way]; exact nofun⟩]
  have open_ : (iodWrite s (r.base + 64 * (r.head % r.size)) (fltBytes i r.head)).cores = s.cores := (iodWrite_frame (by rw [way]; exact nofun)).1
  have stands := iodWrite_get (bs := fltBytes i r.head) way (by rw [size]; exact plain)
  unfold faultRecord
  rw [ring]
  dsimp only
  rw [put]
  refine ⟨rfl, ?_, open_, ?_⟩
  · rw [State.part_modPart, if_pos rfl]
  · rw [size] at stands
    exact stands

theorem postEvent_posted {v : State} {k : Nat} (room : (v.core k).evq.length < 256) (kept : (v.core k).lost = false) (lo hi : Nat) :
    ((postEvent v k lo hi).core k).evq = (v.core k).evq ++ [BitVec.ofNat 128 (hi * 2 ^ 64 + lo % 2 ^ 64)] := by
  have shown : lo + (if (v.core k).lost then 256 else 0) = lo := by rw [kept]; rfl
  rw [postEvent, State.core_modCore, if_pos rfl, if_neg (Nat.not_le.2 room)]
  dsimp only
  rw [shown]

theorem faultEvent_posted {v : State} {k : Nat} (room : (v.core k).evq.length < 256) (kept : (v.core k).lost = false) (n q cause seq rcb : Nat) :
    ((faultEvent v k n q cause seq rcb).core k).evq =
      (v.core k).evq ++ [BitVec.ofNat 128 (rcb * 2 ^ 64 + (0x11 + n * 2 ^ 9 + q % 4 * 2 ^ 11 + cause * 2 ^ 13 + seq * 2 ^ 20) % 2 ^ 64)] :=
  postEvent_posted room kept _ rcb

/-- The raise of a fault of a firing. -/
def firingRaise (s : State) (c : Cause) (tval : Nat) : Raise :=
  { core := s.actor.core, ply := s.actor.ply, ctx := (s.ply s.actor.core s.actor.ply).ctx, src := 1, unit := s.actor.rule, node := s.actor.elem, elem := some s.actor.elem, cause := c.code
    cls := Cause.cls c, tval := tval, detail := s.actionWord.toNat }

theorem elementInfo_fabricOnly {s t : State} (same : FabricOnly s t) (r : Raise) (e : Nat) : elementInfo t r e = elementInfo s r e := by
  obtain ⟨-, dies, iod, -, core, -⟩ := same
  have region : (t.ctx r.core r.ctx).region = (s.ctx r.core r.ctx).region := by rw [State.ctx, core r.core]; rfl
  have part : t.partOf r.core = s.partOf r.core := by rw [State.partOf, State.partOf, dsPart, dsPart, iod, core r.core]
  rw [elementInfo, elementInfo, region, part, State.die, dies]
  rfl

section
variable {s : State} {c : Cause} {r : Ring} (cls : Cause.cls c = 2) (staged : (s.ctx s.actor.core (s.ply s.actor.core s.actor.ply).ctx).latch = none)
  (free : sliceOn s s.actor.core (s.ply s.actor.core s.actor.ply).ctx = none) (uncut : (s.ply s.actor.core s.actor.ply).snaps = [])
  (ring : (s.part (s.partOf s.actor.core)).fltring = r) (room : r.room = true) (way : reaching s 4 (r.base + 64 * (r.head % r.size)) = .clear)
  (plain : rangeReserved (r.base + 64 * (r.head % r.size)) 64 = false)
include cls staged free uncut ring room way plain

theorem fireFault_recorded (tval : Nat) (i : FltInfo) (info : i = elementInfo s (firingRaise s c tval) s.actor.elem) :
    ∃ t, fireFault s c tval = .next t ∧ (t.part (s.partOf s.actor.core)).fltring = r.advance ∧
      t.mem.get (r.base + 64 * (r.head % r.size)) 64 = (elementDwords i r.head).flatMap (bytesLE · 8) ∧
      ((s.core s.actor.core).evq.length < 256 → (s.core s.actor.core).lost = false → (t.core s.actor.core).evq = (s.core s.actor.core).evq ++
        [BitVec.ofNat 128 (i.rcb * 2 ^ 64 + (0x11 + i.ctx * 2 ^ 9 + s.actor.ply % 4 * 2 ^ 11 + c.code * 2 ^ 13 + r.head * 2 ^ 20) % 2 ^ 64)]) := by
  have popped := popMask_fabricOnly s s.actor.core s.actor.ply s.actor.elem (trigPop s.trig)
  generalize u_eq : popMask s s.actor.core s.actor.ply s.actor.elem (trigPop s.trig) = u at popped
  have same := elementInfo_fabricOnly popped (firingRaise s c tval) s.actor.elem
  obtain ⟨parts, dies, iod, -, core, ply⟩ := popped
  obtain ⟨ctx, snaps⟩ := ply s.actor.core s.actor.ply
  have raised := raiseFault_element (s := u) (r := firingRaise s c tval) (e := s.actor.elem) (by rw [State.ctx, core]; exact staged)
    (by rw [sliceOn, State.die, dies]; exact free) (snaps.trans uncut) cls rfl rfl ⟨rfl, rfl, rfl⟩
  rw [same, ← info] at raised
  obtain ⟨seq, advanced, cores, stands⟩ := faultRecord_written (s := u) (i := i) (r := r) (by rw [State.part, parts, info]; exact ring) room
    ((reaching_of_iod iod 4 _).trans way) plain
  obtain ⟨mem, evq, fltring⟩ := raised
  refine ⟨raiseFault u (firingRaise s c tval), ?_, ?_, ?_, fun room kept => ?_⟩
  · rw [fireFault, u_eq, fabricFault, ctx]
    rfl
  · rw [fltring, ← advanced, info]
    rfl
  · rw [mem]
    exact stands.trans (by rw [info, fltBytes_element])
  · have there : (faultRecord u i).1.core s.actor.core = u.core s.actor.core := by rw [State.core, cores]; rfl
    have evqs : (u.core s.actor.core).evq = (s.core s.actor.core).evq := by rw [core]
    have losts : (u.core s.actor.core).lost = (s.core s.actor.core).lost := by rw [core]
    have posted := faultEvent_posted (v := (faultRecord u i).1) (k := s.actor.core) (by rw [there, evqs]; exact room) (by rw [there, losts]; exact kept) (firingRaise s c tval).ctx
      (firingRaise s c tval).ply (firingRaise s c tval).cause (faultRecord u i).2.1 i.rcb
    have ctxs : i.ctx = (firingRaise s c tval).ctx := by rw [info]; rfl
    rw [there, evqs, seq] at posted
    rw [ctxs, evq, seq]
    exact posted
end

theorem fltWord0_plain {i : FltInfo} (parked : i.parked = false) (held : i.held = false) (src : i.src = 1) (cls : i.cls = 2) (seq : Nat) : fltWord0 i seq 0 =
    seq * 2 ^ 48 + i.part * 2 ^ 36 + 2 ^ 26 + i.ctx * 2 ^ 24 + i.ply * 2 ^ 22 + min 31 i.nflt * 2 ^ 17 + i.unit * 2 ^ 13 + 2 * 2 ^ 10 + i.cause := by
  have clear : b2n false = 0 := rfl
  rw [fltWord0, parked, held, src, cls, clear]
  omega

/-- The doublewords of a record of an element, as they stand in memory. -/
theorem elementDwords_stand {m : Memory} {i : FltInfo} {seq x : Nat} (stands : m.get x 64 = (elementDwords i seq).flatMap (bytesLE · 8)) :
    m.val x 8 = fltWord0 i seq 0 % 2 ^ 64 ∧ m.val (x + 8) 8 = i.tval % 2 ^ 64 ∧ m.val (x + 16) 8 = i.place % 2 ^ 64 ∧ m.val (x + 24) 8 = i.rcb % 2 ^ 64 ∧
      m.val (x + 32) 8 = i.detail % 2 ^ 64 ∧ m.val (x + 40) 8 = i.dlc % 2 ^ 64 ∧ m.val (x + 48) 8 = 0 ∧ m.val (x + 56) 8 = 0 := by
  have dword := fun n (h : n < 8) => val_dword (elementDwords i seq) stands (i := n) h
  exact ⟨dword 0 (by decide), dword 1 (by decide), dword 2 (by decide), dword 3 (by decide), dword 4 (by decide), dword 5 (by decide), dword 6 (by decide), dword 7 (by decide)⟩

/-- An RCB address is a word. -/
theorem rcb_lt (g : Option Region) : (g.map (·.rcb.toNat)).getD 0 < 2 ^ 64 :=
  match g with
  | none => Nat.two_pow_pos 64
  | some g => g.rcb.isLt

theorem tsLd_ragged {s : State} {d : EDst} {a : ESrc} {o : BitVec 18} (ragged : ((s.src a).toNat % 2 ^ 18 + o.toNat) % 8 ≠ 0) (data : s.endFiring = false) :
    exec (.tsLd d a o) s = fireFault s .misaligned (tagged 4 ((s.src a).toNat % 2 ^ 18 + o.toNat)) := by
  show execTsLd d a o s = _
  rw [execTsLd, tsAddr_eq]
  exact atTs_misaligned data _ ragged

/-! The start of a fault decision, and the host's answer. -/

/-- The decision of a fault that starts (21 R378, R381). -/
def faultStart (s : State) (k : Nat) (f : FaultRef) : Decision :=
  { kind := .fault, part := f.part, start := (s.die (dieOf k)).dlc, subj := faultSubject s f, subjQ := (faultSlice s f).elim 0 fun y => y.2.2.queue
    env := envOf s (dieOf k) (clusterOf k) f.part 2 0, builtin := builtinFault s { f with started := true }, fault := some { f with started := true } }

theorem runHere_fields (s : State) (d : Nat) (x : Decision) : (runHere s d x).kind = x.kind ∧ (runHere s d x).fault = x.fault ∧ (runHere s d x).builtin = x.builtin := by
  unfold runHere
  split <;> exact ⟨rfl, rfl, rfl⟩

theorem disp_pushDecision (s : State) (d c : Nat) (x : Decision) : ((pushDecision s d c x).disp d c).decs = (s.disp d c).decs ++ [x] := by
  rw [State.disp, pushDecision, State.die_modDie, if_pos rfl, Tab.look_mod, if_pos rfl]
  rfl

theorem faultDecisionStart_pushes {s : State} {k n : Nat} {f : FaultRef} (next : (faultsOf s k n).find? (fun f => !f.started) = some f) (held : stillHeld s f = true)
    (slice : (faultSlice s f).isSome = true) (first : (faultsOf s k n).any FaultRef.pending = false) (room : (s.disp (dieOf k) (clusterOf k)).decs.length < 4)
    (alone : (s.part f.part).dutyctl.getLsbD 3 = false) :
    let u := setFault s f (some { f with started := true })
    exec (.faultDecisionStart k n) s = .next (pushDecision u (dieOf k) (clusterOf k) (runHere u (dieOf k) (faultStart u k f))) := by
  have served : (faultSlice s f).isNone = false := by rw [← Option.not_isSome, slice]; rfl
  have own : bit ((setFault s f (some { f with started := true })).part f.part).dutyctl 3 = false := by
    rw [setFault, State.part_modPart, if_pos rfl]
    exact alone
  show execFaultDecisionStart k n s = _
  unfold execFaultDecisionStart
  simp only [next, held, served, first, own, Nat.not_le.2 room, Bool.not_true, Bool.false_eq_true, false_and, or_self, if_false]
  rfl

theorem fltreply_kills {s : State} {p : Nat} {v : Word} {f : FaultRef} (reaches : hostReaches s)
    (asked : (s.part p).faults.find? (fun f => f.awaiting && decide (f.seq = v.toNat / 2 ^ 48)) = some f) (here : f.saved = false) (kill : v.toNat % 8 = 5) :
    exec (.fltreply p v) s = .next (actFault s f 5 (v.toNat / 2 ^ 4 % 4)) := by
  obtain ⟨booted, linked⟩ := reaches
  have ready : hostReady s = true := by simp [hostReady, booted, linked]
  have seq : bits v 48 16 = v.toNat / 2 ^ 48 := by
    rw [bits_eq_div]
    exact Nat.mod_eq_of_lt (by have := v.isLt; omega)
  have code : bits v 0 3 = 5 := by rw [bits_eq_div]; omega
  show execFltreply p v s = _
  unfold execFltreply
  simp only [ready, seq, code, asked, here, bits_eq_div, faultUsable]
  rfl

/-! Containment. -/

/-- Memory stays, and no element that is stopped goes on. -/
def keepsStopped (s t : State) : Prop := t.mem = s.mem ∧ ∀ k q e, ((s.ply k q).elem e).stopped = true → ((t.ply k q).elem e).stopped = true

theorem keepsStopped_refl (s : State) : keepsStopped s s := ⟨rfl, fun _ _ _ stopped => stopped⟩

theorem keepsStopped_trans {s t u : State} (h : keepsStopped s t) (g : keepsStopped t u) : keepsStopped s u :=
  ⟨g.1.trans h.1, fun k q e stopped => g.2 k q e (h.2 k q e stopped)⟩

theorem keepsStopped_foldl {α : Type} {f : State → α → State} (each : ∀ t a, keepsStopped t (f t a)) (l : List α) (s : State) : keepsStopped s (l.foldl f s) :=
  foldl_keeps l (fun t a h => keepsStopped_trans h (each t a)) s (keepsStopped_refl s)

theorem modCore_keepsStopped {f : CoreSt → CoreSt} (keeps : ∀ c, (f c).fab.plies = c.fab.plies) (s : State) (k : Nat) : keepsStopped s (s.modCore k f) := by
  refine ⟨rfl, fun j q e stopped => ?_⟩
  rw [State.ply, State.core_modCore]
  split
  next same => subst same; rw [Fabric.ply, keeps]; exact stopped
  next => exact stopped

theorem modPly_keepsStopped {f : Ply → Ply} (keeps : ∀ x e, (x.elem e).stopped = true → ((f x).elem e).stopped = true) (s : State) (k q : Nat) : keepsStopped s (s.modPly k q f) := by
  refine ⟨rfl, fun j p e stopped => ?_⟩
  rw [State.ply, State.modPly, State.fab_modFab]
  split
  next same =>
    subst same
    rw [Fabric.ply_modPly]
    split
    next same => subst same; exact keeps _ e stopped
    next => exact stopped
  next => exact stopped

theorem modEngine_keepsStopped (s : State) (k n : Nat) (f : Engine → Engine) : keepsStopped s (s.modEngine k n f) :=
  modCore_keepsStopped (f := fun c => { c with engines := Tab.set c.engines n (f (c.engine n)) }) (fun _ => rfl) s k

theorem modStream_keepsStopped (s : State) (k n : Nat) (f : SPort → SPort) : keepsStopped s (s.modStream k n f) :=
  modCore_keepsStopped (f := fun c => { c with streams := Tab.set c.streams n (f (c.stream n)) }) (fun _ => rfl) s k

theorem modFar_keepsStopped (s : State) (k q n : Nat) (f : Far → Far) : keepsStopped s (s.modFar k q n f) :=
  modPly_keepsStopped (f := fun p => { p with fars := p.fars.map fun ((i, x) : Nat × Far) => (i, if i = n then f x else x) }) (fun _ _ stopped => stopped) s k q

theorem postEvent_keepsStopped (s : State) (k lo hi : Nat) : keepsStopped s (postEvent s k lo hi) := by
  refine modCore_keepsStopped (fun x => ?_) s k
  split <;> rfl

theorem stopElem_keepsStopped {f : EPly → EPly} (stops : ∀ x, (f x).stopped = true) (s : State) (k q e : Nat) : keepsStopped s (s.modElem k q e f) := by
  refine modPly_keepsStopped (fun x i stopped => ?_) s k q
  rw [Ply.elem_modElem]
  split
  exacts [stops _, stopped]

theorem returnSlots_keepsStopped (s : State) (q n : Nat) : keepsStopped s (returnSlots s q n) := by
  unfold returnSlots
  split <;> exact keepsStopped_refl s

theorem sendChan_keepsStopped {s t : State} {k e ch prod : Nat} {x : Token} (sent : sendChan s k e ch prod x = some t) : keepsStopped s t := by
  unfold sendChan at sent
  split at sent
  next f taken =>
    cases sent
    have plies : f.plies = (s.core k).fab.plies := by
      unfold Fabric.takeSlot at taken
      split at taken
      · cases taken; rfl
      · split at taken
        · cases taken; rfl
        · cases taken
    refine ⟨rfl, fun j q i stopped => ?_⟩
    rw [State.ply, State.fab_modFab]
    split
    next same => subst same; rw [Fabric.ply]; dsimp only; rw [plies]; exact stopped
    next => exact stopped
  next => cases sent

theorem sendRemote_keepsStopped {s t : State} {b : FarBind} {x : Token} (sent : sendRemote s b x = some t) : keepsStopped s t := by
  unfold sendRemote at sent
  dsimp only at sent
  split at sent
  · cases sent; exact keepsStopped_refl s
  · split at sent
    · cases sent
    · split at sent
      · cases sent; exact keepsStopped_refl s
      · exact sendChan_keepsStopped sent

theorem sendTo_far_keepsStopped {s t : State} {k q n : Nat} {x : Token} (sent : sendTo s k q x none (.far n) = some t) : keepsStopped s t := by
  unfold sendTo at sent
  dsimp only at sent
  split at sent
  · cases sent
  · split at sent
    · cases sent
    · split at sent
      · cases sent
      · split at sent
        · exact sendRemote_keepsStopped sent
        · split at sent
          · cases sent; exact modCore_keepsStopped (f := fun c => c.modFab _) (fun _ => rfl) s k
          · cases sent

theorem farEnd_keepsStopped (s : State) (k q n : Nat) : keepsStopped s (farEnd s k q n) := by
  unfold farEnd
  dsimp only
  split
  next t sent => exact keepsStopped_trans (sendTo_far_keepsStopped sent) (modFar_keepsStopped t k q n _)
  next => exact modFar_keepsStopped s k q n _

theorem report_keepsStopped (s : State) (k n : Nat) (c : EngCmd) : keepsStopped s (report s k n c) := by
  have event : keepsStopped s (if c.ev then engineDone s k n c else s) := by
    split
    exacts [postEvent_keepsStopped s k _ _, keepsStopped_refl s]
  unfold report
  dsimp only
  split
  exacts [keepsStopped_trans event (modEngine_keepsStopped _ k n _), event]

theorem dropHeld_keepsStopped (s : State) (k q n : Nat) : keepsStopped s (dropHeld s k q n) :=
  keepsStopped_trans (keepsStopped_foldl (fun t c => report_keepsStopped t k n c) _ s) (modEngine_keepsStopped _ k n _)

theorem emptyGroup_keepsStopped (s : State) (k q : Nat) (g : List Nat) : keepsStopped s (emptyGroup s k q g) := by
  refine modCore_keepsStopped ?_ s k
  exact fun _ => rfl

/-- A change of a ply that leaves its elements. -/
theorem modPly_keepsStopped_of_elems {f : Ply → Ply} (keeps : ∀ x, (f x).elems = x.elems) (s : State) (k q : Nat) : keepsStopped s (s.modPly k q f) :=
  modPly_keepsStopped (fun x e stopped => by rw [Ply.elem, keeps]; exact stopped) s k q

theorem foldl_stops {f : EPly → EPly} (stops : ∀ x, (f x).stopped = true) (k q : Nat) (l : List Nat) :
    ∀ {s : State} {e : Nat}, e ∈ l → (((l.foldl (fun s e => s.modElem k q e f) s).ply k q).elem e).stopped = true := by
  induction l with
  | nil => exact fun h => nomatch h
  | cons i l ih =>
    intro s e h
    by_cases later : e ∈ l
    · exact ih later
    · obtain rfl : e = i := (List.mem_cons.1 h).resolve_right later
      refine (keepsStopped_foldl (fun t a => stopElem_keepsStopped stops t k q a) l (s.modElem k q e f)).2 k q e ?_
      rw [State.ply, State.modElem, State.modPly, State.fab_modFab, if_pos rfl, Fabric.ply_modPly, if_pos rfl, Ply.elem_modElem, if_pos rfl]
      exact stops _

theorem containGroup_stops (s : State) (k q : Nat) (g : List Nat) :
    (containGroup s k q g).mem = s.mem ∧ ∀ e ∈ g, e < 64 → (((containGroup s k q g).ply k q).elem e).stopped = true := by
  unfold containGroup
  extract_lets p s1 s2 s3 s4 s5 s6
  have returned : keepsStopped s s1 := keepsStopped_foldl (fun t e => returnSlots_keepsStopped t _ _) _ s
  have emptied : keepsStopped s1 s2 := emptyGroup_keepsStopped s1 k q g
  have stops : keepsStopped s2 s3 := keepsStopped_foldl (fun t e => stopElem_keepsStopped (fun _ => rfl) t k q e) _ s2
  have listed : keepsStopped s3 s4 := by
    refine modPly_keepsStopped_of_elems ?_ s3 k q
    exact fun _ => rfl
  have fars : keepsStopped s4 s5 := by
    refine keepsStopped_foldl (fun t n => ?_) _ s4
    split
    · split
      · exact farEnd_keepsStopped t k q n
      · refine modPly_keepsStopped_of_elems ?_ t k q
        exact fun _ => rfl
    · exact keepsStopped_refl t
  have ports : keepsStopped s5 s6 := keepsStopped_foldl (fun t n => modStream_keepsStopped t k n _) _ s5
  have engines : keepsStopped s6 ((enginesOf g).foldl (fun s n => dropHeld s k q n) s6) := keepsStopped_foldl (fun t n => dropHeld_keepsStopped t k q n) _ s6
  have after := keepsStopped_trans listed (keepsStopped_trans fars (keepsStopped_trans ports engines))
  refine ⟨(keepsStopped_trans returned (keepsStopped_trans emptied (keepsStopped_trans stops after))).1, fun e there low => after.2 k q e ?_⟩
  exact foldl_stops (fun _ => rfl) k q _ (List.mem_filter.2 ⟨there, decide_eq_true low⟩)

/-- Context n of core k once fault f has had group g contained: neither f nor a fault of the group is left, and the region holds a cause (21 R383). -/
def killed (s : State) (k n : Nat) (f : FaultRef) (g : List Nat) : State :=
  (s.modPart f.part fun p => { p with faults := p.faults.filter fun x => !(decide (x = f)) && !(decide (x.core = k) && decide (x.ctx = n) && g.contains x.elem) }).modCtx k n
    fun c => { c with region := c.region.map fun r => { r with cause := if r.cause = 0 then f.cause else r.cause } }

theorem killed_ply (s : State) (k n : Nat) (f : FaultRef) (g : List Nat) (q : Nat) : (killed s k n f g).ply k q = s.ply k q := by
  rw [State.ply, killed, State.core_modCtx, if_pos rfl]
  rfl

theorem containment_stops {s : State} {k n : Nat} {f : FaultRef} (kill : (faultsOf s k n).find? (fun f => decide (f.verdict = 5) && groupQuiet s k f.ply (killGroup s f)) = some f)
    (going : allContained ((containGroup s k f.ply (killGroup s f)).ply k f.ply) = false) :
    ∃ t, exec (.containment k n) s = .next t ∧ (∀ e ∈ killGroup s f, e < 64 → ((t.ply k f.ply).elem e).stopped = true) ∧ t.mem = s.mem := by
  obtain ⟨mem, stops⟩ := containGroup_stops s k f.ply (killGroup s f)
  generalize u_eq : containGroup s k f.ply (killGroup s f) = u at going mem stops
  have ply := killed_ply u k n f (killGroup s f) f.ply
  refine ⟨killed u k n f (killGroup s f), ?_, fun e there low => by rw [ply]; exact stops e there low, mem⟩
  show execContainment k n s = _
  unfold execContainment
  rw [kill]
  dsimp only
  rw [u_eq]
  exact if_neg (by show ¬ allContained ((killed u k n f (killGroup s f)).ply k f.ply) = true; rw [ply, going]; exact Bool.false_ne_true)

/-! Rollback. -/

/-- s without the faults of group g of context n of core k that await the start of their decision (21 R378). -/
def dropUnstarted (s : State) (p k n : Nat) (g : List Nat) : State :=
  s.modPart p fun x => { x with faults := x.faults.filter fun x => !(decide (x.core = k) && decide (x.ctx = n) && g.contains x.elem && x.undecided && !x.started && !x.saved) }

theorem dropUnstarted_cores (s : State) (f : FaultRef) (p k n : Nat) (g : List Nat) : (dropUnstarted (setFault s f none) p k n g).cores = s.cores := rfl

theorem dropUnstarted_mem (s : State) (f : FaultRef) (p k n : Nat) (g : List Nat) : (dropUnstarted (setFault s f none) p k n g).mem = s.mem := rfl

theorem setFault_none_gone (s : State) (f : FaultRef) : f ∉ ((setFault s f none).part f.part).faults := by
  rw [setFault, State.part_modPart, if_pos rfl]
  intro there
  obtain ⟨x, -, within⟩ := List.mem_flatMap.1 there
  split at within
  · cases within
  · next other => exact other (List.mem_singleton.1 within).symm

theorem dropUnstarted_gone {s : State} {f : FaultRef} (gone : f ∉ (s.part f.part).faults) (k n : Nat) (g : List Nat) : f ∉ ((dropUnstarted s f.part k n g).part f.part).faults := by
  rw [dropUnstarted, State.part_modPart, if_pos rfl]
  exact fun there => gone (List.mem_of_mem_filter there)

theorem rollback_reaches {s : State} {k n c : Nat} {f : FaultRef} (restart : (faultsOf s k n).find? (fun f => decide (f.verdict = 4) && groupQuiet s k f.ply (groupOf (s.ply k f.ply) f.elem)) = some f)
    (cut : usableCut s k f.ply (groupOf (s.ply k f.ply) f.elem) = some c) :
    exec (.rollback k n) s = .next (dropUnstarted (setFault (rollbackGroup s k f.ply (groupOf (s.ply k f.ply) f.elem) c) f none) f.part k n (groupOf (s.ply k f.ply) f.elem)) := by
  show execRollback k n s = _
  unfold execRollback
  rw [restart]
  dsimp only
  rw [cut]
  rfl

/-! Migration. -/

theorem leaveCore_ctx (s : State) (k n : Nat) : ((leaveCore s k n).ctx k n).region = none ∧ ((leaveCore s k n).ctx k n).bound = none := by
  unfold leaveCore
  dsimp only
  rw [State.ctx_modCtx, if_pos ⟨rfl, rfl⟩]
  exact ⟨rfl, rfl⟩

theorem ctx_modFab (s : State) (k : Nat) (f : Fabric → Fabric) (j n : Nat) : (s.modFab k f).ctx j n = s.ctx j n :=
  State.ctx_modCore (f := fun c => c.modFab f) (fun _ => rfl) j n

/-- A load begins on its ply, and touches no context. -/
theorem loadSlice_loads (s : State) (k n p q : Nat) (restore stage : Option Nat) :
    (∀ j m, (loadSlice s k n p q restore stage).ctx j m = s.ctx j m) ∧ ((loadSlice s k n p q restore stage).ply k p).st = .loading ∧ ((loadSlice s k n p q restore stage).ply k p).ctx = n := by
  have stolen : (takeStolen s (dieOf k) q).2.cores = s.cores := by
    unfold takeStolen
    split
    · rfl
    · split <;> rfl
  have started : ∀ (u : State) (y : Ply) (l : Slice), u.cores = s.cores →
      (∀ j m, (plyFirst (addSlice (u.modPly k p fun _ => y) l) k p).ctx j m = s.ctx j m) ∧ (plyFirst (addSlice (u.modPly k p fun _ => y) l) k p).ply k p = y := by
    intro u y l cores
    refine ⟨fun j m => ?_, ?_⟩
    · exact (ctx_modFab _ k _ j m).trans ((ctx_modFab u k _ j m).trans (State.ctx_congr cores j m))
    · rw [plyFirst, State.ply, State.fab_modFab, if_pos rfl]
      show ((u.modFab k _).core k).fab.ply p = y
      rw [State.fab_modFab, if_pos rfl, Fabric.ply_modPly, if_pos rfl]
  unfold loadSlice
  extract_lets back
  split
  next st u taken =>
    have cores : u.cores = s.cores := by
      split at taken
      · cases taken; rfl
      · rw [taken] at stolen
        exact stolen
    exact ⟨(started u _ _ cores).1, congrArg Ply.st (started u _ _ cores).2, congrArg Ply.ctx (started u _ _ cores).2⟩

theorem saveSlice_ctx (s : State) (k n slot id : Nat) (x : Slice) (g : Region) (resume : Bool) :
    ((saveSlice s k n slot id x g resume).ctx k n).region = none ∧ ((saveSlice s k n slot id x g resume).ctx k n).bound = none := by
  unfold saveSlice
  extract_lets d sp u v
  exact leaveCore_ctx _ k n

theorem regionMigration_moves {s : State} {k n i slot j m p : Nat} {f : FaultRef} {x : Slice} {g : Region} (move : (faultsOf s k n).find? (fun f => decide (f.verdict = 7)) = some f)
    (slice : movedSlice s k n = some (i, x)) (region : (s.ctx k n).region = some g) (free : freeSlot s f.part = some slot) (target : moveTarget s f.part f.target = some (j, m, p))
    (way : reaching s (accessDie k) (slotAddr s f.part slot) = .clear) (quiet : groupQuiet s k f.ply (nodesOf (s.ply k f.ply)) = true) (ready : switchReady s k n = true) :
    ∃ t, exec (.regionMigration k n) s = .next t ∧ (t.ctx k n).region = none ∧ (t.ctx k n).bound = none ∧ (t.ply j p).st = .loading ∧ (t.ply j p).ctx = m := by
  have runs : ∃ u y h, exec (.regionMigration k n) s = .next (loadSlice (saveSlice u k n slot i y h true) j m p x.queue (some slot) none) := by
    show ∃ u y h, execRegionMigration k n s = _
    unfold execRegionMigration
    simp only [move, slice, region, free, target, way, quiet, ready, reduceCtorEq, and_self, if_true, if_false]
    exact ⟨_, _, _, rfl⟩
  obtain ⟨u, y, h, runs⟩ := runs
  obtain ⟨ctx, loading, owner⟩ := loadSlice_loads (saveSlice u k n slot i y h true) j m p x.queue (some slot) none
  obtain ⟨closed, unbound⟩ := saveSlice_ctx u k n slot i y h true
  exact ⟨_, runs, by rw [ctx]; exact closed, by rw [ctx]; exact unbound, loading, owner⟩

end Sys2Proof.Machine

namespace Sys2Proof.Claims
open Sys2Proof Sys2Proof.Machine

/-- Settles O55: the record and the event of a fault are written before anything else of it, a decision waits behind the others of its dispatcher, and what KILL, ROLLBACK and MIGRATE do after their own part leaves that part. -/
theorem faultEvents : Obligations.FaultEvents := by
  intro s k n v
  refine ⟨?record, ?start, ?reply, ?kill, ?rollback, ?migrate⟩
  case record =>
    intro d a o b at_ m p r x g ragged data staged free uncut room way plain queue kept
    obtain ⟨t, run, ring, stands, posted⟩ := fireFault_recorded (c := .misaligned) rfl staged free uncut rfl room way plain (tagged 4 at_) _ rfl
    generalize info : elementInfo s (firingRaise s .misaligned (tagged 4 at_)) s.actor.elem = i at stands posted
    obtain ⟨d0, d1, d2, d3, d4, d5, d6, d7⟩ := elementDwords_stand stands
    subst info
    refine ⟨t, (tsLd_ragged ragged data).trans run, ring, ?_, ?_, d2, ?_, ?_, d5, d6, d7, posted queue kept⟩
    · exact d0.trans (congrArg (· % 2 ^ 64) (fltWord0_plain rfl rfl rfl rfl r.head))
    · exact d1.trans (Nat.mod_mod _ _)
    · exact d3.trans (Nat.mod_eq_of_lt (rcb_lt _))
    · exact d4.trans (Nat.mod_eq_of_lt (Nat.lt_of_lt_of_le s.actionWord.isLt (Nat.pow_le_pow_right (by decide) (by decide))))
  case start =>
    intro f next held slice first room alone
    obtain ⟨kind, fault, builtin⟩ := runHere_fields (setFault s f (some { f with started := true })) (dieOf k) (faultStart (setFault s f (some { f with started := true })) k f)
    exact ⟨_, _, faultDecisionStart_pushes next held slice first room alone, disp_pushDecision _ _ _ _, kind, fault, builtin, rfl⟩
  case reply => exact fun p f reaches asked here kill => fltreply_kills reaches asked here kill
  case kill =>
    intro f kill u going
    exact containment_stops kill going
  case rollback =>
    intro f c restart cut u
    exact ⟨_, rollback_reaches restart cut, dropUnstarted_cores _ _ _ _ _ _, dropUnstarted_mem _ _ _ _ _ _, dropUnstarted_gone (setFault_none_gone u f) k n _⟩
  case migrate =>
    exact fun f i x g slot j m p move slice region free target way quiet ready => regionMigration_moves move slice region free target way quiet ready

end Sys2Proof.Claims
end
